-- ==== Sys2Proof/Word.lean ====
section
/-! DEFINITION. The word types of the SX7 and their plainest arithmetic (R5): bits are numbered from 0, the least
significant, and multi-byte values are little-endian. Sparse maps are the one canonical form in which the model holds
large register files and memories: keys strictly rising, no entry equal to the default. -/

namespace Sys2Proof

/-- A scalar register's contents (R17). -/
abbrev Word64 := BitVec 64
/-- A byte. -/
abbrev Byte := BitVec 8
/-- A vector register: one 8192-bit field (R136). -/
abbrev VReg := BitVec 8192
/-- A 384-bit bundle (R69). -/
abbrev Bundle := BitVec 384

/-- A sparse map from numbers to `α`: what is not listed reads as the default the reader names. -/
abbrev Sparse (α : Type) := List (Nat × α)

/-- The value of key `k`, `d` when it is not listed. -/
def sget {α : Type} (d : α) : Sparse α → Nat → α
  | [], _ => d
  | (k', v) :: rest, k => if k' = k then v else sget d rest k

/-- `m` with key `k` holding `v`; writing the default removes the entry, so the form stays canonical. -/
def sset {α : Type} [DecidableEq α] (d : α) (m : Sparse α) (k : Nat) (v : α) : Sparse α :=
  m.filter (fun p => decide (p.1 < k)) ++ (if v = d then [] else [(k, v)]) ++ m.filter (fun p => decide (k < p.1))

/-- The listed value of a key, none when it is not listed. -/
def sfind {α : Type} (m : Sparse α) (k : Nat) : Option α :=
  match m with
  | [] => none
  | (k', v) :: rest => if k' = k then some v else sfind rest k

/-- The keys are strictly rising from a lower bound on. -/
def keysFrom {α : Type} : Nat → Sparse α → Bool
  | _, [] => true
  | lo, (k, _) :: rest => decide (lo ≤ k) && keysFrom (k + 1) rest

/-- The canonical form: strictly rising keys and no entry equal to the default. -/
def Sparse.wf {α : Type} [DecidableEq α] (d : α) (m : Sparse α) : Bool :=
  keysFrom 0 m && m.all (fun p => decide (p.2 ≠ d))

end Sys2Proof
end

