-- ==== Sys2Proof/Config.lean ====
section
/-! DEFINITION. What an implementation fixes and what the spec leaves open. A constant with a body is a figure of R1 or of
the rule cited; an `opaque` constant is a free value: nothing in Lean can evaluate it, so every statement holds for every
value of it. -/

namespace Sys2Proof.Config

/-- Cores of the device (R1). -/
def cores : Nat := 256
/-- HBM channels (R1). -/
def channels : Nat := 384
/-- Banks of a channel (R1). -/
def banks : Nat := 32
/-- Bytes of one bank group (R21). -/
def groupBytes : Nat := 0x180000
/-- Bytes of a core's scratchpad (R21). -/
def spadBytes : Nat := 0x600000
/-- Outstanding dynamic requests of a core (R1, R197). -/
def maxRequests : Nat := 2048
/-- Bundles of the firmware instruction memory (R323). -/
def fwBundles : Nat := 682
/-- First address of the device register space (R317). -/
def regSpace : Nat := 0xFFFFFFF00000000

/-- UNSAFE only if constrained: the cycles a dynamic access takes beyond the least the spec states (R197, R262, R291). -/
opaque delay : Nat → Nat
/-- The bytes the outside world or an undescribed source supplies where the spec states none. -/
opaque freeByte : Nat → Byte
/-- The heat loader's proofs that need the issue cycles of every execution path of a heat image, its streams' bytes as zeros, as far as neither the code alone
nor the records that the image supplies decide them (R94, R218, R226, R244, R249, R261, R290, R297; log entry 22): true when they
all succeed. Every other check of the loader is concrete. -/
opaque pathsProved : List Byte → Bool
/-- SHAKE256 with a 64-byte output (R346), an outside standard. -/
opaque shake256 : List Byte → BitVec 512
/-- XMSS verification under RFC 8391 (R346): public key, message, signature. -/
opaque xmssVerify : List Byte → BitVec 512 → List Byte → Bool
/-- The XMSS signature by the device's attestation key with index `i`, from behind that index (R346, R347). -/
opaque xmssSign : Nat → BitVec 512 → List Byte
/-- The fused device identity (R347). -/
opaque deviceIdentity : BitVec 256
/-- The version a firmware image carries (R345). -/
opaque firmwareVersion : List Byte → Nat
/-- Whether a firmware image's signature verifies under the fused root key (R345, R346). -/
opaque firmwareVerifies : List Byte → Bool
/-- The firmware image's bytes that the boot ROM loads into every instruction memory (R345, R349). -/
opaque firmwareBundles : List Byte → List Byte
/-- The anti-rollback count in fuses (R345). -/
opaque rollbackCount : Nat
/-- The module's measured draw is above the management function's cap at this sample (R348). -/
opaque drawAboveCap : Nat → Bool
/-- Where a Yeven `RET` goes that no `CALL` of the context precedes (log entry 13). -/
opaque freeReturn : Nat → Nat
/-- The 64 KiB page at which the heat loader begins to place a heat's HBM regions (R216). -/
opaque regionPage : Nat → Nat
/-- Which of the present flash modules takes a heat's flash region (R216). -/
opaque flashPick : Nat → Nat
/-- A translation cache that holds an entry uses it rather than the tables (R344). -/
opaque useCached : Nat → Bool
/-- The partition whose table a peer's request for an address goes through (log entry 20). -/
opaque peerPart : Nat → Nat

end Sys2Proof.Config
end

