-- ==== Sys2Proof/Syntax.lean ====
section
/-! DEFINITION. The syntax of the SX7: one constructor for each row of spec/opcode_table.json, the slot operations of the
six slots (R76 to R87) and the events of the other agents, those that come from outside the machine last. A slot operation carries the fields its form lists; an event
carries what names its subject. -/

namespace Sys2Proof

/-- The six slots of a bundle (R69), in slot order. -/
inductive Slot where
  | ctl | sca | vec | mat | prm | mem
deriving DecidableEq, Repr

/-- The common syllable fields (R72): PRED 12:8 (bit 4 of `pred` inverts) and STAGE 16:13. -/
structure Gate where
  pred : BitVec 5
  stage : BitVec 4
deriving DecidableEq, Repr

abbrev SReg := BitVec 6
abbrev KReg := BitVec 6
abbrev QReg := BitVec 4
abbrev WReg := BitVec 4
abbrev StreamReg := BitVec 4
abbrev BarReg := BitVec 5
abbrev TileReg := BitVec 5
/-- An 11-bit vector operand field: rotate bit 10, register index 9:0 (R74). -/
abbrev VField := BitVec 11

/-- The moments of a bank access: it takes its banks, it reads, it takes its destination banks, it performs. -/
inductive AccPart where
  | occupy | read | reserve | perform
deriving DecidableEq, Repr

/-- The AtomicOps a host may send (R233): the three that are executed, and every other. -/
inductive AtomicKind where
  | fetchAdd | swap | cas | other
deriving DecidableEq, Repr

/-- The two host links (R337). -/
inductive LinkName where
  | a | b
deriving DecidableEq, Repr

/-- The function that a host access names and the link that delivered the access (R232, R337). -/
structure HostFn where
  fn : Nat
  link : LinkName
deriving DecidableEq, Repr

/-- A host write to a function's doorbell window: its offset and its bytes (R339). -/
structure W2Write where
  off : Nat
  data : List Byte
deriving DecidableEq, Repr

/-- The kinds of unit the shape record lists (R363). -/
inductive UnitKind where
  | core | channel | flash | peerLane | hostLane
deriving DecidableEq, Repr

/-- The registers written by REGISTER_WRITE (R316, R341, R358): those with no row of their own. -/
inductive RegName where
  | priv | reqsig | linkb | keybuf
  | ttbase (part : Nat)
  | vmap (fn : Nat)
  | trust (part j : Nat)
  | tsrc | peerid | peertab
  | trbase (die : Nat) | trtail (die : Nat) | trmask (die : Nat)
  | queueWord (q word : Nat)
  | extent (part entry : Nat)
deriving DecidableEq, Repr

/-- One step of the part: a slot operation or an event. -/
inductive Instr where
  /-- R71. The compute context issues the next bundle of its loop buffer at its schedule cycle plus GAP; every enabled slot commits, or none does. -/
  | bundleIssue (core : Nat)
  /-- R94. The code prefetch engine reads one 64-byte code line in a service slot and expands tokens and literals into the loop buffer. -/
  | codeLineFetch (core : Nat)
  /-- R26. A result lands in its register at its architectural latency after issue. -/
  | resultLand (core : Nat)
  /-- R22. A static access occupies its scratchpad banks in its scheduled cycle and reads or writes them. -/
  | bankAccess (core id : Nat) (part : AccPart)
  /-- R24. A dynamic requester takes a scratchpad bank in the first cycle that no static access occupies it and performs there. -/
  | dynamicBankAccess (core id off : Nat)
  /-- R72. The all-zero syllable of a slot does nothing. -/
  | nop (slot : Slot)
  /-- R101. Branches to a bundle of the current or next segment after two delay bundles. -/
  | br (g : Gate) (idx : BitVec 10) (seg : Bool)
  /-- R105. Branches like BR and pushes a return record onto the call stack. -/
  | call (g : Gate) (idx : BitVec 10) (seg : Bool)
  /-- R102. Branches to the bundle that an s register names. -/
  | bri (g : Gate) (sreg : SReg)
  /-- R105. Branches like BRI and pushes a return record. -/
  | calli (g : Gate) (sreg : SReg)
  /-- R105. Pops the top return record and branches to the position it holds. -/
  | ret (g : Gate)
  /-- R108. Starts a loop level with its count, body length, stage count, rings and cut stride, and issues the body for N + S − 1 kernel iterations. -/
  | loop (g : Gate) (cnt : SReg) (lte : BitVec 8) (body : BitVec 10) (lvl : BitVec 3)
  /-- R113. Reduces the loop's count so that no further source iteration starts and the started ones drain. -/
  | lexit (g : Gate) (lvl : BitVec 3)
  /-- R114. Ends the compute context's issue for the task. -/
  | halt (g : Gate)
  /-- R115. Fires a trigger entry once per run, delivering its token to its queue at c+1. -/
  | trig (g : Gate) (imm8 : BitVec 8)
  /-- R117. Idles the core until a deadline heat cycle, watching a barrier phase. -/
  | waitd (g : Gate) (bar : BarReg) (sreg : SReg)
  /-- R117. At the deadline the next bundle issues, or a timing trap is raised if the watched phase has not completed. -/
  | waitdDeadline (core : Nat)
  /-- R118. Moves the core into the dynamic domain and waits for a barrier phase to complete. -/
  | waita (g : Gate) (bar : BarReg)
  /-- R118. The next bundle issues in the first cycle after the watched phase has completed. -/
  | waitaRelease (core : Nat)
  /-- R119. Idles until an alignment point and returns the core to the static domain, or traps if the point has passed. -/
  | align (g : Gate) (sreg : SReg)
  /-- R119. At the alignment point the next bundle issues and the core is in the static domain. -/
  | alignPointReached (core : Nat)
  /-- R116. Commits its bundle and raises a software trap with code n. -/
  | trap (g : Gate) (imm8 : BitVec 8)
  /-- R121. Ends firmware event handling and puts the Yeven context into retention until a wake cause. -/
  | chill (g : Gate)
  /-- R121. Ends the current firmware event and resumes the context at its saved position. -/
  | fret (g : Gate)
  /-- R122. Adds two s registers modulo 2^64. -/
  | add (g : Gate) (d a b : SReg)
  /-- R122. Subtracts two s registers modulo 2^64. -/
  | sub (g : Gate) (d a b : SReg)
  /-- R122. Bitwise AND of two s registers. -/
  | and (g : Gate) (d a b : SReg)
  /-- R122. Bitwise OR of two s registers. -/
  | or (g : Gate) (d a b : SReg)
  /-- R122. Bitwise XOR of two s registers. -/
  | xor (g : Gate) (d a b : SReg)
  /-- R122. Shifts left by the low six bits of sb. -/
  | shl (g : Gate) (d a b : SReg)
  /-- R122. Shifts right logically by the low six bits of sb. -/
  | shr (g : Gate) (d a b : SReg)
  /-- R122. Shifts right arithmetically by the low six bits of sb. -/
  | sar (g : Gate) (d a b : SReg)
  /-- R122. Signed minimum of two s registers. -/
  | min (g : Gate) (d a b : SReg)
  /-- R122. Signed maximum of two s registers. -/
  | max (g : Gate) (d a b : SReg)
  /-- R122. Unsigned minimum of two s registers. -/
  | minu (g : Gate) (d a b : SReg)
  /-- R122. Unsigned maximum of two s registers. -/
  | maxu (g : Gate) (d a b : SReg)
  /-- R123. Adds a signed 13-bit immediate. -/
  | addi (g : Gate) (d a : SReg) (imm : BitVec 13)
  /-- R123. Bitwise AND with a sign-extended immediate. -/
  | andi (g : Gate) (d a : SReg) (imm : BitVec 13)
  /-- R123. Bitwise OR with a sign-extended immediate. -/
  | ori (g : Gate) (d a : SReg) (imm : BitVec 13)
  /-- R123. Bitwise XOR with a sign-extended immediate. -/
  | xori (g : Gate) (d a : SReg) (imm : BitVec 13)
  /-- R123. Shifts left by an immediate count. -/
  | shli (g : Gate) (d a : SReg) (imm : BitVec 13)
  /-- R123. Shifts right logically by an immediate count. -/
  | shri (g : Gate) (d a : SReg) (imm : BitVec 13)
  /-- R123. Shifts right arithmetically by an immediate count. -/
  | sari (g : Gate) (d a : SReg) (imm : BitVec 13)
  /-- R123. Shifts sa left by 13 and adds an unsigned immediate. -/
  | cati (g : Gate) (d a : SReg) (imm : BitVec 13)
  /-- R125. Low 64 bits of the product, landing at c+3. -/
  | mul (g : Gate) (d a b : SReg)
  /-- R125. High 64 bits of the signed product. -/
  | mulh (g : Gate) (d a b : SReg)
  /-- R125. High 64 bits of the unsigned product. -/
  | mulhu (g : Gate) (d a b : SReg)
  /-- R124. Signed division toward zero, landing at c+20. -/
  | div (g : Gate) (d a b : SReg)
  /-- R124. Unsigned division. -/
  | divu (g : Gate) (d a b : SReg)
  /-- R124. Signed remainder with the dividend's sign. -/
  | rem (g : Gate) (d a b : SReg)
  /-- R124. Unsigned remainder. -/
  | remu (g : Gate) (d a b : SReg)
  /-- R128. Broadcasts bits 31:0 of an s register into every lane of a vector register. -/
  | xs (g : Gate) (a : SReg) (v : VField)
  /-- R129. Copies one 32-bit lane of a vector register, zero-extended, into an s register. -/
  | xv (g : Gate) (d : SReg) (v : VField) (lane : BitVec 8)
  /-- R126. Sets a q register when two s registers are equal. -/
  | cmpeq (g : Gate) (d : QReg) (a b : SReg)
  /-- R126. Sets a q register when two s registers differ. -/
  | cmpne (g : Gate) (d : QReg) (a b : SReg)
  /-- R126. Signed less-than compare into a q register. -/
  | cmplt (g : Gate) (d : QReg) (a b : SReg)
  /-- R126. Unsigned less-than compare into a q register. -/
  | cmpltu (g : Gate) (d : QReg) (a b : SReg)
  /-- R126. Signed less-or-equal compare into a q register. -/
  | cmple (g : Gate) (d : QReg) (a b : SReg)
  /-- R126. Unsigned less-or-equal compare into a q register. -/
  | cmpleu (g : Gate) (d : QReg) (a b : SReg)
  /-- R126. Equality compare with an immediate. -/
  | cmpeqi (g : Gate) (d : QReg) (a : SReg) (imm : BitVec 13)
  /-- R126. Inequality compare with an immediate. -/
  | cmpnei (g : Gate) (d : QReg) (a : SReg) (imm : BitVec 13)
  /-- R126. Signed less-than compare with an immediate. -/
  | cmplti (g : Gate) (d : QReg) (a : SReg) (imm : BitVec 13)
  /-- R126. Unsigned less-than compare with an immediate. -/
  | cmpltui (g : Gate) (d : QReg) (a : SReg) (imm : BitVec 13)
  /-- R126. Signed less-or-equal compare with an immediate. -/
  | cmplei (g : Gate) (d : QReg) (a : SReg) (imm : BitVec 13)
  /-- R126. Unsigned less-or-equal compare with an immediate. -/
  | cmpleui (g : Gate) (d : QReg) (a : SReg) (imm : BitVec 13)
  /-- R127. AND of two predicates. -/
  | qand (g : Gate) (d a b : QReg)
  /-- R127. OR of two predicates. -/
  | qor (g : Gate) (d a b : QReg)
  /-- R127. XOR of two predicates. -/
  | qxor (g : Gate) (d a b : QReg)
  /-- R127. AND of a predicate with the inverse of another. -/
  | qandn (g : Gate) (d a b : QReg)
  /-- R130. Writes one field of an address stream from an s register, seen from c+1. -/
  | aset (g : Gate) (d : StreamReg) (a : SReg) (fsel : BitVec 3)
  /-- R131. Reads a system register into an s register. -/
  | srd (g : Gate) (d : SReg) (n : BitVec 13)
  /-- R131. Writes a system register: clears SSTAT flags or sets the stack registers. -/
  | swr (g : Gate) (n : BitVec 13) (a : SReg)
  /-- R132. Writes the heat cycle of the issue cycle into an s register. -/
  | gcrdHeat (g : Gate) (d : SReg)
  /-- R132. Writes GCOUNT at the issue cycle into an s register. -/
  | gcrdGcount (g : Gate) (d : SReg)
  /-- R133. Writes the index of a loop level, seen at the syllable's stage, into an s register. -/
  | lxrd (g : Gate) (d : SReg) (n : BitVec 13)
  /-- R325. Reads a firmware system register into an s register of the Yeven context. -/
  | fsrd (g : Gate) (d : SReg) (n : BitVec 13)
  /-- R325. Writes a firmware system register that has no row of its own, such as fvec, fepc, fpend, fenable, fshare, sched, jbase or jlow. -/
  | fswr (g : Gate) (n : BitVec 13) (a : SReg)
  /-- R354. A write to hold sets or clears HOLD; clearing it publishes every held completion in COMPLETE order. -/
  | holdWrite (core : Nat) (v : Word64)
  /-- R247. heatctl command 1 sends a stop request at a cut to every core of a pre-emptible heat. -/
  | heatStopRequest (part : Nat)
  /-- R251. heatctl command 2 resumes a heat stopped at a cut with a shift Δ. -/
  | heatResume (part delta : Nat)
  /-- R245. heatctl command 3 restarts a trapped heat from its restart marks with a shift Δ. -/
  | heatRestart (part delta : Nat)
  /-- R329. heatctl command 4 ends a heat, stopping a running one as after a trap, and completes it with status 5. -/
  | heatEnd (part : Nat)
  /-- R301. PCTL CMD 1 starts a scrub pass of the partition's lines. -/
  | patrolStartScrub (part : Nat)
  /-- R301. PCTL CMD 2 starts or resumes a key rotation to the next version. -/
  | patrolRotate (part : Nat)
  /-- R301. PCTL CMD 3 stops the patrol after the current line. -/
  | patrolStop (part : Nat)
  /-- R330. A twarm write with bit 63 set arms a queue's timer from its ARM head packet. -/
  | timerArm (q : Nat)
  /-- R330. A twarm write with bit 63 clear disarms a queue's timer. -/
  | timerDisarm (q : Nat)
  /-- R141. Element-wise integer add of two vector registers. -/
  | vadd (g : Gate) (fmt : BitVec 4) (d a b : VField)
  /-- R141. Element-wise integer add of a vector and a broadcast scalar. -/
  | vaddVs (g : Gate) (fmt : BitVec 4) (d a : VField) (c : SReg)
  /-- R141. Element-wise integer subtract. -/
  | vsub (g : Gate) (fmt : BitVec 4) (d a b : VField)
  /-- R141. Element-wise integer subtract of a broadcast scalar. -/
  | vsubVs (g : Gate) (fmt : BitVec 4) (d a : VField) (c : SReg)
  /-- R141. Element-wise low-half integer multiply. -/
  | vmul (g : Gate) (fmt : BitVec 4) (d a b : VField)
  /-- R141. Element-wise low-half multiply by a broadcast scalar. -/
  | vmulVs (g : Gate) (fmt : BitVec 4) (d a : VField) (c : SReg)
  /-- R141. Element-wise high-half integer multiply. -/
  | vmulh (g : Gate) (fmt : BitVec 4) (d a b : VField)
  /-- R141. Element-wise high-half multiply by a broadcast scalar. -/
  | vmulhVs (g : Gate) (fmt : BitVec 4) (d a : VField) (c : SReg)
  /-- R141. Element-wise integer minimum. -/
  | vmin (g : Gate) (fmt : BitVec 4) (d a b : VField)
  /-- R141. Element-wise integer minimum with a broadcast scalar. -/
  | vminVs (g : Gate) (fmt : BitVec 4) (d a : VField) (c : SReg)
  /-- R141. Element-wise integer maximum. -/
  | vmax (g : Gate) (fmt : BitVec 4) (d a b : VField)
  /-- R141. Element-wise integer maximum with a broadcast scalar. -/
  | vmaxVs (g : Gate) (fmt : BitVec 4) (d a : VField) (c : SReg)
  /-- R141. Element-wise bitwise AND. -/
  | vand (g : Gate) (fmt : BitVec 4) (d a b : VField)
  /-- R141. Element-wise bitwise AND with a broadcast scalar. -/
  | vandVs (g : Gate) (fmt : BitVec 4) (d a : VField) (c : SReg)
  /-- R141. Element-wise bitwise OR. -/
  | vor (g : Gate) (fmt : BitVec 4) (d a b : VField)
  /-- R141. Element-wise bitwise OR with a broadcast scalar. -/
  | vorVs (g : Gate) (fmt : BitVec 4) (d a : VField) (c : SReg)
  /-- R141. Element-wise bitwise XOR. -/
  | vxor (g : Gate) (fmt : BitVec 4) (d a b : VField)
  /-- R141. Element-wise bitwise XOR with a broadcast scalar. -/
  | vxorVs (g : Gate) (fmt : BitVec 4) (d a : VField) (c : SReg)
  /-- R141. Element-wise shift left. -/
  | vshl (g : Gate) (fmt : BitVec 4) (d a b : VField)
  /-- R141. Element-wise shift left by a broadcast scalar. -/
  | vshlVs (g : Gate) (fmt : BitVec 4) (d a : VField) (c : SReg)
  /-- R141. Element-wise logical shift right. -/
  | vshr (g : Gate) (fmt : BitVec 4) (d a b : VField)
  /-- R141. Element-wise logical shift right by a broadcast scalar. -/
  | vshrVs (g : Gate) (fmt : BitVec 4) (d a : VField) (c : SReg)
  /-- R141. Element-wise arithmetic shift right. -/
  | vsar (g : Gate) (fmt : BitVec 4) (d a b : VField)
  /-- R141. Element-wise arithmetic shift right by a broadcast scalar. -/
  | vsarVs (g : Gate) (fmt : BitVec 4) (d a : VField) (c : SReg)
  /-- R141. Element-wise saturating add. -/
  | vadds (g : Gate) (fmt : BitVec 4) (d a b : VField)
  /-- R141. Element-wise saturating add of a broadcast scalar. -/
  | vaddsVs (g : Gate) (fmt : BitVec 4) (d a : VField) (c : SReg)
  /-- R141. Element-wise saturating subtract. -/
  | vsubs (g : Gate) (fmt : BitVec 4) (d a b : VField)
  /-- R141. Element-wise saturating subtract of a broadcast scalar. -/
  | vsubsVs (g : Gate) (fmt : BitVec 4) (d a : VField) (c : SReg)
  /-- R142. Element-wise saturating absolute value. -/
  | vabs (g : Gate) (fmt : BitVec 4) (d a : VField)
  /-- R142. Element-wise saturating negation. -/
  | vneg (g : Gate) (fmt : BitVec 4) (d a : VField)
  /-- R142. Element-wise bitwise NOT. -/
  | vnot (g : Gate) (fmt : BitVec 4) (d a : VField)
  /-- R142. Copies elements bit for bit under the lane mask. -/
  | vmov (g : Gate) (fmt : BitVec 4) (d a : VField)
  /-- R143. Writes a sign-extended 10-bit immediate into every enabled element. -/
  | vmovi (g : Gate) (fmt : BitVec 4) (d : VField) (imm : BitVec 10)
  /-- R144. Selects each 32-bit group from va or vb by a mask register. -/
  | vsel (g : Gate) (fmt : BitVec 4) (d a b : VField) (sel : WReg)
  /-- R145. Floating add, rounded once in the selected mode. -/
  | vfadd (g : Gate) (fmt : BitVec 4) (rm : BitVec 2) (d a b : VField)
  /-- R145. Floating add of a broadcast scalar. -/
  | vfaddVs (g : Gate) (fmt : BitVec 4) (rm : BitVec 2) (d a : VField) (c : SReg)
  /-- R145. Floating subtract, rounded once. -/
  | vfsub (g : Gate) (fmt : BitVec 4) (rm : BitVec 2) (d a b : VField)
  /-- R145. Floating subtract of a broadcast scalar. -/
  | vfsubVs (g : Gate) (fmt : BitVec 4) (rm : BitVec 2) (d a : VField) (c : SReg)
  /-- R145. Floating multiply, rounded once. -/
  | vfmul (g : Gate) (fmt : BitVec 4) (rm : BitVec 2) (d a b : VField)
  /-- R145. Floating multiply by a broadcast scalar. -/
  | vfmulVs (g : Gate) (fmt : BitVec 4) (rm : BitVec 2) (d a : VField) (c : SReg)
  /-- R145. Fused multiply-add rounded once. -/
  | vfma (g : Gate) (fmt : BitVec 4) (rm : BitVec 2) (d a b : VField) (c : BitVec 10)
  /-- R146. IEEE minimum of two vectors. -/
  | vfmin (g : Gate) (fmt : BitVec 4) (d a b : VField)
  /-- R146. IEEE minimum with a broadcast scalar. -/
  | vfminVs (g : Gate) (fmt : BitVec 4) (d a : VField) (c : SReg)
  /-- R146. IEEE maximum of two vectors. -/
  | vfmax (g : Gate) (fmt : BitVec 4) (d a b : VField)
  /-- R146. IEEE maximum with a broadcast scalar. -/
  | vfmaxVs (g : Gate) (fmt : BitVec 4) (d a : VField) (c : SReg)
  /-- R146. Clears each element's sign bit. -/
  | vfabs (g : Gate) (fmt : BitVec 4) (d a : VField)
  /-- R146. Inverts each element's sign bit. -/
  | vfneg (g : Gate) (fmt : BitVec 4) (d a : VField)
  /-- R56. Computes 2^x per element by the defined algorithm. -/
  | vexp2 (g : Gate) (fmt : BitVec 4) (d a : VField)
  /-- R57. Computes log2 x per element by the defined algorithm. -/
  | vlog2 (g : Gate) (fmt : BitVec 4) (d a : VField)
  /-- R54. Computes the reciprocal per element by the defined algorithm. -/
  | vrcp (g : Gate) (fmt : BitVec 4) (d a : VField)
  /-- R55. Computes the reciprocal square root per element by the defined algorithm. -/
  | vrsq (g : Gate) (fmt : BitVec 4) (d a : VField)
  /-- R148. Sets mask bits where every element of a group is equal. -/
  | vcmpeq (g : Gate) (fmt : BitVec 4) (d : WReg) (a b : VField)
  /-- R148. Equality compare with a broadcast scalar into a mask. -/
  | vcmpeqVs (g : Gate) (fmt : BitVec 4) (d : WReg) (a : VField) (c : SReg)
  /-- R148. Inequality compare into a mask. -/
  | vcmpne (g : Gate) (fmt : BitVec 4) (d : WReg) (a b : VField)
  /-- R148. Inequality compare with a broadcast scalar into a mask. -/
  | vcmpneVs (g : Gate) (fmt : BitVec 4) (d : WReg) (a : VField) (c : SReg)
  /-- R148. Less-than compare into a mask. -/
  | vcmplt (g : Gate) (fmt : BitVec 4) (d : WReg) (a b : VField)
  /-- R148. Less-than compare with a broadcast scalar into a mask. -/
  | vcmpltVs (g : Gate) (fmt : BitVec 4) (d : WReg) (a : VField) (c : SReg)
  /-- R148. Less-or-equal compare into a mask. -/
  | vcmple (g : Gate) (fmt : BitVec 4) (d : WReg) (a b : VField)
  /-- R148. Less-or-equal compare with a broadcast scalar into a mask. -/
  | vcmpleVs (g : Gate) (fmt : BitVec 4) (d : WReg) (a : VField) (c : SReg)
  /-- R150. Reduces all elements by a fixed pairwise sum and broadcasts the result. -/
  | vrsum (g : Gate) (fmt : BitVec 4) (d a : VField)
  /-- R150. Reduces all elements by maximum and broadcasts the result. -/
  | vrmax (g : Gate) (fmt : BitVec 4) (d a : VField)
  /-- R150. Reduces all elements by minimum and broadcasts the result. -/
  | vrmin (g : Gate) (fmt : BitVec 4) (d a : VField)
  /-- R151. Forms inclusive prefix sums in a fixed tree order. -/
  | vpsum (g : Gate) (fmt : BitVec 4) (d a : VField)
  /-- R149. AND of two lane masks. -/
  | wand (g : Gate) (d a b : WReg)
  /-- R149. OR of two lane masks. -/
  | wor (g : Gate) (d a b : WReg)
  /-- R149. XOR of two lane masks. -/
  | wxor (g : Gate) (d a b : WReg)
  /-- R149. NOT of a lane mask. -/
  | wnot (g : Gate) (d a : WReg)
  /-- R149. AND of a mask with the inverse of another. -/
  | wandn (g : Gate) (d a b : WReg)
  /-- R156. Narrows two vector registers into one by conversion. -/
  | pack (g : Gate) (fmt : BitVec 5) (d a b : VField) (tfmt : BitVec 5) (rm : BitVec 2) (ov : Bool)
  /-- R157. Widens the second chunk of a register by conversion. -/
  | unpk (g : Gate) (fmt : BitVec 5) (d a : VField) (tfmt : BitVec 5) (rm : BitVec 2) (ov : Bool)
  /-- R155. Converts elements from a source to a target format. -/
  | vcvt (g : Gate) (fmt : BitVec 5) (d a : VField) (tfmt : BitVec 5) (rm : BitVec 2) (ov : Bool)
  /-- R158. Multiplies elements by E8M0 scales and converts them. -/
  | scale (g : Gate) (fmt : BitVec 5) (d a : VField) (k : KReg) (i : BitVec 3) (tfmt : BitVec 5) (rm : BitVec 2) (ov : Bool)
  /-- R159. Quantises 256 FP32 values into eight scaled blocks, writing elements and scales. -/
  | qnt (g : Gate) (fmt : BitVec 5) (d a : VField) (k : KReg) (i : BitVec 3) (tfmt : BitVec 5) (rm : BitVec 2) (ov : Bool)
  /-- R160. Loads eight E8M0 scales from the scratchpad into a k register. -/
  | ldsc (g : Gate) (k : KReg) (a : StreamReg)
  /-- R160. Stores a k register's eight scales to the scratchpad. -/
  | stsc (g : Gate) (k : KReg) (a : StreamReg)
  /-- R152. Permutes elements by an index vector within a window. -/
  | perm (g : Gate) (fmt : BitVec 5) (d a b : VField) (imm : BitVec 9)
  /-- R152. Slides elements across two registers by n. -/
  | slide (g : Gate) (fmt : BitVec 5) (d a b : VField) (imm : BitVec 9)
  /-- R152. Interleaves or de-interleaves two registers by a fixed pattern. -/
  | shuf (g : Gate) (fmt : BitVec 5) (d a b : VField) (imm : BitVec 9)
  /-- R152. Rotates the elements of a register by n. -/
  | rot (g : Gate) (fmt : BitVec 5) (d a : VField) (imm : BitVec 9)
  /-- R166. Adds one exact array-sized product into a tile. -/
  | mma (g : Gate) (tile : TileReg) (sa sb : StreamReg) (fmt : BitVec 5) (ka kb : KReg)
  /-- R166. Replaces a tile with one array-sized product. -/
  | mmaz (g : Gate) (tile : TileReg) (sa sb : StreamReg) (fmt : BitVec 5) (ka kb : KReg)
  /-- R64. Adds a product into the offset tile of an affine pair. -/
  | mmaa (g : Gate) (tile : TileReg) (sa sb : StreamReg) (fmt : BitVec 5) (ka kb : KReg)
  /-- R64. Replaces the offset tile of an affine pair with a product. -/
  | mmaaz (g : Gate) (tile : TileReg) (sa sb : StreamReg) (fmt : BitVec 5) (ka kb : KReg)
  /-- R65. Writes one row group of a pair's gain tile from a vector register. -/
  | mgain (g : Gate) (tile : TileReg) (rg : BitVec 3) (v : VField)
  /-- R168. Reads one row group of a tile into a vector register. -/
  | mrd (g : Gate) (tile : TileReg) (rg : BitVec 3) (v : VField)
  /-- R168. Writes one row group of a tile from a vector register, clearing poison. -/
  | mwr (g : Gate) (tile : TileReg) (rg : BitVec 3) (v : VField)
  /-- R169. Zeroes a whole tile and clears its poison. -/
  | mzero (g : Gate) (tile : TileReg)
  /-- R169. Clears every poison bit of a tile. -/
  | mclrp (g : Gate) (tile : TileReg)
  /-- R61. Scans an affine pair by a fixed prefix tree with a carry register. -/
  | ascan (g : Gate) (tile : TileReg) (cy : BitVec 3)
  /-- R172. Writes a carry register's image into a vector register. -/
  | msvc (g : Gate) (cy : BitVec 3) (v : VField)
  /-- R172. Loads a carry register from a vector register's carry image. -/
  | mldc (g : Gate) (cy : BitVec 3) (v : VField)
  /-- R177. Loads 1 KiB from the scratchpad into a vector register. -/
  | vld (g : Gate) (v : VField) (sa : StreamReg)
  /-- R177. Stores a vector register as 1 KiB into the scratchpad. -/
  | vst (g : Gate) (v : VField) (sa : StreamReg)
  /-- R177. Loads 8 bytes into an s register, or a firmware dynamic load in the Yeven context. -/
  | sld (g : Gate) (sreg : SReg) (sa : StreamReg)
  /-- R177. Stores an s register as 8 bytes, or a firmware dynamic store in the Yeven context. -/
  | sst (g : Gate) (sreg : SReg) (sa : StreamReg)
  /-- R178. Gathers elements from a 16 KiB window by an index vector. -/
  | vgth (g : Gate) (fmt : BitVec 5) (v : VField) (sa : StreamReg) (idx : VField)
  /-- R178. Scatters elements into a 16 KiB window by an index vector. -/
  | vsct (g : Gate) (fmt : BitVec 5) (v : VField) (sa : StreamReg) (idx : VField)
  /-- R179. Stores 1 KiB into the scratchpad of a core of the partition. -/
  | vstn (g : Gate) (v : VField) (sa : StreamReg) (core : BitVec 8)
  /-- R179. A remote store performs at the target core at c+12+2h or c+52+2h, occupying the target group. -/
  | vstnArrival (core id : Nat) (part : AccPart)
  /-- R180. Read-modify-write of a scratchpad word with the old value pushed to the load queue. -/
  | atom (g : Gate) (fmt : BitVec 5) (sreg : SReg) (sa : StreamReg) (op : BitVec 3)
  /-- R29. The old value of an ATOM arrives at the load queue's tail at c+7. -/
  | loadQueuePush (core id : Nat)
  /-- R180. Read-modify-write of a scratchpad word with no return. -/
  | red (g : Gate) (fmt : BitVec 5) (sreg : SReg) (sa : StreamReg) (op : BitVec 3)
  /-- R181. Removes the head of the load queue into an s register. -/
  | lqpop (g : Gate) (sreg : SReg)
  /-- R185. Starts a copy of a tensor of up to seven dimensions between scratchpad and HBM with reorder, conversion, scale and zero fill. -/
  | copy (g : Gate) (sa : StreamReg)
  /-- R187. The copy engine reads tile k's source and performs its destination bytes at P_k. -/
  | copyTile (core id tile : Nat) (part : AccPart)
  /-- R189. Starts a pour descriptor into an intake from a given block. -/
  | pour (g : Gate) (sa : StreamReg)
  /-- R190. Names the block to be removed from the tundish at its removal cycle and its expanded destination. -/
  | take (g : Gate) (sa : StreamReg)
  /-- R191. Sends a reduce command to the crucible of the target bank. -/
  | cred (g : Gate) (sa : StreamReg)
  /-- R191. Sends an a·x + y command to the crucible of the target bank. -/
  | caxpy (g : Gate) (sa : StreamReg)
  /-- R191. Sends a fill command to the crucible of the target bank. -/
  | cfill (g : Gate) (sa : StreamReg)
  /-- R196. Starts a transfer from scratchpad or HBM to CXL, host or a peer. -/
  | put (g : Gate) (sa : StreamReg)
  /-- R196. Starts a transfer from flash, CXL, host or a peer into scratchpad or HBM. -/
  | get (g : Gate) (sa : StreamReg)
  /-- R195. Waits until every earlier crucible command of the core to the bank, channel or device scope has executed. -/
  | cfence (g : Gate) (sa : StreamReg) (scope : BitVec 2)
  /-- R195. The bundle after a CFENCE issues at max(c+3, F+1). -/
  | cfenceRelease (core : Nat)
  /-- R202. Waits until every dynamic access issued earlier by the context has performed at device or system scope. -/
  | fence (g : Gate) (scope : BitVec 2)
  /-- R202. The next bundle issues once every covered dynamic access has performed. -/
  | fenceRelease (core : Nat) (fw : Bool)
  /-- R200. Posts a byte count to a barrier, taking effect at c+1. -/
  | bpost (g : Gate) (sreg : SReg) (bar : BarReg)
  /-- R203. Copies a queue's head packet into firmware data memory. -/
  | qrd (g : Gate) (sa : StreamReg)
  /-- R203. Finds the lowest set bit of the pending-kick bitmap at or above an index. -/
  | kscan (g : Gate) (sa : StreamReg)
  /-- R203. Clears a bit of the pending-kick bitmap and returns its previous value. -/
  | kclr (g : Gate) (sa : StreamReg)
  /-- R203. Appends a record to the journal atomically and returns its sequence number. -/
  | japp (g : Gate) (sa : StreamReg)
  /-- R176. A Yeven MEM operation completes and writes its result, and the context issues its next bundle. -/
  | firmwareAccessComplete (core : Nat)
  /-- R323. The Yeven context issues a firmware bundle in a cycle the compute context leaves idle, within its share. -/
  | firmwareBundleIssue (core : Nat)
  /-- R326. A pending enabled wake cause is taken: FEPC saved, FIN set, issue continues at FVEC. -/
  | firmwareCauseTaken (core : Nat)
  /-- R218. At C_g the bit of global iteration g of a spatial group's completion bitmap is set by an atomic OR. -/
  | completionBitWrite (part group iter : Nat)
  /-- R262. The intake requests source bytes of a flash, CXL or peer pour in ascending order when there is room. -/
  | pourRequest (core id : Nat)
  /-- R258. Stream bytes of a pour arrive and enter the tundish. -/
  | pourArrival (core id off len : Nat)
  /-- R273. An expander at L0 to L2 checks and expands a block as it reaches that point. -/
  | blockExpansion (core id k : Nat)
  /-- R259. At t_k the intake removes block k into the expander, or as blank, freeing its tundish bytes. -/
  | blockRemoval (core id k : Nat)
  /-- R263. A 1 KiB piece of an expanded block performs at its destination in its scheduled cycle. -/
  | expansionPiece (core id piece : Nat) (part : AccPart)
  /-- R279. On a restart or resume the intake delivers the needed CODEBOOK and TABLE blocks to the expanders. -/
  | codebookDelivery (core id : Nat)
  /-- R193. At START the core reads a crucible command's data and sends the command. -/
  | crucibleSend (core id : Nat) (part : AccPart)
  /-- R193. A crucible command reaches its bank's queue at START+24 or START+64. -/
  | crucibleArrival (core id : Nat)
  /-- R296. The crucible executes an eligible queued command in a window, its results taking effect in its last cycle. -/
  | crucibleExecute (ch bank : Nat)
  /-- R233. An accepted host AtomicOp executes after the window's heat commands, or in controller cycles when no window exists, and returns the old value. -/
  | hostAtomicExecute (ch bank : Nat)
  /-- R197. A PUT or GET engine issues its next request of one 4 KiB block when an outstanding slot is free. -/
  | dynamicRequestIssue (core id : Nat)
  /-- R197. The bytes of a dynamic request perform at their destination and count at the barrier. -/
  | dynamicRequestPerform (core id off : Nat)
  /-- R286. Timeline command opening a row of a precharged bank. -/
  | act (ch entry : Nat)
  /-- R286. Timeline command reading 64 bytes of the open row, or through the crucible inside a window. -/
  | rd (ch entry : Nat)
  /-- R286. Timeline command writing 64 bytes to the open row. -/
  | wr (ch entry : Nat)
  /-- R286. Timeline command closing a bank's row. -/
  | pre (ch entry : Nat)
  /-- R294. Timeline command refreshing one row group, with INIT writing zeros and clearing its stale bit. -/
  | refpb (ch entry : Nat)
  /-- R296. Timeline command opening a crucible window on a precharged bank. -/
  | wopen (ch entry : Nat)
  /-- R291. Timeline command opening a service slot in which the controller serves fetches, mailbox, dynamic, checkpoint and patrol traffic. -/
  | svc (ch entry : Nat)
  /-- R294. A row group whose refresh deadline passes inside an elision interval becomes stale. -/
  | rowGroupStale (ch bank group : Nat)
  /-- R301. The patrol handles one line in a service slot: rewrite, re-encrypt, poison or integrity failure. -/
  | patrolLine (part line : Nat)
  /-- R303. The log engine completes an append of pages to a flash module and writes its directory record. -/
  | logAppend (id : Nat)
  /-- R212. The front end verifies and arms a heat: pins regions, loads tables, writes launch state, expands segments, loads timelines. -/
  | heatArm (part : Nat)
  /-- R212. At heat cycle −1 the front end checks that everything is armed. -/
  | launchCheck (part : Nat)
  /-- R214. At its START cycle a core's compute context enters the static domain and issues its first bundle. -/
  | taskStart (core : Nat)
  /-- R219. In the first cycle all work of a heat is done, the front end journals COMPLETE and publishes unless held. -/
  | heatCompletion (part : Nat)
  /-- R330. At TNEXT the timer wheel releases the queue's head packet, or counts a skip. -/
  | timerRelease (q : Nat)
  /-- R241. At S = t + 64 after the first trap every core of the heat stops issuing. -/
  | stopCycle (part : Nat)
  /-- R247. At r + 96 the maximum-reduction tree delivers K to every core. -/
  | cutReduction (part : Nat)
  /-- R242. At Q the heat's timelines pause under controller refresh and the heat is stopped. -/
  | quiescence (part : Nat)
  /-- R344. Once every die has finished invalidating, INVAL_p reads 0. -/
  | invalComplete (part : Nat)
  /-- R361. A trace record is written to its die's ring in a service slot, dropping the oldest records if needed. -/
  | traceWrite (die : Nat)
  /-- R331. A logsub write submits a log request block to the log engine. -/
  | logSubmit (core : Nat) (v : Word64)
  /-- R321. A host write to a queue's doorbell sets TAIL and launches a plain packet or kicks firmware. -/
  | doorbell (src : HostFn) (w : W2Write)
  /-- R232. A host write through W1 is translated and applied in a service slot. -/
  | mailboxWrite (src : HostFn) (off : Nat) (data : List Byte)
  /-- R232. A host read through W1 is translated and applied in a service slot, returning the values at its apply cycle. -/
  | mailboxRead (src : HostFn) (off len : Nat)
  /-- R233. A host AtomicOp is accepted on a system-atomic word of HBM or completes with Unsupported Request. -/
  | hostAtomicop (src : HostFn) (off : Nat) (op : AtomicKind) (size : Nat) (x cmp : Nat)
  /-- R338. An FLR of a virtual function discards its accesses, disables its queues, ends its heats unpublished and clears its logs. -/
  | functionLevelReset (fn : Nat)
  /-- R338. A hot reset or link-down discards the link's unapplied accesses and owed completions; both links down resets every function. -/
  | linkDown (link : LinkName)
  /-- R337. A link trains as PCI Express 7.0 or, for link B, CXL 3.1. -/
  | linkTrain (link : LinkName)
  /-- R340. A read of ERRLOG returns its bits and clears it. -/
  | errlogRead (fn : Nat)
  /-- R347. A nonce written to ATTREQ enters an attestation request. -/
  | attreq (fn : Nat) (nonce : BitVec 256)
  /-- R315. A write to PMODE sets the partition mode when no heat is armed or running, and is discarded otherwise. -/
  | pmodeWrite (v : Word64)
  /-- R342. A KEYCTL write loads a partition key slot from KEYBUF unless the slot is in use by rotation. -/
  | keySlotLoad (part k : Nat) (v : Word64)
  /-- R341. A write to a management, fleet or queue register that has no row of its own stores its value. -/
  | registerWrite (byFirmware : Bool) (reg : RegName) (v : Nat)
  /-- R363. The operator's tools mark a unit absent through the management function, effective at the next reset. -/
  | unitMapOut (unit : UnitKind) (n : Nat)
  /-- R357. An IEEE 1588 exchange updates the servo's DT0, G0 and F for DTIME. -/
  | timeSync (dt0 g0 : Nat) (f : Int)
  /-- R197. A GET request from a peer device arrives over a peer port; this device serves it by reading the named bytes and returning them. -/
  | peerGetRequest (peer addr len : Nat)
  /-- R197. A PUT byte from a peer performs at this device and counts at the named core's barrier. -/
  | remoteArrival (core : Nat) (bar : Option BarReg) (space addr : Nat) (data : List Byte)
  /-- R253. Yeven resolves a parked fault and the request is replayed. -/
  | parkedRequestReplay (core tag : Nat)
  /-- R253. Yeven abandons a parked request and a class-7 trap follows. -/
  | parkedRequestAbandon (core tag : Nat)
  /-- R344. A write to INVAL_p invalidates cached translations of partition p covering a VA, or all of them. -/
  | inval (part : Nat) (v : Word64)
  /-- R353. A firmware store to a queue's re-evaluation port makes the doorbell filter evaluate the queue again. -/
  | reevaluationPort (q : Nat)
  /-- R292. While a heat is armed or paused, or no timeline runs, the channel controller refreshes row groups by itself and so resets their refresh deadlines. -/
  | controllerRunRefresh (ch : Nat)
  /-- R333. A hardware journal record held for room is appended once room exists. -/
  | journalHeldAppend
  /-- R347. The device takes the next key index, records it in protected state, signs the quote and makes it readable. -/
  | attestationQuote
  /-- R345. At reset the boot ROM reads, checks and verifies the newest firmware image, loads every core and starts Yeven at bundle 0. -/
  | reset
  /-- R348. Coolant inlet reaching the first threshold tells the management function. -/
  | inletWarning
  /-- R348. At the second threshold every heat ends with status 5 and the cores are held in reset. -/
  | inletShutdown
  /-- R348. Inlet falling below the first threshold releases the cores from reset. -/
  | inletRecover
  /-- R347. The module loses power, losing all volatile state while the protected-state records already appended in flash survive. -/
  | powerLoss
deriving DecidableEq, Repr

end Sys2Proof
end

