-- ==== Sys2Proof/WellFormed.lean ====
section
/-! DEFINITION. Which terms of the syntax the spec calls legal: the checks R72, R73 and R75 make on a syllable's field
values, and for an event the range of what it names. The ring check of R74 depends on the running loops and is made at
issue (Machine/Operands.lean). -/

namespace Sys2Proof

/-- The element width of a format code (R34). Codes 17 to 31 name no format. -/
def fmtWidth (f : Nat) : Nat :=
  match f with
  | 0 | 3 | 6 | 7 | 11 | 16 => 8
  | 1 | 4 | 8 | 9 => 16
  | 2 | 5 | 10 => 32
  | 12 | 13 | 14 => 4
  | 15 => 6
  | _ => 8

/-- Class INT of R139. -/
def clsInt (f : BitVec 4) : Bool := decide (f.toNat < 6)
/-- Class SINT of R139. -/
def clsSint (f : BitVec 4) : Bool := decide (f.toNat < 3)
/-- Class FLT of R139. -/
def clsFlt (f : BitVec 4) : Bool := decide (8 ≤ f.toNat) && decide (f.toNat ≤ 10)
/-- Class NUM of R139. -/
def clsNum (f : BitVec 4) : Bool := clsInt f || clsFlt f
/-- Class BITS of R139. -/
def clsBits (f : BitVec 4) : Bool := decide (f.toNat ≤ 11)
/-- A format code 0 to 16 (R34). -/
def clsAny (f : BitVec 5) : Bool := decide (f.toNat ≤ 16)
/-- The codes of the permutes: every format of 8, 16 or 32 bits (R152). -/
def clsPerm (f : BitVec 5) : Bool := decide (f.toNat ≤ 11) || decide (f.toNat = 16)
/-- The ten operand formats of a matrix step (R43, R84). -/
def clsMat (f : BitVec 5) : Bool :=
  decide (f.toNat ≤ 1) || (decide (6 ≤ f.toNat) && decide (f.toNat ≤ 9)) ||
    (decide (13 ≤ f.toNat) && decide (f.toNat ≤ 16))
/-- The codes of gathers and scatters (R175). -/
def clsGather (f : BitVec 5) : Bool :=
  match f.toNat with
  | 1 | 2 | 4 | 5 | 8 | 9 | 10 => true
  | _ => false
/-- The codes of `ATOM` and `RED` (R175, R180). -/
def clsAtom (f : BitVec 5) : Bool :=
  match f.toNat with
  | 2 | 5 | 10 => true
  | _ => false

/-- The scale fields of a step (R165). -/
def scalesOk (f : BitVec 5) (ka kb : KReg) : Bool :=
  if f.toNat = 14 ∨ f.toNat = 15 ∨ f.toNat = 16 ∨ f.toNat = 13 ∨ f.toNat = 6 ∨ f.toNat = 7 then
    decide (ka.toNat ≤ 48) && decide (kb.toNat ≤ 56)
  else decide (ka.toNat = 0) && decide (kb.toNat = 0)

/-- The even tile of a pair (R84). -/
def evenTile (t : TileReg) : Bool := decide (t.toNat % 2 = 0)

/-- `OP` of a read-modify-write (R180): `ATOM` has a swap, `RED` has none, and FP32 has no logic. -/
def atomOpOk (isAtom : Bool) (f : BitVec 5) (op : BitVec 3) : Bool :=
  if f.toNat = 10 then decide (op.toNat ≤ 2) || (isAtom && decide (op.toNat = 6))
  else decide (op.toNat ≤ 5) || (isAtom && decide (op.toNat = 6))

/-- `PACK` narrows into one register (R156). -/
def packOk (src tgt : Nat) : Bool :=
  decide (fmtWidth tgt < fmtWidth src) &&
    decide (2 * (8192 / max (fmtWidth src) 8) * fmtWidth tgt ≤ 8192)

/-- `UNPK` widens the second chunk (R157). -/
def unpkOk (src tgt : Nat) : Bool :=
  decide (fmtWidth src < fmtWidth tgt) &&
    decide (2 * (8192 / max (fmtWidth tgt) 8) * fmtWidth src ≤ 8192)

/-- The targets of `QNT` (R159). -/
def qntTarget (f : BitVec 5) : Bool :=
  match f.toNat with
  | 13 | 6 | 7 | 14 | 15 | 16 => true
  | _ => false

/-- Elements of a vector register of a permute's width (R136). -/
def permLen (f : BitVec 5) : Nat := 8192 / fmtWidth f.toNat

/-- The common fields of a syllable (R72): a stage of 0 to 8. -/
def Gate.ok (g : Gate) : Bool := decide (g.stage.toNat ≤ 8)

/-- The channel, bank, core, partition, queue and function numbers an event may name (R1, R3, R315, R316, R337). -/
def coreOk (c : Nat) : Bool := decide (c < Config.cores)
def chanOk (c : Nat) : Bool := decide (c < Config.channels)
def bankOk (b : Nat) : Bool := decide (b < Config.banks)
def partOk (p : Nat) : Bool := decide (p < 4)
def queueOk (q : Nat) : Bool := decide (q < 2048)
def fnOk (f : Nat) : Bool := decide (f ≤ 32)

/-- The register a `REGISTER_WRITE` may name. -/
def RegName.ok : RegName → Bool
  | .priv | .reqsig | .linkb | .keybuf | .tsrc | .peerid | .peertab => true
  | .ttbase p => partOk p
  | .vmap f => fnOk f
  | .trust p j => partOk p && decide (j < 4)
  | .trbase d | .trtail d | .trmask d => decide (d < 4)
  | .queueWord q w => queueOk q && decide (w < 4)
  | .extent p e => partOk p && decide (e < 16)

/-- A term the spec calls legal in some context: for a slot operation R72, R73 and the operand limits of its chapter; for an
event the range of what it names. -/
def Instr.wf : Instr → Bool
  | .bundleIssue c | .codeLineFetch c | .resultLand c | .waitdDeadline c | .waitaRelease c | .alignPointReached c
  | .cfenceRelease c | .firmwareAccessComplete c | .firmwareBundleIssue c | .firmwareCauseTaken c | .taskStart c => coreOk c
  | .bankAccess c _ _ | .vstnArrival c _ _ | .crucibleSend c _ _ => coreOk c
  | .dynamicBankAccess c _ _ | .dynamicRequestPerform c _ _ => coreOk c
  | .loadQueuePush c _ | .crucibleArrival c _ | .dynamicRequestIssue c _ | .parkedRequestReplay c _
  | .parkedRequestAbandon c _ => coreOk c
  | .copyTile c _ _ _ | .expansionPiece c _ _ _ => coreOk c
  | .nop _ => true
  | .br g _ _ | .call g _ _ => g.ok
  | .bri g _ | .calli g _ | .align g _ => g.ok
  | .ret g | .halt g | .chill g | .fret g => g.ok
  | .loop g _ _ _ lvl => g.ok && decide (lvl.toNat ≤ 5)
  | .lexit g lvl => g.ok && decide (lvl.toNat ≤ 5)
  | .trig g _ | .trap g _ => g.ok
  | .waitd g _ _ => g.ok
  | .waita g _ => g.ok
  | .add g _ _ _ | .sub g _ _ _ | .and g _ _ _ | .or g _ _ _ | .xor g _ _ _ | .shl g _ _ _ | .shr g _ _ _
  | .sar g _ _ _ | .min g _ _ _ | .max g _ _ _ | .minu g _ _ _ | .maxu g _ _ _ => g.ok
  | .mul g _ _ _ | .mulh g _ _ _ | .mulhu g _ _ _ | .div g _ _ _ | .divu g _ _ _ | .rem g _ _ _
  | .remu g _ _ _ => g.ok
  | .addi g _ _ _ | .andi g _ _ _ | .ori g _ _ _ | .xori g _ _ _ | .cati g _ _ _ => g.ok
  | .shli g _ _ imm | .shri g _ _ imm | .sari g _ _ imm => g.ok && decide (imm.toNat < 64)
  | .xs g _ _ => g.ok
  | .xv g _ _ _ => g.ok
  | .cmpeq g _ _ _ | .cmpne g _ _ _ | .cmplt g _ _ _ | .cmpltu g _ _ _ | .cmple g _ _ _ | .cmpleu g _ _ _ => g.ok
  | .cmpeqi g _ _ _ | .cmpnei g _ _ _ | .cmplti g _ _ _ | .cmpltui g _ _ _ | .cmplei g _ _ _ | .cmpleui g _ _ _ => g.ok
  | .qand g _ _ _ | .qor g _ _ _ | .qxor g _ _ _ | .qandn g _ _ _ => g.ok
  | .aset g _ _ fsel => g.ok && decide (fsel.toNat ≤ 5)
  | .srd g _ n => g.ok && decide (n.toNat ≤ 5)
  | .swr g n _ => g.ok && decide (n.toNat ≤ 3)
  | .gcrdHeat g _ | .gcrdGcount g _ => g.ok
  | .lxrd g _ n => g.ok && decide (n.toNat ≤ 5)
  | .fsrd g _ n => g.ok && decide (n.toNat ≤ 15)
  | .fswr g n _ => g.ok && decide (n.toNat ≤ 15) && decide (n.toNat ≠ 2) && decide (n.toNat ≠ 6) && decide (n.toNat ≠ 10)
  | .holdWrite c _ => coreOk c
  | .logSubmit c _ => decide (c ≤ 256)
  | .heatStopRequest p | .heatEnd p | .patrolStartScrub p | .patrolRotate p | .patrolStop p | .heatArm p
  | .launchCheck p | .heatCompletion p | .stopCycle p | .cutReduction p | .quiescence p | .invalComplete p => partOk p
  | .heatResume p _ | .heatRestart p _ => partOk p
  | .timerArm q | .timerDisarm q | .timerRelease q | .reevaluationPort q => queueOk q
  | .vadd g f _ _ _ | .vsub g f _ _ _ | .vmul g f _ _ _ | .vmulh g f _ _ _ | .vmin g f _ _ _ | .vmax g f _ _ _
  | .vand g f _ _ _ | .vor g f _ _ _ | .vxor g f _ _ _ | .vshl g f _ _ _ | .vshr g f _ _ _ | .vsar g f _ _ _
  | .vadds g f _ _ _ | .vsubs g f _ _ _ => g.ok && clsInt f
  | .vaddVs g f _ _ _ | .vsubVs g f _ _ _ | .vmulVs g f _ _ _ | .vmulhVs g f _ _ _ | .vminVs g f _ _ _
  | .vmaxVs g f _ _ _ | .vandVs g f _ _ _ | .vorVs g f _ _ _ | .vxorVs g f _ _ _ | .vshlVs g f _ _ _
  | .vshrVs g f _ _ _ | .vsarVs g f _ _ _ | .vaddsVs g f _ _ _ | .vsubsVs g f _ _ _ => g.ok && clsInt f
  | .vabs g f _ _ | .vneg g f _ _ => g.ok && clsSint f
  | .vnot g f _ _ => g.ok && clsInt f
  | .vmov g f _ _ => g.ok && clsBits f
  | .vmovi g f _ _ => g.ok && clsInt f
  | .vsel g f _ _ _ _ => g.ok && clsBits f
  | .vfadd g f _ _ _ _ | .vfsub g f _ _ _ _ | .vfmul g f _ _ _ _ => g.ok && clsFlt f
  | .vfaddVs g f _ _ _ _ | .vfsubVs g f _ _ _ _ | .vfmulVs g f _ _ _ _ => g.ok && clsFlt f
  | .vfma g f _ _ _ _ _ => g.ok && clsFlt f
  | .vfmin g f _ _ _ | .vfmax g f _ _ _ => g.ok && clsFlt f
  | .vfminVs g f _ _ _ | .vfmaxVs g f _ _ _ => g.ok && clsFlt f
  | .vfabs g f _ _ | .vfneg g f _ _ | .vexp2 g f _ _ | .vlog2 g f _ _ | .vrcp g f _ _ | .vrsq g f _ _ => g.ok && clsFlt f
  | .vcmpeq g f _ _ _ | .vcmpne g f _ _ _ | .vcmplt g f _ _ _ | .vcmple g f _ _ _ => g.ok && clsNum f
  | .vcmpeqVs g f _ _ _ | .vcmpneVs g f _ _ _ | .vcmpltVs g f _ _ _ | .vcmpleVs g f _ _ _ => g.ok && clsNum f
  | .vrsum g f _ _ | .vrmax g f _ _ | .vrmin g f _ _ | .vpsum g f _ _ => g.ok && clsNum f
  | .wand g _ _ _ | .wor g _ _ _ | .wxor g _ _ _ | .wandn g _ _ _ => g.ok
  | .wnot g _ _ => g.ok
  | .pack g f _ _ _ t _ _ => g.ok && clsAny f && clsAny t && packOk f.toNat t.toNat
  | .unpk g f _ _ t _ _ => g.ok && clsAny f && clsAny t && unpkOk f.toNat t.toNat
  | .vcvt g f _ _ t _ _ => g.ok && clsAny f && clsAny t
  | .scale g f _ _ _ _ t _ _ => g.ok && clsAny f && clsAny t
  | .qnt g f _ _ _ i t _ _ => g.ok && decide (f.toNat = 10) && decide (i.toNat = 0) && qntTarget t
  | .ldsc g _ _ | .stsc g _ _ => g.ok
  | .perm g f _ _ _ imm => g.ok && clsPerm f && decide (imm.toNat ≤ 3)
  | .slide g f _ _ _ imm => g.ok && clsPerm f && decide (imm.toNat ≤ Nat.min (permLen f) 511)
  | .shuf g f _ _ _ imm => g.ok && clsPerm f && decide (imm.toNat ≤ 3)
  | .rot g f _ _ imm => g.ok && clsPerm f && decide (imm.toNat ≤ Nat.min (permLen f - 1) 511)
  | .mma g _ _ _ f ka kb | .mmaz g _ _ _ f ka kb => g.ok && clsMat f && scalesOk f ka kb
  | .mmaa g t _ _ f ka kb | .mmaaz g t _ _ f ka kb =>
      g.ok && clsMat f && scalesOk f ka kb && evenTile t && decide (2 ≤ f.toNat)
  | .mgain g t _ _ => g.ok && evenTile t
  | .mrd g _ _ _ | .mwr g _ _ _ => g.ok
  | .mzero g _ | .mclrp g _ => g.ok
  | .ascan g t _ => g.ok && evenTile t
  | .msvc g _ _ | .mldc g _ _ => g.ok
  | .vld g _ _ | .vst g _ _ => g.ok
  | .sld g _ _ | .sst g _ _ => g.ok
  | .vgth g f _ _ _ | .vsct g f _ _ _ => g.ok && clsGather f
  | .vstn g _ _ _ => g.ok
  | .atom g f _ _ op => g.ok && clsAtom f && atomOpOk true f op
  | .red g f _ _ op => g.ok && clsAtom f && atomOpOk false f op
  | .lqpop g _ => g.ok
  | .copy g _ | .pour g _ | .take g _ | .cred g _ | .caxpy g _ | .cfill g _ | .put g _ | .get g _ => g.ok
  | .cfence g sa sc => g.ok && (decide (sc.toNat ≤ 1) || (decide (sc.toNat = 2) && decide (sa.toNat = 0)))
  | .fence g sc => g.ok && decide (sc.toNat ≤ 1)
  | .bpost g _ _ => g.ok
  | .qrd g _ | .kscan g _ | .kclr g _ | .japp g _ => g.ok
  | .fenceRelease c _ => coreOk c
  | .completionBitWrite p _ _ => partOk p
  | .pourRequest c _ | .codebookDelivery c _ => coreOk c
  | .pourArrival c _ _ _ => coreOk c
  | .blockExpansion c _ _ | .blockRemoval c _ _ => coreOk c
  | .crucibleExecute ch b | .hostAtomicExecute ch b => chanOk ch && bankOk b
  | .remoteArrival c _ sp _ _ => coreOk c && decide (sp ≤ 1)
  | .act ch _ | .rd ch _ | .wr ch _ | .pre ch _ | .refpb ch _ | .wopen ch _ | .svc ch _ => chanOk ch
  | .rowGroupStale ch b g => chanOk ch && bankOk b && decide (g < 8192)
  | .patrolLine p _ => partOk p
  | .logAppend _ => true
  | .doorbell f w => fnOk f.fn && decide (w.off < 4096)
  | .journalHeldAppend => true
  | .mailboxWrite f _ _ => fnOk f.fn
  | .mailboxRead f _ _ => fnOk f.fn
  | .hostAtomicop f _ _ _ _ _ => fnOk f.fn
  | .functionLevelReset f | .errlogRead f => fnOk f
  | .attreq f _ => fnOk f
  | .linkDown _ | .linkTrain _ => true
  | .attestationQuote => true
  | .pmodeWrite _ => true
  | .keySlotLoad p k _ => partOk p && decide (k < 4)
  | .inval p _ => partOk p
  | .registerWrite _ r _ => r.ok
  | .reset => true
  | .unitMapOut _ _ => true
  | .inletWarning | .inletShutdown | .inletRecover => true
  | .timeSync _ _ _ => true
  | .traceWrite d => decide (d < 4)
  | .controllerRunRefresh ch => chanOk ch
  | .peerGetRequest _ _ _ => true
  | .powerLoss => true

/-- The slot of a slot operation; none for an event. -/
def Instr.slot? : Instr → Option Slot
  | .nop s => some s
  | .br .. | .call .. | .bri .. | .calli .. | .ret .. | .loop .. | .lexit .. | .halt .. | .trig .. | .waitd ..
  | .waita .. | .align .. | .trap .. | .chill .. | .fret .. => some .ctl
  | .add .. | .sub .. | .and .. | .or .. | .xor .. | .shl .. | .shr .. | .sar .. | .min .. | .max .. | .minu ..
  | .maxu .. | .addi .. | .andi .. | .ori .. | .xori .. | .shli .. | .shri .. | .sari .. | .cati .. | .mul ..
  | .mulh .. | .mulhu .. | .div .. | .divu .. | .rem .. | .remu .. | .xs .. | .xv .. | .cmpeq .. | .cmpne ..
  | .cmplt .. | .cmpltu .. | .cmple .. | .cmpleu .. | .cmpeqi .. | .cmpnei .. | .cmplti .. | .cmpltui ..
  | .cmplei .. | .cmpleui .. | .qand .. | .qor .. | .qxor .. | .qandn .. | .aset .. | .srd .. | .swr ..
  | .gcrdHeat .. | .gcrdGcount .. | .lxrd .. | .fsrd .. | .fswr .. => some .sca
  | .vadd .. | .vaddVs .. | .vsub .. | .vsubVs .. | .vmul .. | .vmulVs .. | .vmulh .. | .vmulhVs .. | .vmin ..
  | .vminVs .. | .vmax .. | .vmaxVs .. | .vand .. | .vandVs .. | .vor .. | .vorVs .. | .vxor .. | .vxorVs ..
  | .vshl .. | .vshlVs .. | .vshr .. | .vshrVs .. | .vsar .. | .vsarVs .. | .vadds .. | .vaddsVs .. | .vsubs ..
  | .vsubsVs .. | .vabs .. | .vneg .. | .vnot .. | .vmov .. | .vmovi .. | .vsel .. | .vfadd .. | .vfaddVs ..
  | .vfsub .. | .vfsubVs .. | .vfmul .. | .vfmulVs .. | .vfma .. | .vfmin .. | .vfminVs .. | .vfmax ..
  | .vfmaxVs .. | .vfabs .. | .vfneg .. | .vexp2 .. | .vlog2 .. | .vrcp .. | .vrsq .. | .vcmpeq .. | .vcmpeqVs ..
  | .vcmpne .. | .vcmpneVs .. | .vcmplt .. | .vcmpltVs .. | .vcmple .. | .vcmpleVs .. | .vrsum .. | .vrmax ..
  | .vrmin .. | .vpsum .. | .wand .. | .wor .. | .wxor .. | .wnot .. | .wandn .. => some .vec
  | .pack .. | .unpk .. | .vcvt .. | .scale .. | .qnt .. | .ldsc .. | .stsc .. | .perm .. | .slide .. | .shuf ..
  | .rot .. => some .prm
  | .mma .. | .mmaz .. | .mmaa .. | .mmaaz .. | .mgain .. | .mrd .. | .mwr .. | .mzero .. | .mclrp .. | .ascan ..
  | .msvc .. | .mldc .. => some .mat
  | .vld .. | .vst .. | .sld .. | .sst .. | .vgth .. | .vsct .. | .vstn .. | .atom .. | .red .. | .lqpop ..
  | .copy .. | .pour .. | .take .. | .cred .. | .caxpy .. | .cfill .. | .put .. | .get .. | .cfence .. | .fence ..
  | .bpost .. | .qrd .. | .kscan .. | .kclr .. | .japp .. => some .mem
  | .bundleIssue .. | .codeLineFetch .. | .resultLand .. | .bankAccess .. | .dynamicBankAccess .. | .waitdDeadline ..
  | .waitaRelease .. | .alignPointReached .. | .holdWrite .. | .heatStopRequest .. | .heatResume .. | .heatRestart ..
  | .heatEnd .. | .patrolStartScrub .. | .patrolRotate .. | .patrolStop .. | .timerArm .. | .timerDisarm ..
  | .logSubmit .. | .vstnArrival .. | .loadQueuePush .. | .copyTile .. | .cfenceRelease .. | .fenceRelease ..
  | .firmwareAccessComplete .. | .reevaluationPort .. | .firmwareBundleIssue .. | .firmwareCauseTaken ..
  | .completionBitWrite .. | .pourRequest .. | .pourArrival .. | .blockExpansion .. | .blockRemoval ..
  | .expansionPiece .. | .codebookDelivery .. | .crucibleSend .. | .crucibleArrival .. | .crucibleExecute ..
  | .hostAtomicExecute .. | .dynamicRequestIssue .. | .dynamicRequestPerform .. | .remoteArrival ..
  | .parkedRequestReplay .. | .parkedRequestAbandon .. | .act .. | .rd .. | .wr .. | .pre .. | .refpb .. | .wopen ..
  | .svc .. | .rowGroupStale .. | .patrolLine .. | .logAppend .. | .doorbell .. | .heatArm .. | .launchCheck ..
  | .taskStart .. | .heatCompletion .. | .journalHeldAppend | .timerRelease .. | .stopCycle .. | .cutReduction ..
  | .quiescence .. | .mailboxWrite .. | .mailboxRead .. | .hostAtomicop .. | .functionLevelReset .. | .linkDown ..
  | .linkTrain .. | .errlogRead .. | .attreq .. | .attestationQuote | .pmodeWrite .. | .keySlotLoad .. | .inval ..
  | .invalComplete .. | .registerWrite .. | .reset | .unitMapOut .. | .inletWarning | .inletShutdown | .inletRecover
  | .timeSync .. | .traceWrite .. | .controllerRunRefresh .. | .peerGetRequest .. | .powerLoss => none

/-- The last bundle of the firmware instruction memory: a Yeven `CB` branch names no bundle above it, and SEG is 0 (R323). -/
def fwBranchOk (idx : BitVec 10) (seg : Bool) : Bool := decide (idx.toNat < Config.fwBundles) && !seg

/-- Legal in a compute-context bundle (R75): every slot operation outside the firmware range. -/
def Instr.legalCompute (i : Instr) : Bool :=
  match i with
  | .chill .. | .fret .. | .fsrd .. | .fswr .. | .qrd .. | .kscan .. | .kclr .. | .japp .. => false
  | _ => i.slot?.isSome && i.wf

/-- Legal in a Yeven bundle (R75, R135, R176, R323). -/
def Instr.legalFirmware (i : Instr) : Bool :=
  match i with
  | .loop .. | .lexit .. | .trig .. | .waitd .. | .waita .. | .align .. | .halt .. | .xs .. | .xv .. | .aset ..
  | .lxrd .. | .srd .. | .swr .. => false
  | .br _ idx seg | .call _ idx seg => i.wf && fwBranchOk idx seg
  | .nop _ => true
  | .sld .. | .sst .. | .fence .. | .qrd .. | .kscan .. | .kclr .. | .japp .. => i.wf
  | _ =>
    match i.slot? with
    | some .ctl | some .sca => i.wf
    | _ => false

end Sys2Proof
end

