-- ==== Sys2Proof/Decode.lean ====
section
/-! DEFINITION. The decoder of bundles and syllables (R69 to R87, R140, R173, R175), total on every bit pattern, and after
it the encoder of the same tables. A syllable is a number whose bit 0 is its low bit. A decoder reads a form's fields and
refuses a nonzero bit that the form reserves; `Instr.wf` then refuses illegal field values. -/

namespace Sys2Proof

/-- Bits lo to lo + len − 1 of a word (R100, Field). -/
def bits (w lo len : Nat) : BitVec len := BitVec.ofNat len (w / 2 ^ lo)

/-- Bits lo to lo + len − 1 of a word, as a number. -/
def fld (w lo len : Nat) : Nat := w / 2 ^ lo % 2 ^ len

/-- The common fields of a syllable (R72). -/
def gateOf (w : Nat) : Gate := { pred := bits w 8 5, stage := bits w 13 4 }

/-- `i` when every reserved bit is zero. -/
def whenClear (clear : Bool) (i : Instr) : Option Instr := if clear then some i else none

/-- Form SR (R78, R122): bits 47:35 reserved. -/
def decSr (w : Nat) (mk : Gate → SReg → SReg → SReg → Instr) : Option Instr :=
  whenClear (fld w 35 13 = 0) (mk (gateOf w) (bits w 17 6) (bits w 23 6) (bits w 29 6))

/-- Form SI (R78, R123): bits 34:29 reserved. -/
def decSi (w : Nat) (mk : Gate → SReg → SReg → BitVec 13 → Instr) : Option Instr :=
  whenClear (fld w 29 6 = 0) (mk (gateOf w) (bits w 17 6) (bits w 23 6) (bits w 35 13))

/-- Form SQ with s operands (R78, R126): bits 47:35 and 22:21 reserved. -/
def decSq (w : Nat) (mk : Gate → QReg → SReg → SReg → Instr) : Option Instr :=
  whenClear (fld w 35 13 = 0 && fld w 21 2 = 0) (mk (gateOf w) (bits w 17 4) (bits w 23 6) (bits w 29 6))

/-- Form SQ with an immediate (R78, R126): bits 34:29 and 22:21 reserved. -/
def decSqi (w : Nat) (mk : Gate → QReg → SReg → BitVec 13 → Instr) : Option Instr :=
  whenClear (fld w 29 6 = 0 && fld w 21 2 = 0) (mk (gateOf w) (bits w 17 4) (bits w 23 6) (bits w 35 13))

/-- Form SQ of the predicate operations (R78, R127): bits 47:33, 28:27 and 22:21 reserved. -/
def decQq (w : Nat) (mk : Gate → QReg → QReg → QReg → Instr) : Option Instr :=
  whenClear (fld w 33 15 = 0 && fld w 27 2 = 0 && fld w 21 2 = 0)
    (mk (gateOf w) (bits w 17 4) (bits w 23 4) (bits w 29 4))

/-- Form SS reading a register (R131, R133): bits 34:23 reserved. -/
def decSs (w : Nat) (mk : Gate → SReg → BitVec 13 → Instr) : Option Instr :=
  whenClear (fld w 23 12 = 0) (mk (gateOf w) (bits w 17 6) (bits w 35 13))

/-- Form SS writing a register (R131): bits 34:29 and 22:17 reserved. -/
def decSw (w : Nat) (mk : Gate → BitVec 13 → SReg → Instr) : Option Instr :=
  whenClear (fld w 29 6 = 0 && fld w 17 6 = 0) (mk (gateOf w) (bits w 35 13) (bits w 23 6))

/-- `GCRD` (R132): imm13 0 names the heat cycle, 1 GCOUNT, any other value nothing. -/
def decGcrd (w : Nat) : Option Instr :=
  if fld w 35 13 = 0 then whenClear (fld w 23 12 = 0) (.gcrdHeat (gateOf w) (bits w 17 6))
  else if fld w 35 13 = 1 then whenClear (fld w 23 12 = 0) (.gcrdGcount (gateOf w) (bits w 17 6))
  else none

/-- Form VV (R80, R140): bits 63:54 reserved. -/
def decVv (w : Nat) (mk : Gate → BitVec 4 → VField → VField → VField → Instr) : Option Instr :=
  whenClear (fld w 54 10 = 0) (mk (gateOf w) (bits w 17 4) (bits w 21 11) (bits w 32 11) (bits w 43 11))

/-- Form VS (R80, R140): bits 63:60 and 53:43 reserved. -/
def decVs (w : Nat) (mk : Gate → BitVec 4 → VField → VField → SReg → Instr) : Option Instr :=
  whenClear (fld w 60 4 = 0 && fld w 43 11 = 0)
    (mk (gateOf w) (bits w 17 4) (bits w 21 11) (bits w 32 11) (bits w 54 6))

/-- Form VV with a rounding mode in opcode bits 1:0 (R80). -/
def decVvr (w : Nat) (mk : Gate → BitVec 4 → BitVec 2 → VField → VField → VField → Instr) : Option Instr :=
  whenClear (fld w 54 10 = 0)
    (mk (gateOf w) (bits w 17 4) (bits w 0 2) (bits w 21 11) (bits w 32 11) (bits w 43 11))

/-- Form VS with a rounding mode in opcode bits 1:0 (R80). -/
def decVsr (w : Nat) (mk : Gate → BitVec 4 → BitVec 2 → VField → VField → SReg → Instr) : Option Instr :=
  whenClear (fld w 60 4 = 0 && fld w 43 11 = 0)
    (mk (gateOf w) (bits w 17 4) (bits w 0 2) (bits w 21 11) (bits w 32 11) (bits w 54 6))

/-- Form V1 (R80, R140): bits 63:43 reserved. -/
def decV1 (w : Nat) (mk : Gate → BitVec 4 → VField → VField → Instr) : Option Instr :=
  whenClear (fld w 43 21 = 0) (mk (gateOf w) (bits w 17 4) (bits w 21 11) (bits w 32 11))

/-- Form VC, even opcode (R80, R140): bits 63:54 and 31:25 reserved. -/
def decVc (w : Nat) (mk : Gate → BitVec 4 → WReg → VField → VField → Instr) : Option Instr :=
  whenClear (fld w 54 10 = 0 && fld w 25 7 = 0)
    (mk (gateOf w) (bits w 17 4) (bits w 21 4) (bits w 32 11) (bits w 43 11))

/-- Form VC, odd opcode (R80, R140): bits 63:60, 53:43 and 31:25 reserved. -/
def decVcs (w : Nat) (mk : Gate → BitVec 4 → WReg → VField → SReg → Instr) : Option Instr :=
  whenClear (fld w 60 4 = 0 && fld w 43 11 = 0 && fld w 25 7 = 0)
    (mk (gateOf w) (bits w 17 4) (bits w 21 4) (bits w 32 11) (bits w 54 6))

/-- Form VM (R80, R140): bits 63:47, 42:36, 31:25 and 20:17 reserved. -/
def decVm (w : Nat) (mk : Gate → WReg → WReg → WReg → Instr) : Option Instr :=
  whenClear (fld w 47 17 = 0 && fld w 36 7 = 0 && fld w 25 7 = 0 && fld w 17 4 = 0)
    (mk (gateOf w) (bits w 21 4) (bits w 32 4) (bits w 43 4))

/-- Form PC without operand b (R82, R153): bit 63 and bits 54:44 reserved. -/
def decPc (w : Nat) (mk : Gate → BitVec 5 → VField → VField → BitVec 5 → BitVec 2 → Bool → Instr) : Option Instr :=
  whenClear (fld w 63 1 = 0 && fld w 44 11 = 0)
    (mk (gateOf w) (bits w 17 5) (bits w 22 11) (bits w 33 11) (bits w 55 5) (bits w 60 2) (fld w 62 1 = 1))

/-- Form PS (R82): bits 63 and 54:53 reserved. -/
def decPs (w : Nat) (mk : Gate → BitVec 5 → VField → VField → KReg → BitVec 3 → BitVec 5 → BitVec 2 → Bool → Instr) :
    Option Instr :=
  whenClear (fld w 63 1 = 0 && fld w 53 2 = 0)
    (mk (gateOf w) (bits w 17 5) (bits w 22 11) (bits w 33 11) (bits w 44 6) (bits w 50 3) (bits w 55 5) (bits w 60 2)
      (fld w 62 1 = 1))

/-- Form PK (R82, R160): bits 63:37, 32:28 and 21:17 reserved. -/
def decPk (w : Nat) (mk : Gate → KReg → StreamReg → Instr) : Option Instr :=
  whenClear (fld w 37 27 = 0 && fld w 28 5 = 0 && fld w 17 5 = 0) (mk (gateOf w) (bits w 22 6) (bits w 33 4))

/-- Form PP (R82): every bit is used. -/
def decPp (w : Nat) (mk : Gate → BitVec 5 → VField → VField → VField → BitVec 9 → Instr) : Option Instr :=
  some (mk (gateOf w) (bits w 17 5) (bits w 22 11) (bits w 33 11) (bits w 44 11) (bits w 55 9))

/-- The steps (R84, R173): bits 63:47 reserved. -/
def decStep (w : Nat) (mk : Gate → TileReg → StreamReg → StreamReg → BitVec 5 → KReg → KReg → Instr) : Option Instr :=
  whenClear (fld w 47 17 = 0)
    (mk (gateOf w) (bits w 17 5) (bits w 22 4) (bits w 26 4) (bits w 30 5) (bits w 35 6) (bits w 41 6))

/-- The row-group moves (R84, R173): bits 49:22 reserved. -/
def decRg (w : Nat) (mk : Gate → TileReg → BitVec 3 → VField → Instr) : Option Instr :=
  whenClear (fld w 22 28 = 0) (mk (gateOf w) (bits w 17 5) (bits w 50 3) (bits w 53 11))

/-- A tile alone (R173): bits 63:22 reserved. -/
def decTile (w : Nat) (mk : Gate → TileReg → Instr) : Option Instr :=
  whenClear (fld w 22 42 = 0) (mk (gateOf w) (bits w 17 5))

/-- A carry and a vector field (R173): bits 52:50 and 46:17 reserved. -/
def decCy (w : Nat) (mk : Gate → BitVec 3 → VField → Instr) : Option Instr :=
  whenClear (fld w 50 3 = 0 && fld w 17 30 = 0) (mk (gateOf w) (bits w 47 3) (bits w 53 11))

/-- Form ML with a vector register (R175): bits 63:37 and 21:17 reserved. -/
def decMlv (w : Nat) (mk : Gate → VField → StreamReg → Instr) : Option Instr :=
  whenClear (fld w 37 27 = 0 && fld w 17 5 = 0) (mk (gateOf w) (bits w 22 11) (bits w 33 4))

/-- Form ML with an s register (R175): bits 63:37, 32:28 and 21:17 reserved. -/
def decMls (w : Nat) (mk : Gate → SReg → StreamReg → Instr) : Option Instr :=
  whenClear (fld w 37 27 = 0 && fld w 28 5 = 0 && fld w 17 5 = 0) (mk (gateOf w) (bits w 22 6) (bits w 33 4))

/-- Form MG (R175): bits 63:52 and 40:37 reserved. -/
def decMg (w : Nat) (mk : Gate → BitVec 5 → VField → StreamReg → VField → Instr) : Option Instr :=
  whenClear (fld w 52 12 = 0 && fld w 37 4 = 0)
    (mk (gateOf w) (bits w 17 5) (bits w 22 11) (bits w 33 4) (bits w 41 11))

/-- Form MA (R175): bits 63:44, 40:37 and 32:28 reserved. -/
def decMa (w : Nat) (mk : Gate → BitVec 5 → SReg → StreamReg → BitVec 3 → Instr) : Option Instr :=
  whenClear (fld w 44 20 = 0 && fld w 37 4 = 0 && fld w 28 5 = 0)
    (mk (gateOf w) (bits w 17 5) (bits w 22 6) (bits w 33 4) (bits w 41 3))

/-- Form ME (R175): bits 63:37, 32:22 and 21:17 reserved. -/
def decMe (w : Nat) (mk : Gate → StreamReg → Instr) : Option Instr :=
  whenClear (fld w 37 27 = 0 && fld w 17 16 = 0) (mk (gateOf w) (bits w 33 4))

/-- The CTL opcode map (R77). -/
def decodeCtl (w : Nat) : Option Instr :=
  let g := gateOf w
  match w % 256 with
  | 0x00 => whenClear (w = 0) (.nop .ctl)
  | 0x01 => whenClear (fld w 28 20 = 0) (.br g (bits w 18 10) (fld w 17 1 = 1))
  | 0x02 => whenClear (fld w 28 20 = 0) (.call g (bits w 18 10) (fld w 17 1 = 1))
  | 0x03 => whenClear (fld w 23 25 = 0) (.bri g (bits w 17 6))
  | 0x04 => whenClear (fld w 23 25 = 0) (.calli g (bits w 17 6))
  | 0x05 => whenClear (fld w 17 31 = 0) (.ret g)
  | 0x06 => whenClear (fld w 44 4 = 0) (.loop g (bits w 38 6) (bits w 30 8) (bits w 20 10) (bits w 17 3))
  | 0x07 => whenClear (fld w 20 28 = 0) (.lexit g (bits w 17 3))
  | 0x08 => whenClear (fld w 17 31 = 0) (.halt g)
  | 0x09 => whenClear (fld w 36 12 = 0 && fld w 17 11 = 0) (.trig g (bits w 28 8))
  | 0x0A => whenClear (fld w 28 20 = 0) (.waitd g (bits w 17 5) (bits w 22 6))
  | 0x0B => whenClear (fld w 22 26 = 0) (.waita g (bits w 17 5))
  | 0x0C => whenClear (fld w 28 20 = 0 && fld w 17 5 = 0) (.align g (bits w 22 6))
  | 0x0D => whenClear (fld w 36 12 = 0 && fld w 17 11 = 0) (.trap g (bits w 28 8))
  | 0xE0 => whenClear (fld w 17 31 = 0) (.chill g)
  | 0xE1 => whenClear (fld w 17 31 = 0) (.fret g)
  | _ => none

/-- The SCA opcode map (R79). -/
def decodeSca (w : Nat) : Option Instr :=
  let g := gateOf w
  match w % 256 with
  | 0x00 => whenClear (w = 0) (.nop .sca)
  | 0x01 => decSr w .add
  | 0x02 => decSr w .sub
  | 0x03 => decSr w .and
  | 0x04 => decSr w .or
  | 0x05 => decSr w .xor
  | 0x06 => decSr w .shl
  | 0x07 => decSr w .shr
  | 0x08 => decSr w .sar
  | 0x09 => decSr w .min
  | 0x0A => decSr w .max
  | 0x0B => decSr w .minu
  | 0x0C => decSr w .maxu
  | 0x11 => decSi w .addi
  | 0x13 => decSi w .andi
  | 0x14 => decSi w .ori
  | 0x15 => decSi w .xori
  | 0x16 => decSi w .shli
  | 0x17 => decSi w .shri
  | 0x18 => decSi w .sari
  | 0x19 => decSi w .cati
  | 0x20 => decSr w .mul
  | 0x21 => decSr w .mulh
  | 0x22 => decSr w .mulhu
  | 0x24 => decSr w .div
  | 0x25 => decSr w .divu
  | 0x26 => decSr w .rem
  | 0x27 => decSr w .remu
  | 0x30 => whenClear (fld w 46 2 = 0 && fld w 29 6 = 0 && fld w 17 6 = 0) (.xs g (bits w 23 6) (bits w 35 11))
  | 0x31 => whenClear (fld w 46 2 = 0 && fld w 31 4 = 0) (.xv g (bits w 17 6) (bits w 35 11) (bits w 23 8))
  | 0x38 => decSq w .cmpeq
  | 0x39 => decSq w .cmpne
  | 0x3A => decSq w .cmplt
  | 0x3B => decSq w .cmpltu
  | 0x3C => decSq w .cmple
  | 0x3D => decSq w .cmpleu
  | 0x40 => decSqi w .cmpeqi
  | 0x41 => decSqi w .cmpnei
  | 0x42 => decSqi w .cmplti
  | 0x43 => decSqi w .cmpltui
  | 0x44 => decSqi w .cmplei
  | 0x45 => decSqi w .cmpleui
  | 0x48 => decQq w .qand
  | 0x49 => decQq w .qor
  | 0x4A => decQq w .qxor
  | 0x4B => decQq w .qandn
  | 0x50 => whenClear (fld w 38 10 = 0 && fld w 29 6 = 0 && fld w 21 2 = 0) (.aset g (bits w 17 4) (bits w 23 6) (bits w 35 3))
  | 0x58 => decSs w .srd
  | 0x59 => decSw w .swr
  | 0x5A => decGcrd w
  | 0x5B => decSs w .lxrd
  | 0xE0 => decSs w .fsrd
  | 0xE1 => decSw w .fswr
  | _ => none

/-- The VEC opcode map (R81). -/
def decodeVec (w : Nat) : Option Instr :=
  let g := gateOf w
  match w % 256 with
  | 0x00 => whenClear (w = 0) (.nop .vec)
  | 0x02 => decVv w .vadd
  | 0x03 => decVs w .vaddVs
  | 0x04 => decVv w .vsub
  | 0x05 => decVs w .vsubVs
  | 0x06 => decVv w .vmul
  | 0x07 => decVs w .vmulVs
  | 0x08 => decVv w .vmulh
  | 0x09 => decVs w .vmulhVs
  | 0x0A => decVv w .vmin
  | 0x0B => decVs w .vminVs
  | 0x0C => decVv w .vmax
  | 0x0D => decVs w .vmaxVs
  | 0x0E => decVv w .vand
  | 0x0F => decVs w .vandVs
  | 0x10 => decVv w .vor
  | 0x11 => decVs w .vorVs
  | 0x12 => decVv w .vxor
  | 0x13 => decVs w .vxorVs
  | 0x14 => decVv w .vshl
  | 0x15 => decVs w .vshlVs
  | 0x16 => decVv w .vshr
  | 0x17 => decVs w .vshrVs
  | 0x18 => decVv w .vsar
  | 0x19 => decVs w .vsarVs
  | 0x1A => decVv w .vadds
  | 0x1B => decVs w .vaddsVs
  | 0x1C => decVv w .vsubs
  | 0x1D => decVs w .vsubsVs
  | 0x20 => decV1 w .vabs
  | 0x21 => decV1 w .vneg
  | 0x22 => decV1 w .vnot
  | 0x23 => decV1 w .vmov
  | 0x24 => whenClear (fld w 32 22 = 0) (.vmovi g (bits w 17 4) (bits w 21 11) (bits w 54 10))
  | 0x25 => whenClear (fld w 58 6 = 0) (.vsel g (bits w 17 4) (bits w 21 11) (bits w 32 11) (bits w 43 11) (bits w 54 4))
  | 0x40 => decVvr w .vfadd
  | 0x41 => decVvr w .vfadd
  | 0x42 => decVvr w .vfadd
  | 0x43 => decVvr w .vfadd
  | 0x44 => decVsr w .vfaddVs
  | 0x45 => decVsr w .vfaddVs
  | 0x46 => decVsr w .vfaddVs
  | 0x47 => decVsr w .vfaddVs
  | 0x48 => decVvr w .vfsub
  | 0x49 => decVvr w .vfsub
  | 0x4A => decVvr w .vfsub
  | 0x4B => decVvr w .vfsub
  | 0x4C => decVsr w .vfsubVs
  | 0x4D => decVsr w .vfsubVs
  | 0x4E => decVsr w .vfsubVs
  | 0x4F => decVsr w .vfsubVs
  | 0x50 => decVvr w .vfmul
  | 0x51 => decVvr w .vfmul
  | 0x52 => decVvr w .vfmul
  | 0x53 => decVvr w .vfmul
  | 0x54 => decVsr w .vfmulVs
  | 0x55 => decVsr w .vfmulVs
  | 0x56 => decVsr w .vfmulVs
  | 0x57 => decVsr w .vfmulVs
  | 0x58 => some (.vfma g (bits w 17 4) (bits w 0 2) (bits w 21 11) (bits w 32 11) (bits w 43 11) (bits w 54 10))
  | 0x59 => some (.vfma g (bits w 17 4) (bits w 0 2) (bits w 21 11) (bits w 32 11) (bits w 43 11) (bits w 54 10))
  | 0x5A => some (.vfma g (bits w 17 4) (bits w 0 2) (bits w 21 11) (bits w 32 11) (bits w 43 11) (bits w 54 10))
  | 0x5B => some (.vfma g (bits w 17 4) (bits w 0 2) (bits w 21 11) (bits w 32 11) (bits w 43 11) (bits w 54 10))
  | 0x60 => decVv w .vfmin
  | 0x61 => decVs w .vfminVs
  | 0x62 => decVv w .vfmax
  | 0x63 => decVs w .vfmaxVs
  | 0x64 => decV1 w .vfabs
  | 0x65 => decV1 w .vfneg
  | 0x68 => decV1 w .vexp2
  | 0x69 => decV1 w .vlog2
  | 0x6A => decV1 w .vrcp
  | 0x6B => decV1 w .vrsq
  | 0x70 => decVc w .vcmpeq
  | 0x71 => decVcs w .vcmpeqVs
  | 0x72 => decVc w .vcmpne
  | 0x73 => decVcs w .vcmpneVs
  | 0x74 => decVc w .vcmplt
  | 0x75 => decVcs w .vcmpltVs
  | 0x76 => decVc w .vcmple
  | 0x77 => decVcs w .vcmpleVs
  | 0x80 => decV1 w .vrsum
  | 0x81 => decV1 w .vrmax
  | 0x82 => decV1 w .vrmin
  | 0x84 => decV1 w .vpsum
  | 0x90 => decVm w .wand
  | 0x91 => decVm w .wor
  | 0x92 => decVm w .wxor
  | 0x93 => whenClear (fld w 36 28 = 0 && fld w 25 7 = 0 && fld w 17 4 = 0) (.wnot g (bits w 21 4) (bits w 32 4))
  | 0x94 => decVm w .wandn
  | _ => none

/-- The PRM opcode map (R83). -/
def decodePrm (w : Nat) : Option Instr :=
  let g := gateOf w
  match w % 256 with
  | 0x00 => whenClear (w = 0) (.nop .prm)
  | 0x01 => whenClear (fld w 63 1 = 0)
      (.pack g (bits w 17 5) (bits w 22 11) (bits w 33 11) (bits w 44 11) (bits w 55 5) (bits w 60 2) (fld w 62 1 = 1))
  | 0x02 => decPc w .unpk
  | 0x03 => decPc w .vcvt
  | 0x04 => decPs w .scale
  | 0x05 => decPs w .qnt
  | 0x08 => decPk w .ldsc
  | 0x09 => decPk w .stsc
  | 0x10 => decPp w .perm
  | 0x11 => decPp w .slide
  | 0x12 => decPp w .shuf
  | 0x13 => whenClear (fld w 44 11 = 0) (.rot g (bits w 17 5) (bits w 22 11) (bits w 33 11) (bits w 55 9))
  | _ => none

/-- The MAT opcode map (R85). -/
def decodeMat (w : Nat) : Option Instr :=
  match w % 256 with
  | 0x00 => whenClear (w = 0) (.nop .mat)
  | 0x01 => decStep w .mma
  | 0x02 => decStep w .mmaz
  | 0x03 => decStep w .mmaa
  | 0x04 => decStep w .mmaaz
  | 0x08 => decRg w .mgain
  | 0x09 => decRg w .mrd
  | 0x0A => decRg w .mwr
  | 0x0B => decTile w .mzero
  | 0x0C => decTile w .mclrp
  | 0x10 => whenClear (fld w 50 14 = 0 && fld w 22 25 = 0) (.ascan (gateOf w) (bits w 17 5) (bits w 47 3))
  | 0x11 => decCy w .msvc
  | 0x12 => decCy w .mldc
  | _ => none

/-- The MEM opcode map (R87). -/
def decodeMem (w : Nat) : Option Instr :=
  let g := gateOf w
  match w % 256 with
  | 0x00 => whenClear (w = 0) (.nop .mem)
  | 0x01 => decMlv w .vld
  | 0x02 => decMlv w .vst
  | 0x03 => decMls w .sld
  | 0x04 => decMls w .sst
  | 0x05 => decMg w .vgth
  | 0x06 => decMg w .vsct
  | 0x07 => whenClear (fld w 49 15 = 0 && fld w 37 4 = 0 && fld w 17 5 = 0)
      (.vstn g (bits w 22 11) (bits w 33 4) (bits w 41 8))
  | 0x08 => decMa w .atom
  | 0x09 => decMa w .red
  | 0x0A => whenClear (fld w 28 36 = 0 && fld w 17 5 = 0) (.lqpop g (bits w 22 6))
  | 0x10 => decMe w .copy
  | 0x11 => decMe w .pour
  | 0x12 => decMe w .take
  | 0x13 => decMe w .cred
  | 0x14 => decMe w .caxpy
  | 0x15 => decMe w .cfill
  | 0x16 => decMe w .put
  | 0x17 => decMe w .get
  | 0x18 => whenClear (fld w 43 21 = 0 && fld w 37 4 = 0 && fld w 17 16 = 0) (.cfence g (bits w 33 4) (bits w 41 2))
  | 0x19 => whenClear (fld w 43 21 = 0 && fld w 17 24 = 0) (.fence g (bits w 41 2))
  | 0x1A => whenClear (fld w 46 18 = 0 && fld w 28 13 = 0 && fld w 17 5 = 0) (.bpost g (bits w 22 6) (bits w 41 5))
  | 0xE0 => decMe w .qrd
  | 0xE1 => decMe w .kscan
  | 0xE2 => decMe w .kclr
  | 0xE3 => decMe w .japp
  | _ => none

/-- The syllable of a slot, read by the slot's map; none for an illegal encoding in every context (R72, R73). -/
def decodeSyl (s : Slot) (w : Nat) : Option Instr :=
  (match s with
    | .ctl => decodeCtl w
    | .sca => decodeSca w
    | .vec => decodeVec w
    | .prm => decodePrm w
    | .mat => decodeMat w
    | .mem => decodeMem w).filter Instr.wf

/-- The low bit of a slot's syllable in the bundle (R69, R100). -/
def slotLow : Slot → Nat
  | .ctl => 32 | .sca => 80 | .vec => 128 | .mat => 192 | .prm => 256 | .mem => 320

/-- The width of a slot's syllable (R69, R100). -/
def slotWidth : Slot → Nat
  | .ctl => 48 | .sca => 48 | .vec => 64 | .mat => 64 | .prm => 64 | .mem => 64

/-- The slots in slot order (R90). -/
def allSlots : List Slot := [.ctl, .sca, .vec, .mat, .prm, .mem]

/-- The syllable of a slot (R100, Syl). -/
def syl (b : Bundle) (s : Slot) : Nat := fld b.toNat (slotLow s) (slotWidth s)

/-- The header of a bundle (R70). -/
structure Header where
  cut : Nat
  part : Bool
  restart : Bool
  gap : Nat
deriving DecidableEq, Repr

/-- The header's fields, none when a value is illegal (R70). -/
def decodeHeader (b : Bundle) : Option Header :=
  let h := b.toNat
  let part := decide (fld h 7 1 = 1)
  let restart := decide (fld h 6 1 = 1)
  if fld h 20 12 ≠ 0 then none
  else if !part && decide (fld h 8 12 ≠ 0) then none
  else if restart && !part then none
  else some { cut := fld h 8 12, part := part, restart := restart, gap := fld h 0 6 }

/-- The GAP field of a bundle, whatever the rest of its header (R70, R71). -/
def gapOf (b : Bundle) : Nat := fld b.toNat 0 6

/-- The six slot operations of a bundle legal in a context, in slot order; none when the bundle holds an illegal
encoding (R32, R70, R72, R73, R75, R135, R176, R323). The ring check of R74 is the issue's. -/
def decodeOps (fw : Bool) (b : Bundle) : Option (List Instr) :=
  allSlots.mapM (fun s => (decodeSyl s (syl b s)).filter
    (fun i => if fw then i.legalFirmware else i.legalCompute))

/-- A bundle legal in a context, with its header (R323: a firmware bundle's header is 0). -/
def decodeBundle (fw : Bool) (b : Bundle) : Option (Header × List Instr) :=
  match decodeHeader b, decodeOps fw b with
  | some h, some ops => if fw && decide (fld b.toNat 0 32 ≠ 0) then none else some (h, ops)
  | _, _ => none

/-- Not the NOP of a slot. -/
def Instr.isOp : Instr → Bool
  | .nop _ => false
  | _ => true

/-- The 384-bit bundle of a table word: bit 0 is the low bit of the bundle's first 16-bit unit (R5, R69); bits at and
above `nbits` are zero. -/
def tableBundle (nbits w : Nat) : Bundle := BitVec.ofNat 384 (w % 2 ^ nbits)

/-- The instruction of a table word (log entry 10): the word is a bundle, legal in the compute context or else in the
Yeven context, and the answer is its first operation in slot order, the CTL NOP when it has none. -/
def decodeTableWord (nbits w : Nat) : Option Instr :=
  let first := fun (p : Header × List Instr) => ((p.2.filter Instr.isOp).head?).getD (.nop .ctl)
  match decodeBundle false (tableBundle nbits w) with
  | some p => some (first p)
  | none => (decodeBundle true (tableBundle nbits w)).map first

/-! The encoder. -/

/-- A truth value as a bit. -/
def bit (b : Bool) : Nat := if b then 1 else 0

/-- Opcode, PRED and STAGE (R72). -/
def encGate (op : Nat) (g : Gate) : Nat := op + g.pred.toNat * 2 ^ 8 + g.stage.toNat * 2 ^ 13

/-- The fields of a form above the common ones: each value at its low bit. -/
def encAt : List (Nat × Nat) → Nat
  | [] => 0
  | (v, lo) :: rest => v * 2 ^ lo + encAt rest

/-- The syllable of a slot operation (R76 to R87); 0 for an event, which has no encoding. -/
def encode : Instr → Nat
  | .nop _ => 0
  | .br g idx seg => encGate 0x01 g + encAt [(idx.toNat, 18), (bit seg, 17)]
  | .call g idx seg => encGate 0x02 g + encAt [(idx.toNat, 18), (bit seg, 17)]
  | .bri g r => encGate 0x03 g + encAt [(r.toNat, 17)]
  | .calli g r => encGate 0x04 g + encAt [(r.toNat, 17)]
  | .ret g => encGate 0x05 g + encAt []
  | .halt g => encGate 0x08 g + encAt []
  | .chill g => encGate 0xE0 g + encAt []
  | .fret g => encGate 0xE1 g + encAt []
  | .loop g cnt lte body lvl => encGate 0x06 g + encAt [(cnt.toNat, 38), (lte.toNat, 30), (body.toNat, 20), (lvl.toNat, 17)]
  | .lexit g lvl => encGate 0x07 g + encAt [(lvl.toNat, 17)]
  | .trig g k => encGate 0x09 g + encAt [(k.toNat, 28)]
  | .trap g k => encGate 0x0D g + encAt [(k.toNat, 28)]
  | .waitd g b r => encGate 0x0A g + encAt [(b.toNat, 17), (r.toNat, 22)]
  | .waita g b => encGate 0x0B g + encAt [(b.toNat, 17)]
  | .align g r => encGate 0x0C g + encAt [(r.toNat, 22)]
  | .add g d a b => encGate 0x01 g + encAt [(d.toNat, 17), (a.toNat, 23), (b.toNat, 29)]
  | .sub g d a b => encGate 0x02 g + encAt [(d.toNat, 17), (a.toNat, 23), (b.toNat, 29)]
  | .and g d a b => encGate 0x03 g + encAt [(d.toNat, 17), (a.toNat, 23), (b.toNat, 29)]
  | .or g d a b => encGate 0x04 g + encAt [(d.toNat, 17), (a.toNat, 23), (b.toNat, 29)]
  | .xor g d a b => encGate 0x05 g + encAt [(d.toNat, 17), (a.toNat, 23), (b.toNat, 29)]
  | .shl g d a b => encGate 0x06 g + encAt [(d.toNat, 17), (a.toNat, 23), (b.toNat, 29)]
  | .shr g d a b => encGate 0x07 g + encAt [(d.toNat, 17), (a.toNat, 23), (b.toNat, 29)]
  | .sar g d a b => encGate 0x08 g + encAt [(d.toNat, 17), (a.toNat, 23), (b.toNat, 29)]
  | .min g d a b => encGate 0x09 g + encAt [(d.toNat, 17), (a.toNat, 23), (b.toNat, 29)]
  | .max g d a b => encGate 0x0A g + encAt [(d.toNat, 17), (a.toNat, 23), (b.toNat, 29)]
  | .minu g d a b => encGate 0x0B g + encAt [(d.toNat, 17), (a.toNat, 23), (b.toNat, 29)]
  | .maxu g d a b => encGate 0x0C g + encAt [(d.toNat, 17), (a.toNat, 23), (b.toNat, 29)]
  | .addi g d a imm => encGate 0x11 g + encAt [(d.toNat, 17), (a.toNat, 23), (imm.toNat, 35)]
  | .andi g d a imm => encGate 0x13 g + encAt [(d.toNat, 17), (a.toNat, 23), (imm.toNat, 35)]
  | .ori g d a imm => encGate 0x14 g + encAt [(d.toNat, 17), (a.toNat, 23), (imm.toNat, 35)]
  | .xori g d a imm => encGate 0x15 g + encAt [(d.toNat, 17), (a.toNat, 23), (imm.toNat, 35)]
  | .shli g d a imm => encGate 0x16 g + encAt [(d.toNat, 17), (a.toNat, 23), (imm.toNat, 35)]
  | .shri g d a imm => encGate 0x17 g + encAt [(d.toNat, 17), (a.toNat, 23), (imm.toNat, 35)]
  | .sari g d a imm => encGate 0x18 g + encAt [(d.toNat, 17), (a.toNat, 23), (imm.toNat, 35)]
  | .cati g d a imm => encGate 0x19 g + encAt [(d.toNat, 17), (a.toNat, 23), (imm.toNat, 35)]
  | .mul g d a b => encGate 0x20 g + encAt [(d.toNat, 17), (a.toNat, 23), (b.toNat, 29)]
  | .mulh g d a b => encGate 0x21 g + encAt [(d.toNat, 17), (a.toNat, 23), (b.toNat, 29)]
  | .mulhu g d a b => encGate 0x22 g + encAt [(d.toNat, 17), (a.toNat, 23), (b.toNat, 29)]
  | .div g d a b => encGate 0x24 g + encAt [(d.toNat, 17), (a.toNat, 23), (b.toNat, 29)]
  | .divu g d a b => encGate 0x25 g + encAt [(d.toNat, 17), (a.toNat, 23), (b.toNat, 29)]
  | .rem g d a b => encGate 0x26 g + encAt [(d.toNat, 17), (a.toNat, 23), (b.toNat, 29)]
  | .remu g d a b => encGate 0x27 g + encAt [(d.toNat, 17), (a.toNat, 23), (b.toNat, 29)]
  | .cmpeq g d a b => encGate 0x38 g + encAt [(d.toNat, 17), (a.toNat, 23), (b.toNat, 29)]
  | .cmpne g d a b => encGate 0x39 g + encAt [(d.toNat, 17), (a.toNat, 23), (b.toNat, 29)]
  | .cmplt g d a b => encGate 0x3A g + encAt [(d.toNat, 17), (a.toNat, 23), (b.toNat, 29)]
  | .cmpltu g d a b => encGate 0x3B g + encAt [(d.toNat, 17), (a.toNat, 23), (b.toNat, 29)]
  | .cmple g d a b => encGate 0x3C g + encAt [(d.toNat, 17), (a.toNat, 23), (b.toNat, 29)]
  | .cmpleu g d a b => encGate 0x3D g + encAt [(d.toNat, 17), (a.toNat, 23), (b.toNat, 29)]
  | .cmpeqi g d a imm => encGate 0x40 g + encAt [(d.toNat, 17), (a.toNat, 23), (imm.toNat, 35)]
  | .cmpnei g d a imm => encGate 0x41 g + encAt [(d.toNat, 17), (a.toNat, 23), (imm.toNat, 35)]
  | .cmplti g d a imm => encGate 0x42 g + encAt [(d.toNat, 17), (a.toNat, 23), (imm.toNat, 35)]
  | .cmpltui g d a imm => encGate 0x43 g + encAt [(d.toNat, 17), (a.toNat, 23), (imm.toNat, 35)]
  | .cmplei g d a imm => encGate 0x44 g + encAt [(d.toNat, 17), (a.toNat, 23), (imm.toNat, 35)]
  | .cmpleui g d a imm => encGate 0x45 g + encAt [(d.toNat, 17), (a.toNat, 23), (imm.toNat, 35)]
  | .qand g d a b => encGate 0x48 g + encAt [(d.toNat, 17), (a.toNat, 23), (b.toNat, 29)]
  | .qor g d a b => encGate 0x49 g + encAt [(d.toNat, 17), (a.toNat, 23), (b.toNat, 29)]
  | .qxor g d a b => encGate 0x4A g + encAt [(d.toNat, 17), (a.toNat, 23), (b.toNat, 29)]
  | .qandn g d a b => encGate 0x4B g + encAt [(d.toNat, 17), (a.toNat, 23), (b.toNat, 29)]
  | .xs g a v => encGate 0x30 g + encAt [(a.toNat, 23), (v.toNat, 35)]
  | .xv g d v lane => encGate 0x31 g + encAt [(d.toNat, 17), (v.toNat, 35), (lane.toNat, 23)]
  | .aset g d a f => encGate 0x50 g + encAt [(d.toNat, 17), (a.toNat, 23), (f.toNat, 35)]
  | .srd g d n => encGate 0x58 g + encAt [(d.toNat, 17), (n.toNat, 35)]
  | .lxrd g d n => encGate 0x5B g + encAt [(d.toNat, 17), (n.toNat, 35)]
  | .fsrd g d n => encGate 0xE0 g + encAt [(d.toNat, 17), (n.toNat, 35)]
  | .swr g n a => encGate 0x59 g + encAt [(n.toNat, 35), (a.toNat, 23)]
  | .fswr g n a => encGate 0xE1 g + encAt [(n.toNat, 35), (a.toNat, 23)]
  | .gcrdHeat g d => encGate 0x5A g + encAt [(d.toNat, 17)]
  | .gcrdGcount g d => encGate 0x5A g + encAt [(d.toNat, 17), (1, 35)]
  | .vadd g f d a b => encGate 0x02 g + encAt [(f.toNat, 17), (d.toNat, 21), (a.toNat, 32), (b.toNat, 43)]
  | .vaddVs g f d a c => encGate 0x03 g + encAt [(f.toNat, 17), (d.toNat, 21), (a.toNat, 32), (c.toNat, 54)]
  | .vsub g f d a b => encGate 0x04 g + encAt [(f.toNat, 17), (d.toNat, 21), (a.toNat, 32), (b.toNat, 43)]
  | .vsubVs g f d a c => encGate 0x05 g + encAt [(f.toNat, 17), (d.toNat, 21), (a.toNat, 32), (c.toNat, 54)]
  | .vmul g f d a b => encGate 0x06 g + encAt [(f.toNat, 17), (d.toNat, 21), (a.toNat, 32), (b.toNat, 43)]
  | .vmulVs g f d a c => encGate 0x07 g + encAt [(f.toNat, 17), (d.toNat, 21), (a.toNat, 32), (c.toNat, 54)]
  | .vmulh g f d a b => encGate 0x08 g + encAt [(f.toNat, 17), (d.toNat, 21), (a.toNat, 32), (b.toNat, 43)]
  | .vmulhVs g f d a c => encGate 0x09 g + encAt [(f.toNat, 17), (d.toNat, 21), (a.toNat, 32), (c.toNat, 54)]
  | .vmin g f d a b => encGate 0x0A g + encAt [(f.toNat, 17), (d.toNat, 21), (a.toNat, 32), (b.toNat, 43)]
  | .vminVs g f d a c => encGate 0x0B g + encAt [(f.toNat, 17), (d.toNat, 21), (a.toNat, 32), (c.toNat, 54)]
  | .vmax g f d a b => encGate 0x0C g + encAt [(f.toNat, 17), (d.toNat, 21), (a.toNat, 32), (b.toNat, 43)]
  | .vmaxVs g f d a c => encGate 0x0D g + encAt [(f.toNat, 17), (d.toNat, 21), (a.toNat, 32), (c.toNat, 54)]
  | .vand g f d a b => encGate 0x0E g + encAt [(f.toNat, 17), (d.toNat, 21), (a.toNat, 32), (b.toNat, 43)]
  | .vandVs g f d a c => encGate 0x0F g + encAt [(f.toNat, 17), (d.toNat, 21), (a.toNat, 32), (c.toNat, 54)]
  | .vor g f d a b => encGate 0x10 g + encAt [(f.toNat, 17), (d.toNat, 21), (a.toNat, 32), (b.toNat, 43)]
  | .vorVs g f d a c => encGate 0x11 g + encAt [(f.toNat, 17), (d.toNat, 21), (a.toNat, 32), (c.toNat, 54)]
  | .vxor g f d a b => encGate 0x12 g + encAt [(f.toNat, 17), (d.toNat, 21), (a.toNat, 32), (b.toNat, 43)]
  | .vxorVs g f d a c => encGate 0x13 g + encAt [(f.toNat, 17), (d.toNat, 21), (a.toNat, 32), (c.toNat, 54)]
  | .vshl g f d a b => encGate 0x14 g + encAt [(f.toNat, 17), (d.toNat, 21), (a.toNat, 32), (b.toNat, 43)]
  | .vshlVs g f d a c => encGate 0x15 g + encAt [(f.toNat, 17), (d.toNat, 21), (a.toNat, 32), (c.toNat, 54)]
  | .vshr g f d a b => encGate 0x16 g + encAt [(f.toNat, 17), (d.toNat, 21), (a.toNat, 32), (b.toNat, 43)]
  | .vshrVs g f d a c => encGate 0x17 g + encAt [(f.toNat, 17), (d.toNat, 21), (a.toNat, 32), (c.toNat, 54)]
  | .vsar g f d a b => encGate 0x18 g + encAt [(f.toNat, 17), (d.toNat, 21), (a.toNat, 32), (b.toNat, 43)]
  | .vsarVs g f d a c => encGate 0x19 g + encAt [(f.toNat, 17), (d.toNat, 21), (a.toNat, 32), (c.toNat, 54)]
  | .vadds g f d a b => encGate 0x1A g + encAt [(f.toNat, 17), (d.toNat, 21), (a.toNat, 32), (b.toNat, 43)]
  | .vaddsVs g f d a c => encGate 0x1B g + encAt [(f.toNat, 17), (d.toNat, 21), (a.toNat, 32), (c.toNat, 54)]
  | .vsubs g f d a b => encGate 0x1C g + encAt [(f.toNat, 17), (d.toNat, 21), (a.toNat, 32), (b.toNat, 43)]
  | .vsubsVs g f d a c => encGate 0x1D g + encAt [(f.toNat, 17), (d.toNat, 21), (a.toNat, 32), (c.toNat, 54)]
  | .vabs g f d a => encGate 0x20 g + encAt [(f.toNat, 17), (d.toNat, 21), (a.toNat, 32)]
  | .vneg g f d a => encGate 0x21 g + encAt [(f.toNat, 17), (d.toNat, 21), (a.toNat, 32)]
  | .vnot g f d a => encGate 0x22 g + encAt [(f.toNat, 17), (d.toNat, 21), (a.toNat, 32)]
  | .vmov g f d a => encGate 0x23 g + encAt [(f.toNat, 17), (d.toNat, 21), (a.toNat, 32)]
  | .vmovi g f d imm => encGate 0x24 g + encAt [(f.toNat, 17), (d.toNat, 21), (imm.toNat, 54)]
  | .vsel g f d a b sel => encGate 0x25 g + encAt [(f.toNat, 17), (d.toNat, 21), (a.toNat, 32), (b.toNat, 43), (sel.toNat, 54)]
  | .vfadd g f rm d a b => encGate (0x40 + rm.toNat) g + encAt [(f.toNat, 17), (d.toNat, 21), (a.toNat, 32), (b.toNat, 43)]
  | .vfaddVs g f rm d a c => encGate (0x44 + rm.toNat) g + encAt [(f.toNat, 17), (d.toNat, 21), (a.toNat, 32), (c.toNat, 54)]
  | .vfsub g f rm d a b => encGate (0x48 + rm.toNat) g + encAt [(f.toNat, 17), (d.toNat, 21), (a.toNat, 32), (b.toNat, 43)]
  | .vfsubVs g f rm d a c => encGate (0x4C + rm.toNat) g + encAt [(f.toNat, 17), (d.toNat, 21), (a.toNat, 32), (c.toNat, 54)]
  | .vfmul g f rm d a b => encGate (0x50 + rm.toNat) g + encAt [(f.toNat, 17), (d.toNat, 21), (a.toNat, 32), (b.toNat, 43)]
  | .vfmulVs g f rm d a c => encGate (0x54 + rm.toNat) g + encAt [(f.toNat, 17), (d.toNat, 21), (a.toNat, 32), (c.toNat, 54)]
  | .vfma g f rm d a b c => encGate (0x58 + rm.toNat) g + encAt [(f.toNat, 17), (d.toNat, 21), (a.toNat, 32), (b.toNat, 43), (c.toNat, 54)]
  | .vfmin g f d a b => encGate 0x60 g + encAt [(f.toNat, 17), (d.toNat, 21), (a.toNat, 32), (b.toNat, 43)]
  | .vfminVs g f d a c => encGate 0x61 g + encAt [(f.toNat, 17), (d.toNat, 21), (a.toNat, 32), (c.toNat, 54)]
  | .vfmax g f d a b => encGate 0x62 g + encAt [(f.toNat, 17), (d.toNat, 21), (a.toNat, 32), (b.toNat, 43)]
  | .vfmaxVs g f d a c => encGate 0x63 g + encAt [(f.toNat, 17), (d.toNat, 21), (a.toNat, 32), (c.toNat, 54)]
  | .vfabs g f d a => encGate 0x64 g + encAt [(f.toNat, 17), (d.toNat, 21), (a.toNat, 32)]
  | .vfneg g f d a => encGate 0x65 g + encAt [(f.toNat, 17), (d.toNat, 21), (a.toNat, 32)]
  | .vexp2 g f d a => encGate 0x68 g + encAt [(f.toNat, 17), (d.toNat, 21), (a.toNat, 32)]
  | .vlog2 g f d a => encGate 0x69 g + encAt [(f.toNat, 17), (d.toNat, 21), (a.toNat, 32)]
  | .vrcp g f d a => encGate 0x6A g + encAt [(f.toNat, 17), (d.toNat, 21), (a.toNat, 32)]
  | .vrsq g f d a => encGate 0x6B g + encAt [(f.toNat, 17), (d.toNat, 21), (a.toNat, 32)]
  | .vcmpeq g f d a b => encGate 0x70 g + encAt [(f.toNat, 17), (d.toNat, 21), (a.toNat, 32), (b.toNat, 43)]
  | .vcmpeqVs g f d a c => encGate 0x71 g + encAt [(f.toNat, 17), (d.toNat, 21), (a.toNat, 32), (c.toNat, 54)]
  | .vcmpne g f d a b => encGate 0x72 g + encAt [(f.toNat, 17), (d.toNat, 21), (a.toNat, 32), (b.toNat, 43)]
  | .vcmpneVs g f d a c => encGate 0x73 g + encAt [(f.toNat, 17), (d.toNat, 21), (a.toNat, 32), (c.toNat, 54)]
  | .vcmplt g f d a b => encGate 0x74 g + encAt [(f.toNat, 17), (d.toNat, 21), (a.toNat, 32), (b.toNat, 43)]
  | .vcmpltVs g f d a c => encGate 0x75 g + encAt [(f.toNat, 17), (d.toNat, 21), (a.toNat, 32), (c.toNat, 54)]
  | .vcmple g f d a b => encGate 0x76 g + encAt [(f.toNat, 17), (d.toNat, 21), (a.toNat, 32), (b.toNat, 43)]
  | .vcmpleVs g f d a c => encGate 0x77 g + encAt [(f.toNat, 17), (d.toNat, 21), (a.toNat, 32), (c.toNat, 54)]
  | .vrsum g f d a => encGate 0x80 g + encAt [(f.toNat, 17), (d.toNat, 21), (a.toNat, 32)]
  | .vrmax g f d a => encGate 0x81 g + encAt [(f.toNat, 17), (d.toNat, 21), (a.toNat, 32)]
  | .vrmin g f d a => encGate 0x82 g + encAt [(f.toNat, 17), (d.toNat, 21), (a.toNat, 32)]
  | .vpsum g f d a => encGate 0x84 g + encAt [(f.toNat, 17), (d.toNat, 21), (a.toNat, 32)]
  | .wand g d a b => encGate 0x90 g + encAt [(d.toNat, 21), (a.toNat, 32), (b.toNat, 43)]
  | .wor g d a b => encGate 0x91 g + encAt [(d.toNat, 21), (a.toNat, 32), (b.toNat, 43)]
  | .wxor g d a b => encGate 0x92 g + encAt [(d.toNat, 21), (a.toNat, 32), (b.toNat, 43)]
  | .wnot g d a => encGate 0x93 g + encAt [(d.toNat, 21), (a.toNat, 32)]
  | .wandn g d a b => encGate 0x94 g + encAt [(d.toNat, 21), (a.toNat, 32), (b.toNat, 43)]
  | .pack g f d a b t rm ov => encGate 0x01 g + encAt [(f.toNat, 17), (d.toNat, 22), (a.toNat, 33), (b.toNat, 44), (t.toNat, 55), (rm.toNat, 60), (bit ov, 62)]
  | .unpk g f d a t rm ov => encGate 0x02 g + encAt [(f.toNat, 17), (d.toNat, 22), (a.toNat, 33), (t.toNat, 55), (rm.toNat, 60), (bit ov, 62)]
  | .vcvt g f d a t rm ov => encGate 0x03 g + encAt [(f.toNat, 17), (d.toNat, 22), (a.toNat, 33), (t.toNat, 55), (rm.toNat, 60), (bit ov, 62)]
  | .scale g f d a k i t rm ov => encGate 0x04 g + encAt [(f.toNat, 17), (d.toNat, 22), (a.toNat, 33), (k.toNat, 44), (i.toNat, 50), (t.toNat, 55), (rm.toNat, 60), (bit ov, 62)]
  | .qnt g f d a k i t rm ov => encGate 0x05 g + encAt [(f.toNat, 17), (d.toNat, 22), (a.toNat, 33), (k.toNat, 44), (i.toNat, 50), (t.toNat, 55), (rm.toNat, 60), (bit ov, 62)]
  | .ldsc g k a => encGate 0x08 g + encAt [(k.toNat, 22), (a.toNat, 33)]
  | .stsc g k a => encGate 0x09 g + encAt [(k.toNat, 22), (a.toNat, 33)]
  | .perm g f d a b imm => encGate 0x10 g + encAt [(f.toNat, 17), (d.toNat, 22), (a.toNat, 33), (b.toNat, 44), (imm.toNat, 55)]
  | .slide g f d a b imm => encGate 0x11 g + encAt [(f.toNat, 17), (d.toNat, 22), (a.toNat, 33), (b.toNat, 44), (imm.toNat, 55)]
  | .shuf g f d a b imm => encGate 0x12 g + encAt [(f.toNat, 17), (d.toNat, 22), (a.toNat, 33), (b.toNat, 44), (imm.toNat, 55)]
  | .rot g f d a imm => encGate 0x13 g + encAt [(f.toNat, 17), (d.toNat, 22), (a.toNat, 33), (imm.toNat, 55)]
  | .mma g t sa sb f ka kb => encGate 0x01 g + encAt [(t.toNat, 17), (sa.toNat, 22), (sb.toNat, 26), (f.toNat, 30), (ka.toNat, 35), (kb.toNat, 41)]
  | .mmaz g t sa sb f ka kb => encGate 0x02 g + encAt [(t.toNat, 17), (sa.toNat, 22), (sb.toNat, 26), (f.toNat, 30), (ka.toNat, 35), (kb.toNat, 41)]
  | .mmaa g t sa sb f ka kb => encGate 0x03 g + encAt [(t.toNat, 17), (sa.toNat, 22), (sb.toNat, 26), (f.toNat, 30), (ka.toNat, 35), (kb.toNat, 41)]
  | .mmaaz g t sa sb f ka kb => encGate 0x04 g + encAt [(t.toNat, 17), (sa.toNat, 22), (sb.toNat, 26), (f.toNat, 30), (ka.toNat, 35), (kb.toNat, 41)]
  | .mgain g t rg v => encGate 0x08 g + encAt [(t.toNat, 17), (rg.toNat, 50), (v.toNat, 53)]
  | .mrd g t rg v => encGate 0x09 g + encAt [(t.toNat, 17), (rg.toNat, 50), (v.toNat, 53)]
  | .mwr g t rg v => encGate 0x0A g + encAt [(t.toNat, 17), (rg.toNat, 50), (v.toNat, 53)]
  | .mzero g t => encGate 0x0B g + encAt [(t.toNat, 17)]
  | .mclrp g t => encGate 0x0C g + encAt [(t.toNat, 17)]
  | .ascan g t cy => encGate 0x10 g + encAt [(t.toNat, 17), (cy.toNat, 47)]
  | .msvc g cy v => encGate 0x11 g + encAt [(cy.toNat, 47), (v.toNat, 53)]
  | .mldc g cy v => encGate 0x12 g + encAt [(cy.toNat, 47), (v.toNat, 53)]
  | .vld g r sa => encGate 0x01 g + encAt [(r.toNat, 22), (sa.toNat, 33)]
  | .vst g r sa => encGate 0x02 g + encAt [(r.toNat, 22), (sa.toNat, 33)]
  | .sld g r sa => encGate 0x03 g + encAt [(r.toNat, 22), (sa.toNat, 33)]
  | .sst g r sa => encGate 0x04 g + encAt [(r.toNat, 22), (sa.toNat, 33)]
  | .vgth g f r sa idx => encGate 0x05 g + encAt [(f.toNat, 17), (r.toNat, 22), (sa.toNat, 33), (idx.toNat, 41)]
  | .vsct g f r sa idx => encGate 0x06 g + encAt [(f.toNat, 17), (r.toNat, 22), (sa.toNat, 33), (idx.toNat, 41)]
  | .vstn g r sa core => encGate 0x07 g + encAt [(r.toNat, 22), (sa.toNat, 33), (core.toNat, 41)]
  | .atom g f r sa op => encGate 0x08 g + encAt [(f.toNat, 17), (r.toNat, 22), (sa.toNat, 33), (op.toNat, 41)]
  | .red g f r sa op => encGate 0x09 g + encAt [(f.toNat, 17), (r.toNat, 22), (sa.toNat, 33), (op.toNat, 41)]
  | .lqpop g r => encGate 0x0A g + encAt [(r.toNat, 22)]
  | .copy g sa => encGate 0x10 g + encAt [(sa.toNat, 33)]
  | .pour g sa => encGate 0x11 g + encAt [(sa.toNat, 33)]
  | .take g sa => encGate 0x12 g + encAt [(sa.toNat, 33)]
  | .cred g sa => encGate 0x13 g + encAt [(sa.toNat, 33)]
  | .caxpy g sa => encGate 0x14 g + encAt [(sa.toNat, 33)]
  | .cfill g sa => encGate 0x15 g + encAt [(sa.toNat, 33)]
  | .put g sa => encGate 0x16 g + encAt [(sa.toNat, 33)]
  | .get g sa => encGate 0x17 g + encAt [(sa.toNat, 33)]
  | .cfence g sa sc => encGate 0x18 g + encAt [(sa.toNat, 33), (sc.toNat, 41)]
  | .fence g sc => encGate 0x19 g + encAt [(sc.toNat, 41)]
  | .bpost g r b => encGate 0x1A g + encAt [(r.toNat, 22), (b.toNat, 41)]
  | .qrd g sa => encGate 0xE0 g + encAt [(sa.toNat, 33)]
  | .kscan g sa => encGate 0xE1 g + encAt [(sa.toNat, 33)]
  | .kclr g sa => encGate 0xE2 g + encAt [(sa.toNat, 33)]
  | .japp g sa => encGate 0xE3 g + encAt [(sa.toNat, 33)]
  | .bundleIssue .. | .codeLineFetch .. | .resultLand .. | .bankAccess .. | .dynamicBankAccess .. | .waitdDeadline ..
  | .waitaRelease .. | .alignPointReached .. | .holdWrite .. | .heatStopRequest .. | .heatResume .. | .heatRestart ..
  | .heatEnd .. | .patrolStartScrub .. | .patrolRotate .. | .patrolStop .. | .timerArm .. | .timerDisarm ..
  | .logSubmit .. | .vstnArrival .. | .loadQueuePush .. | .copyTile .. | .cfenceRelease .. | .fenceRelease ..
  | .firmwareAccessComplete .. | .reevaluationPort .. | .firmwareBundleIssue .. | .firmwareCauseTaken ..
  | .completionBitWrite .. | .pourRequest .. | .pourArrival .. | .blockExpansion .. | .blockRemoval ..
  | .expansionPiece .. | .codebookDelivery .. | .crucibleSend .. | .crucibleArrival .. | .crucibleExecute ..
  | .hostAtomicExecute .. | .dynamicRequestIssue .. | .dynamicRequestPerform .. | .remoteArrival ..
  | .parkedRequestReplay .. | .parkedRequestAbandon .. | .act .. | .rd .. | .wr .. | .pre .. | .refpb .. | .wopen ..
  | .svc .. | .rowGroupStale .. | .patrolLine .. | .logAppend .. | .doorbell .. | .heatArm .. | .launchCheck ..
  | .taskStart .. | .heatCompletion .. | .journalHeldAppend | .timerRelease .. | .stopCycle .. | .cutReduction ..
  | .quiescence .. | .mailboxWrite .. | .mailboxRead .. | .hostAtomicop .. | .functionLevelReset .. | .linkDown ..
  | .linkTrain .. | .errlogRead .. | .attreq .. | .attestationQuote | .pmodeWrite .. | .keySlotLoad .. | .inval ..
  | .invalComplete .. | .registerWrite .. | .reset | .unitMapOut .. | .inletWarning | .inletShutdown | .inletRecover
  | .timeSync .. | .traceWrite .. | .controllerRunRefresh .. | .peerGetRequest .. | .powerLoss => 0

/-- The bundle that holds one slot operation in its slot, every other field 0 (R69). -/
def bundleOf (i : Instr) : Bundle :=
  match i.slot? with
  | some s => BitVec.ofNat 384 (encode i * 2 ^ slotLow s)
  | none => 0

end Sys2Proof
end

