-- ==== Sys2Proof/Machine/Formats.lean ====
section
/-! DEFINITION. The number formats of R34 to R52 and the pseudocode library of R58: exact values, widening, rounding,
conversion. A format is its R34 code, a rounding mode its R35 code, an overflow mode a truth value (true: IEEE, R36). -/

namespace Sys2Proof.Machine

/-- An exact value of R58: NaN, an infinity, or (−1)^neg · m · 2^e; the sign of a zero is kept. -/
inductive XVal where
  | nan
  | inf (neg : Bool)
  | fin (neg : Bool) (m : Nat) (e : Int)
deriving DecidableEq, Repr

/-- A floating format (R38, R39): mantissa bits, bias, the magnitude encoding of the largest finite value, the magnitude
encoding of an infinity, the canonical NaN, whether an overflow without infinity is NaN, and the width. -/
structure FloatFmt where
  mbits : Nat
  bias : Int
  maxEnc : Nat
  inf : Option Nat
  nan : Nat
  ovNan : Bool
  width : Nat
deriving DecidableEq, Repr

/-- The floating formats (R38, R39). E2M1 has no NaN: a NaN input converts to +0 (R50). -/
def floatFmt (f : Nat) : Option FloatFmt :=
  match f with
  | 6 => some { mbits := 3, bias := 7, maxEnc := 0x7E, inf := none, nan := 0x7F, ovNan := true, width := 8 }
  | 7 => some { mbits := 2, bias := 15, maxEnc := 0x7B, inf := some 0x7C, nan := 0x7E, ovNan := false, width := 8 }
  | 8 => some { mbits := 7, bias := 127, maxEnc := 0x7F7F, inf := some 0x7F80, nan := 0x7FC0, ovNan := false, width := 16 }
  | 9 => some { mbits := 10, bias := 15, maxEnc := 0x7BFF, inf := some 0x7C00, nan := 0x7E00, ovNan := false, width := 16 }
  | 10 => some { mbits := 23, bias := 127, maxEnc := 0x7F7FFFFF, inf := some 0x7F800000, nan := 0x7FC00000, ovNan := false,
                 width := 32 }
  | 13 => some { mbits := 1, bias := 1, maxEnc := 7, inf := none, nan := 0, ovNan := false, width := 4 }
  | _ => none

/-- The signedness and width of an integer format (R37): codes 0 to 5 and INT4. -/
def intFmt (f : Nat) : Option (Bool × Nat) :=
  match f with
  | 0 => some (true, 8) | 1 => some (true, 16) | 2 => some (true, 32)
  | 3 => some (false, 8) | 4 => some (false, 16) | 5 => some (false, 32)
  | 12 => some (true, 4)
  | _ => none

/-- The fraction bits of an MX element (R41). -/
def mxFrac (f : Nat) : Option Nat :=
  match f with
  | 14 => some 2 | 15 => some 4 | 16 => some 6
  | _ => none

/-- The two's complement value of the low `w` bits (R58, SignedValue). -/
def signedVal (w x : Nat) : Int :=
  let y := x % 2 ^ w
  if 2 ^ (w - 1) ≤ y then (y : Int) - 2 ^ w else y

/-- The value of `w` bits, two's complement or unsigned (R37). -/
def intVal (signed : Bool) (w x : Nat) : Int := if signed then signedVal w x else ((x % 2 ^ w : Nat) : Int)

/-- The low `w` bits of an integer. -/
def wrapInt (w : Nat) (v : Int) : Nat := (v % (2 ^ w : Int)).toNat

/-- The least and the greatest value of an integer format (R37). -/
def intLo (signed : Bool) (w : Nat) : Int := if signed then -(2 ^ (w - 1) : Int) else 0
def intHi (signed : Bool) (w : Nat) : Int := if signed then (2 ^ (w - 1) : Int) - 1 else (2 ^ w : Int) - 1

/-- The nearest value of a range. -/
def clampInt (lo hi v : Int) : Int := if v < lo then lo else if hi < v then hi else v

/-- An integer as an exact value; zero is +0. -/
def xOfInt (v : Int) (e : Int := 0) : XVal := .fin (decide (v < 0)) v.natAbs e

/-- The value of a floating encoding (R38). -/
def widenFloat (p : FloatFmt) (x : Nat) : XVal :=
  let neg := decide (2 ^ (p.width - 1) ≤ x % 2 ^ p.width)
  let mag := x % 2 ^ (p.width - 1)
  if p.maxEnc < mag then
    if p.inf = some mag then .inf neg else .nan
  else
    let ex := mag / 2 ^ p.mbits
    let mn := mag % 2 ^ p.mbits
    if ex = 0 then .fin neg mn (1 - p.bias - p.mbits)
    else .fin neg (2 ^ p.mbits + mn) ((ex : Int) - p.bias - p.mbits)

/-- ScaleE8M0 (R40, R58). -/
def scaleE8M0 (x : Nat) : XVal :=
  if x % 256 = 255 then .nan else .fin false 1 (((x % 256 : Nat) : Int) - 127)

/-- Widen (R58): the exact value the bits denote in a format, an MX element without its scale (R41). -/
def widen (f x : Nat) : XVal :=
  match floatFmt f with
  | some p => widenFloat p x
  | none =>
    match intFmt f with
    | some (sg, w) => xOfInt (intVal sg w x)
    | none =>
      match mxFrac f with
      | some k => xOfInt (signedVal (fmtWidth f) x) (-(k : Int))
      | none => scaleE8M0 x

/-! Exact arithmetic. -/

/-- The value with its sign inverted. -/
def xneg : XVal → XVal
  | .nan => .nan
  | .inf n => .inf (!n)
  | .fin n m e => .fin (!n) m e

/-- Exact product; ±inf times zero is NaN (R45). -/
def xmul : XVal → XVal → XVal
  | .nan, _ => .nan
  | _, .nan => .nan
  | .inf a, .inf b => .inf (a != b)
  | .inf a, .fin b m _ => if m = 0 then .nan else .inf (a != b)
  | .fin a m _, .inf b => if m = 0 then .nan else .inf (a != b)
  | .fin a m e, .fin b n f => .fin (a != b) (m * n) (e + f)

/-- The signed integer of a finite value in units of 2^q, for q no greater than its exponent. -/
def xunits (q : Int) (neg : Bool) (m : Nat) (e : Int) : Int :=
  let v : Int := (m * 2 ^ (e - q).toNat : Nat)
  if neg then -v else v

/-- Exact sum with the zero sign of IEEE 754-2019 addition in mode `rm` (R145): −0 when both are −0, else +0, −0 under
roundTowardNegative. -/
def xadd (rm : Nat) : XVal → XVal → XVal
  | .nan, _ => .nan
  | _, .nan => .nan
  | .inf a, .inf b => if a = b then .inf a else .nan
  | .inf a, .fin _ _ _ => .inf a
  | .fin _ _ _, .inf b => .inf b
  | .fin a m e, .fin b n f =>
    let q := min e f
    let v := xunits q a m e + xunits q b n f
    if v = 0 then .fin (if a = b then a else decide (rm = 3)) 0 0
    else .fin (decide (v < 0)) v.natAbs q

/-- The exponent of the lowest unit among finite values. -/
def lowUnit : List XVal → Int
  | [] => 0
  | .fin _ _ e :: rest => min e (lowUnit rest)
  | _ :: rest => lowUnit rest

/-- Exact sum of products (R45). -/
def xsum (ps : List XVal) : XVal :=
  if ps.any (· == .nan) then .nan
  else
    let pi := ps.any (· == .inf false)
    let ni := ps.any (· == .inf true)
    if pi && ni then .nan
    else if pi then .inf false
    else if ni then .inf true
    else
      let q := lowUnit ps
      let v := ps.foldl (fun acc p => match p with | .fin n m e => acc + xunits q n m e | _ => acc) (0 : Int)
      if v = 0 then
        .fin (ps.all (fun p => match p with | .fin n m _ => n && decide (m = 0) | _ => false) && !ps.isEmpty) 0 0
      else .fin (decide (v < 0)) v.natAbs q

/-- A value times 2^k. -/
def xscale (k : Int) : XVal → XVal
  | .fin n m e => .fin n m (e + k)
  | v => v

/-! Rounding. -/

/-- m / 2^sh rounded to an integer in a mode (R35), `neg` being the sign of the value. -/
def roundShift (rm : Nat) (neg : Bool) (m sh : Nat) : Nat :=
  let q := m >>> sh
  let r := m % 2 ^ sh
  let up :=
    match rm with
    | 0 => decide (2 ^ sh < 2 * r) || (decide (2 * r = 2 ^ sh) && decide (0 < sh) && decide (q % 2 = 1))
    | 1 => false
    | 2 => !neg && decide (0 < r)
    | _ => neg && decide (0 < r)
  if up then q + 1 else q

/-- The magnitude encoding of m · 2^e rounded with unbounded exponent and subnormals kept (R50); beyond `maxEnc` it has
overflowed. -/
def roundMag (p : FloatFmt) (rm : Nat) (neg : Bool) (m : Nat) (e : Int) : Nat :=
  if m = 0 then 0
  else
    let qmin := 1 - p.bias - p.mbits
    let q := max (e + (Nat.log2 m : Int) - p.mbits) qmin
    let n := if q ≤ e then m * 2 ^ (e - q).toNat else roundShift rm neg m (q - e).toNat
    (q - qmin).toNat * 2 ^ p.mbits + n

/-- A sign and a magnitude encoding. -/
def withSign (p : FloatFmt) (neg : Bool) (mag : Nat) : Nat := if neg then 2 ^ (p.width - 1) + mag else mag

/-- The encoding of a value in a floating format, in a rounding mode and an overflow mode (R50). -/
def toFloat (p : FloatFmt) (rm : Nat) (ieee : Bool) : XVal → Nat
  | .nan => p.nan
  | .inf neg =>
    if ieee then
      match p.inf with
      | some i => withSign p neg i
      | none => if p.ovNan then p.nan else withSign p neg p.maxEnc
    else withSign p neg p.maxEnc
  | .fin neg m e =>
    let mag := roundMag p rm neg m e
    if mag ≤ p.maxEnc then withSign p neg mag
    else if ieee then
      match p.inf with
      | some i =>
        if rm = 0 ∨ (rm = 2 ∧ neg = false) ∨ (rm = 3 ∧ neg = true) then withSign p neg i else withSign p neg p.maxEnc
      | none => if p.ovNan then p.nan else withSign p neg p.maxEnc
    else withSign p neg p.maxEnc

/-- A finite value rounded to an integer in a mode. -/
def roundInt (rm : Nat) (neg : Bool) (m : Nat) (e : Int) : Int :=
  let n := if 0 ≤ e then m * 2 ^ e.toNat else roundShift rm neg m (-e).toNat
  if neg then -(n : Int) else n

/-- A floating source into an integer target (R51): rounding, saturation in either overflow mode, NaN to 0. -/
def toIntSat (sg : Bool) (w rm : Nat) : XVal → Nat
  | .nan => 0
  | .inf neg => wrapInt w (if neg then intLo sg w else intHi sg w)
  | .fin neg m e => wrapInt w (clampInt (intLo sg w) (intHi sg w) (roundInt rm neg m e))

/-- An integer source into an integer target (R51): under IEEE the low bits where it does not fit. -/
def toIntKeep (sg : Bool) (w rm : Nat) (ieee : Bool) (v : XVal) : Nat :=
  match v with
  | .fin neg m e =>
    let n := roundInt rm neg m e
    if ieee then wrapInt w n else wrapInt w (clampInt (intLo sg w) (intHi sg w) n)
  | _ => toIntSat sg w rm v

/-- Into E8M0 (R52). -/
def toE8M0 : XVal → Nat
  | .nan => 255
  | .inf _ => 255
  | .fin _ m e => if m = 0 then 0 else (clampInt 0 254 (e + (Nat.log2 m : Int) + 127)).toNat

/-- RoundTo (R58): IEEE overflow; an integer format saturates. -/
def roundTo (f : Nat) (rm : Nat) (v : XVal) : Nat :=
  match floatFmt f with
  | some p => toFloat p rm true v
  | none =>
    match intFmt f with
    | some (sg, w) => toIntSat sg w rm v
    | none => toE8M0 v

/-- RoundNE(FP32, v). -/
def roundF32 (v : XVal) : Nat := roundTo 10 0 v

/-- ConvertValue (R154): a value treated as a floating source, whatever it came from. -/
def convertValue (tgt rm : Nat) (ieee : Bool) (v : XVal) : Nat :=
  match floatFmt tgt with
  | some p => toFloat p rm ieee v
  | none =>
    match intFmt tgt with
    | some (sg, w) => toIntSat sg w rm v
    | none =>
      match mxFrac tgt with
      | some k => toIntSat true (fmtWidth tgt) rm (xscale k v)
      | none => toE8M0 v

/-- The pairs of R49 that keep an infinity: any format into FP32, E5M2 into FP16 and BF16 (log entry 11). -/
def infKept (src tgt : Nat) : Bool := decide (tgt = 10) || (decide (src = 7) && (decide (tgt = 8) || decide (tgt = 9)))

/-- Convert (R154). -/
def convert (src tgt rm : Nat) (ieee : Bool) (x : Nat) : Nat :=
  let v := widen src x
  match intFmt src with
  | none => convertValue tgt rm (ieee || infKept src tgt) v
  | some _ =>
    match intFmt tgt with
    | some (sg, w) => toIntKeep sg w rm ieee v
    | none =>
      match mxFrac tgt with
      | some k => toIntKeep true (fmtWidth tgt) rm ieee (xscale k v)
      | none => convertValue tgt rm ieee v

/-- A floating encoding's place in the order in which −0 lies below +0; NaN has none (R146). -/
def floatKey (p : FloatFmt) (x : Nat) : Option Int :=
  let mag := x % 2 ^ (p.width - 1)
  if p.maxEnc < mag ∧ p.inf ≠ some mag then none
  else if 2 ^ (p.width - 1) ≤ x % 2 ^ p.width then some (-(mag : Int) - 1) else some mag

/-- A floating encoding's place in the numeric order, in which the zeros are equal (R148). -/
def floatOrd (p : FloatFmt) (x : Nat) : Option Int :=
  (floatKey p x).map (fun k => if k < 0 then k + 1 else k)

/-- The minimum or maximum of R146 on encodings. -/
def floatPick (p : FloatFmt) (max : Bool) (x y : Nat) : Nat :=
  match floatKey p x, floatKey p y with
  | some a, some b => if decide (a < b) = max then y else x
  | _, _ => p.nan

/-- The minimum or maximum of a format's elements: signed, unsigned or floating (R141, R146, R150, R180, R192). -/
def fmtPick (f : Nat) (max : Bool) (x y : Nat) : Nat :=
  match floatFmt f with
  | some p => floatPick p max x y
  | none =>
    match intFmt f with
    | some (sg, w) => if decide (intVal sg w x < intVal sg w y) = max then y else x
    | none => x

/-! Elements of a field. -/

/-- Element i of width w of a field (R136), as a number. -/
def elem (w : Nat) (x i : Nat) : Nat := x / 2 ^ (w * i) % 2 ^ w

/-- The field whose element i of width w is `f i` for i below n, all bits above zero (R136). -/
def packElems (w n : Nat) (f : Nat → Nat) : Nat :=
  (List.range n).foldr (fun i acc => f i % 2 ^ w + 2 ^ w * acc) 0

/-- `packElems` from index i on, over a list. -/
def packList (w : Nat) : List Nat → Nat
  | [] => 0
  | x :: rest => x % 2 ^ w + 2 ^ w * packList w rest

/-- The n elements of width w of a field. -/
def elems (w n x : Nat) : List Nat := (List.range n).map (elem w x)

/-- The bytes of a number, n of them, little-endian (R5). -/
def bytesOf (n x : Nat) : List Byte := (List.range n).map (fun i => BitVec.ofNat 8 (x / 2 ^ (8 * i)))

/-- The number that bytes hold, little-endian (R5). -/
def natOf : List Byte → Nat
  | [] => 0
  | b :: rest => b.toNat + 256 * natOf rest

end Sys2Proof.Machine
end

