-- ==== Sys2Proof/Machine/State.lean ====
section
/-! DEFINITION. The state of the SX7 as plain data: 256 cores with their compute and firmware contexts and engines, the
HBM channels, the flash tier, the front end, the host side and the module controls (INVENTORY.md, State). Times are
absolute GCOUNT cycles held as numbers; a heat cycle is GCOUNT less the heat's origin (R8, R211). -/

namespace Sys2Proof.Machine

/-- Why a machine stops. -/
inductive Fault where
  /-- Raised by a slot operation that is not well formed or names a rotating register that no ring holds, when it is run
  other than through a bundle's issue, where the illegal-encoding trap of R32 and R238 comes first. Safe: the part never
  runs one. -/
  | illFormed (i : Instr)
deriving DecidableEq, Repr

/-- Why a step has no meaning. -/
inductive Refusal where
  /-- Raised by an arm of the dispatch whose instruction has no meaning yet. Safe. -/
  | notModelled (mnemonic : String)
deriving DecidableEq, Repr

/-- Bytes by address, in canonical form: addresses strictly rising, no entry equal to what an unlisted address reads
as, which is `Memory.blank`. -/
abbrev Memory := List Host.Cell

/-- What an address that nothing has written reads as: zero (R213 for the scratchpad, R302 for the flash tier; the
model's choice elsewhere, log entry 3). -/
def Memory.blank : Byte := 0

/-- The canonical form of a memory. -/
def Memory.wf (m : Memory) : Bool := Sparse.wf Memory.blank m

/-- A tile (R161): element (i, j) is bits 32(32i + j) up, its poison bit is bit 32i + j. -/
structure Tile where
  bits : BitVec 65536
  poison : BitVec 2048
deriving DecidableEq, Repr

/-- A barrier (R199) with the update of the cycle it was last touched in kept apart (R200): `delta` and `post` are the
posts and arrivals of cycle `at_`, `doneAt` the cycle of the last completion. -/
structure Barrier where
  phase : Bool
  posted : Bool
  count : BitVec 48
  at_ : Nat
  delta : Int
  post : Bool
  doneAt : Option Nat
deriving DecidableEq, Repr

/-- A register update that lands (R26, R27). -/
inductive Eff where
  | sreg (n : Nat) (v : Word64)
  | qreg (n : Nat) (v : Bool)
  | vreg (n : Nat) (mask : BitVec 256) (v : VReg)
  | kreg (n : Nat) (v : Word64)
  | wreg (n : Nat) (mask : BitVec 256) (v : BitVec 256)
  | stream (n : Nat) (fsel : Nat) (v : Word64)
  | step (tile : Nat) (id : Nat) (zeroing : Bool)
  | rows (tile : Nat) (rg : Nat) (v : VReg)
  | tileSet (tile : Nat) (t : Tile)
  | tileClear (tile : Nat)
  | carry (n : Nat) (v : BitVec 2080)
  | sysreg (n : Nat) (v : Word64)
  | fwreg (n : Nat) (v : Word64)
  | post (bar : Nat) (n : Nat)
  | token (queue : Nat) (token : BitVec 32)
deriving DecidableEq, Repr

/-- A result on its way to its register. `gufl` marks a unit of an `ASCAN` one of whose compositions flushed (R27). -/
structure Pending where
  at_ : Nat
  slot : Slot
  issued : Nat
  fw : Bool
  gufl : Bool
  eff : Eff
deriving DecidableEq, Repr

/-- A matrix step of the bundle at `pos` of segment `seg` between its operand reads and its landing (R166). -/
structure StepRun where
  fmt : Nat
  scaleA : List (Option (BitVec 8))
  scaleB : List (Option (BitVec 8))
  a : Option VReg
  b : Option VReg
  poison : Bool
  pos : Nat
  seg : Nat
deriving DecidableEq, Repr

/-- What a bank access does when it reads or performs. -/
inductive BankOp where
  | vload (d : Nat)
  | vstore (v : VReg)
  | sload (d : Nat)
  | sstore (v : Word64)
  | gather (d : Nat) (w : Nat) (idx : VReg)
  | scatter (v : VReg) (w : Nat) (idx : VReg)
  | kload (k : Nat)
  | kstore (v : Word64)
  | stepA (step : Nat)
  | stepB (step : Nat)
  | atom (isAtom : Bool) (fmt : Nat) (op : Nat) (x : BitVec 32) (old : Option (BitVec 32))
  | command (kind : Nat)
  | fenceWord (scope : Nat)
  | callStore (hdr idx : Nat)
  | callLoad
  | vstn (v : VReg)
  | copySrc (id tile : Nat)
  | copyDst (id tile : Nat)
  | piece (id p : Nat)
  | crucData (id : Nat)
deriving DecidableEq, Repr

/-- A static access to a core's scratchpad: the banks it occupies from `first` to `last` (R22), its requester code,
issue cycle and source core (R23), and the first cycle in which it met a conflict. -/
structure Access where
  id : Nat
  code : Nat
  issue : Nat
  src : Nat
  banks : BitVec 16
  addr : Nat
  first : Nat
  last : Nat
  conflictAt : Option Nat
  pos : Nat
  seg : Nat
  op : BankOp
deriving DecidableEq, Repr

/-- The domains of a compute context (R225), and a context stopped by a trap or at a cut. -/
inductive Domain where
  | notStarted | static | dynamic | halted | stopped
deriving DecidableEq, Repr

/-- An active loop (R108, R109): level, entry, count N, stages S, kernel iteration j, first iteration after a resume,
body of `body` bundles from position `start`, and what the loop-table entry gives (R106). -/
structure LoopRec where
  lvl : Nat
  entry : Nat
  n : Nat
  orig : Nat
  s : Nat
  j : Nat
  j0 : Nat
  start : Nat
  body : Nat
  kind : Nat
  ibase : Nat
  istep : Nat
  cutstr : Nat
  rings : List (Nat × Nat)
deriving DecidableEq, Repr

/-- Where a branch goes: a segment by its header address and a bundle index; `raw` is the value that named it; `away` when
it names the segment after the chain's last, which does not exist (R98, R102, R105). -/
structure Target where
  hdr : Nat
  idx : Nat
  raw : Word64
  away : Bool
deriving DecidableEq, Repr

/-- What holds back the next bundle (R117 to R119, R195, R202). -/
inductive Hold where
  | none
  | until_ (t : Nat)
  | waitd (bar : Nat) (since : Option Nat) (deadline : Nat) (pos seg : Nat)
  | waita (bar : Nat) (since : Option Nat)
  | align (p : Nat)
  | cfence (issue : Nat) (scope : Nat) (word : Option Nat)
  | fence (issue : Nat) (sys : Bool)
  | halt
  | trapped
deriving DecidableEq, Repr

/-- A fault met by expansion or by a branch, raised when its position would issue (R97, R98). -/
structure ExpRecord where
  token : Bool
  pos : Nat
  cause : Nat
  hdr : Nat
  off : Nat
  va : Nat
deriving DecidableEq, Repr

/-- The sequencer of a compute context: the half and position of the next bundle, the cycle in which it is due, the pending
branch with the bundles still to issue before it, a fault to raise at the next issue, the active loops (innermost first),
the indices of finished levels, the effective cut of the last parting line, what holds the next bundle back (a CTL wait and
a MEM wait), bundles to skip, the last issue cycle, and the stop position of a pre-emption with the cycle in which its bundle
was due; `parted` once a parting line has issued, `resumed` while the line a loop resumed at is still to issue (R251),
`stopFrom` the cycle from which a trap bars the core's issue (R241), `dynSince` the cycle from which the core is in the
dynamic domain (R118, R225). -/
structure Seq where
  dom : Domain
  half : Bool
  pos : Nat
  due : Nat
  branch : Option (Target × Nat)
  bad : Option ExpRecord
  loops : List LoopRec
  idx : Sparse Nat
  lastCut : Nat
  hold : Hold
  memHold : Hold
  skip : Nat
  lastIssue : Option Nat
  stopLine : Option (Nat × Nat)
  stopAt : Nat
  parted : Bool
  resumed : Bool
  stopFrom : Option Nat
  dynSince : Option Nat
deriving DecidableEq, Repr

/-- One half of the loop buffer (R92): the segment it holds and how far expansion has come. -/
structure Half where
  valid : Bool
  hdr : Nat
  next : Nat
  lastSeg : Bool
  bundles : List Bundle
  rec_ : Option ExpRecord
  bytes : List Byte
  busy : Bool
  endOff : Nat
deriving DecidableEq, Repr

/-- A region of a core's region table (R215). -/
structure Region where
  addr : Nat
  size : Nat
  hreg : Nat
  group : Nat
  space : Nat
  preserve : Bool
deriving DecidableEq, Repr

/-- A pour descriptor with its index table and listed removals (R255, R256). -/
structure PourDesc where
  d : BitVec 1024
  index : List (BitVec 128)
  list : List Nat
deriving DecidableEq, Repr

/-- A parting-line entry (R222). -/
structure PartLine where
  cut : Nat
  livem : BitVec 32
  livev : BitVec 1024
deriving DecidableEq, Repr

/-- A `TAKE` accepted for a block of a running pour (R190, R263). -/
structure Take where
  block : Nat
  dst : Nat
  issue : Nat
  pos : Nat
  seg : Nat
deriving DecidableEq, Repr

/-- A block that an expander at L0 to L2 has expanded (R265, R270): its bytes, the reason of a corruption, the size
error, and the bytes its expansion produced. -/
structure Expanded where
  bytes : List Byte
  corrupt : Nat
  sizeErr : Nat
  produced : Nat
deriving DecidableEq, Repr

/-- A request of a pour from the pooled memory device (R262, R305, R306): tundish bytes from `off` on, the bytes of the stream it
names, and where they lie on that device, or, with none, that it is parked under a tag (R253); `late` from the moment it parks
until it performs. -/
structure PourReq where
  off : Nat
  len : Nat
  src : Nat
  srcLen : Nat
  at_ : Option Nat
  tag : Nat
  late : Bool
deriving DecidableEq, Repr

/-- A pour accepted by a core (R258, R259, R262, R267): the intake it runs in from `start` on, its first block, the next block
to be removed and to be expanded upstream, the next arrival, the bytes that entered by stream offset and the ranges that
entered or were skimmed, how far bytes have been asked for and how many are on their way, the requests of a pour from space 3,
the ranges that counted at the barrier before the pour was started again (log entry 66), its takes, expanded blocks and slots,
the slot blocks of R279 still on their way, its barrier and its command; `closed` once its last block is removed. -/
structure PourRun where
  id : Nat
  intake : Nat
  desc : Nat
  start : Nat
  block : Nat
  next : Nat
  nextExp : Nat
  arrivals : Nat
  entered : Memory
  got : List (Nat × Nat)
  asked : Nat
  flying : Nat
  reqs : List PourReq
  counted : List (Nat × Nat)
  takes : List Take
  expanded : Sparse (Option Expanded)
  books : Sparse (List (List Byte))
  tables : Sparse (List Nat)
  preload : List Nat
  bar : Option Nat
  issue : Nat
  pos : Nat
  seg : Nat
  closed : Bool
deriving DecidableEq, Repr

/-- The expanded bytes of a removed block on their way to the scratchpad (R263), with the size error its expansion met and
what identifies the block in an event (R270, R271). -/
structure PieceRun where
  id : Nat
  dst : Nat
  bytes : List Byte
  first : Nat
  np : Nat
  poison : Bool
  err : Nat
  produced : Nat
  trap : Bool
  tag : Nat
  issue : Nat
  pos : Nat
  seg : Nat
deriving DecidableEq, Repr

/-- A copy accepted by the copy engine (R185 to R188); `read` holds the tiles between their read and their perform cycle as
destination bytes with the bits that are written and their values. -/
structure CopyRun where
  id : Nat
  rec_ : BitVec 1024
  issue : Nat
  start : Nat
  tiles : Nat
  pos : Nat
  seg : Nat
  read : Sparse (List (Nat × Byte × Byte))
deriving DecidableEq, Repr

/-- A 64-byte unit an `RD` delivered to a core's engine (R290), with the STALE flag (R295). -/
structure Delivery where
  at_ : Nat
  pa : Nat
  data : BitVec 512
  pour : Bool
  stale : Bool
deriving DecidableEq, Repr

/-- Bits of a byte of HBM that a copy has performed, waiting for the `WR` that carries them (R187, R290). -/
structure OutByte where
  at_ : Nat
  pa : Nat
  mask : Byte
  val : Byte
deriving DecidableEq, Repr

/-- A crucible command (R191, R193): `pa` is the target, `fin` the last cycle of the window that executes it. -/
structure CrucCmd where
  id : Nat
  kind : Nat
  core : Nat
  rec_ : BitVec 1024
  issue : Nat
  start : Nat
  arrival : Nat
  pa : Nat
  data : List Byte
  sent : Bool
  fin : Option Nat
  pos : Nat
  seg : Nat
deriving DecidableEq, Repr

/-- The state of one request of a `PUT` or `GET` (R197, R253): sent, parked with a tag, performed at the local end,
accepted by the far side. -/
inductive ReqState where
  | sent | parked (tag : Nat) (va : Nat) | local_ | done
deriving DecidableEq, Repr

/-- A request of a `PUT` or `GET`: its bytes by their offset in the transfer, its parts still to be read or performed at the
near side, by their offsets, where it lies in the memory of the far side, its state, and the data it carries. -/
structure Req where
  off : Nat
  len : Nat
  todo : List Nat
  farAt : Nat
  st : ReqState
  data : List Byte
deriving DecidableEq, Repr

/-- A `PUT` or `GET` in progress (R196, R197), or, when `remote`, bytes that a peer sent. `heatId` is HEATID of the heat that
issued it (R359). -/
structure DynCmd where
  id : Nat
  get : Bool
  remote : Bool
  rec_ : BitVec 1024
  issue : Nat
  start : Nat
  next : Nat
  reqs : List Req
  stepOpen : Bool
  began : Bool
  heatId : Nat
  pos : Nat
  seg : Nat
deriving DecidableEq, Repr

/-- A completion bit that is due (R218). -/
structure BitDue where
  group : Nat
  iter : Nat
  core : Nat
  at_ : Nat
deriving DecidableEq, Repr

/-- A completion bit on its way to its bitmap (R218): the partition, and the heat by its origin, that completed the iteration, the
cycle in which the bit is written, and the physical byte that holds it. -/
structure BitWrite where
  part : Nat
  heat : Nat
  group : Nat
  iter : Nat
  at_ : Nat
  pa : Option Nat
deriving DecidableEq, Repr

/-- What a restart mark shadows (R68, R243): the sequencer with its streams, and the heat, by its origin, in which the mark
issued. -/
structure Shadow where
  heat : Nat
  seq : Seq
  a : Sparse (BitVec 128)
  sched : Int
  sigma : Nat
  segHdr : Nat
  y : Sparse (BitVec 2080)
  bar : Sparse Barrier
  pours : List PourRun
deriving DecidableEq, Repr

/-- The states of a firmware context (R121, R326, R350). -/
inductive FwMode where
  | off | running | waiting | chilled | stopped
deriving DecidableEq, Repr

/-- A MEM operation a firmware context waits for, with its bundle's position (R176, R203). -/
structure FwMem where
  instr : Instr
  pos : Nat
  addr : Word64
  value : Word64
  issued : Nat
deriving DecidableEq, Repr

/-- A firmware context (R323 to R327): registers, memories with their positions in ECC error, position, the value that named a
position beyond the code (R324), next issue cycle, the pending branch, the positions its calls return to (log entry 13), the code of a `TRAP` of its current bundle, the
position a `FRET` resumes at, mode, its system registers (R325), the share window, and the MEM operation it waits for. -/
structure FwCtx where
  s : Sparse Word64
  q : BitVec 16
  imem : Memory
  dmem : Memory
  badI : List Nat
  badD : List Nat
  pos : Nat
  away : Option Word64
  due : Nat
  branch : Option (Target × Nat)
  calls : List Nat
  trapped : Option Nat
  resume : Option Nat
  mode : FwMode
  fvec : Word64
  fepc : Word64
  fcause : Word64
  fpend : BitVec 7
  fenable : BitVec 7
  fshare : Nat
  fxaddr : Word64
  window : Nat
  issuedIn : Nat
  mem : Option FwMem
deriving DecidableEq, Repr

/-- A core: compute context, engines, firmware context. `badReg` holds the registers and accumulators whose contents have an
uncorrectable ECC error, by file (0 s, 1 q, 2 v, 3 k, 4 w, 5 m, 6 y) and number, and `badSpad` the bytes of the scratchpad that
have one (R239, class 8). -/
structure Core where
  s : Sparse Word64
  v : Sparse VReg
  k : Sparse Word64
  m : Sparse Tile
  y : Sparse (BitVec 2080)
  q : BitVec 16
  w : Sparse (BitVec 256)
  a : Sparse (BitVec 128)
  sstat : Word64
  csp : Word64
  csbase : Word64
  slimit : Word64
  bar : Sparse Barrier
  lq : List Word64
  lqOut : Nat
  spad : Memory
  poison : List Nat
  seq : Seq
  half0 : Half
  half1 : Half
  dict : Sparse (Option Bundle)
  loopTab : Sparse (Option (BitVec 192))
  loopGrp : Sparse Nat
  regions : List Region
  pours : Sparse (Option PourDesc)
  parts : List PartLine
  shadow : Option Shadow
  pend : List Pending
  acc : List Access
  nextId : Nat
  steps : Sparse (Option StepRun)
  copies : List CopyRun
  deliv : List Delivery
  outq : List OutByte
  runs : List PourRun
  pieces : List PieceRun
  cruc : List CrucCmd
  dyn : List DynCmd
  bitsDue : List BitDue
  started : Bool
  task : Bool
  startAt : Nat
  spanTrap : Bool
  badReg : List (Nat × Nat)
  badSpad : List Nat
  fw : FwCtx
deriving DecidableEq, Repr

/-- A host AtomicOp waiting in the mailbox engine (R233): the link over which its completion is owed (R338), and whether no
timeline ran on its channel at its apply cycle. -/
structure HostAtomic where
  fn : Nat
  op : AtomicKind
  size : Nat
  pa : Nat
  x : Nat
  cmp : Nat
  apply : Nat
  link : Option LinkName
  free : Bool
deriving DecidableEq, Repr

/-- A DRAM bank (R287, R288, R296): open row, last commands, window, lent slot, the crucible's queue and its AtomicOps. -/
structure Bank where
  row : Option Nat
  act : Option Nat
  rd : Option Nat
  wr : Option Nat
  pre : Option Nat
  ref : Option Nat
  window : Option (Nat × Nat)
  lent : Option Nat
  queue : List (Nat × Nat)
  busy : Nat
  atomics : List HostAtomic
deriving DecidableEq, Repr

/-- An HBM channel (R283 to R296): banks, per pseudo-channel the last ACTs and column commands, the open service slot, the
cycle from which every row group counts as refreshed, the deadlines that differ from it, the last `REFPB` of each row group,
and the stale row groups, keyed by 8192 x bank + group. -/
structure Channel where
  bank : Sparse Bank
  acts0 : List Nat
  acts1 : List Nat
  rd0 : Option Nat
  rd1 : Option Nat
  wr0 : Option Nat
  wr1 : Option Nat
  svc : Option (Nat × Nat × BitVec 32)
  refreshed : Nat
  deadline : Sparse Nat
  refAt : Sparse (Option Nat)
  stale : List Nat
deriving DecidableEq, Repr

/-- The ECC state of a line of HBM (R299). -/
inductive Ecc where
  | good | single | uncorrectable
deriving DecidableEq, Repr

/-- The metadata of a 64-byte line (R299): key version, the key it was written under, none before its first
write, ECC, poison mark, and whether its ciphertext still matches its tag. -/
structure LineMeta where
  ver : BitVec 2
  key : Option (BitVec 512)
  ecc : Ecc
  poison : Bool
  intact : Bool
deriving DecidableEq, Repr

/-- A heat's life (R211, R219, R241 to R251). -/
inductive HeatPhase where
  | none | arming | armed | running | stopping | trapped | atCut | ended
deriving DecidableEq, Repr

/-- A trigger entry (R220). -/
structure Trigger where
  queue : Nat
  token : BitVec 32
  fired : Bool
deriving DecidableEq, Repr

/-- A spatial group (R217). -/
structure Group where
  g : Nat
  kind : Nat
  n : Nat
  mask : BitVec 256
  cdly : Nat
  cbase : Nat
deriving DecidableEq, Repr

/-- A channel timeline of a heat (R284, R285, R293). -/
structure Timeline where
  ch : Nat
  end_ : Nat
  entries : List (BitVec 128)
  elide : List (BitVec 128)
deriving DecidableEq, Repr

/-- What a cut saves of one core (R250); the layout of the save area is the front end's own (R328). -/
structure SavedCore where
  core : Nat
  seq : Seq
  sched : Int
  sigma : Nat
  segHdr : Nat
  halted : Bool
  s : Sparse Word64
  k : Sparse Word64
  q : BitVec 16
  w : Sparse (BitVec 256)
  y : Sparse (BitVec 2080)
  a : Sparse (BitVec 128)
  csp : Word64
  csbase : Word64
  slimit : Word64
  sstat : Word64
  bar : Sparse Barrier
  v : Sparse VReg
  m : Sparse Tile
  spad : Memory
  poison : List Nat
  pours : List PourRun
  bitsDue : List BitDue
deriving DecidableEq, Repr

/-- A heat of a partition. -/
structure Heat where
  phase : HeatPhase
  image : List Byte
  queue : Nat
  index : Nat
  packet : BitVec 512
  hasPacket : Bool
  origin : Nat
  sigma : Nat
  heatId : Nat
  lead : Nat
  cores : List Nat
  pins : Sparse Nat
  triggers : Sparse (Option Trigger)
  groups : List Group
  timelines : List Timeline
  stopS : Option Nat
  quiet : Option Nat
  byTrap : Bool
  trapCores : List Nat
  endStatus : Option Nat
  stopReq : Option Nat
  cutNext : Nat
  cutK : Option Nat
  place : List (Nat × Nat)
  muted : Bool
  saved : List SavedCore
  slipped : Bool
deriving DecidableEq, Repr

/-- A queue record (R316). -/
structure Queue where
  tnext : BitVec 64
  skips : BitVec 16
  tarm : Bool
  run : Bool
  err : Bool
  res : Bool
  part : BitVec 2
  log2n : BitVec 5
  met : BitVec 32
  tail : BitVec 32
  head : BitVec 32
  base : BitVec 60
deriving DecidableEq, Repr

/-- A completion on its way to publication (R320, R334); `released` when a fall of HOLD has let it go (R354). -/
structure Completion where
  queue : Nat
  index : Nat
  packet : BitVec 512
  status : Nat
  gc : Nat
  heatId : Nat
  part : Nat
  muted : Bool
  released : Bool
deriving DecidableEq, Repr

/-- A hardware journal record that waits for room, with what follows it (R333). -/
structure HeldRec where
  typ : Nat
  w0 : Word64
  w1 : Word64
  completion : Option Completion
deriving DecidableEq, Repr

/-- Where an evaluation of the doorbell filter begins: with a tail that a doorbell writes (R321), with the queue's own tail
rewritten unchanged, as a token has it (R319), or with the read of packet HEAD (R353). -/
inductive EvalFrom where
  | written (t : BitVec 32)
  | rewritten
  | read
deriving DecidableEq, Repr

/-- An evaluation of the doorbell filter that is not over (R321): where it goes on from, behind an earlier evaluation of its
queue or from cycle `due` on; `wake` is false for a re-evaluation port (R353), `link` the link that delivered a doorbell (R338),
`got` the packet it has read, with its index, while the header of its image waits for a service slot (R291). -/
structure FeEval where
  queue : Nat
  from_ : EvalFrom
  wake : Bool
  due : Nat
  link : Option LinkName
  got : Option (BitVec 32 × Nat)
deriving DecidableEq, Repr

/-- A timer release that is not over (R330): its TNEXT; whether it launches or counts a skip, none while that is not yet tested;
and the packet it has read, as for an evaluation. -/
structure Release where
  queue : Nat
  tnext : BitVec 64
  launches : Option Bool
  got : Option (BitVec 32 × Nat)
deriving DecidableEq, Repr

/-- A heat's save area while its bytes are written in service slots (R250, R291, R328): what is left of it. -/
structure SaveRun where
  part : Nat
  va : Nat
  left : Nat
deriving DecidableEq, Repr

/-- The front end (R315 to R336): `evals` are the filter's evaluations under way, `releases` the timer releases, `pubs` the
completions whose completion word waits for a service slot, `saves` the save areas being written, `resets` the functions whose
reset is not complete (R338). -/
structure FrontEnd where
  queues : Sparse Queue
  kick : List Nat
  hold : Bool
  sched : Nat
  jbase : Word64
  jtail : Nat
  jlow : Word64
  jseq : Nat
  heldRecs : List HeldRec
  heldDone : List Completion
  evals : List FeEval
  releases : List Release
  pubs : List Completion
  saves : List SaveRun
  resets : List Nat
  dead : Bool
  deadFw : List Nat
deriving DecidableEq, Repr

/-- A log request in the log engine (R331): of firmware in core `core`, or, with 256, of the management function, submitted in cycle
`since`; `unread` while its block is still to be read; `got` holds what it has read so far, the latest first (R364). -/
structure LogReq where
  id : Nat
  core : Nat
  block : Nat
  kind : Nat
  src : Nat
  pages : Nat
  module : Nat
  part : Nat
  since : Nat
  unread : Bool
  got : List (List Byte)
deriving DecidableEq, Repr

/-- A directory record of the flash log (R303), with its module. -/
structure DirRec where
  module : Nat
  bits : BitVec 512
deriving DecidableEq, Repr

/-- The flash tier (R302, R303): bytes, the appended pages of each module's tail, sequence numbers and directory. -/
structure Flash where
  mem : Memory
  tail : Sparse Nat
  seq : Sparse Nat
  dir : List DirRec
deriving DecidableEq, Repr

/-- The patrol of a partition (R300, R301). -/
structure Patrol where
  passes : BitVec 32
  next : BitVec 2
  cur : BitVec 2
  state : BitVec 2
  line : Nat
  stopping : Bool
deriving DecidableEq, Repr

/-- What a mailbox access does (R232, R233, R339). -/
inductive MailOp where
  | write (off : Nat) (data : List Byte)
  | read (off len : Nat)
  | atomic (off : Nat) (op : AtomicKind) (size x cmp : Nat)
deriving DecidableEq, Repr

/-- A mailbox access received and not yet applied, with the link that delivered it (R232, R338). -/
structure MailAccess where
  src : HostFn
  op : MailOp
deriving DecidableEq, Repr

/-- The attestation unit (R347): the key's next index, the index taken for the request served now, the waiting requests, and
what each function's ATTREQ and quote read. -/
structure Attest where
  index : Nat
  taken : Option Nat
  waiting : List (Nat × BitVec 256)
  status : Sparse Nat
  quotes : Sparse (List Byte)
deriving DecidableEq, Repr

/-- The management controls (R341, R358, R363, R348). `inval` is what INVAL_p reads, `invalQ` the addresses written to it that
not every die has finished (R344). -/
structure Mgmt where
  pmode : Word64
  priv : Word64
  reqsig : Word64
  linkb : Word64
  linkbActive : Bool
  bootstat : Word64
  ttbase : Sparse Word64
  inval : Sparse Word64
  invalQ : Sparse (List Word64)
  keybuf : BitVec 512
  vmap : Sparse Word64
  trust : Sparse (BitVec 544)
  keys : Sparse (Option (BitVec 512))
  errlog : Sparse (BitVec 3)
  extents : Sparse Word64
  linkA : Nat
  linkB : Nat
  absent : List (UnitKind × Nat)
  absentNext : List (UnitKind × Nat)
  inletWarn : Bool
  inReset : Bool
deriving DecidableEq, Repr

/-- Device time and the trace rings (R357 to R361). `f` is the rate correction in parts per 10^9; `slew` and `slewAt` are
where DTIME stood when the servo last corrected it; `queue` holds the records not yet written, each with its die and its
event cycle. -/
structure Trace where
  dt0 : Nat
  g0 : Nat
  f : Int
  slew : Nat
  slewAt : Nat
  tsrc : Word64
  peerid : Word64
  peertab : Word64
  base : Sparse Word64
  head : Sparse Nat
  tail : Sparse Nat
  drop : Sparse Nat
  mask : Sparse (BitVec 32)
  pendDrop : Sparse Nat
  queue : List (Nat × Nat × BitVec 256)
deriving DecidableEq, Repr

/-- What the device shows the outside world: the model's own record of it. -/
inductive Output where
  | interrupt (vi queue : Nat)
  | readDone (fn : Nat) (data : List Byte)
  | unsupported (fn : Nat)
  | atomicDone (fn : Nat) (old : Nat)
  | notice (code core : Nat)
  | peerBytes (peer core bar addr : Nat) (data : List Byte)
  | register (fn : Nat) (v : Nat)
  | resetDone (fn : Nat)
  | rejected (part unit_ entry rule : Nat)
  | pourRejected (part core desc : Nat) (underflow : Bool) (index at_ : Nat)
deriving DecidableEq, Repr

/-- An entry of the agenda: what happens, and at which GCOUNT cycle. -/
structure Event where
  at_ : Nat
  instr : Instr
deriving DecidableEq, Repr

/-- Whose operation a slot operation is: the core, and whether its firmware context's; and the bundle it stands in. -/
structure Ctx where
  core : Nat
  fw : Bool
  pos : Nat
  seg : Nat
deriving DecidableEq, Repr

/-- The state of the device. -/
structure State where
  gcount : Nat
  agenda : List Event
  cur : Ctx
  slots : List Instr
  issuing : Option Nat
  choice : Nat
  cores : Sparse Core
  heats : Sparse Heat
  parked : List (Nat × Heat)
  hbm : Memory
  lines : Sparse LineMeta
  bits : List BitWrite
  chans : Sparse Channel
  flash : Flash
  logq : List LogReq
  nextLog : Nat
  host : Memory
  peer : Memory
  cxl : Memory
  fe : FrontEnd
  patrol : Sparse Patrol
  mgmt : Mgmt
  cache : List (Nat × Nat × Nat)
  mail : List MailAccess
  attest : Attest
  fwImage : List Byte
  trace : Trace
  out : List Output
deriving DecidableEq, Repr

/-- An address stream at reset (R19): LV2 = 2, LV1 = 1, LV0 = 0, every other field 0. -/
def streamReset : BitVec 128 := BitVec.ofNat 128 (2 * 2 ^ 111 + 1 * 2 ^ 108)

/-- A carry register at reset (R62): the identity map in all 32 columns. -/
def carryReset : BitVec 2080 :=
  BitVec.ofNat 2080 ((List.range 32).foldl (fun acc j => acc + 0x3F800000 * 2 ^ (65 * j)) 0)

/-- A barrier at launch (R199). -/
def barrierReset : Barrier :=
  { phase := false, posted := false, count := 0, at_ := 0, delta := 0, post := false, doneAt := none }

/-- A tile at launch (R161). -/
def tileReset : Tile := { bits := 0, poison := 0 }

/-- A loop-buffer half that holds no segment. -/
def halfReset : Half :=
  { valid := false, hdr := 0, next := 0, lastSeg := false, bundles := [], rec_ := none, bytes := [], busy := false,
    endOff := 0 }

/-- A sequencer with no task. -/
def seqReset : Seq :=
  { dom := .notStarted, half := false, pos := 0, due := 0, branch := none, bad := none, loops := [], idx := [],
    lastCut := 0, hold := .none, memHold := .none, skip := 0, lastIssue := none, stopLine := none, stopAt := 0,
    parted := false, resumed := false, stopFrom := none, dynSince := none }

/-- A firmware context before boot; FSHARE is 256 at reset (R325). -/
def fwReset : FwCtx :=
  { s := [], q := 0, imem := [], dmem := [], badI := [], badD := [], pos := 0, away := none, due := 0, branch := none, calls := [],
    trapped := none, resume := none, mode := .off,
    fvec := 0, fepc := 0, fcause := 0, fpend := 0, fenable := 0, fshare := 256, fxaddr := 0, window := 0, issuedIn := 0,
    mem := none }

/-- A core at device reset: the values of R213 and R62, which arming writes before any heat runs (log entry 2). -/
def coreReset : Core :=
  { s := [], v := [], k := [], m := [], y := [], q := 0, w := [], a := [], sstat := 0, csp := 0, csbase := 0,
    slimit := 0, bar := [], lq := [], lqOut := 0, spad := [], poison := [], seq := seqReset, half0 := halfReset,
    half1 := halfReset, dict := [], loopTab := [], loopGrp := [], regions := [], pours := [], parts := [], shadow := none, pend := [],
    acc := [], nextId := 0, steps := [], copies := [], deliv := [], outq := [], runs := [],
    pieces := [], cruc := [], dyn := [], bitsDue := [], started := false, task := false, startAt := 0,
    spanTrap := false, badReg := [], badSpad := [], fw := fwReset }

/-- A precharged bank with no window, slot or queued command (R312). -/
def bankReset : Bank :=
  { row := none, act := none, rd := none, wr := none, pre := none, ref := none, window := none, lent := none,
    queue := [], busy := 0, atomics := [] }

/-- A channel at reset (R312). -/
def channelReset : Channel :=
  { bank := [], acts0 := [], acts1 := [], rd0 := none, rd1 := none, wr0 := none, wr1 := none, svc := none,
    refreshed := 0, deadline := [], refAt := [], stale := [] }

/-- A line written by nobody: version 0, good (log entry 5). -/
def lineReset : LineMeta := { ver := 0, key := none, ecc := .good, poison := false, intact := true }

/-- A partition with no heat. -/
def heatReset : Heat :=
  { phase := .none, image := [], queue := 0, index := 0, packet := 0, hasPacket := false, origin := 0, sigma := 0,
    heatId := 0, lead := 0, cores := [], pins := [], triggers := [], groups := [], timelines := [], stopS := none,
    quiet := none, byTrap := false, trapCores := [], endStatus := none, stopReq := none, cutNext := 0, cutK := none,
    place := [], muted := false, saved := [],
    slipped := false }

/-- A queue record at reset (R316). -/
def queueReset : Queue :=
  { tnext := 0, skips := 0, tarm := false, run := false, err := false, res := false, part := 0, log2n := 0, met := 0,
    tail := 0, head := 0, base := 0 }

/-- PCTL at reset (R300): NEXT is 1, the rest 0. -/
def patrolReset : Patrol := { passes := 0, next := 1, cur := 0, state := 0, line := 0, stopping := false }

/-- The front end at reset (R332, R333). -/
def feReset : FrontEnd :=
  { queues := [], kick := [], hold := false, sched := 0, jbase := 0, jtail := 0, jlow := 0, jseq := 0, heldRecs := [],
    heldDone := [], evals := [], releases := [], pubs := [], saves := [], resets := [], dead := false, deadFw := [] }

/-- The management controls at reset (log entry 7). -/
def mgmtReset : Mgmt :=
  { pmode := 0, priv := 0, reqsig := 0, linkb := 0, linkbActive := false, bootstat := 0, ttbase := [], inval := [], invalQ := [],
    keybuf := 0, vmap := [], trust := [], keys := [], errlog := [], extents := [], linkA := 0, linkB := 0, absent := [],
    absentNext := [], inletWarn := false, inReset := false }

/-- Device time and the trace registers at reset (R358). -/
def traceReset : Trace :=
  { dt0 := 0, g0 := 0, f := 0, slew := 0, slewAt := 0, tsrc := 0, peerid := 0xFFFF, peertab := 0, base := [], head := [],
    tail := [], drop := [], mask := [], pendDrop := [], queue := [] }

/-- The machine right after reset. The boot ROM's reset sequence (R345) is the first step: the agenda's one entry. -/
def State.reset : State :=
  { gcount := 0, agenda := [{ at_ := 0, instr := .reset }], cur := { core := 0, fw := false, pos := 0, seg := 0 },
    slots := [], issuing := none, choice := 0, cores := [], heats := [], parked := [], hbm := [], lines := [], bits := [], chans := [],
    flash := { mem := [], tail := [], seq := [], dir := [] }, logq := [], nextLog := 0, host := [], peer := [], cxl := [],
    fe := feReset, patrol := [], mgmt := mgmtReset, cache := [], mail := [],
    attest := { index := 0, taken := none, waiting := [], status := [], quotes := [] }, fwImage := [], trace := traceReset, out := [] }

end Sys2Proof.Machine
end

