-- ==== Sys2Proof/Machine/Ops.lean ====
section
/-! DEFINITION. The named operations over the state: memories, registers, the agenda, translation, barriers, trace records
and events, wake causes, and taking a trap (R238 to R242), the one operation every trap of a compute context goes through. -/

namespace Sys2Proof.Machine

/-- What a step answers. -/
abbrev Result := Host.Outcome State Fault Refusal

/-! Memories (R5): bytes by address in canonical form. -/

/-- The byte at an address. -/
def Memory.read (m : Memory) (a : Nat) : Byte := sget Memory.blank m a

/-- A byte written. -/
def Memory.write (m : Memory) (a : Nat) (b : Byte) : Memory := sset Memory.blank m a b

/-- The entries of addresses a to a + n − 1. -/
def Memory.window (m : Memory) (a n : Nat) : Memory := m.filter (fun p => decide (a ≤ p.1) && decide (p.1 < a + n))

/-- n bytes from an address up. -/
def Memory.readBytes (m : Memory) (a n : Nat) : List Byte :=
  let w := m.window a n
  (List.range n).map (fun i => w.read (a + i))

/-- The listed entries of a run of bytes. -/
def cellsFrom : Nat → List Byte → Memory
  | _, [] => []
  | a, b :: rest => if b = Memory.blank then cellsFrom (a + 1) rest else (a, b) :: cellsFrom (a + 1) rest

/-- A run of bytes written from an address up. -/
def Memory.writeBytes (m : Memory) (a : Nat) (bs : List Byte) : Memory :=
  m.filter (fun p => decide (p.1 < a)) ++ cellsFrom a bs ++ m.filter (fun p => decide (a + bs.length ≤ p.1))

/-- n bytes as a little-endian number. -/
def Memory.readNat (m : Memory) (a n : Nat) : Nat := natOf (m.readBytes a n)

/-- A number written as n little-endian bytes. -/
def Memory.writeNat (m : Memory) (a n v : Nat) : Memory := m.writeBytes a (bytesOf n v)

/-- Bytes written at addresses of their own, later ones over earlier ones. -/
def Memory.writeList (m : Memory) (l : List (Nat × Byte)) : Memory := l.foldl (fun acc p => acc.write p.1 p.2) m

/-- A run of zero bytes. -/
def zeros (n : Nat) : List Byte := List.replicate n 0

/-! The parts of the state. -/

def State.core (s : State) (c : Nat) : Core := sget coreReset s.cores c
def State.setCore (s : State) (c : Nat) (k : Core) : State := { s with cores := sset coreReset s.cores c k }
def State.modCore (s : State) (c : Nat) (f : Core → Core) : State := s.setCore c (f (s.core c))
def State.heat (s : State) (p : Nat) : Heat := sget heatReset s.heats p
def State.setHeat (s : State) (p : Nat) (h : Heat) : State := { s with heats := sset heatReset s.heats p h }
def State.modHeat (s : State) (p : Nat) (f : Heat → Heat) : State := s.setHeat p (f (s.heat p))
def State.chan (s : State) (c : Nat) : Channel := sget channelReset s.chans c
def State.setChan (s : State) (c : Nat) (x : Channel) : State := { s with chans := sset channelReset s.chans c x }
def Channel.getBank (x : Channel) (b : Nat) : Bank := sget bankReset x.bank b
def Channel.setBank (x : Channel) (b : Nat) (v : Bank) : Channel := { x with bank := sset bankReset x.bank b v }
def State.bank (s : State) (c b : Nat) : Bank := (s.chan c).getBank b
def State.setBank (s : State) (c b : Nat) (v : Bank) : State := s.setChan c ((s.chan c).setBank b v)
def State.queue (s : State) (q : Nat) : Queue := sget queueReset s.fe.queues q
def State.setQueue (s : State) (q : Nat) (x : Queue) : State :=
  { s with fe := { s.fe with queues := sset queueReset s.fe.queues q x } }
def State.emit (s : State) (o : Output) : State := { s with out := s.out ++ [o] }

/-- The next value of the model's own counter of free values, and the state that has moved past it. -/
def State.draw (s : State) : Nat × State := (Config.delay s.choice, { s with choice := s.choice + 1 })

/-- The partition of a core (R315): partition 0 in whole-chip mode, the core's die in split mode. -/
def State.partOf (s : State) (c : Nat) : Nat := if s.mgmt.pmode = 0 then 0 else c / 64

/-- The heat cycle of the present cycle for a core (R8, R211). -/
def State.heatCycle (s : State) (c : Nat) : Int := (s.gcount : Int) - (s.heat (s.partOf c)).origin

/-- The GCOUNT cycle of a heat cycle, 0 for a cycle before GCOUNT 0. -/
def State.ofHeatCycle (s : State) (c : Nat) (h : Int) : Nat := (((s.heat (s.partOf c)).origin : Int) + h).toNat

/-- The cores of a partition (R315). -/
def State.partCores (s : State) (p : Nat) : List Nat :=
  (List.range Config.cores).filter (fun c => decide (s.partOf c = p))

/-! The agenda. -/

/-- The order of what happens within one cycle: what performs earlier in a cycle is seen by what follows it. A fence looks at what
had performed by the cycle before (R202, R234). Landings and removals come next (R259), then arrivals, the banks engine work takes, conflicts (R23) and dynamic requesters (R24), reads and performs, the channels,
the heat's own moments, releases, the compute issue, the firmware contexts (R323), the front end, completion. -/
def phaseOf : Instr → Nat
  | .fenceRelease .. => 0
  | .resultLand _ => 1
  | .loadQueuePush .. | .blockRemoval .. => 2
  | .pourArrival .. | .remoteArrival .. | .dynamicRequestPerform .. | .codebookDelivery .. | .blockExpansion ..
  | .pourRequest .. | .dynamicRequestIssue .. | .holdWrite .. | .patrolStartScrub .. | .patrolRotate .. | .patrolStop .. => 3
  | .copyTile _ _ _ p | .expansionPiece _ _ _ p | .crucibleSend _ _ p =>
    match p with
    | .occupy | .reserve => 4
    | .read | .perform => 6
  | .bankAccess _ _ p | .vstnArrival _ _ p =>
    match p with
    | .occupy | .reserve => 5
    | .read | .perform => 6
  | .dynamicBankAccess .. => 5
  | .crucibleArrival .. => 7
  | .act .. | .rd .. | .wr .. | .pre .. | .refpb .. | .wopen .. | .svc .. | .controllerRunRefresh .. => 8
  | .crucibleExecute .. | .rowGroupStale .. | .registerWrite .. => 9
  | .hostAtomicExecute .. | .patrolLine .. | .mailboxWrite .. | .mailboxRead .. | .hostAtomicop .. | .codeLineFetch ..
  | .completionBitWrite .. | .traceWrite .. | .logAppend .. => 10
  | .cutReduction .. | .stopCycle .. | .quiescence .. | .launchCheck .. | .heatStopRequest .. | .heatResume ..
  | .heatRestart .. | .heatEnd .. => 11
  | .waitdDeadline .. | .waitaRelease .. | .alignPointReached .. | .cfenceRelease .. | .taskStart .. => 12
  | .bundleIssue .. => 13
  | .firmwareAccessComplete .. => 14
  | .firmwareCauseTaken .. => 15
  | .firmwareBundleIssue .. => 16
  | .heatCompletion .. => 18
  | _ => 17

/-- An event placed in the agenda: by cycle, then by phase, then after those placed before it. -/
def insertEvent (e : Event) : List Event → List Event
  | [] => [e]
  | x :: rest =>
    if e.at_ < x.at_ ∨ (e.at_ = x.at_ ∧ phaseOf e.instr < phaseOf x.instr) then e :: x :: rest
    else x :: insertEvent e rest

/-- `i` happens at cycle t, no earlier than now. -/
def State.at (s : State) (t : Nat) (i : Instr) : State :=
  { s with agenda := insertEvent { at_ := max t s.gcount, instr := i } s.agenda }

/-- `i` happens at cycle t, unless it stands in the agenda for that cycle already. -/
def State.atOnce (s : State) (t : Nat) (i : Instr) : State :=
  if s.agenda.any (fun e => decide (e.at_ = t) && decide (e.instr = i)) then s else s.at t i

/-- `i` happens at a cycle the spec leaves open, at least `least` cycles from now. -/
def State.later (s : State) (least : Nat) (i : Instr) : State :=
  let (d, s') := s.draw
  s'.at (s'.gcount + least + d) i

/-- Every event for which `p` holds leaves the agenda. -/
def State.cancel (s : State) (p : Instr → Bool) : State := { s with agenda := s.agenda.filter (fun e => !p e.instr) }

/-! Registers of a core (R17). -/

def Core.rs (k : Core) (n : Nat) : Word64 := if n = 0 then 0 else sget 0 k.s n
def Core.rq (k : Core) (n : Nat) : Bool := if n = 0 then true else k.q.getLsbD n
def Core.rv (k : Core) (n : Nat) : VReg := sget 0 k.v n
def Core.rk (k : Core) (n : Nat) : Word64 := sget 0 k.k n
def Core.rw (k : Core) (n : Nat) : BitVec 256 := if n = 0 then BitVec.allOnes 256 else sget 0 k.w n
def Core.ra (k : Core) (n : Nat) : BitVec 128 := sget streamReset k.a n
def Core.rm (k : Core) (n : Nat) : Tile := sget tileReset k.m n
def Core.ry (k : Core) (n : Nat) : BitVec 2080 := sget carryReset k.y n
def Core.rb (k : Core) (n : Nat) : Barrier := sget barrierReset k.bar n
def FwCtx.rs (f : FwCtx) (n : Nat) : Word64 := if n = 0 then 0 else sget 0 f.s n
def FwCtx.rq (f : FwCtx) (n : Nat) : Bool := if n = 0 then true else f.q.getLsbD n

/-- Writes; s0 and q0 and w0 discard them (R17). -/
def Core.ws (k : Core) (n : Nat) (v : Word64) : Core := if n = 0 then k else { k with s := sset 0 k.s n v }
def setBit16 (q : BitVec 16) (n : Nat) (v : Bool) : BitVec 16 :=
  if v then q ||| BitVec.ofNat 16 (2 ^ n) else q &&& ~~~ (BitVec.ofNat 16 (2 ^ n))
def Core.wq (k : Core) (n : Nat) (v : Bool) : Core := if n = 0 then k else { k with q := setBit16 k.q n v }
def Core.wv (k : Core) (n : Nat) (v : VReg) : Core := { k with v := sset 0 k.v n v }
def Core.wk (k : Core) (n : Nat) (v : Word64) : Core := { k with k := sset 0 k.k n v }
def Core.ww (k : Core) (n : Nat) (v : BitVec 256) : Core := if n = 0 then k else { k with w := sset 0 k.w n v }
def Core.wa (k : Core) (n : Nat) (v : BitVec 128) : Core := { k with a := sset streamReset k.a n v }
def Core.wm (k : Core) (n : Nat) (t : Tile) : Core := { k with m := sset tileReset k.m n t }
def Core.wy (k : Core) (n : Nat) (v : BitVec 2080) : Core := { k with y := sset carryReset k.y n v }
def Core.wb (k : Core) (n : Nat) (b : Barrier) : Core := { k with bar := sset barrierReset k.bar n b }
def FwCtx.ws (f : FwCtx) (n : Nat) (v : Word64) : FwCtx := if n = 0 then f else { f with s := sset 0 f.s n v }
def FwCtx.wq (f : FwCtx) (n : Nat) (v : Bool) : FwCtx := if n = 0 then f else { f with q := setBit16 f.q n v }

/-- Scalar and predicate reads of the context whose operation runs (R17, R323). -/
def State.rs (s : State) (n : Nat) : Word64 :=
  if s.cur.fw then (s.core s.cur.core).fw.rs n else (s.core s.cur.core).rs n
def State.rq (s : State) (n : Nat) : Bool :=
  if s.cur.fw then (s.core s.cur.core).fw.rq n else (s.core s.cur.core).rq n

/-! Results (R26): an update that lands `lat` cycles after the present one. -/

/-- `e` of the running operation lands `lat` cycles from now, in `slot`; `gufl` is R27's mark of a flushing scan. -/
def State.landIn (s : State) (lat : Nat) (slot : Slot) (e : Eff) (gufl : Bool := false) : State :=
  let c := s.cur.core
  let p : Pending := { at_ := s.gcount + lat, slot := slot, issued := s.gcount, fw := s.cur.fw, gufl := gufl, eff := e }
  (s.modCore c (fun k => { k with pend := k.pend ++ [p] })).atOnce (s.gcount + lat) (.resultLand c)

/-- A result of an access, landing at cycle t for an operation issued at `issued`. -/
def State.landAt (s : State) (c t issued : Nat) (slot : Slot) (e : Eff) : State :=
  let p : Pending := { at_ := t, slot := slot, issued := issued, fw := false, gufl := false, eff := e }
  (s.modCore c (fun k => { k with pend := k.pend ++ [p] })).atOnce t (.resultLand c)

/-! SSTAT (R28). -/

/-- SSTAT with flag bit n set. -/
def Core.setFlag (k : Core) (n : Nat) : Core := { k with sstat := k.sstat ||| BitVec.ofNat 64 (2 ^ n) }

/-! Device time and trace records (R357, R359). -/

/-- A rate line of R357: DT0 + Floor((g − G0) × 0.4 × (1 + F)), F in parts per 10^9. -/
def rateLine (dt0 g0 : Nat) (f : Int) (g : Nat) : Int :=
  (dt0 : Int) + ((g : Int) - g0) * 4 * (1000000000 + f) / 10000000000

/-- The limit of F, 500 ppm (R357). -/
def fLimit : Int := 500000

/-- DTIME at a cycle (R357). It never decreases: after a correction that would move it backward it goes on from where it
stood at the lowest rate until the corrected line has caught up. -/
def State.dtime (s : State) (g : Nat) : Nat :=
  let x := rateLine s.trace.dt0 s.trace.g0 s.trace.f g
  let y := rateLine s.trace.slew s.trace.slewAt (-fLimit) g
  (max x y % (2 ^ 64 : Int)).toNat

/-- The index of source iteration i of a level (R110). -/
def LoopRec.index (l : LoopRec) (i : Int) : Nat := (((l.ibase : Int) + i * l.istep) % (2 ^ 64 : Int)).toNat

/-- The effective cut of a parting line in the innermost of the given loops (R112). -/
def effectiveCut (cut : Nat) (loops : List LoopRec) : Nat :=
  match loops with
  | [] => cut
  | l :: _ => cut + l.j * l.cutstr

/-- CUTITER of a core record (R359). -/
def Core.cutIter (k : Core) : Nat :=
  match k.seq.loops with
  | l :: _ => 2 ^ 31 + l.index l.j % 2 ^ 31
  | [] => k.seq.lastCut % 4096

/-- HEATID of the heat of a partition, 0 for none (R359). -/
def State.heatIdOf (s : State) (p : Nat) : Nat :=
  let h := s.heat p
  if h.phase = .none ∨ h.phase = .ended then 0 else h.heatId

/-- Where a record goes among those waiting: by event cycle, then core index, then TYPE (R360). -/
def insertTrace (e : Nat × Nat × BitVec 256) : List (Nat × Nat × BitVec 256) → List (Nat × Nat × BitVec 256)
  | [] => [e]
  | x :: rest =>
    let key := fun (p : Nat × Nat × BitVec 256) => p.2.1 * 2 ^ 16 + fld p.2.2.toNat 88 8 * 2 ^ 8 + fld p.2.2.toNat 80 8
    if key e < key x then e :: x :: rest else x :: insertTrace e rest

/-- A trace record of cycle g enters its die's queue unless its TYPE or its ring is disabled (R358, R360). -/
def State.traceRaw (s : State) (die g core typ cutIter heatId payload : Nat) : State :=
  let mask := sget (BitVec.allOnes 32) s.trace.mask die
  if mask.getLsbD (typ / 8) && (sget 0 s.trace.base die).getLsbD 0 then
    let r := s.dtime g + typ * 2 ^ 80 + core * 2 ^ 88 + heatId * 2 ^ 96 + cutIter * 2 ^ 128 + payload % 2 ^ 96 * 2 ^ 160
    let s1 := { s with trace := { s.trace with queue := insertTrace (die, g, BitVec.ofNat 256 r) s.trace.queue } }
    s1.later 1 (.traceWrite die)
  else s

/-- A core record (R360): of the core's own die. -/
def State.traceCore (s : State) (c g typ payload : Nat) : State :=
  s.traceRaw (c / 64) g c typ (s.core c).cutIter (s.heatIdOf (s.partOf c)) payload

/-! Wake causes of the firmware contexts (R326). -/

/-- FIN, bit 8 of FCAUSE (R325). -/
def FwCtx.fin (f : FwCtx) : Bool := f.fcause.getLsbD 8

/-- The causes that may be taken: pending and enabled, XLAT whatever FENABLE says (R326). -/
def FwCtx.takeable (f : FwCtx) : BitVec 7 := f.fpend &&& (f.fenable ||| 0b0010000#7)

/-- A context with a cause it may take reaches its next issue cycle (R326). -/
def State.pokeFw (s : State) (c : Nat) : State :=
  let f := (s.core c).fw
  if (f.mode = .running ∨ f.mode = .chilled) ∧ f.fin = false ∧ f.takeable ≠ 0 then
    s.atOnce (max f.due s.gcount) (.firmwareCauseTaken c)
  else s

/-- Cause bit n becomes pending at a core. -/
def State.wake (s : State) (c n : Nat) : State :=
  (s.modCore c (fun k => { k with fw := { k.fw with fpend := k.fw.fpend ||| BitVec.ofNat 7 (2 ^ n) } })).pokeFw c

/-- The scheduler core's index (R332). -/
def State.scheduler (s : State) : Nat := s.fe.sched % 256

/-- Hardware writes into a firmware data memory (R327). -/
def State.fwStore (s : State) (c a : Nat) (bs : List Byte) : State :=
  s.modCore c (fun k => { k with fw := { k.fw with dmem := k.fw.dmem.writeBytes a bs } })

/-- The 64 bits of a heat cycle, two's complement. -/
def cycle64 (h : Int) : Nat := wrapInt 64 h

/-- An event that stops nothing (R252): entry EVCOUNT mod 12 of the ring, EVCOUNT, the wake, and the trace record (R359). -/
def State.event (s : State) (c typ aux payload tracePayload : Nat) : State :=
  let n := (s.core c).fw.dmem.readNat 0x7F40 8
  let e := cycle64 (s.heatCycle c) + typ * 2 ^ 64 + aux % 256 * 2 ^ 72 + c * 2 ^ 128 + payload % 2 ^ 256 * 2 ^ 256
  let s1 := s.fwStore c (0x7C00 + 64 * (n % 12)) (bytesOf 64 e)
  let s2 := s1.fwStore c 0x7F40 (bytesOf 8 (n + 1))
  (s2.wake c 2).traceCore c s.gcount typ tracePayload

/-! Taking a trap (R238 to R242). -/

/-- What a trap records (R239, R240). -/
structure TrapInfo where
  cls : Nat
  cause : Nat
  fmask : Nat
  bundle : Option (Nat × Nat)
  detail : Nat
deriving DecidableEq, Repr

/-- The trap record (R240); POS and SEGHDR are 0xFFFF and 0 when no bundle of the core caused it. -/
def trapRecord (c : Nat) (dyn : Bool) (cycle stop : Int) (t : TrapInfo) : Nat :=
  let (pos, seg) := match t.bundle with
    | some (p, h) => (p % 2 ^ 16, h % 2 ^ 64)
    | none => (0xFFFF, 0)
  cycle64 cycle + cycle64 stop * 2 ^ 64 + seg * 2 ^ 128 + pos * 2 ^ 192 + t.cls % 256 * 2 ^ 208 + t.cause % 256 * 2 ^ 216 +
    t.fmask % 128 * 2 ^ 224 + (if dyn then 1 else 0) * 2 ^ 231 + c % 256 * 2 ^ 232 + t.detail % 2 ^ 256 * 2 ^ 256

/-- The core is in the dynamic domain in cycle g (R225): from the cycle after a `WAITA` until the alignment point of an
`ALIGN`, also where it issues nothing more. -/
def Core.dynamicAt (k : Core) (g : Nat) : Bool :=
  let aligned := match k.seq.hold with | .align p => decide (p ≤ g) | _ => false
  match k.seq.dynSince with
  | some t => decide (t ≤ g) && !aligned && decide (k.seq.dom ≠ .halted)
  | none => false

/-- The core keeps its first record of a span (R240), wakes its firmware context and writes the trace record. -/
def State.recordTrap (s : State) (c : Nat) (stop : Int) (t : TrapInfo) : State :=
  let k := s.core c
  if k.spanTrap then s
  else
    let cyc := s.heatCycle c
    let r := trapRecord c (k.dynamicAt s.gcount) cyc stop t
    let s1 := (s.fwStore c 0x7F00 (bytesOf 64 r)).modCore c (fun k => { k with spanTrap := true })
    let pos := match t.bundle with | some (p, _) => p % 2 ^ 16 | none => 0xFFFF
    (s1.wake c 1).traceCore c s.gcount 16
      (t.cls % 256 + t.cause % 256 * 2 ^ 8 + pos * 2 ^ 16 + cycle64 stop * 2 ^ 32)

/-- A heat stops with its stop cycle 64 cycles from now (R241, R329): a pre-emption under way is abandoned, so that no core
that still drains stops at its loop's end (log entry 62). -/
def State.fixStop (s : State) (p : Nat) (trapCores : List Nat) (endStatus : Option Nat) : State :=
  let h := s.heat p
  let S := s.gcount + 64
  let h' := { h with phase := .stopping, stopS := some S, quiet := some (S + 512), byTrap := true, trapCores := trapCores,
                     stopReq := none, cutK := none, endStatus := endStatus }
  let s1 := h.cores.foldl (fun s c => s.modCore c (fun k =>
    if k.seq.dom = .stopped then k else { k with seq := { k.seq with stopLine := none } })) (s.setHeat p h')
  (s1.at S (.stopCycle p)).at (S + 512) (.quiescence p)

/-- The heat of the core stops for a trap at the present cycle (R241): the first trap fixes S = t + 64 and Q = S + 512 and
abandons a pre-emption; a later one leaves them. A class-9 trap ends the partition's heat with status 2, whatever its phase, or
the one that stands stopped where none is current, and permits no restart (R239). -/
def State.heatTrap (s : State) (c cls : Nat) : State :=
  let p := s.partOf c
  let h := s.heat p
  let status := if cls = 9 then some 2 else h.endStatus
  match h.phase with
  | .running => s.fixStop p [c] status
  | .stopping =>
    if h.byTrap then
      s.setHeat p { h with trapCores := if h.stopS = some (s.gcount + 64) then h.trapCores ++ [c] else h.trapCores,
                           endStatus := status }
    else s.fixStop p [c] status
  | .arming | .armed | .trapped | .atCut =>
    if cls = 9 then (s.setHeat p { h with endStatus := status }).atOnce s.gcount (.heatCompletion p) else s
  | .none | .ended =>
    if cls = 9 then
      match s.parked.find? (fun x => decide (x.1 = p)) with
      | some x => State.atOnce { s with parked := s.parked.map (fun y => if y = x then (p, { x.2 with endStatus := some 2 }) else y) }
          s.gcount (.heatCompletion p)
      | none => s
    else s

/-- The core's compute context issues nothing more (R241). -/
def Core.stopIssue (k : Core) : Core :=
  match k.seq.dom with
  | .static | .dynamic => { k with seq := { k.seq with dom := .stopped } }
  | .notStarted => { k with seq := { k.seq with dom := .stopped } }
  | .halted | .stopped => k

/-- Taking a trap: the one operation of every trap of a compute context (R238 to R242). The stop of the heat and the record
with its stop cycle, which wakes the firmware context. -/
def State.takeTrap (s : State) (c : Nat) (t : TrapInfo) : State :=
  let s1 := s.heatTrap c t.cls
  let h := s1.heat (s1.partOf c)
  let stop : Int := match h.stopS with | some S => (S : Int) - h.origin | none => s.heatCycle c + 64
  s1.recordTrap c stop t

/-- A trap of work of a bundle that has committed: the core issues nothing after this cycle (R238, R241). -/
def State.raiseTrap (s : State) (c : Nat) (t : TrapInfo) : State :=
  let n := s.gcount + 1
  (s.takeTrap c t).modCore c (fun k => { k with seq := { k.seq with stopFrom := some (k.seq.stopFrom.getD n) } })

/-- A trap raised at issue: the bundle commits nothing and the core issues nothing more (R238, R241). -/
def State.issueTrap (s : State) (c : Nat) (t : TrapInfo) : State := (s.takeTrap c t).modCore c Core.stopIssue

/-! Barriers (R199 to R201). A cycle's posts and arrivals gather in the barrier and are applied once the cycle is over. -/

/-- COUNT modulo 2^48, signed (R199). -/
def count48 (b : Barrier) : Int := b.count.toInt

/-- The barrier after the update of the cycle it was last touched in (R200). -/
def Barrier.settled (b : Barrier) : Barrier :=
  let cnt : BitVec 48 := b.count + BitVec.ofInt 48 b.delta
  let posted := b.posted || b.post
  if posted && decide (cnt = 0) && (b.post || decide (b.delta ≠ 0)) then
    { phase := !b.phase, posted := false, count := cnt, at_ := b.at_, delta := 0, post := false, doneAt := some b.at_ }
  else { phase := b.phase, posted := posted, count := cnt, at_ := b.at_, delta := 0, post := false, doneAt := b.doneAt }

/-- A wait that watches the barrier has seen its phase complete at cycle t (R117, R118). -/
def Hold.seen (h : Hold) (bar t : Nat) : Hold :=
  match h with
  | .waitd b (some c) d p g => if b = bar ∧ c < t then .waitd b Option.none d p g else h
  | .waita b (some c) => if b = bar ∧ c < t then .waita b Option.none else h
  | _ => h

/-- The step-end records of the commands whose barrier completed (R198, R360), in the order of their issue; each names the heat
that issued its command, which may be over by now (R359). -/
def State.stepEnds (s : State) (c bar t : Nat) : State :=
  let k := s.core c
  let due := k.dyn.filter (fun d => d.stepOpen && decide (fld d.rec_.toNat 72 5 = bar) && decide (d.start < t))
  let s1 := due.foldl (fun acc d => acc.traceRaw (c / 64) t c 18 (acc.core c).cutIter d.heatId
    (fld d.rec_.toNat 288 32 + fld d.rec_.toNat 256 32 * 2 ^ 32 + fld d.rec_.toNat 320 16 * 2 ^ 64 + bar * 2 ^ 80)) s
  s1.modCore c (fun k => { k with dyn := k.dyn.map (fun d => if due.any (fun x => x.id = d.id) then { d with stepOpen := false } else d) })

/-- The update of an earlier cycle applied: completion, what watches it, the step-end records (R117, R118, R198, R200). -/
def State.settleBar (s : State) (c bar : Nat) : State :=
  let b := (s.core c).rb bar
  if b.at_ < s.gcount ∧ (b.delta ≠ 0 ∨ b.post = true) then
    let b' := b.settled
    let s1 := s.modCore c (fun k => k.wb bar b')
    if b'.phase ≠ b.phase then
      let k := s1.core c
      let h := k.seq.hold.seen bar b.at_
      let s2 := s1.modCore c (fun k => { k with seq := { k.seq with hold := h } })
      let s3 := match h with
        | .waita b0 Option.none => if k.seq.hold = Hold.waita b0 Option.none then s2 else s2.atOnce s2.gcount (.waitaRelease c)
        | _ => s2
      s3.stepEnds c bar b.at_
    else s1
  else s

/-- Every barrier of a core settled. -/
def State.settleAll (s : State) (c : Nat) : State :=
  ((s.core c).bar.map Prod.fst).foldl (fun acc b => acc.settleBar c b) s

/-- Bytes arrive at a barrier, or a post takes effect, in the present cycle (R200). -/
def State.touchBar (s : State) (c bar : Nat) (delta : Int) (post : Bool) : State :=
  let s1 := s.settleBar c bar
  let b := (s1.core c).rb bar
  let b' := { b with at_ := s1.gcount, delta := b.delta + delta, post := b.post || post }
  (s1.modCore c (fun k => k.wb bar b')).atOnce (s1.gcount + 1) (.resultLand c)

/-! Scratchpad poison (R264): one bit per KiB of the scratchpad. -/

/-- Whether any byte of a range lies in a poisoned KiB. -/
def Core.poisoned (k : Core) (a n : Nat) : Bool :=
  k.poison.any (fun p => decide (p * 1024 < a + n) && decide (a < (p + 1) * 1024))

/-- The KiB index set with one index put in or taken out, kept rising. -/
def setIndex (l : List Nat) (i : Nat) (on : Bool) : List Nat :=
  l.filter (fun x => decide (x < i)) ++ (if on then [i] else []) ++ l.filter (fun x => decide (i < x))

/-! Address words (R184). -/

def wordSpace (w : Nat) : Nat := fld w 60 4
def wordAddr (w : Nat) : Nat := fld w 0 60

/-! Translation (R343). -/

/-- An entry's KIND, none when the entry is invalid (R343): a reserved bit, a stack of 12 to 15, a leaf whose low address
bits are not zero. -/
def entryKind (level e : Nat) : Option Nat :=
  let kind := fld e 0 2
  if fld e 2 6 ≠ 0 ∨ fld e 40 21 ≠ 0 ∨ 12 ≤ fld e 36 4 then none
  else if kind = 1 then (if level ≤ 3 then some 1 else none)
  else if kind = 2 then
    match level with
    | 2 => if fld e 8 22 = 0 then some 2 else none
    | 3 => if fld e 8 13 = 0 then some 2 else none
    | 4 => if fld e 8 8 = 0 then some 2 else none
    | _ => none
  else none

/-- The index of a level and its page size in bits (R343). -/
def levelIndex (level va : Nat) : Nat :=
  match level with
  | 1 => fld va 48 12
  | 2 => fld va 30 18
  | 3 => fld va 21 9
  | _ => fld va 16 5
def levelBits (level : Nat) : Nat :=
  match level with
  | 2 => 30
  | 3 => 21
  | _ => 16

/-- A leaf of a table with the physical address it gives and its page size in bits. -/
structure Leaf where
  entry : Nat
  pa : Nat
  bits : Nat
deriving DecidableEq, Repr

/-- The leaf a walk reaches from a table for `va`; `levels` are those still to walk. -/
def walkFrom (m : Memory) (va : Nat) : List Nat → Nat → Option Leaf
  | [], _ => none
  | level :: rest, table =>
    let e := m.readNat (table + 8 * levelIndex level va) 8
    match entryKind level e with
    | some 1 => walkFrom m va rest (fld e 8 32 * 256)
    | some _ => some { entry := e, pa := fld e 8 32 * 256 + va % 2 ^ levelBits level, bits := levelBits level }
    | none => none

/-- The addresses of the entries that a walk reads (R343). -/
def walkEntries (m : Memory) (va : Nat) : List Nat → Nat → List Nat
  | [], _ => []
  | level :: rest, table =>
    let a := table + 8 * levelIndex level va
    let e := m.readNat a 8
    a :: (if entryKind level e = some 1 then walkEntries m va rest (fld e 8 32 * 256) else [])

/-- The channel of a physical address (R283): 32 channels of each of 12 stacks. -/
def paStack (pa : Nat) : Nat := fld pa 36 4

/-- The device register space is translated by no table (R317). -/
def inRegSpace (va : Nat) : Bool := decide (Config.regSpace ≤ va % 2 ^ 60)

/-- The address of a partition's top-level table (R341). -/
def State.topTable (s : State) (part : Nat) : Nat := fld (sget 0 s.mgmt.ttbase part).toNat 8 32 * 256

/-- The physical address of a virtual address of a partition, with the leaf entry, none on a fault; no
translation leads to an absent channel (R343, R363). -/
def State.walk (s : State) (part va : Nat) : Option Leaf :=
  if inRegSpace va then none
  else
    match walkFrom s.hbm (va % 2 ^ 60) [1, 2, 3, 4] (s.topTable part) with
    | some l => if s.mgmt.absent.contains (.channel, 32 * paStack l.pa + fld l.pa 15 5) then none else some l
    | none => none

/-- A translation for an access: a write needs WR (R343). -/
def State.translate (s : State) (part va : Nat) (write : Bool) : Option Nat :=
  match s.walk part va with
  | some l => if write && decide (fld l.entry 61 1 = 0) then none else some l.pa
  | none => none

/-- A translation of the mailbox engine, which also needs HOSTOK (R343); with it the SYSAT bit (R233). -/
def State.translateHost (s : State) (part va : Nat) (write : Bool) : Option (Nat × Bool) :=
  match s.walk part va with
  | some l =>
    if fld l.entry 62 1 = 0 ∨ (write = true ∧ fld l.entry 61 1 = 0) then none
    else some (l.pa, decide (fld l.entry 63 1 = 1))
  | none => none

/-- The physical address of a static access of a heat: through the pinned windows alone (R216, R344). -/
def Heat.pinned (h : Heat) (va : Nat) : Option Nat :=
  (sfind h.pins (va / 2 ^ 16)).map (fun page => page * 2 ^ 16 + va % 2 ^ 16)

/-- Whether every byte of a range lies in the pinned windows. -/
def Heat.pinnedRange (h : Heat) (va n : Nat) : Bool :=
  (List.range (n / 2 ^ 16 + 2)).all (fun i =>
    let p := va / 2 ^ 16 + i
    decide (va + n ≤ p * 2 ^ 16) || decide (n = 0) || (sfind h.pins p).isSome)

end Sys2Proof.Machine
end

