-- ==== Sys2Proof/Machine/HbmMem.lean ====
section
/-! DEFINITION. The bytes of HBM with the metadata of their 64-byte lines (R283, R299): what a write leaves in a line, and
what a heat's read of a line meets. -/

namespace Sys2Proof.Machine

/-- The channel, bank, row and column unit of a physical address (R283). -/
def paChannel (pa : Nat) : Nat := 32 * fld pa 36 4 + fld pa 15 5
def paBank (pa : Nat) : Nat := fld pa 10 5
def paRow (pa : Nat) : Nat := fld pa 20 16
def paCol (pa : Nat) : Nat := fld pa 6 4

/-- The physical address of a column unit of a channel's bank (R283). -/
def paOf (ch bank row col : Nat) : Nat :=
  ch / 32 * 2 ^ 36 + row * 2 ^ 20 + ch % 32 * 2 ^ 15 + bank * 2 ^ 10 + col * 2 ^ 6

/-- The die that owns a channel's stack (R2). -/
def chanDie (ch : Nat) : Nat := ch / 32 / 3

/-- The partition whose channels hold a physical address (R2, R315). -/
def State.paPart (s : State) (pa : Nat) : Nat := if s.mgmt.pmode = 0 then 0 else chanDie (paChannel pa)

/-- The patrol register of a partition (R300). -/
def State.patrolOf (s : State) (p : Nat) : Patrol := sget patrolReset s.patrol p

/-- The key version that writes of a partition use (R299, R301). -/
def State.writeVersion (s : State) (p : Nat) : BitVec 2 :=
  let r := s.patrolOf p
  if r.state = 2 ∨ r.state = 3 then r.next else r.cur

/-- What key slot k of a partition holds; all ones stands for an empty slot (R342, log entry 5). -/
def State.keyOf (s : State) (p k : Nat) : BitVec 512 :=
  match sget none s.mgmt.keys (4 * p + k) with
  | some v => v
  | none => BitVec.allOnes 512

/-- A line's integrity tag passes: it was written under the key its version names now (R299, R342). -/
def State.tagGood (s : State) (line : Nat) : Bool :=
  match sfind s.lines line with
  | none => true
  | some m => m.intact && (m.key.isNone || decide (m.key = some (s.keyOf (s.paPart (64 * line)) m.ver.toNat)))

/-- A line's data cannot be used: an uncorrectable error or the poison mark (R299). -/
def State.lineBad (s : State) (line : Nat) : Bool :=
  let m := sget lineReset s.lines line
  decide (m.ecc = .uncorrectable) || m.poison

/-- The metadata of a line after a write; a write of part of a line cannot mend the rest (R299). -/
def State.lineWritten (s : State) (line : Nat) (whole : Bool) : LineMeta :=
  let p := s.paPart (64 * line)
  let v := s.writeVersion p
  let old := sget lineReset s.lines line
  { ver := v, key := some (s.keyOf p v.toNat), ecc := if whole then .good else old.ecc, poison := !whole && old.poison,
    intact := whole || s.tagGood line }

/-- Bytes written into HBM (R299). -/
def State.hbmStore (s : State) (pa : Nat) (bs : List Byte) : State :=
  let n := bs.length
  let first := pa / 64
  let count := if n = 0 then 0 else (pa + n - 1) / 64 - first + 1
  let ls := (List.range count).foldl (fun acc i =>
    let l := first + i
    let whole := decide (pa ≤ 64 * l) && decide (64 * l + 64 ≤ pa + n)
    sset lineReset acc l (s.lineWritten l whole)) s.lines
  { s with hbm := s.hbm.writeBytes pa bs, lines := ls }

/-- Bytes read from HBM. -/
def State.hbmLoad (s : State) (pa n : Nat) : List Byte := s.hbm.readBytes pa n

/-- What a heat's read of n bytes raises (R299): class 9 for a tag failure, class 8 of cause 3 for an uncorrectable error or
a poisoned line; the detail is the line's physical address. -/
def State.hbmFault (s : State) (pa n : Nat) : Option TrapInfo :=
  let first := pa / 64
  let count := if n = 0 then 0 else (pa + n - 1) / 64 - first + 1
  (List.range count).findSome? (fun i =>
    let l := first + i
    if !s.tagGood l then some { cls := 9, cause := 1, fmask := 0, bundle := none, detail := 64 * l }
    else if s.lineBad l then some { cls := 8, cause := 3, fmask := 0, bundle := none, detail := 64 * l }
    else none)

/-! The service of dynamic accesses (R229, R284, R291). -/

/-- The partition whose heat may carry a timeline of a channel (R315). -/
def State.chanPart (s : State) (ch : Nat) : Nat := if s.mgmt.pmode = 0 then 0 else chanDie ch

/-- The timeline of a channel in a heat. -/
def Heat.timeline (h : Heat) (ch : Nat) : Option Timeline := h.timelines.find? (fun t => decide (t.ch = ch))

/-- The channel carries a running timeline. -/
def State.timelineRuns (s : State) (ch : Nat) : Bool :=
  let h := s.heat (s.chanPart ch)
  (h.timeline ch).isSome && (decide (h.phase = .running) || decide (h.phase = .stopping))

/-- The last cycle of the channel's running timeline (R284). -/
def State.timelineEnd (s : State) (ch : Nat) : Nat :=
  let h := s.heat (s.chanPart ch)
  match h.timeline ch with
  | some t => h.origin + t.end_ + h.sigma
  | none => 0

/-- A timeline runs on the channel, in a heat cycle from 0 to its END. -/
def State.timelineBusy (s : State) (ch : Nat) : Bool :=
  s.timelineRuns ch && decide ((s.heat (s.chanPart ch)).origin ≤ s.gcount) && decide (s.gcount ≤ s.timelineEnd ch)

/-- The bank is inside its window (R296). -/
def Bank.windowOpen (b : Bank) (t : Nat) : Bool := match b.window with | some (_, l) => decide (t ≤ l) | none => false

/-- The bank is lent to the open slot. -/
def Bank.lentNow (b : Bank) (t : Nat) : Bool := match b.lent with | some l => decide (t ≤ l) | none => false

/-- A dynamic access may perform now: its bank is lent to a service slot, or no timeline runs on its channel, cycles before
heat cycle 0 and after END counting as slot cycles (R229, R291); and the bank is not inside its window (R194, R298). -/
def State.served (s : State) (pa : Nat) : Bool :=
  let ch := paChannel pa
  let b := (s.chan ch).getBank (paBank pa)
  (!s.timelineBusy ch || b.lentNow s.gcount) && !b.windowOpen s.gcount

/-- The core to which a violation or an integrity failure of a channel belongs (R239, log entry 16). -/
def chanCore (ch : Nat) : Nat := 64 * chanDie ch

/-! Stale row groups and dynamic accesses (R294, R295). -/

/-- The key of a row group in a channel (R283). -/
def groupKey (bank g : Nat) : Nat := 8192 * bank + g

/-- The row group of a row is stale (R294). -/
def Channel.isStale (x : Channel) (bank row : Nat) : Bool := x.stale.contains (groupKey bank (row / 8))

/-- The stale-read event (R295, R359). -/
def State.staleEvent (s : State) (core ch pa : Nat) (dynamic : Bool) : State :=
  let v := pa % 2 ^ 40 + ch * 2 ^ 49 + (if dynamic then 2 ^ 58 else 0)
  s.event core 2 0 v (v % 2 ^ 59)

/-- Zeros written to every line of a row group (R294). -/
def State.initGroup (s : State) (ch bank g : Nat) : State :=
  (List.range 8).foldl (fun s i => s.hbmStore (paOf ch bank (8 * g + i) 0) (zeros 1024)) s

/-- The parts of a physical range that lie each in one row of one bank (R283): address and length. -/
def rowParts : Nat → Nat → Nat → List (Nat × Nat)
  | 0, _, _ => []
  | fuel + 1, pa, n =>
    if n = 0 then []
    else
      let m := min n (1024 - pa % 1024)
      (pa, m) :: rowParts fuel (pa + m) (n - m)

/-- The row group of a physical address is stale. -/
def State.paStale (s : State) (pa : Nat) : Bool := (s.chan (paChannel pa)).isStale (paBank pa) (paRow pa)

/-- Every row of physical ranges is served now. -/
def State.servedAll (s : State) (l : List (Nat × Nat)) : Bool :=
  l.all (fun p => (rowParts (p.2 / 1024 + 2) p.1 p.2).all (fun q => s.served q.1))

/-- The stale-read events of a dynamic read: one for each column unit of the range, at core 0 of the owning die (R295). -/
def State.staleReads (s : State) (pa n : Nat) : State :=
  let ch := paChannel pa
  (List.range ((pa % 64 + n + 63) / 64)).foldl (fun s i => s.staleEvent (chanCore ch) ch ((pa / 64 + i) * 64) true) s

/-- A dynamic read of HBM: a stale group's bytes read as zeros (R295). -/
def State.dynLoad (s : State) (pa n : Nat) : State × List Byte :=
  (rowParts (n / 1024 + 2) pa n).foldl (fun (acc : State × List Byte) p =>
    if acc.1.paStale p.1 then (acc.1.staleReads p.1 p.2, acc.2 ++ zeros p.2)
    else (acc.1, acc.2 ++ acc.1.hbmLoad p.1 p.2)) (s, [])

/-- The least distance between successive refreshes of a row group, and the time to its deadline (R287, R292). -/
def tREFW : Nat := 80000000

/-- The refresh of a row group at cycle t (R292, R294). -/
def Channel.refresh (x : Channel) (bank g t : Nat) : Channel :=
  { x with deadline := sset (x.refreshed + tREFW) x.deadline (groupKey bank g) (t + tREFW) }

/-- A stale group initialised before a dynamic write reaches it, which counts as its refresh (R294, R295); before the heat cycle 0
at which every group counts as refreshed (R292) it leaves that refresh as it is. -/
def State.freshen (s : State) (pa : Nat) : State :=
  if s.paStale pa then
    let ch := paChannel pa
    let g := paRow pa / 8
    let s1 := s.initGroup ch (paBank pa) g
    let x := s1.chan ch
    let x1 := { x with stale := x.stale.filter (fun k => decide (k ≠ groupKey (paBank pa) g)) }
    let t := max s.gcount x.refreshed
    (s1.setChan ch (x1.refresh (paBank pa) g t)).atOnce (t + tREFW) (.rowGroupStale ch (paBank pa) g)
  else s

/-- A read that belongs to no core's heat, of the front end, the mailbox or the log engine, meets a line whose tag fails: class 9
at core 0 of the die that owns the channel (R239, R299, log entry 16). -/
def State.tagCheck (s : State) (pa n : Nat) : State :=
  match (rowParts (n / 1024 + 2) pa n).findSome? (fun p =>
      if s.paStale p.1 then none else (s.hbmFault p.1 p.2).filter (fun t => decide (t.cls = 9))) with
  | some t => s.raiseTrap (chanCore (paChannel t.detail)) t
  | none => s

/-- The walk for a virtual address reads its table entries; one whose tag fails is met as any such read (R299, R343, log entry 16).
-/
def State.walkMeets (s : State) (part va : Nat) : State :=
  if inRegSpace va then s
  else (walkEntries s.hbm (va % 2 ^ 60) [1, 2, 3, 4] (s.topTable part)).foldl (fun s a => s.tagCheck a 8) s

/-- A dynamic write of HBM. -/
def State.dynStore (s : State) (pa : Nat) (bs : List Byte) : State :=
  let s1 := (rowParts (bs.length / 1024 + 2) pa bs.length).foldl (fun acc p => acc.freshen p.1) s
  s1.hbmStore pa bs

end Sys2Proof.Machine
end

