-- ==== Sys2Proof/Machine/Code.lean ====
section
/-! DEFINITION. Code in memory (R88 to R100): segment headers, the token stream, its expansion into the loop buffer, the
records of faults met on the way, and the code prefetch engine's reads of 64-byte code lines. -/

namespace Sys2Proof.Machine

/-- BadHeader (R88, R100). -/
def badSegHeader (h : Nat) : Bool :=
  decide (fld h 124 4 ≠ 0) || decide (fld h 17 47 ≠ 0) || decide (fld h 0 16 ≠ 0x5A7C) || decide (fld h 64 4 ≠ 0) ||
    (decide (fld h 16 1 = 1) && decide (fld h 64 60 ≠ 0))

/-- How far expansion has come: the bundles expanded, the byte offset of the next token, and how it ended: none while more
bytes are needed, else with or without a record (R96). -/
structure Expansion where
  bundles : List Bundle
  off : Nat
  stop : Option (Option ExpRecord)
deriving DecidableEq, Repr

/-- Bytes of a literal's syllables for its presence bits (R90). -/
def litBytes (present : Nat) : Nat :=
  4 + (allSlots.zipIdx.filter (fun p => decide (fld present p.2 1 = 1))).foldl (fun acc p => acc + slotWidth p.1 / 8) 0

/-- The bundle of a literal's header and syllables (R90): absent syllables are zero. -/
def litBundle (present : Nat) (body : List Byte) : Bundle :=
  let go := allSlots.zipIdx.foldl (fun (acc : Nat × List Byte) p =>
    if fld present p.2 1 = 1 then
      (acc.1 + natOf (acc.2.take (slotWidth p.1 / 8)) * 2 ^ slotLow p.1, acc.2.drop (slotWidth p.1 / 8))
    else acc) (natOf (body.take 4), body.drop 4)
  BitVec.ofNat 384 go.1

/-- A recorded illegal token, whose failing VA is the token's own address (log entry 61), and a recorded fetch fault (R96, R98). -/
def recToken (hdr n off : Nat) : ExpRecord := { token := true, pos := n, cause := 0, hdr := hdr, off := off, va := hdr + off }
def recFault (hdr n cause off va : Nat) : ExpRecord := { token := false, pos := n, cause := cause, hdr := hdr, off := off, va := va }

/-- ExpandSegment (R100) over the bytes of the segment read so far, from byte `off` on; `fuel` bounds the tokens of a
half. -/
def expandFrom (dict : Nat → Option Bundle) (hdr : Nat) : Nat → List Byte → Nat → Nat → List Bundle → Expansion
  | 0, _, off, _, acc => { bundles := acc.reverse, off := off, stop := some none }
  | fuel + 1, bs, off, n, acc =>
    let done := fun (r : Option ExpRecord) (o : Nat) (a : List Bundle) =>
      ({ bundles := a.reverse, off := o, stop := some r } : Expansion)
    let more : Expansion := { bundles := acc.reverse, off := off, stop := none }
    if bs.length < 2 then more
    else
      let t := natOf (bs.take 2)
      if n = 1024 ∧ t ≠ 0xFFFE then done (some (recFault hdr 1024 5 off (hdr + off))) off acc
      else if t < 0x1000 then
        match dict t with
        | none => done (some (recToken hdr n off)) off acc
        | some b => expandFrom dict hdr fuel (bs.drop 2) (off + 2) (n + 1) (b :: acc)
      else if t = 0xFFFE then done none (off + 2) acc
      else if t = 0xFFFF then
        if bs.length < 4 then more
        else
          let desc := natOf ((bs.drop 2).take 2)
          if fld desc 7 9 ≠ 0 then done (some { recToken hdr n off with va := hdr + off + 2 }) off acc
          else
            let len := litBytes (fld desc 0 6)
            if bs.length < 4 + len then more
            else
              let b := litBundle (fld desc 0 6) ((bs.drop 4).take len)
              if fld desc 6 1 = 1 then done none (off + 4 + len) (b :: acc)
              else expandFrom dict hdr fuel (bs.drop (4 + len)) (off + 4 + len) (n + 1) (b :: acc)
      else done (some (recToken hdr n off)) off acc

/-- A segment's expansion over all its bytes read so far (R88, R96). -/
def expandSegment (dict : Nat → Option Bundle) (hdr : Nat) (bs : List Byte) : Expansion :=
  if bs.length < 16 then { bundles := [], off := 16, stop := none }
  else if badSegHeader (natOf (bs.take 16)) then
    { bundles := [], off := 0, stop := some (some (recFault hdr 0 3 0 hdr)) }
  else expandFrom dict hdr 1026 (bs.drop 16) 16 0 []

/-- The dictionary of a core (R91). -/
def Core.dictAt (k : Core) (t : Nat) : Option Bundle := sget none k.dict t

/-- A half of the loop buffer. -/
def Core.half (k : Core) (h : Bool) : Half := if h then k.half1 else k.half0
def Core.setHalf (k : Core) (h : Bool) (x : Half) : Core := if h then { k with half1 := x } else { k with half0 := x }

/-- A half after expansion of the bytes it holds. -/
def Half.expanded (x : Half) (dict : Nat → Option Bundle) : Half :=
  let e := expandSegment dict x.hdr x.bytes
  let h := natOf (x.bytes.take 16)
  { x with bundles := e.bundles, endOff := e.off, next := fld h 64 60, lastSeg := decide (fld h 16 1 = 1),
           rec_ := e.stop.getD none, busy := e.stop.isNone }

/-- A half that begins to hold the segment at `hdr` (R92). -/
def halfBegin (hdr : Nat) : Half := { halfReset with valid := true, hdr := hdr, busy := true }

/-- One code line of 64 bytes read for a half (R94, R96): the bytes up to the line's end join those read; a byte that cannot
be fetched ends the expansion with the record of R98; where it holds the header's own bytes the place is the model's choice (log
entry 61). A failing integrity tag is raised at once (R99), and a line of a stale row group reads as zeros (R295). -/
def State.fetchLine (s0 : State) (c : Nat) (h : Bool) : State :=
  let part := s0.partOf c
  let s := s0.walkMeets part (((s0.core c).half h).hdr + ((s0.core c).half h).bytes.length)
  let k := s.core c
  let x := k.half h
  let va := x.hdr + x.bytes.length
  let n := 64 - va % 64
  let e := expandSegment k.dictAt x.hdr x.bytes
  let fail := fun (cause vaf : Nat) =>
    let r := recFault x.hdr e.bundles.length cause e.off vaf
    s.setCore c (k.setHalf h { x with bundles := e.bundles, busy := false, endOff := e.off, rec_ := some r })
  match s.translate part va false with
  | none => fail 1 va
  | some pa =>
    if s.paStale pa then
      let (s1, bs) := s.dynLoad pa n
      s1.modCore c (fun k => k.setHalf h (({ x with bytes := x.bytes ++ bs } : Half).expanded k.dictAt))
    else if !s.tagGood (pa / 64) then
      (s.setCore c (k.setHalf h { x with busy := false })).raiseTrap c
        { cls := 9, cause := 2, fmask := 0, bundle := none, detail := va / 64 * 64 }
    else if s.lineBad (pa / 64) then fail 2 (max (va / 64 * 64) (x.hdr + e.off))
    else s.setCore c (k.setHalf h (({ x with bytes := x.bytes ++ s.hbmLoad pa n } : Half).expanded k.dictAt))

/-- A half's expansion carried to its end. A segment has at most 1024 bundles of at most 56 bytes and a header. -/
def State.fetchAll (s : State) (c : Nat) (h : Bool) : Nat → State
  | 0 => s
  | fuel + 1 => if ((s.core c).half h).busy then (s.fetchLine c h).fetchAll c h fuel else s

/-- Lines that the longest segment takes. -/
def maxLines : Nat := 900

/-- The engine begins to expand the segment that follows the one in half `h` into the other half (R92): not after a segment
whose LAST is 1, and not after one that ends in a record (R96). -/
def State.expandNext (s : State) (c : Nat) (h : Bool) : State :=
  let x := (s.core c).half h
  if x.valid && !x.lastSeg && x.rec_.isNone && !x.busy then
    (s.modCore c (fun k => k.setHalf (!h) (halfBegin x.next))).later 1 (.codeLineFetch c)
  else s.modCore c (fun k => k.setHalf (!h) halfReset)

/-- R94, R291. The engine reads one code line in a service slot; while the segment is not complete it reads on. -/
def execCodeLineFetch (c : Nat) (s : State) : Result :=
  let k := s.core c
  let h := !k.seq.half
  let x := k.half h
  let ready := match s.translate (s.partOf c) (x.hdr + x.bytes.length) false with
    | some pa => s.served pa
    | none => true
  if x.busy && !ready then .next (s.at (s.gcount + 1) (.codeLineFetch c))
  else if x.busy then
    let s1 := s.fetchLine c h
    .next (if ((s1.core c).half h).busy then s1.later 1 (.codeLineFetch c) else s1)
  else .next s

/-- R92. Execution enters the segment in half `h`: the half that held the previous one is freed and the following segment
begins to expand into it. -/
def State.enterHalf (s : State) (c : Nat) (h : Bool) : State :=
  let s1 := s.fetchAll c h maxLines
  (s1.modCore c (fun k => { k with seq := { k.seq with half := h } })).expandNext c h

end Sys2Proof.Machine
end

