-- ==== Sys2Proof/Machine/Image.lean ====
section
/-! DEFINITION. The heat image as bytes (R208 to R210, R373): its header, its section table, task records, code records and
dictionaries, and the chain of a core's segments. -/

namespace Sys2Proof.Machine

/-- n bytes at an offset as a number. -/
def leAt (b : List Byte) (off n : Nat) : Nat := natOf ((b.drop off).take n)

/-- A run of bytes is zero. -/
def zeroAt (b : List Byte) (off n : Nat) : Bool := decide (leAt b off n = 0)

/-- Records of n bytes each; `fuel` bounds their number. -/
def chunksOf (n : Nat) : Nat → List Byte → List (List Byte)
  | 0, _ => []
  | fuel + 1, bs => if bs.isEmpty then [] else bs.take n :: chunksOf n fuel (bs.drop n)

/-- The records of a section of fixed-size records. -/
def recordsOf (n : Nat) (bs : List Byte) : List (List Byte) := chunksOf n (bs.length / n + 1) bs

/-! The header and the section table (R208, R209). -/

structure Section where
  typ : Nat
  unit_ : Nat
  off : Nat
  len : Nat
deriving DecidableEq, Repr

def imgShape (b : List Byte) : Nat := leAt b 6 2
def imgHeatId (b : List Byte) : Nat := leAt b 8 4
def imgNsect (b : List Byte) : Nat := leAt b 12 4
def imgLead (b : List Byte) : Nat := leAt b 16 8
def imgFwa (b : List Byte) : Nat := leAt b 24 2
def imgFwb (b : List Byte) : Nat := leAt b 26 2

/-- R208. A value outside its range is rejected also where the rule does not say so (log entry 68). -/
def headerOk (b : List Byte) : Bool :=
  decide (leAt b 0 4 = 0x7E485358) && decide (leAt b 4 2 = 1) && decide (fld (imgShape b) 3 13 = 0) &&
    (decide (fld (imgShape b) 0 1 = 1) || decide (fld (imgShape b) 1 2 = 0)) && decide (1 ≤ imgNsect b) &&
    decide (imgNsect b ≤ 65535) && decide (1024 ≤ imgLead b) && decide (imgLead b ≤ 2 ^ 32) && decide (2 ≤ imgFwb b) &&
    decide (1 ≤ imgFwa b) && decide (imgFwa b < imgFwb b) && zeroAt b 28 36

/-- The section entries. -/
def sectionsOf (b : List Byte) : List Section :=
  (List.range (imgNsect b)).map (fun i =>
    let o := 64 + 32 * i
    { typ := leAt b o 2, unit_ := leAt b (o + 2) 2, off := leAt b (o + 8) 8, len := leAt b (o + 16) 8 })

/-- E, the length of the image (R208). -/
def imageLen (b : List Byte) : Nat :=
  (sectionsOf b).foldl (fun m x => max m (x.off + x.len)) (64 + 32 * imgNsect b)

/-- The bytes of a section. -/
def secBytes (b : List Byte) (x : Section) : List Byte := (b.drop x.off).take x.len

/-- A type is given for its kind of unit (R209). -/
def secUnitOk (x : Section) : Bool :=
  match x.typ with
  | 1 | 2 | 3 | 4 | 5 | 6 | 7 => decide (x.unit_ < 256)
  | 8 | 9 | 12 | 13 => decide (x.unit_ = 0xFFFF)
  | 10 => decide (x.unit_ < 384)
  | 11 => decide (x.unit_ < 256) || decide (x.unit_ = 0xFFFF)
  | _ => false

/-- No two sections of a type that stands once are of one unit (R209). -/
def secOnce : List Section → Bool
  | [] => true
  | x :: rest =>
    (decide (x.typ = 11) || decide (x.typ = 13) || rest.all (fun y => decide (y.typ ≠ x.typ ∨ y.unit_ ≠ x.unit_))) && secOnce rest

/-- R209. -/
def sectionsOk (b : List Byte) : Bool :=
  (List.range (imgNsect b)).all (fun i => zeroAt b (64 + 32 * i + 4) 4 && zeroAt b (64 + 32 * i + 24) 8) &&
    (sectionsOf b).all (fun x => secUnitOk x && decide (x.off + x.len ≤ b.length)) && secOnce (sectionsOf b)

/-- The section of a type and unit. -/
def secOf (b : List Byte) (typ unit_ : Nat) : Option (List Byte) :=
  ((sectionsOf b).find? (fun x => decide (x.typ = typ) && decide (x.unit_ = unit_))).map (secBytes b)

/-- The cores with a task section. -/
def imgCores (b : List Byte) : List Nat :=
  (List.range 256).filter (fun c => (sectionsOf b).any (fun x => decide (x.typ = 1) && decide (x.unit_ = c)))

/-! Task records (R210). -/

def taskStart (t : List Byte) : Nat := leAt t 0 8
def taskFirst (t : List Byte) : Nat := leAt t 8 8
def taskStack (t : List Byte) : Nat := leAt t 16 1
def taskStream (t : List Byte) (n : Nat) : BitVec 128 := BitVec.ofNat 128 (leAt t (32 + 16 * n) 16)

/-! Code records (R209, R373). -/

/-- Records of an address, a length and that many bytes, none when they run past the section. -/
def codeRecords : Nat → List Byte → Option (List (Nat × List Byte))
  | 0, bs => if bs.isEmpty then some [] else none
  | fuel + 1, bs =>
    if bs.isEmpty then some []
    else
      let n := leAt bs 8 8
      if bs.length < 16 + n then none
      else (codeRecords fuel (bs.drop (16 + n))).map (fun rest => (leAt bs 0 8, (bs.drop 16).take n) :: rest)

/-- The code records of every core, those written last first: the loader writes them all, and any of them may hold a segment of
a core's chain (R210, R373). -/
def heatCode (b : List Byte) : List (Nat × List Byte) :=
  (((sectionsOf b).filter (fun x => decide (x.typ = 3))).mergeSort (fun x y => decide (x.unit_ ≤ y.unit_))).foldl (fun l x =>
    ((codeRecords ((secBytes b x).length + 1) (secBytes b x)).getD []).foldl (fun l r => r :: l) l) []

/-- The code of a core. -/
def coreCode (b : List Byte) (c : Nat) : Option (List (Nat × List Byte)) :=
  match secOf b 3 c with
  | some bs => codeRecords (bs.length + 1) bs
  | none => some []

/-! Dictionaries (R91, R209). -/

/-- The entries of a core's dictionary section. -/
def coreDict (b : List Byte) (c : Nat) : List (Nat × Bundle) :=
  (recordsOf 64 ((secOf b 2 c).getD [])).map (fun r => (leAt r 0 2, BitVec.ofNat 384 (leAt r 16 48)))

/-! The chain of a core's segments (R88, R210). -/

/-- The bytes that a core's code records hold from a virtual address on, running on through records that follow one another
without a gap; `fuel` bounds their number. -/
def codeFrom (code : List (Nat × List Byte)) : Nat → Nat → List Byte
  | 0, _ => []
  | fuel + 1, va =>
    match code.find? (fun p => decide (p.1 ≤ va) && decide (va < p.1 + p.2.length)) with
    | some p => p.2.drop (va - p.1) ++ codeFrom code fuel (p.1 + p.2.length)
    | none => []

/-- The 16 bytes at a virtual address as a core's code records hold them. -/
def codeHeader (code : List (Nat × List Byte)) (va : Nat) : Option Nat :=
  let bs := (codeFrom code (code.length + 1) va).take 16
  if bs.length = 16 then some (natOf bs) else none

/-- The header addresses of the chain from one of its segments on; `fuel` bounds their number. -/
def chainFrom (code : List (Nat × List Byte)) : Nat → Nat → List Nat
  | 0, _ => []
  | fuel + 1, va =>
    match codeHeader code va with
    | some h => if badSegHeader h || decide (fld h 16 1 = 1) then [va] else va :: chainFrom code fuel (fld h 64 60)
    | none => [va]

/-- The chain of a core of a heat image, from FIRST of its task record on; a chain whose NEXT leads back goes round. -/
def coreChain (b : List Byte) (c : Nat) : List Nat :=
  let code := heatCode b
  chainFrom code (code.foldl (fun n p => n + p.2.length / 16) 1) (((secOf b 1 c).map taskFirst).getD 0)

end Sys2Proof.Machine
end

