-- ==== Sys2Proof/Machine/Operands.lean ====
section
/-! DEFINITION. Operands of a slot operation as it reads them at its issue cycle (R18): loop indices and stage enables
(R109, R110), predicates and lane masks (R32, R33, R137), rotating names (R74), stream addresses (R20), banks (R21, R22),
and the frame every slot operation stands in. -/

namespace Sys2Proof.Machine

/-- The active loop that runs level L (R109, R110). -/
def Core.levelLoop (k : Core) (l : Nat) : Option LoopRec := k.seq.loops.find? (fun r => decide (r.lvl = l))

/-- The index of loop level L seen by an operation of stage s (R20, R110); 0 for a selector of 6 or 7. -/
def Core.loopIdx (k : Core) (l s : Nat) : Nat :=
  if 6 ≤ l then 0
  else
    match k.levelLoop l with
    | some r => if 1 < r.s then r.index ((r.j : Int) - s) else r.index r.j
    | none => sget 0 k.seq.idx l

/-- Stage enable e_s (R109), with the first iteration after a resume (R251). -/
def Core.enable (k : Core) (s : Nat) : Bool :=
  match k.seq.loops with
  | [] => decide (s = 0)
  | r :: _ => decide (s < r.s) && decide (r.j0 + s ≤ r.j) && decide (r.j + 1 ≤ s + r.n)

/-- The stage of a syllable, 0 when STAGE is 0 (R72, R133). -/
def stageNo (g : Gate) : Nat := g.stage.toNat - 1

/-- The stage part of a gate (R32, R72). A firmware context has no loop, so only e0 reads 1 in it. -/
def State.stageOn (s : State) (g : Gate) : Bool :=
  if g.stage = 0 then true
  else if s.cur.fw then decide (g.stage = 1)
  else (s.core s.cur.core).enable (stageNo g)

/-- The predicate part of a gate (R32, R72). -/
def State.predOn (s : State) (g : Gate) : Bool :=
  let q := s.rq (g.pred.toNat % 16)
  if g.pred.getLsbD 4 then !q else q

/-- A slot operation is enabled; in the VEC slot by its stage alone (R32). -/
def State.enabled (s : State) (vec : Bool) (g : Gate) : Bool := s.stageOn g && (vec || s.predOn g)

/-- The lane mask of a VEC operation (R137). -/
def State.laneMask (s : State) (g : Gate) : BitVec 256 :=
  let w := (s.core s.cur.core).rw (g.pred.toNat % 16)
  if g.pred.getLsbD 4 then ~~~w else w

/-- RotName (R74): the register a rotating name stands for. -/
def Core.rotName (k : Core) (n : Nat) : Option Nat :=
  if n < 768 then none
  else
    k.seq.loops.findSome? (fun r =>
      (r.rings.find? (fun p => decide (p.1 ≤ n) && decide (n < p.1 + p.2))).map
        (fun p => p.1 + (n - p.1 + r.j) % p.2))

/-- VName (R100): the register an 11-bit vector field names. -/
def Core.vname (k : Core) (f : VField) : Option Nat :=
  let n := f.toNat % 1024
  if f.getLsbD 10 then k.rotName n else some n

/-- A field of an address stream (R19). -/
def strField (a : BitVec 128) (lo len : Nat) : Nat := fld a.toNat lo len

/-- StreamAddr (R20): the scratchpad address of a stream for an operation of stage s. -/
def Core.streamAddr (k : Core) (n s : Nat) : Nat :=
  let a := k.ra n
  let ext := if strField a 84 21 = 0 then Config.groupBytes else strField a 84 21
  let part := fun (str lv : Nat) => signedVal 21 (strField a str 21) * (k.loopIdx (strField a lv 3) s : Int)
  let off := ((part 21 105 + part 42 108 + part 63 111) % (ext : Int)).toNat
  Config.groupBytes * strField a 114 2 + (strField a 0 21 + off) % Config.groupBytes

/-- The stream address of a syllable with its low bits cleared to an alignment. -/
def State.addrOf (s : State) (g : Gate) (sa : StreamReg) (align : Nat) : Nat :=
  let x := (s.core s.cur.core).streamAddr sa.toNat (stageNo g)
  x / align * align

/-- The bank of a byte of the scratchpad (R21). -/
def bankOf (x : Nat) : Nat := 4 * (x / Config.groupBytes) + x % Config.groupBytes / 256 % 4

/-- The group of a scratchpad address (R21). -/
def groupOf (x : Nat) : Nat := x / Config.groupBytes

/-- A set of banks as bits. -/
def bankBits (l : List Nat) : BitVec 16 := l.foldl (fun acc b => acc ||| BitVec.ofNat 16 (2 ^ b)) 0

/-- The banks of n bytes from an address, at most one lap of the group (R21, R22). -/
def rangeBanks (x n : Nat) : BitVec 16 :=
  bankBits ((List.range (min 5 ((x % 256 + n + 255) / 256))).map (fun i => bankOf ((x / 256 + i) * 256)))

/-- All four banks of a group (R22). -/
def groupBanks (g : Nat) : BitVec 16 := bankBits [4 * g, 4 * g + 1, 4 * g + 2, 4 * g + 3]

/-- The frame of a slot operation: it is well formed, and it does nothing when it is disabled (R32). -/
def runOp (i : Instr) (vec : Bool) (g : Gate) (s : State) (f : State → Result) : Result :=
  if !i.wf then .fault (.illFormed i)
  else if s.enabled vec g then f s else .next s

/-- A vector name resolved, or the stop of an ill-formed operation (R74). -/
def withV (i : Instr) (s : State) (f : VField) (k : Nat → Result) : Result :=
  match (s.core s.cur.core).vname f with
  | some n => k n
  | none => .fault (.illFormed i)

/-- The vector fields of an operation whose names R74 checks at every issue. -/
def vfieldsOf : Instr → List VField
  | .xs _ _ v => [v]
  | .xv _ _ v _ => [v]
  | .vadd _ _ d a b | .vsub _ _ d a b | .vmul _ _ d a b | .vmulh _ _ d a b | .vmin _ _ d a b | .vmax _ _ d a b
  | .vand _ _ d a b | .vor _ _ d a b | .vxor _ _ d a b | .vshl _ _ d a b | .vshr _ _ d a b | .vsar _ _ d a b
  | .vadds _ _ d a b | .vsubs _ _ d a b | .vfmin _ _ d a b | .vfmax _ _ d a b => [d, a, b]
  | .vaddVs _ _ d a _ | .vsubVs _ _ d a _ | .vmulVs _ _ d a _ | .vmulhVs _ _ d a _ | .vminVs _ _ d a _
  | .vmaxVs _ _ d a _ | .vandVs _ _ d a _ | .vorVs _ _ d a _ | .vxorVs _ _ d a _ | .vshlVs _ _ d a _
  | .vshrVs _ _ d a _ | .vsarVs _ _ d a _ | .vaddsVs _ _ d a _ | .vsubsVs _ _ d a _ | .vfminVs _ _ d a _
  | .vfmaxVs _ _ d a _ => [d, a]
  | .vabs _ _ d a | .vneg _ _ d a | .vnot _ _ d a | .vmov _ _ d a | .vfabs _ _ d a | .vfneg _ _ d a | .vexp2 _ _ d a
  | .vlog2 _ _ d a | .vrcp _ _ d a | .vrsq _ _ d a | .vrsum _ _ d a | .vrmax _ _ d a | .vrmin _ _ d a
  | .vpsum _ _ d a => [d, a]
  | .vmovi _ _ d _ => [d]
  | .vsel _ _ d a b _ => [d, a, b]
  | .vfadd _ _ _ d a b | .vfsub _ _ _ d a b | .vfmul _ _ _ d a b => [d, a, b]
  | .vfaddVs _ _ _ d a _ | .vfsubVs _ _ _ d a _ | .vfmulVs _ _ _ d a _ => [d, a]
  | .vfma _ _ _ d a b _ => [d, a, b]
  | .vcmpeq _ _ _ a b | .vcmpne _ _ _ a b | .vcmplt _ _ _ a b | .vcmple _ _ _ a b => [a, b]
  | .vcmpeqVs _ _ _ a _ | .vcmpneVs _ _ _ a _ | .vcmpltVs _ _ _ a _ | .vcmpleVs _ _ _ a _ => [a]
  | .pack _ _ d a b _ _ _ => [d, a, b]
  | .unpk _ _ d a _ _ _ | .vcvt _ _ d a _ _ _ => [d, a]
  | .scale _ _ d a _ _ _ _ _ | .qnt _ _ d a _ _ _ _ _ => [d, a]
  | .perm _ _ d a b _ | .slide _ _ d a b _ | .shuf _ _ d a b _ => [d, a, b]
  | .rot _ _ d a _ => [d, a]
  | .mgain _ _ _ v | .mrd _ _ _ v | .mwr _ _ _ v => [v]
  | .msvc _ _ v | .mldc _ _ v => [v]
  | .vld _ v _ | .vst _ v _ => [v]
  | .vgth _ _ v _ idx | .vsct _ _ v _ idx => [v, idx]
  | .vstn _ v _ _ => [v]
  | _ => []

/-- Every rotating name of an operation resolves in the running loops (R74). -/
def Core.namesOk (k : Core) (i : Instr) : Bool := (vfieldsOf i).all (fun f => (k.vname f).isSome)

end Sys2Proof.Machine
end

