-- ==== Sys2Proof/Machine/Flags.lean ====
section
/-! DEFINITION. The flags the spec gives: SSTAT (R28) with WCONF (R27), IOVF (R44, R46) and GUFL (R60), and the q, w and
compare results of R126, R127, R148 and R149. No other operation sets a flag. -/

namespace Sys2Proof.Machine

/-- Bit numbers of SSTAT (R28). -/
def flagWconf : Nat := 0
def flagIovf : Nat := 1
def flagGufl : Nat := 2
def flagDiscarded : Nat := 3

/-- SSTAT after `SWR sstat` clears the flags written 1, `set` being what hardware sets in the same cycle (R28, R131). -/
def sstatAfter (old clear set : Word64) : Word64 := ((old &&& ~~~clear) ||| set) &&& 0xF

/-- IOVF: the exact sum of an integer step leaves the INT32 range (R44, R46). -/
def int32Overflow (v : Int) : Bool := decide (v < -(2 ^ 31 : Int)) || decide ((2 ^ 31 : Int) - 1 < v)

/-- The compares of the SCA slot (R126): by name of the condition, on 64-bit values. -/
def cmpS (cond : Nat) (x y : Word64) : Bool :=
  match cond with
  | 0 => decide (x = y)
  | 1 => decide (x ≠ y)
  | 2 => x.slt y
  | 3 => x.ult y
  | 4 => x.sle y
  | _ => x.ule y

/-- A condition of the VEC compares on two elements of a format (R148): 0 EQ, 1 NE, 2 LT, 3 LE. -/
def cmpElem (cond f x y : Nat) : Bool :=
  let on := fun (a b : Int) =>
    match cond with
    | 0 => decide (a = b)
    | 1 => decide (a ≠ b)
    | 2 => decide (a < b)
    | _ => decide (a ≤ b)
  match floatFmt f with
  | some p =>
    match floatOrd p x, floatOrd p y with
    | some a, some b => on a b
    | _, _ => decide (cond = 1)
  | none =>
    match intFmt f with
    | some (sg, w) => on (intVal sg w x) (intVal sg w y)
    | none => false

/-- Bit k of a VEC compare: the condition for every element of 32-bit group k (R148). -/
def cmpGroups (cond f : Nat) (a b : Nat → Nat) : BitVec 256 :=
  let w := fmtWidth f
  let per := 32 / w
  (List.range 256).foldl (fun acc k =>
    if (List.range per).all (fun i => cmpElem cond f (a (per * k + i)) (b (per * k + i))) then
      acc ||| BitVec.ofNat 256 (2 ^ k) else acc) 0

end Sys2Proof.Machine
end

