-- ==== Sys2Proof/Machine/StepMath.lean ====
section
/-! DEFINITION. The arithmetic of the matrix slot as functions of its operands: the step rule (R43 to R47, R164 to R166),
composition and the scan (R59 to R63), the row-group moves (R65, R168). -/

namespace Sys2Proof.Machine

/-- K_s of a step's format (R43). -/
def stepK (f : Nat) : Nat :=
  match f with
  | 6 | 7 | 13 | 14 => 16
  | 15 => 7
  | 0 | 8 | 16 => 4
  | _ => 1

/-- Whether a format takes its scales from k registers (R165): always for MX, for E2M1, E4M3 and E5M2 when the field is
not 0. -/
def stepScaled (f k : Nat) : Bool :=
  if 14 ≤ f then true else (decide (f = 13) || decide (f = 6) || decide (f = 7)) && decide (k ≠ 0)

/-- The set of scales that K offset t of a step takes (R165). -/
def scaleSet (f n t : Nat) : Nat := (stepK f * n % 64 + t) / 32 % 2

/-- The bytes of a step's A and B operands (R43): 64 · K_s and 32 · K_s elements. -/
def stepBytesA (f : Nat) : Nat := 64 * stepK f * fmtWidth f / 8
def stepBytesB (f : Nat) : Nat := 32 * stepK f * fmtWidth f / 8

/-- The alignments of R164. -/
def stepAlignA (f : Nat) : Nat :=
  match f with
  | 6 | 7 => 1024
  | 13 | 14 | 8 | 15 => 512
  | 16 | 0 => 256
  | _ => 128
def stepAlignB (f : Nat) : Nat := stepAlignA f / 2

/-- AccType (R43, R58): INT32 for the integer formats. -/
def stepInt (f : Nat) : Bool := decide (f ≤ 1)

/-- n runs of K_s operand values with their scales (R41, R164): run i holds elements K_s·i to K_s·i + K_s − 1. -/
def operandRuns (f n : Nat) (x : Nat) (scale : List (Option (BitVec 8))) : List (List XVal) :=
  let w := fmtWidth f
  let ks := stepK f
  (List.range n).map (fun i => (List.range ks).map (fun t =>
    let v := widen f (elem w x (ks * i + t))
    match scale.getD (ks * i + t) none with
    | some e => xmul v (scaleE8M0 e.toNat)
    | none => v))

/-- ExactDot (R45). -/
def exactDot (a b : List XVal) : XVal := xsum (List.zipWith xmul a b)

/-- The integer of an exact sum of integer products. -/
def intOf : XVal → Int
  | .fin n m e => xunits 0 n m e
  | _ => 0

/-- The step rule for one element (R44, R46): the new bits, and whether an integer sum left the INT32 range. -/
def stepElem (f : Nat) (zeroing : Bool) (acc : Nat) (sum : XVal) : Nat × Bool :=
  if stepInt f then
    let full := (if zeroing then 0 else signedVal 32 acc) + intOf sum
    (wrapInt 32 full, int32Overflow full)
  else
    let t := roundF32 sum
    (if zeroing then t else roundF32 (xadd 0 (widen 10 acc) (widen 10 t)), false)

/-- A whole step (R166): the tile after it, and IOVF. -/
def stepTile (r : StepRun) (zeroing : Bool) (t : Tile) : Tile × Bool :=
  match r.a, r.b with
  | some a, some b =>
    let rows := operandRuns r.fmt 64 a.toNat r.scaleA
    let cols := operandRuns r.fmt 32 b.toNat r.scaleB
    let acc := elems 32 2048 t.bits.toNat
    let sums := rows.flatMap (fun row => cols.map (fun col => exactDot row col))
    let out := List.zipWith (stepElem r.fmt zeroing) acc sums
    let keep := if zeroing then 0 else t.poison
    ({ bits := BitVec.ofNat 65536 (packList 32 (out.map Prod.fst)),
       poison := if r.poison then BitVec.allOnes 2048 else keep }, out.any Prod.snd)
  | _, _ => (t, false)

/-- The bits of a row group of a tile as the 256 lanes of a vector register (R65, R168). -/
def rowGroup (t : Tile) (rg : Nat) : VReg := BitVec.ofNat 8192 (t.bits.toNat / 2 ^ (8192 * rg))

/-- The poison bits of a row group, lane by lane (R170). -/
def rowPoison (t : Tile) (rg : Nat) : BitVec 256 := BitVec.ofNat 256 (t.poison.toNat / 2 ^ (256 * rg))

/-- A number with `len` bits from bit `lo` replaced. -/
def putField (x lo len v : Nat) : Nat :=
  x % 2 ^ lo + v % 2 ^ len * 2 ^ lo + x / 2 ^ (lo + len) * 2 ^ (lo + len)

/-- A row group written from a vector register, its poison cleared (R65, R168). -/
def setRowGroup (t : Tile) (rg : Nat) (v : VReg) : Tile :=
  { bits := BitVec.ofNat 65536 (putField t.bits.toNat (8192 * rg) 8192 v.toNat),
    poison := BitVec.ofNat 2048 (putField t.poison.toNat (256 * rg) 256 0) }

/-- An affine map of the scan: gain, offset, poison, and whether a gain product flushed on the way (R59, R60). -/
structure Affine where
  g : Nat
  h : Nat
  p : Bool
  flush : Bool
deriving DecidableEq, Repr

/-- The exact product is finite, not zero and below 2^−126 in magnitude (R60). -/
def tinyProduct (v : XVal) : Bool :=
  match v with
  | .fin _ m e => decide (m ≠ 0) && decide (e + (Nat.log2 m : Int) < -126)
  | _ => false

/-- Compose (R60): a later map with an earlier one. -/
def compose (x2 x1 : Affine) : Affine :=
  let prod := xmul (widen 10 x2.g) (widen 10 x1.g)
  let tiny := tinyProduct prod
  let g := if tiny then (match prod with | .fin true _ _ => 0x80000000 | _ => 0) else roundF32 prod
  { g := g, h := roundF32 (xadd 0 (xmul (widen 10 x2.g) (widen 10 x1.h)) (widen 10 x2.h)), p := x2.p || x1.p,
    flush := tiny || x2.flush || x1.flush }

/-- One level of the scan's tree over a column (R61): position i takes in position i − d. -/
def scanLevel (d : Nat) (col : List Affine) : List Affine :=
  let clear := fun (x : Affine) => ({ x with flush := false } : Affine)
  let shifted := col.take (col.length - d)
  col.take d ++ List.zipWith (fun late early =>
    let r := compose (clear late) (clear early)
    { r with flush := r.flush || late.flush || early.flush }) (col.drop d) shifted

/-- A column's scan (R61): the six levels, then the composition with the carry. -/
def scanColumn (col : List Affine) (carry : Affine) : List Affine :=
  let p := [1, 2, 4, 8, 16, 32].foldl (fun c d => scanLevel d c) col
  p.map (fun x => compose x carry)

/-- The carry record of a column (R62). -/
def carryCol (y : BitVec 2080) (j : Nat) : Affine :=
  { g := fld y.toNat (65 * j) 32, h := fld y.toNat (65 * j + 32) 32, p := y.getLsbD (65 * j + 64), flush := false }

/-- The carry of 32 column records (R62). -/
def carryOf (cols : List Affine) : BitVec 2080 :=
  BitVec.ofNat 2080 (packList 65 (cols.map (fun x => x.g + x.h * 2 ^ 32 + (if x.p then 2 ^ 64 else 0))))

/-- The scan of a pair with a carry (R61): both tiles, the carry, and whether any composition flushed. -/
def scanPair (gain off : Tile) (y : BitVec 2080) : Tile × Tile × BitVec 2080 × Bool :=
  let g := elems 32 2048 gain.bits.toNat
  let h := elems 32 2048 off.bits.toNat
  let cols := (List.range 32).map (fun j =>
    scanColumn ((List.range 64).map (fun i =>
      { g := g.getD (32 * i + j) 0, h := h.getD (32 * i + j) 0,
        p := gain.poison.getLsbD (32 * i + j) || off.poison.getLsbD (32 * i + j), flush := false })) (carryCol y j))
  let dflt : Affine := { g := 0, h := 0, p := false, flush := false }
  let cell := fun (i j : Nat) => (cols.getD j []).getD i dflt
  let all := (List.range 64).flatMap (fun i => (List.range 32).map (fun j => cell i j))
  let poison := BitVec.ofNat 2048 (packList 1 (all.map (fun x => if x.p then 1 else 0)))
  ({ bits := BitVec.ofNat 65536 (packList 32 (all.map (fun x => x.g))), poison := poison },
   { bits := BitVec.ofNat 65536 (packList 32 (all.map (fun x => x.h))), poison := poison },
   carryOf ((List.range 32).map (fun j => cell 63 j)), all.any (fun x => x.flush))

/-- The carry image of a carry (R63). -/
def carryImage (y : BitVec 2080) : VReg :=
  let cs := (List.range 32).map (carryCol y)
  BitVec.ofNat 8192 (packList 32 (cs.map (fun x => x.g) ++ cs.map (fun x => x.h) ++ cs.map (fun x => if x.p then 1 else 0)))

/-- The carry a carry image holds (R63): bit 0 of lanes 64 to 95 is the poison. -/
def carryOfImage (v : VReg) : BitVec 2080 :=
  carryOf ((List.range 32).map (fun j =>
    { g := elem 32 v.toNat j, h := elem 32 v.toNat (32 + j), p := v.getLsbD (32 * (64 + j)), flush := false }))

end Sys2Proof.Machine
end

