-- ==== Sys2Proof/Machine/Reads.lean ====
section
/-! DEFINITION. What a slot operation reads of the register files (R18), for the ECC error that a read meets (R239, class 8
cause 1). A register is named by its file (0 s, 1 q, 2 v, 3 k, 4 w, 5 m, 6 y) and its number. -/

namespace Sys2Proof.Machine

/-- The s, q and w registers of number 0 are constants and hold no bits (R17). -/
def isConstReg (r : Nat × Nat) : Bool := decide (r.2 = 0) && (decide (r.1 = 0) || decide (r.1 = 1) || decide (r.1 = 4))

/-- The scalar sources of an operation. -/
def scalarReads : Instr → List SReg
  | .bri _ r | .calli _ r | .waitd _ _ r | .align _ r | .bpost _ r _ => [r]
  | .loop _ r _ _ _ => [r]
  | .add _ _ a b | .sub _ _ a b | .and _ _ a b | .or _ _ a b | .xor _ _ a b | .shl _ _ a b | .shr _ _ a b | .sar _ _ a b
  | .min _ _ a b | .max _ _ a b | .minu _ _ a b | .maxu _ _ a b | .mul _ _ a b | .mulh _ _ a b | .mulhu _ _ a b
  | .div _ _ a b | .divu _ _ a b | .rem _ _ a b | .remu _ _ a b => [a, b]
  | .cmpeq _ _ a b | .cmpne _ _ a b | .cmplt _ _ a b | .cmpltu _ _ a b | .cmple _ _ a b | .cmpleu _ _ a b => [a, b]
  | .addi _ _ a _ | .andi _ _ a _ | .ori _ _ a _ | .xori _ _ a _ | .shli _ _ a _ | .shri _ _ a _ | .sari _ _ a _
  | .cati _ _ a _ => [a]
  | .cmpeqi _ _ a _ | .cmpnei _ _ a _ | .cmplti _ _ a _ | .cmpltui _ _ a _ | .cmplei _ _ a _ | .cmpleui _ _ a _ => [a]
  | .xs _ a _ | .aset _ _ a _ | .swr _ _ a | .fswr _ _ a => [a]
  | .vaddVs _ _ _ _ c | .vsubVs _ _ _ _ c | .vmulVs _ _ _ _ c | .vmulhVs _ _ _ _ c | .vminVs _ _ _ _ c
  | .vmaxVs _ _ _ _ c | .vandVs _ _ _ _ c | .vorVs _ _ _ _ c | .vxorVs _ _ _ _ c | .vshlVs _ _ _ _ c
  | .vshrVs _ _ _ _ c | .vsarVs _ _ _ _ c | .vaddsVs _ _ _ _ c | .vsubsVs _ _ _ _ c | .vfminVs _ _ _ _ c
  | .vfmaxVs _ _ _ _ c => [c]
  | .vfaddVs _ _ _ _ _ c | .vfsubVs _ _ _ _ _ c | .vfmulVs _ _ _ _ _ c => [c]
  | .vcmpeqVs _ _ _ _ c | .vcmpneVs _ _ _ _ c | .vcmpltVs _ _ _ _ c | .vcmpleVs _ _ _ _ c => [c]
  | .sst _ r _ => [r]
  | .atom _ _ r _ _ | .red _ _ r _ _ => [r]
  | _ => []

/-- The vector sources of an operation. -/
def vectorReads : Instr → List VField
  | .xv _ _ v _ => [v]
  | .vadd _ _ _ a b | .vsub _ _ _ a b | .vmul _ _ _ a b | .vmulh _ _ _ a b | .vmin _ _ _ a b | .vmax _ _ _ a b
  | .vand _ _ _ a b | .vor _ _ _ a b | .vxor _ _ _ a b | .vshl _ _ _ a b | .vshr _ _ _ a b | .vsar _ _ _ a b
  | .vadds _ _ _ a b | .vsubs _ _ _ a b | .vfmin _ _ _ a b | .vfmax _ _ _ a b => [a, b]
  | .vaddVs _ _ _ a _ | .vsubVs _ _ _ a _ | .vmulVs _ _ _ a _ | .vmulhVs _ _ _ a _ | .vminVs _ _ _ a _
  | .vmaxVs _ _ _ a _ | .vandVs _ _ _ a _ | .vorVs _ _ _ a _ | .vxorVs _ _ _ a _ | .vshlVs _ _ _ a _
  | .vshrVs _ _ _ a _ | .vsarVs _ _ _ a _ | .vaddsVs _ _ _ a _ | .vsubsVs _ _ _ a _ | .vfminVs _ _ _ a _
  | .vfmaxVs _ _ _ a _ => [a]
  | .vabs _ _ _ a | .vneg _ _ _ a | .vnot _ _ _ a | .vmov _ _ _ a | .vfabs _ _ _ a | .vfneg _ _ _ a | .vexp2 _ _ _ a
  | .vlog2 _ _ _ a | .vrcp _ _ _ a | .vrsq _ _ _ a | .vrsum _ _ _ a | .vrmax _ _ _ a | .vrmin _ _ _ a
  | .vpsum _ _ _ a => [a]
  | .vsel _ _ _ a b _ => [a, b]
  | .vfadd _ _ _ _ a b | .vfsub _ _ _ _ a b | .vfmul _ _ _ _ a b => [a, b]
  | .vfaddVs _ _ _ _ a _ | .vfsubVs _ _ _ _ a _ | .vfmulVs _ _ _ _ a _ => [a]
  | .vfma _ _ _ _ a b c => [a, b, c.setWidth 11]
  | .vcmpeq _ _ _ a b | .vcmpne _ _ _ a b | .vcmplt _ _ _ a b | .vcmple _ _ _ a b => [a, b]
  | .vcmpeqVs _ _ _ a _ | .vcmpneVs _ _ _ a _ | .vcmpltVs _ _ _ a _ | .vcmpleVs _ _ _ a _ => [a]
  | .pack _ _ _ a b _ _ _ => [a, b]
  | .unpk _ _ _ a _ _ _ | .vcvt _ _ _ a _ _ _ => [a]
  | .scale _ _ _ a _ _ _ _ _ | .qnt _ _ _ a _ _ _ _ _ => [a]
  | .perm _ _ _ a b _ | .slide _ _ _ a b _ | .shuf _ _ _ a b _ => [a, b]
  | .rot _ _ _ a _ => [a]
  | .mgain _ _ _ v | .mwr _ _ _ v | .mldc _ _ v | .vst _ v _ | .vstn _ v _ _ => [v]
  | .vgth _ _ _ _ idx => [idx]
  | .vsct _ _ v _ idx => [v, idx]
  | _ => []

/-- The scale registers of one operand of a step (R165). -/
def scaleReads (f kreg per n : Nat) : List (Nat × Nat) :=
  if stepScaled f kreg then
    ((List.range (stepK f)).map (scaleSet f n)).eraseDups.flatMap (fun set =>
      (List.range per).map (fun i => (3, kreg + per * set + i)))
  else []

/-- The other sources of an operation: predicates and masks as data, scale registers, tiles and carries. The accumulator of
a step is read when it lands (R166). -/
def otherReads (k : Core) : Instr → List (Nat × Nat)
  | .qand _ _ a b | .qor _ _ a b | .qxor _ _ a b | .qandn _ _ a b => [(1, a.toNat), (1, b.toNat)]
  | .vsel _ _ _ _ _ w | .wnot _ _ w => [(4, w.toNat)]
  | .wand _ _ a b | .wor _ _ a b | .wxor _ _ a b | .wandn _ _ a b => [(4, a.toNat), (4, b.toNat)]
  | .scale _ _ _ _ r _ _ _ _ | .stsc _ r _ => [(3, r.toNat)]
  | .mma g _ sa _ f ka kb | .mmaz g _ sa _ f ka kb | .mmaa g _ sa _ f ka kb | .mmaaz g _ sa _ f ka kb =>
    let n := k.loopIdx (strField (k.ra sa.toNat) 105 3) (stageNo g)
    scaleReads f.toNat ka.toNat 8 n ++ scaleReads f.toNat kb.toNat 4 n
  | .mrd _ t _ _ => [(5, t.toNat)]
  | .ascan _ t cy => [(5, t.toNat), (5, t.toNat + 1), (6, cy.toNat)]
  | .msvc _ cy _ => [(6, cy.toNat)]
  | _ => []

/-- The registers an enabled operation reads, its predicate or lane mask first. -/
def Core.regReads (k : Core) (sl : Slot) (g : Gate) (i : Instr) : List (Nat × Nat) :=
  let gate : Nat × Nat := (if sl = .vec then 4 else 1, g.pred.toNat % 16)
  let regs := gate :: ((scalarReads i).map (fun r => (0, r.toNat)) ++ (vectorReads i).filterMap (fun f => (k.vname f).map (fun n => (2, n))) ++
    otherReads k i)
  regs.filter (fun r => !isConstReg r)

end Sys2Proof.Machine
end

