-- ==== Sys2Proof/Machine/Issue.lean ====
section
/-! DEFINITION. The sequencer: the issue of a bundle with its checks (R71, R97, R238), the stop points of a pre-emption
(R248), the restart shadow (R243), the advance to the next bundle through branches, loops and segments (R92 to R95, R101,
R102, R108 to R110), and the releases of waits (R117 to R119, R195, R202, R214). -/

namespace Sys2Proof.Machine

/-- The bundle at the sequencer's position. -/
def Core.bundleAt (k : Core) : Option Bundle := (k.half k.seq.half).bundles[k.seq.pos]?

/-- The recorded fault at the sequencer's position (R96, R97, R102). -/
def Core.faultAt (k : Core) : Option ExpRecord :=
  match k.seq.bad with
  | some r => some r
  | none =>
    match (k.half k.seq.half).rec_ with
    | some r => if r.pos ≤ k.seq.pos then some r else none
    | none => none

/-- GAP of the next bundle; 0 at a recorded position (R71, R97). -/
def Core.nextGap (k : Core) : Nat :=
  match k.faultAt, k.bundleAt with
  | none, some b => gapOf b
  | _, _ => 0

/-- Nothing holds the next bundle back. -/
def Core.unheld (k : Core) : Bool := decide (k.seq.hold = Hold.none) && decide (k.seq.memHold = Hold.none)

/-- The domains in which a compute context issues (R225). -/
def Core.issues (k : Core) : Bool := decide (k.seq.dom = .static) || decide (k.seq.dom = .dynamic)

/-- A trap has barred the core from issuing in a cycle (R241). -/
def Core.barred (k : Core) (g : Nat) : Bool := match k.seq.stopFrom with | some x => decide (x ≤ g) | none => false

/-! Checks at issue (R238). -/

/-- The position of a slot in FMASK (R90, R240). -/
def slotBit : Slot → Nat
  | .ctl => 0 | .sca => 1 | .vec => 2 | .mat => 3 | .prm => 4 | .mem => 5

/-- The legal operation of a slot of a compute bundle, the ring check of R74 included. -/
def Core.slotOp (k : Core) (b : Bundle) (sl : Slot) : Option Instr :=
  ((decodeSyl sl (syl b sl)).filter Instr.legalCompute).filter k.namesOk

/-- Check 2 of R238: the slots with an illegal encoding, as FMASK bits. -/
def Core.illegalMask (k : Core) (b : Bundle) : Nat :=
  allSlots.foldl (fun acc sl => if (k.slotOp b sl).isNone then acc + 2 ^ slotBit sl else acc) 0

/-- The first failing syllable, or the header (R239). -/
def Core.illegalDetail (k : Core) (b : Bundle) : Nat :=
  match allSlots.find? (fun sl => (k.slotOp b sl).isNone) with
  | some sl => syl b sl
  | none => fld b.toNat 0 32

/-- A time that `WAITD` or `ALIGN` reads: signed, plus the total shift (R117, R119, R246). -/
def State.timeOf (s : State) (c : Nat) (r : SReg) : Int :=
  ((s.core c).rs r.toNat).toInt + (s.heat (s.partOf c)).sigma

/-- A slot fault of an enabled operation (R238, check 3): its rank among the checks, class, cause and detail. -/
def State.slotFault (s : State) (c : Nat) (i : Instr) : Option (Nat × Nat × Nat × Nat) :=
  let k := s.core c
  let on := fun (g : Gate) => s.enabled false g
  match i with
  | .call g _ _ | .calli g _ =>
    if on g && decide (k.slimit.toNat < k.csp.toNat + 16) then some (0, 13, 0, k.csp.toNat + k.slimit.toNat * 2 ^ 64) else none
  | .ret g =>
    if on g && decide (k.csp.toNat < k.csbase.toNat + 16) then some (0, 13, 0, k.csp.toNat + k.csbase.toNat * 2 ^ 64) else none
  | .atom g .. =>
    if on g && decide (64 ≤ k.lq.length + k.lqOut) then some (1, 11, 0, k.lq.length + k.lqOut) else none
  | .lqpop g _ => if on g && k.lq.isEmpty then some (2, 12, 0, 0) else none
  | .waitd g bar r =>
    if on g && decide (s.timeOf c r ≤ s.heatCycle c) then
      some (3, 5, 5, cycle64 (s.timeOf c r) + bar.toNat * 2 ^ 64) else none
  | .align g r =>
    if on g && decide (s.timeOf c r ≤ s.heatCycle c) then some (4, 5, 6, cycle64 (s.timeOf c r)) else none
  | _ => none

/-- The frame of a slot operation that check 3 of R238 covers: run outside a bundle's issue it raises its own fault. -/
def runChecked (i : Instr) (g : Gate) (s : State) (f : State → Result) : Result :=
  runOp i false g s (fun s =>
    match s.cur.fw, s.slotFault s.cur.core i with
    | false, some (_, cls, cause, detail) =>
      .next (s.issueTrap s.cur.core { cls := cls, cause := cause, fmask := (i.slot?.map (fun sl => 2 ^ slotBit sl)).getD 0,
                                      bundle := some (s.cur.pos, s.cur.seg), detail := detail })
    | _, _ => f s)

/-- Every slot fault of a bundle, with its slot. -/
def State.slotFaults (s : State) (c : Nat) (b : Bundle) : List (Slot × Nat × Nat × Nat × Nat) :=
  allSlots.filterMap (fun sl =>
    match (s.core c).slotOp b sl with
    | some i => (s.slotFault c i).map (fun f => (sl, f))
    | none => none)

/-- The first check of R238 that a bundle fails, FMASK naming every slot that fails any check. -/
def State.issueFault (s : State) (c : Nat) (b : Bundle) (at_ : Nat × Nat) : Option TrapInfo :=
  let k := s.core c
  let ill := k.illegalMask b
  let hdr := if (decodeHeader b).isNone then 2 ^ 6 else 0
  let fs := s.slotFaults c b
  let mask := fs.foldl (fun acc f => if fld acc (slotBit f.1) 1 = 1 then acc else acc + 2 ^ slotBit f.1) (ill + hdr)
  if ill + hdr ≠ 0 then
    some { cls := 1, cause := 0, fmask := mask, bundle := some at_, detail := k.illegalDetail b }
  else
    match (List.range 5).findSome? (fun r => fs.find? (fun f => decide (f.2.1 = r))) with
    | some (_, _, cls, cause, detail) =>
      some { cls := cls, cause := cause, fmask := mask, bundle := some at_, detail := detail }
    | none => none

/-- The trap of a recorded fault (R97, R98, R239): it names the position at which the problem lies, also where execution
enters the covered range beyond it (log entry 61). -/
def recordInfo (r : ExpRecord) : TrapInfo :=
  { cls := if r.token then 2 else 3, cause := r.cause, fmask := 0, bundle := some (r.pos, r.hdr),
    detail := r.va % 2 ^ 64 + r.off % 2 ^ 16 * 2 ^ 64 }

/-! Pre-emption (R247 to R249). -/

/-- The last cycle in which a core of a heat issued (R248). For a core that has issued nothing it is r + 96, from which cycle it
could first stop (log entry 22). -/
def Core.lastCycle (k : Core) (h : Heat) : Nat := k.seq.lastIssue.getD (h.stopReq.getD 0 + 96)

/-- A core of the heat has come to its end. Once all have halted, completion is looked at (R219); once all have stopped or
halted in a pre-emption, Q is the latest stop cycle plus 512 (R248). -/
def State.noteStopped (s0 : State) (c : Nat) : State :=
  let p := s0.partOf c
  let h := s0.heat p
  let s := if h.phase = .running ∧ h.cores.all (fun x => decide ((s0.core x).seq.dom = .halted)) = true then
      s0.atOnce s0.gcount (.heatCompletion p)
    else s0
  let settled := h.cores.all (fun x => let d := (s.core x).seq.dom; decide (d = .stopped) || decide (d = .halted))
  if h.phase = .stopping ∧ h.byTrap = false ∧ h.cutK.isSome ∧ h.quiet = none ∧ settled = true then
    let last := h.cores.foldl (fun acc x => max acc ((s.core x).lastCycle h)) 0
    (s.setHeat p { h with quiet := some (max (last + 512) s.gcount) }).at (last + 512) (.quiescence p)
  else s

/-- The core issues nothing more (R248). -/
def State.coreStops (s : State) (c : Nat) (f : Seq → Seq) : State :=
  (s.modCore c (fun k => { k with seq := { f k.seq with dom := .stopped } })).noteStopped c

/-- The line at the sequencer's position stops the core for cut K (R248): a parting line with an effective cut of at least
K, unless the core drains already or the line is the one a resumed loop starts at (R251). -/
def Core.stopsAt (k : Core) (kcut : Nat) (h : Header) : Bool :=
  h.part && decide (kcut ≤ effectiveCut h.cut k.seq.loops) && k.seq.stopLine.isNone &&
    !(k.seq.resumed && !k.seq.loops.isEmpty)

/-- The innermost loop is pipelined (R248). -/
def Core.pipelined (k : Core) : Bool := match k.seq.loops with | l :: _ => decide (1 < l.s) | [] => false

/-- The cycle in which a core's next bundle is to issue, where the heat fixes it (R71, R117, R119): not while a `WAITA` or a fence
holds it back. The first bundle of a core that has not started issues at START plus GAP (R214). -/
def Core.nextDue (k : Core) : Option Nat :=
  match k.seq.dom, k.seq.memHold, k.seq.hold with
  | .notStarted, _, _ => if k.task then some (k.startAt + k.nextGap) else none
  | .static, .none, .none | .dynamic, .none, .none => some k.seq.due
  | .static, .none, .waitd _ _ d _ _ | .dynamic, .none, .waitd _ _ d _ _ => some (d + k.nextGap)
  | .static, .none, .align p | .dynamic, .none, .align p => some (p + k.nextGap)
  | _, _, _ => none

/-- The cycle in which a core of a heat with a stop request would issue its next bundle, where that bundle is its stop point and
no pipelined loop has to drain first: its stop cycle stands already (R248, R313, log entry 22). -/
def Core.foreseen (k : Core) (h : Heat) : Option Nat :=
  match h.stopReq, k.nextDue, k.faultAt, k.bundleAt.bind decodeHeader with
  | some r, some due, none, some x =>
    if r + 96 ≤ due ∧ k.stopsAt h.cutNext x = true ∧ k.pipelined = false then some due else none
  | _, _, _, _ => none

/-- Once K has reached the core, it stops as soon as its next bundle is a stop point outside every pipelined loop (R248). -/
def State.lookStop (s : State) (c : Nat) : State :=
  let h := s.heat (s.partOf c)
  match (s.core c).foreseen h with
  | some due =>
    if h.cutK.isSome && decide (h.phase = .stopping) then
      s.coreStops c (fun q => { q with stopLine := some (q.pos, 0), stopAt := due })
    else s
  | none => s

/-- The next bundle would issue at cycle `base` with GAP 0 (R71). -/
def State.scheduleIssue (s : State) (c base : Nat) : State :=
  let k := s.core c
  let due := base + k.nextGap
  ((s.modCore c (fun k => { k with seq := { k.seq with due := due } })).at due (.bundleIssue c)).lookStop c

/-- The core's holds are looked at again in the present cycle; when none is left the next bundle is scheduled, and where a `WAITD`
or an `ALIGN` is left that bundle may be the core's stop point (R248). -/
def State.release (s : State) (c : Nat) : State :=
  let k := s.core c
  if k.unheld && k.issues then s.scheduleIssue c s.gcount else s.lookStop c

/-- A stop point on a pipelined loop's first body bundle: N := min(N, j), and the loop drains (R248). -/
def Core.drain (now : Nat) (k : Core) : Core :=
  match k.seq.loops with
  | l :: rest =>
    let ls := { l with n := min l.n l.j } :: rest
    { k with seq := { k.seq with loops := ls, stopLine := some (k.seq.pos, l.j), stopAt := now } }
  | [] => k

/-- The pours running in a core's intakes (R243). -/
def Core.runningPours (k : Core) (now : Nat) : List PourRun :=
  k.runs.filter (fun r => decide (r.start ≤ now) && !r.closed)

/-- A restart mark's shadow (R205, R243): the sequencer as the mark's issue leaves it, at the mark's own position, its streams,
the carries, the barriers and the pours. Neither a trap nor a stop point of a pre-emption that stood at the time outlives the
stop (log entries 12, 62). -/
def State.takeShadow (s : State) (c : Nat) : State :=
  let k := s.core c
  let h := s.heat (s.partOf c)
  let sh : Shadow := { heat := h.origin, seq := { k.seq with stopFrom := none, stopLine := none }, a := k.a,
                       sched := s.heatCycle c - h.sigma, sigma := h.sigma, segHdr := (k.half k.seq.half).hdr, y := k.y,
                       bar := k.bar.map (fun p => (p.1, p.2.settled)), pours := k.runningPours s.gcount }
  s.modCore c (fun k => { k with shadow := some sh })

/-- The uncorrectable error that the reads of a bundle's enabled operations meet in the register files (R18, R239). -/
def State.regError (s : State) (c : Nat) (b : Bundle) : Option Nat :=
  let k := s.core c
  ([Slot.ctl, .sca, .vec, .mat, .prm, .mem].findSome? (fun sl =>
    match k.slotOp b sl with
    | some (.nop _) | none => none
    | some i =>
      let g := gateOf (syl b sl)
      if s.enabled (decide (sl = .vec)) g then (k.regReads sl g i).find? (fun r => k.badReg.contains r)
      else none)).map Prod.snd

/-- The sequencer after a bundle with this header has issued, still at the bundle's position (R112, R247, R251). -/
def Seq.issued (q : Seq) (now : Nat) (h : Header) : Seq :=
  { q with lastIssue := some now, lastCut := if h.part then effectiveCut h.cut q.loops else q.lastCut,
           parted := q.parted || h.part, resumed := false }

/-- The bundle commits: its slot operations are the next to run, CTL last, and then the sequencer advances (R71, R238). A
restart mark is shadowed (R243). A register error that a read meets traps and undoes nothing (R238, R239). -/
def State.commit (s : State) (c : Nat) (b : Bundle) (h : Header) : State :=
  let k := s.core c
  let hdr := (k.half k.seq.half).hdr
  let ops := [Slot.sca, .vec, .mat, .prm, .mem, .ctl].filterMap (fun sl => k.slotOp b sl)
  let s1 := s.modCore c (fun k => { k with seq := k.seq.issued s.gcount h })
  let s2 := if h.restart then s1.takeShadow c else s1
  let s3 := match s.regError c b with
    | some n => s2.raiseTrap c { cls := 8, cause := 1, fmask := 0, bundle := some (k.seq.pos, hdr), detail := n }
    | none => s2
  { s3 with cur := { core := c, fw := false, pos := k.seq.pos, seg := hdr }, slots := ops, issuing := some c }

/-- R71. The compute context issues its next bundle, in its due cycle: the recorded fault, the checks of R238, the stop
point of R248, or the commit. An issue that is no longer due does nothing. -/
def execBundleIssue (c : Nat) (s : State) : Result :=
  let k := s.core c
  if k.seq.due ≠ s.gcount ∨ k.issues = false ∨ k.unheld = false ∨ k.barred s.gcount = true then .next s
  else
    match k.faultAt with
    | some r => .next (s.issueTrap c (recordInfo r))
    | none =>
      let hdr := (k.half k.seq.half).hdr
      match k.bundleAt with
      | none => .next (s.issueTrap c (recordInfo (recFault hdr k.seq.pos 6 0 hdr)))
      | some b =>
        let run := fun (s0 : State) =>
          let s := { s0 with cur := { core := c, fw := false, pos := k.seq.pos, seg := hdr } }
          match s.issueFault c b (k.seq.pos, hdr), decodeHeader b with
          | none, some h => s.commit c b h
          | some t, _ => s.issueTrap c t
          | none, none => s
        match (s.heat (s.partOf c)).cutK, decodeHeader b with
        | some kcut, some h =>
          if k.stopsAt kcut h then
            if k.pipelined then .next (run (s.modCore c (Core.drain s.gcount)))
            else .next (s.coreStops c (fun q => { q with stopLine := some (q.pos, 0), stopAt := s.gcount }))
          else .next (run s)
        | _, _ => .next (run s)

/-! The advance. -/

/-- The loops after the bundle before position `next` (R108, R110): a body's end starts the next kernel iteration or ends the
loop, whose level keeps the index of its last source iteration. -/
def closeLoops (next : Nat) : List LoopRec → Sparse Nat → Nat × List LoopRec × Sparse Nat
  | [], idx => (next, [], idx)
  | l :: rest, idx =>
    if next < l.start + l.body then (next, l :: rest, idx)
    else if l.j + 1 < l.n + l.s - 1 then (l.start, { l with j := l.j + 1 } :: rest, idx)
    else closeLoops next rest (sset 0 idx l.lvl (l.index ((l.n : Int) - 1)))

/-- The loops that end a kernel iteration with the bundle before position `next`. -/
def iterEnds (next : Nat) : List LoopRec → List LoopRec
  | [] => []
  | l :: rest =>
    if next < l.start + l.body then []
    else if l.j + 1 < l.n + l.s - 1 then [l]
    else l :: iterEnds next rest

/-- The cores whose iterations of a group set one bit with a core's: itself, or the group's cores of its die (R218). -/
def bitCores (g : Group) (c : Nat) : List Nat :=
  if g.kind = 1 then [c] else (List.range 64).map (fun i => c / 64 * 64 + i) |>.filter (fun x => g.mask.getLsbD x)

/-- R218. A kernel iteration of a spatial loop has issued its last bundle: the source iteration it completes has its bit written
CDLY cycles later, once every core that shares the iteration has come as far, into the bitmap as the heat has it pinned. -/
def State.iterDone (s : State) (c : Nat) (l : LoopRec) : State :=
  let p := s.partOf c
  let i : Int := (l.j : Int) - (l.s - 1 : Nat)
  match (s.heat p).groups.find? (fun g => decide (g.g = sget 0 (s.core c).loopGrp l.entry)) with
  | none => s
  | some g =>
    if l.kind = 0 ∨ i < l.j0 ∨ (l.n : Int) ≤ i ∨ g.cbase = 0 then s
    else
      let it := l.index i
      let x : BitDue := { group := g.g, iter := it, core := c, at_ := s.gcount }
      let s1 := s.modCore c (fun k => { k with bitsDue := k.bitsDue ++ [x] })
      let mine := fun (d : BitDue) => decide (d.group = g.g) && decide (d.iter = it)
      if (bitCores g c).all (fun y => (s1.core y).bitsDue.any mine) then
        let s2 := (bitCores g c).foldl (fun s y => s.modCore y (fun k => { k with bitsDue := k.bitsDue.filter (fun d => !mine d) })) s1
        let w : BitWrite := { part := p, heat := (s.heat p).origin, group := g.g, iter := it, at_ := s.gcount + g.cdly,
                              pa := (s.heat p).pinned (wordAddr g.cbase + it / 8) }
        State.at { s2 with bits := s2.bits ++ [w] } w.at_ (.completionBitWrite p g.g it)
      else s1

/-- The sequencer at a position of its half, or with the fault that position raises (R95, R98, R102). Falling through into a
later segment that holds no bundle raises cause 6 at its position 0 (log entry 61). -/
def State.landAtPos (s : State) (c pos : Nat) (branch : Bool) : State :=
  let s1 := if ((s.core c).half (s.core c).seq.half).busy then s.fetchAll c (s.core c).seq.half maxLines else s
  let k := s1.core c
  let x := k.half k.seq.half
  let put := fun (p : Nat) (bad : Option ExpRecord) (s : State) =>
    s.modCore c (fun k => { k with seq := { k.seq with pos := p, bad := bad } })
  let covered := match x.rec_ with | some r => decide (r.pos ≤ pos) | none => false
  if pos < x.bundles.length ∨ covered = true then put pos none s1
  else if branch then put pos (some (recFault x.hdr pos 6 0 x.hdr)) s1
  else if x.lastSeg then put pos (some (recFault x.hdr pos 4 x.endOff (x.hdr + x.endOff))) s1
  else if (k.half (!k.seq.half)).valid then put 0 none (s1.enterHalf c (!k.seq.half))
  else put pos (some (recFault x.next pos 6 0 x.next)) s1

/-- A taken branch reaches its target (R101, R102). One that is not resident faults with the header address of the segment it
names, or 0 for a segment that does not exist or is not in the chain (R98). -/
def State.jump (s : State) (c : Nat) (t : Target) : State :=
  let k := s.core c
  let here := k.half k.seq.half
  let other := k.half (!k.seq.half)
  if t.away = false ∧ here.valid ∧ here.hdr = t.hdr then s.landAtPos c t.idx true
  else if t.away = false ∧ other.valid ∧ other.hdr = t.hdr then (s.enterHalf c (!k.seq.half)).landAtPos c t.idx true
  else
    let hdr := if !t.away && (coreChain (s.heat (s.partOf c)).image c).contains t.hdr then t.hdr else 0
    s.modCore c (fun k => { k with seq := { k.seq with pos := t.idx, bad := some (recFault hdr t.idx 6 0 hdr) } })

/-- The sequencer after a bundle of its position has issued (R71, R95, R101, R108): the next bundle is the branch target
after its two delay bundles, the loop's next iteration, or the bundle that follows. -/
def State.advance (s : State) (c : Nat) : State :=
  let q := (s.core c).seq
  match q.branch with
  | some (t, n) =>
    if n ≤ 1 then (s.modCore c (fun k => { k with seq := { k.seq with branch := none } })).jump c t
    else
      (s.modCore c (fun k => { k with seq := { k.seq with branch := some (t, n - 1) } })).landAtPos c (q.pos + 1) false
  | none =>
    let s := (iterEnds (q.pos + 1 + q.skip) q.loops).foldl (fun s l => s.iterDone c l) s
    let (next, loops, idx) := closeLoops (q.pos + 1 + q.skip) q.loops q.idx
    let ended := decide (loops.length < q.loops.length)
    match q.stopLine, q.loops with
    | some (sp, sj), l :: rest =>
      if ended then
        s.coreStops c (fun q => { q with pos := sp, skip := 0, loops := { l with j := sj, j0 := sj } :: rest })
      else
        (s.modCore c (fun k => { k with seq := { k.seq with loops := loops, idx := idx, skip := 0 } })).landAtPos c next false
    | _, _ =>
      (s.modCore c (fun k => { k with seq := { k.seq with loops := loops, idx := idx, skip := 0 } })).landAtPos c next false

/-- The compute context after its bundle's slot operations have run: unless it halted or stopped, it advances and, when
nothing holds it, its next bundle is scheduled for the next cycle plus its GAP (R71); a stop point that a `WAITD` or an `ALIGN`
still holds back stops it already (R248). -/
def State.finishCompute (s : State) (c : Nat) : State :=
  if (s.core c).issues then
    let s1 := s.advance c
    if (s1.core c).issues && (s1.core c).unheld then s1.scheduleIssue c (s1.gcount + 1) else s1.lookStop c
  else s.noteStopped c

/-! Releases. -/

/-- A pre-emption has stopped the core at a line that a `WAITD` still holds back (R248, log entry 22). -/
def Core.stoppedAhead (k : Core) (now : Nat) : Bool :=
  decide (k.seq.dom = .stopped) && k.seq.stopLine.isSome && decide (now ≤ k.seq.stopAt)

/-- R117. At the deadline the next bundle issues, or the timing trap is raised: the trap also where the core has stopped in the
meantime at the line that the `WAITD` holds back. -/
def execWaitdDeadline (c : Nat) (s : State) : Result :=
  let k := s.core c
  match k.seq.hold with
  | .waitd bar watch d pos seg =>
    if d = s.gcount ∧ (k.issues = true ∨ (watch.isSome = true ∧ k.stoppedAhead s.gcount = true)) then
      match watch with
      | some _ =>
        .next (s.raiseTrap c { cls := 5, cause := 5, fmask := 0, bundle := some (pos, seg),
                               detail := cycle64 (s.heatCycle c) + bar * 2 ^ 64 })
      | none => .next ((s.modCore c (fun k => { k with seq := { k.seq with hold := .none } })).release c)
    else .next s
  | _ => .next s

/-- R118. The watched phase has completed by the cycle before: the next bundle issues. -/
def execWaitaRelease (c : Nat) (s : State) : Result :=
  let k := s.core c
  match k.seq.hold with
  | .waita _ Option.none =>
    if k.issues then .next ((s.modCore c (fun k => { k with seq := { k.seq with hold := .none } })).release c) else .next s
  | _ => .next s

/-- R119. The alignment point: the core is in the static domain and its next bundle issues. -/
def execAlignPointReached (c : Nat) (s : State) : Result :=
  let k := s.core c
  match k.seq.hold with
  | .align p =>
    if p = s.gcount ∧ k.issues = true then
      .next ((s.modCore c (fun k => { k with seq := { k.seq with hold := .none, dom := .static, dynSince := none } })).release c)
    else .next s
  | _ => .next s

/-- R214. At its START cycle a core's compute context enters the static domain; its first bundle issues at START plus GAP. -/
def execTaskStart (c : Nat) (s : State) : Result :=
  let k := s.core c
  let h := s.heat (s.partOf c)
  if k.task ∧ k.started = false ∧ k.seq.dom = .notStarted ∧ k.startAt = s.gcount ∧ (h.phase = .running ∨ h.phase = .stopping) then
    let s1 := s.modCore c (fun k => { k with started := true, seq := { k.seq with dom := .static, half := false } })
    .next ((s1.landAtPos c 0 false).scheduleIssue c s.gcount)
  else .next s

end Sys2Proof.Machine
end

