-- ==== Sys2Proof/Machine/Bank.lean ====
section
/-! DEFINITION. Static accesses to the scratchpad banks (R21 to R24): their registration, the detection of conflicts with
the record of R174, and what each plain access does when it performs (R160, R166, R177 to R180). -/

namespace Sys2Proof.Machine

/-- Requester codes of R23. -/
def codeMem : Nat := 0
def codeMatA : Nat := 1
def codeMatB : Nat := 2
def codeScale : Nat := 3
def codeRmw : Nat := 4
def codeVstn : Nat := 5
def codeCopy : Nat := 6

/-- Bytes of a core's scratchpad read and written; a write leaves no error behind (log entry 63). -/
def Core.load (k : Core) (a n : Nat) : List Byte := k.spad.readBytes a n
def Core.store (k : Core) (a : Nat) (bs : List Byte) : Core :=
  { k with spad := k.spad.writeBytes a bs,
           badSpad := k.badSpad.filter (fun x => decide (x < a) || decide (a + bs.length ≤ x)) }


/-- An access of the running operation to its core's scratchpad (R22), occupying `banks` from `first` to `last` cycles after
the present one; it answers the access's number. -/
def State.openAccess (s : State) (code : Nat) (banks : BitVec 16) (addr first last : Nat) (op : BankOp) : State × Nat :=
  let c := s.cur.core
  let k := s.core c
  let a : Access := { id := k.nextId, code := code, issue := s.gcount, src := c, banks := banks, addr := addr,
                      first := s.gcount + first, last := s.gcount + last, conflictAt := none, pos := s.cur.pos,
                      seg := s.cur.seg, op := op }
  (s.setCore c { k with acc := k.acc ++ [a], nextId := k.nextId + 1 }, a.id)

/-- An access whose moments are rows of BANK_ACCESS: it takes its banks in its first cycle and performs in its last. -/
def State.access (s : State) (code : Nat) (banks : BitVec 16) (addr first last : Nat) (op : BankOp) : State :=
  let c := s.cur.core
  let (s1, id) := s.openAccess code banks addr first last op
  (s1.at (s1.gcount + first) (.bankAccess c id .occupy)).at (s1.gcount + last) (.bankAccess c id .perform)

/-- The access of a number. -/
def Core.accOf (k : Core) (id : Nat) : Option Access := k.acc.find? (fun a => decide (a.id = id))

/-- An access leaves the list. -/
def Core.closeAccess (k : Core) (id : Nat) : Core := { k with acc := k.acc.filter (fun a => decide (a.id ≠ id)) }

/-- The source read of tile k and the destination write of tile k − 1 of one copy, which never conflict (R188). -/
def copyPair : BankOp → BankOp → Bool
  | .copySrc i k, .copyDst j l => decide (i = j) && decide (k = l + 1)
  | _, _ => false

/-- Two accesses that occupy a common bank when both are active. -/
def clash (a b : Access) : Bool :=
  decide (a.id ≠ b.id) && decide (a.banks &&& b.banks ≠ 0) && !(copyPair a.op b.op || copyPair b.op a.op)

/-- The accesses active in a cycle. -/
def Core.active (k : Core) (t : Nat) : List Access := k.acc.filter (fun a => decide (a.first ≤ t) && decide (t ≤ a.last))

/-- The order of requesters in a record (R23): code, then issue cycle, then source core. -/
def reqBefore (a b : Access) : Bool :=
  decide (a.code < b.code) || (decide (a.code = b.code) &&
    (decide (a.issue < b.issue) || (decide (a.issue = b.issue) && decide (a.src < b.src))))

/-- The first requester of a list in that order. -/
def leastReq : List Access → Option Access
  | [] => none
  | a :: rest =>
    match leastReq rest with
    | some b => if reqBefore b a then some b else some a
    | none => some a

/-- The conflict record of R174. -/
def conflictDetail (origin : Nat) (cycle : Int) (bank : Nat) (a b : Access) : Nat :=
  cycle64 cycle + cycle64 ((a.issue : Int) - origin) * 2 ^ 64 + cycle64 ((b.issue : Int) - origin) * 2 ^ 128 +
    bank * 2 ^ 192 + a.code % 16 * 2 ^ 196 + b.code % 16 * 2 ^ 200 + a.src % 256 * 2 ^ 204 + b.src % 256 * 2 ^ 212

/-- The bundle of the trapping core that a conflict names (R240). -/
def conflictBundle (c : Nat) (a b : Access) : Option (Nat × Nat) :=
  let arr := fun (x : Access) => decide (x.code = codeVstn)
  if arr a && arr b then none
  else if a.src = c then some (a.pos, a.seg)
  else if b.src = c then some (b.pos, b.seg)
  else none

/-- The conflicts of the present cycle (R23): every access that meets one is void from here on, and one bank-conflict trap
names the lowest conflicting bank and its first two requesters. A cycle's later occupants find the conflict marked. -/
def State.detect (s : State) (c : Nat) : State :=
  let k := s.core c
  let t := s.gcount
  let act := k.active t
  let involved := act.filter (fun a => act.any (fun b => clash a b))
  if involved.any (fun a => decide (a.first = t) && a.conflictAt.isNone) then
    let ids := involved.map (fun a => a.id)
    let s1 := s.modCore c (fun k => { k with acc := k.acc.map (fun a =>
      if ids.contains a.id && a.conflictAt.isNone then { a with conflictAt := some t } else a) })
    let at_ := fun (n : Nat) => involved.filter (fun a =>
      a.banks.getLsbD n && involved.any (fun b => clash a b && b.banks.getLsbD n))
    match (List.range 16).find? (fun n => !(at_ n).isEmpty) with
    | some n =>
      match leastReq (at_ n) with
      | some a =>
        match leastReq ((at_ n).filter (fun x => decide (x.id ≠ a.id))) with
        | some b =>
          s1.raiseTrap c { cls := 4, cause := 0, fmask := 0, bundle := conflictBundle c a b,
                           detail := conflictDetail (s1.heat (s1.partOf c)).origin (s1.heatCycle c) n a b }
        | none => s1
      | none => s1
    | none => s1
  else s

/-- The new value of a read-modify-write (R180). -/
def atomOp (fmt op old x : Nat) : Nat :=
  match op with
  | 0 => if fmt = 10 then roundF32 (xadd 0 (widen 10 old) (widen 10 x)) else (old + x) % 2 ^ 32
  | 1 => fmtPick fmt false old x
  | 2 => fmtPick fmt true old x
  | 3 => old &&& x
  | 4 => old ||| x
  | 5 => old ^^^ x
  | _ => x

/-- The elements a gather reads: element i from the window at the index element i of `idx` names (R178). -/
def gatherElems (k : Core) (w window : Nat) (idx : VReg) : VReg :=
  let e := 131072 / w
  let bs := k.load window 16384
  BitVec.ofNat 8192 (packList w ((elems w (8192 / w) idx.toNat).map (fun t =>
    natOf ((bs.drop (t % e * (w / 8))).take (w / 8)))))

/-- A scatter's stores in ascending order of its elements (R178). -/
def scatterElems (k : Core) (w window : Nat) (v idx : VReg) : Core :=
  let e := 131072 / w
  (List.zip (elems w (8192 / w) idx.toNat) (elems w (8192 / w) v.toNat)).foldl
    (fun k p => k.store (window + p.1 % e * (w / 8)) (bytesOf (w / 8) p.2)) k

/-- One operand of a step read, with the poison of its granule (R164, R264, R166). -/
def State.stepRead (s : State) (c : Nat) (a : Access) (step : Nat) (isA : Bool) : State :=
  let k := s.core c
  match sget none k.steps step with
  | some r =>
    let n := if isA then stepBytesA r.fmt else stepBytesB r.fmt
    let v : VReg := BitVec.ofNat 8192 (natOf (k.load a.addr n))
    let r1 := if isA then { r with a := some v } else { r with b := some v }
    let r2 := { r1 with poison := r.poison || k.poisoned a.addr n }
    s.setCore c { k with steps := sset none k.steps step (some r2) }
  | none => s

/-- What a plain access does when it performs unvoided (R23). -/
def State.performPlain (s : State) (c : Nat) (a : Access) : State :=
  let k := s.core c
  match a.op with
  | .vload d =>
    s.landAt c (a.last + 4) a.issue .mem (.vreg d (BitVec.allOnes 256) (BitVec.ofNat 8192 (natOf (k.load a.addr 1024))))
  | .vstore v | .vstn v => s.setCore c (k.store a.addr (bytesOf 1024 v.toNat))
  | .sload d => s.landAt c (a.last + 3) a.issue .mem (.sreg d (BitVec.ofNat 64 (natOf (k.load a.addr 8))))
  | .sstore v => s.setCore c (k.store a.addr (bytesOf 8 v.toNat))
  | .gather d w idx =>
    s.landAt c (a.last + 3) a.issue .mem (.vreg d (BitVec.allOnes 256) (gatherElems k w a.addr idx))
  | .scatter v w idx => s.setCore c (scatterElems k w a.addr v idx)
  | .kload d => s.landAt c (a.last + 4) a.issue .prm (.kreg d (BitVec.ofNat 64 (natOf (k.load a.addr 8))))
  | .kstore v => s.setCore c (k.store a.addr (bytesOf 8 v.toNat))
  | .stepA n => s.stepRead c a n true
  | .stepB n => s.stepRead c a n false
  | .atom _ fmt op x old =>
    match old with
    | some o => s.setCore c (k.store a.addr (bytesOf 4 (atomOp fmt op o.toNat x.toNat)))
    | none => s
  | .callStore hdr idx => s.setCore c (k.store a.addr (bytesOf 8 hdr ++ bytesOf 2 idx ++ zeros 6))
  | _ => s

/-- An `ATOM` or `RED` reads its word at c+2 (R29, R180). -/
def State.atomRead (s : State) (c id : Nat) : State :=
  s.modCore c (fun k => { k with acc := k.acc.map (fun a =>
    match a.op with
    | .atom isA fmt op x _ =>
      if a.id = id then { a with op := .atom isA fmt op x (some (BitVec.ofNat 32 (natOf (k.load a.addr 4)))) } else a
    | _ => a) })

/-- R29. The old value of an `ATOM` arrives at the load queue's tail at c+7: unless a conflict in its first two cycles voided
it, in which case nothing is pushed (R23). -/
def execLoadQueuePush (c id : Nat) (s : State) : Result :=
  let k := s.core c
  match k.accOf id with
  | some a =>
    let early := match a.conflictAt with | some t => decide (t ≤ a.first + 1) | none => false
    let k1 := { k.closeAccess id with lqOut := k.lqOut - 1 }
    match a.op, early with
    | .atom true _ _ _ (some o), false => .next (s.setCore c { k1 with lq := k1.lq ++ [o.setWidth 64] })
    | _, _ => .next (s.setCore c k1)
  | none => .next s

end Sys2Proof.Machine
end

