-- ==== Sys2Proof/Machine/Control.lean ====
section
/-! DEFINITION. The CTL slot (R101 to R121, R135): branches and calls, loops, halting, triggers, waits, software traps and
the firmware-only control instructions. A CTL operation runs after the other slots of its bundle, which so see the loops as
they stand at issue. -/

namespace Sys2Proof.Machine

/-- The context of the running operation. -/
def State.me (s : State) : Core := s.core s.cur.core

/-- The sequencer of the running compute context updated. -/
def State.modSeq (s : State) (f : Seq → Seq) : State := s.modCore s.cur.core (fun k => { k with seq := f k.seq })

/-- The firmware context of the running operation updated. -/
def State.modFw (s : State) (f : FwCtx → FwCtx) : State := s.modCore s.cur.core (fun k => { k with fw := f k.fw })

/-- R72. The NOP of a slot. -/
def execNop (_slot : Slot) (s : State) : Result := .next s

/-- A branch of the running context to a target after two delay bundles (R101, R324). -/
def State.branchTo (s : State) (t : Target) : State :=
  if s.cur.fw then s.modFw (fun f => { f with branch := some (t, 3) })
  else s.modSeq (fun q => { q with branch := some (t, 3) })

/-- The header of the segment a CB field names, the current one or the next one, and whether there is none (R76, R98). -/
def Core.segOf (k : Core) (next : Bool) : Nat × Bool :=
  let x := k.half k.seq.half
  if next then (if x.lastSeg then (0, true) else (x.next, false)) else (x.hdr, false)

/-- The target of bundle `idx` of the current or the next segment (R101); in a firmware context the raw value decides
(R323, R324). -/
def State.segTarget (s : State) (next : Bool) (idx : Nat) (raw : Word64) : Target :=
  let (hdr, away) := if s.cur.fw then (0, false) else s.me.segOf next
  { hdr := hdr, idx := idx, raw := raw, away := away }

/-- The target of a CB branch (R101, R323). -/
def State.cbTarget (s : State) (idx : BitVec 10) (seg : Bool) : Target := s.segTarget seg idx.toNat (idx.setWidth 64)

/-- The target that an s register names (R102); in a firmware context its raw value decides (R324). -/
def State.regTarget (s : State) (r : SReg) : Target :=
  let v := s.rs r.toNat
  s.segTarget (v.getLsbD 10) (fld v.toNat 0 10) v

/-- The position three bundles after a call, with its segment's header (R105). A position at or after a recorded one is of
the recorded segment (R96); where the position lies beyond the next segment it names no bundle there (log entry 71). -/
def Core.returnPos (k : Core) : Nat × Nat :=
  let x := k.half k.seq.half
  let p := k.seq.pos + 3
  let covered := match x.rec_ with | some r => decide (r.pos ≤ p) | none => false
  if p < x.bundles.length ∨ covered = true then (x.hdr, p)
  else if x.lastSeg then (0, p - x.bundles.length)
  else (x.next, p - x.bundles.length)

/-- The scratchpad address of a call record (R105). -/
def recordAddr (csp : Nat) : Nat := csp % Config.spadBytes

/-- A call of the running context (R105). Where a firmware context keeps its return record the spec does not say: it is a
list of the context's own (log entry 13). -/
def State.pushReturn (s : State) : State :=
  let k := s.me
  if s.cur.fw then s.modFw (fun f => { f with calls := (f.pos + 3) :: f.calls })
  else
    let (hdr, idx) := k.returnPos
    let a := recordAddr k.csp.toNat
    (s.access codeMem (rangeBanks a 16) a 2 2 (.callStore hdr idx)).landIn 1 .ctl (.sysreg 1 (k.csp + 16))

/-- R101. -/
def execBr (g : Gate) (idx : BitVec 10) (seg : Bool) (s : State) : Result :=
  runOp (.br g idx seg) false g s (fun s => .next (s.branchTo (s.cbTarget idx seg)))

/-- R105. -/
def execCall (g : Gate) (idx : BitVec 10) (seg : Bool) (s : State) : Result :=
  runChecked (.call g idx seg) g s (fun s => .next (s.pushReturn.branchTo (s.cbTarget idx seg)))

/-- R102. -/
def execBri (g : Gate) (r : SReg) (s : State) : Result :=
  runOp (.bri g r) false g s (fun s => .next (s.branchTo (s.regTarget r)))

/-- R105. -/
def execCalli (g : Gate) (r : SReg) (s : State) : Result :=
  runChecked (.calli g r) g s (fun s => .next (s.pushReturn.branchTo (s.regTarget r)))

/-- The target of a `RET` whose record is still to be read. -/
def Target.unread : Target := { hdr := 0, idx := 0, raw := 0, away := false }

/-- R105. The record is read at c+2, in which cycle the second delay bundle issues; the target it names is then known. -/
def execRet (g : Gate) (s : State) : Result :=
  runChecked (.ret g) g s (fun s =>
    let k := s.me
    if s.cur.fw then
      match k.fw.calls with
      | p :: rest =>
        .next ((s.modFw (fun f => { f with calls := rest })).branchTo { hdr := 0, idx := p, raw := BitVec.ofNat 64 p, away := false })
      | [] =>
        let p := Config.freeReturn s.choice
        let s1 : State := { s with choice := s.choice + 1 }
        .next (s1.branchTo { hdr := 0, idx := p, raw := BitVec.ofNat 64 p, away := false })
    else
      let a := recordAddr (k.csp.toNat - 16)
      let s1 := (s.access codeMem (rangeBanks a 16) a 2 2 .callLoad).landIn 1 .ctl (.sysreg 1 (k.csp - 16))
      .next (s1.branchTo Target.unread))

/-- The record a `RET` read at c+2 becomes the target of its pending branch, also of the one that a restart mark on its first delay
bundle has shadowed in the meantime (R105, R243). -/
def State.returnRead (s : State) (c : Nat) (a : Access) : State :=
  let k := s.core c
  let hdr := natOf (k.load a.addr 8)
  let idx := natOf (k.load (a.addr + 8) 2)
  let t : Target := { hdr := hdr, idx := idx, raw := 0, away := false }
  s.modCore c (fun k =>
    let fill := fun (q : Seq) => { q with branch := q.branch.map (fun b => (t, b.2)) }
    let unread := fun (q : Seq) => q.branch.any (fun b => decide (b.1 = Target.unread))
    { k with seq := fill k.seq,
             shadow := k.shadow.map (fun x => if unread x.seq && unread k.seq then { x with seq := fill x.seq } else x) })

/-- The ring segments of a loop-table entry (R106). -/
def ringsOf (e : Nat) : List (Nat × Nat) :=
  ([128, 144, 160, 176].map (fun lo => (768 + fld e lo 8, fld e (lo + 8) 8))).filter (fun p => decide (p.2 ≠ 0))

/-- R108. The loop record of entry LTE with the count of CNT, or no iteration. -/
def execLoop (g : Gate) (cnt : SReg) (lte : BitVec 8) (body : BitVec 10) (lvl : BitVec 3) (s : State) : Result :=
  runOp (.loop g cnt lte body lvl) false g s (fun s =>
    let k := s.me
    let e := ((sget none k.loopTab lte.toNat).getD 0).toNat
    let n := if cnt = 0 then fld e 0 32 else fld (k.rs cnt.toNat).toNat 0 32
    let len := body.toNat + 1
    if n = 0 then .next (s.modSeq (fun q => { q with skip := len }))
    else
      let r : LoopRec := { lvl := lvl.toNat, entry := lte.toNat, n := n, orig := n, s := fld e 32 4, j := 0, j0 := 0,
                           start := k.seq.pos + 1, body := len, kind := fld e 38 2, ibase := fld e 64 32,
                           istep := fld e 96 32, cutstr := fld e 40 12, rings := ringsOf e }
      .next (s.modSeq (fun q => { q with loops := r :: q.loops })))

/-- R113. N := min(N, j + 1); a resumed loop takes the count so reduced (log entry 18). -/
def execLexit (g : Gate) (lvl : BitVec 3) (s : State) : Result :=
  runOp (.lexit g lvl) false g s (fun s =>
    .next (s.modSeq (fun q => { q with loops := q.loops.map (fun l =>
      if l.lvl = lvl.toNat then { l with n := min l.n (l.j + 1), orig := min l.orig (l.j + 1) } else l) })))

/-- R114. -/
def execHalt (g : Gate) (s : State) : Result :=
  runOp (.halt g) false g s (fun s => .next (s.modSeq (fun q => { q with dom := .halted })))

/-- R115, R220. The entry fires once per run; its token reaches its queue at c+1. -/
def execTrig (g : Gate) (imm8 : BitVec 8) (s : State) : Result :=
  runOp (.trig g imm8) false g s (fun s =>
    let p := s.partOf s.cur.core
    match sget none (s.heat p).triggers imm8.toNat with
    | some t =>
      if t.fired then .next s
      else
        let s1 := s.modHeat p (fun h => { h with triggers := sset none h.triggers imm8.toNat (some { t with fired := true }) })
        .next (s1.landIn 1 .ctl (.token t.queue t.token))
    | none => .next s)

/-- The phase of a barrier a wait watches: some while a post has been made in it (R117, R201). -/
def State.watch (s : State) (bar : Nat) : Option Nat :=
  if (s.me.rb bar).settled.posted then some s.gcount else none

/-- R117. -/
def execWaitd (g : Gate) (bar : BarReg) (r : SReg) (s : State) : Result :=
  runChecked (.waitd g bar r) g s (fun s =>
    let c := s.cur.core
    let d := s.ofHeatCycle c (s.timeOf c r)
    let w := s.watch bar.toNat
    .next ((s.modSeq (fun q => { q with hold := .waitd bar.toNat w d s.cur.pos s.cur.seg })).at d (.waitdDeadline c)))

/-- R118. From c+1 the core is in the dynamic domain. -/
def execWaita (g : Gate) (bar : BarReg) (s : State) : Result :=
  runOp (.waita g bar) false g s (fun s =>
    let c := s.cur.core
    let w := s.watch bar.toNat
    let s1 := s.modSeq (fun q =>
      { q with hold := .waita bar.toNat w, dom := .dynamic, dynSince := some (q.dynSince.getD (s.gcount + 1)) })
    .next (if w.isNone then s1.at (s1.gcount + 1) (.waitaRelease c) else s1))

/-- R119. -/
def execAlign (g : Gate) (r : SReg) (s : State) : Result :=
  runChecked (.align g r) g s (fun s =>
    let c := s.cur.core
    let p := s.ofHeatCycle c (s.timeOf c r)
    .next ((s.modSeq (fun q => { q with hold := .align p })).at p (.alignPointReached c)))

/-- R116, R135. A compute context's software trap; in the firmware context a fault of the context (R350). -/
def execTrap (g : Gate) (imm8 : BitVec 8) (s : State) : Result :=
  runOp (.trap g imm8) false g s (fun s =>
    let c := s.cur.core
    if s.cur.fw then .next (s.modFw (fun f => { f with trapped := some imm8.toNat }))
    else .next (s.raiseTrap c { cls := 14, cause := imm8.toNat, fmask := 0, bundle := some (s.cur.pos, s.cur.seg), detail := 0 }))

/-- R121, R326. The context goes into retention after its bundle. -/
def execChill (g : Gate) (s : State) : Result :=
  runOp (.chill g) false g s (fun s => .next (s.modFw (fun f =>
    { f with fcause := f.fcause &&& ~~~(0x100 : Word64), fepc := BitVec.ofNat 64 (f.pos + 1), mode := .chilled })))

/-- R121, R326. FIN := 0 and issue resumes at FEPC. -/
def execFret (g : Gate) (s : State) : Result :=
  runOp (.fret g) false g s (fun s => .next (s.modFw (fun f =>
    { f with fcause := f.fcause &&& ~~~(0x100 : Word64), resume := some f.fepc.toNat })))

end Sys2Proof.Machine
end

