-- ==== Sys2Proof/Machine/Engine.lean ====
section
/-! DEFINITION. What the engines of a core share (R182 to R184, R242, R246, R248): the fields of a command record, the cycle
from which work no longer begins, accesses of engine work, and the bytes that channel timelines deliver (R290). -/

namespace Sys2Proof.Machine

/-- The fields every record begins with (R183). -/
def recStart (r : Nat) : Int := signedVal 64 r
def recKind (r : Nat) : Nat := fld r 64 8
def recBar (r : Nat) : Option Nat := if fld r 79 1 = 1 then some (fld r 72 5) else none

/-- R183. The common fields are legal; kinds whose BAR must be 0 say so. -/
def recOk (kind : Nat) (noBar : Bool) (r : Nat) : Bool :=
  decide (fld r 80 48 = 0) && decide (recKind r = kind) && decide (fld r 77 2 = 0) && (!noBar || decide (fld r 72 8 = 0))

/-- A range lies in a core's scratchpad (R21, R184). -/
def inSpad (a n : Nat) : Bool := decide (a + n ≤ Config.spadBytes)

/-! The stop of engine work (R242, R248). -/

/-- S_c of a core (R248): one more than its stop cycle. -/
def Core.stopAfter (k : Core) (h : Heat) : Nat := k.lastCycle h + 1

/-- The core halted before the stop request of its heat (R248). -/
def haltedBefore (h : Heat) (k : Core) : Bool :=
  match h.stopReq with
  | some r => decide (k.seq.dom = .halted) && decide (k.stopAfter h ≤ r)
  | none => false

/-- S_c of a core in a pre-emption, once it stands: the core has stopped or halted, or its next bundle is its stop point (R248). -/
def Core.stopKnown (k : Core) (h : Heat) : Option Nat :=
  match k.seq.dom with
  | .stopped | .halted => some (k.stopAfter h)
  | _ => if (k.foreseen h).isSome then some (k.stopAfter h) else none

/-- The cycle from which work that a core issued no longer begins (R242, R248): S after a trap, the core's S_c in a
pre-emption once it stands, the greatest S_c of the others for a core that had halted before the request. -/
def State.workStop (s : State) (c : Nat) : Option Nat :=
  let h := s.heat (s.partOf c)
  let k := s.core c
  match h.phase with
  | .stopping =>
    if h.byTrap then h.stopS
    else if haltedBefore h k then
      let others := (h.cores.map s.core).filter (fun x => !haltedBefore h x)
      if others.all (fun x => (x.stopKnown h).isSome) then some (others.foldl (fun m x => max m (x.stopAfter h)) 0) else none
    else k.stopKnown h
  | .trapped | .atCut => some 0
  | _ => none

/-- Work with this start begins (R242). -/
def State.begins (s : State) (c start : Nat) : Bool :=
  match s.workStop c with
  | some S => decide (start < S)
  | none => true

/-- The present cycle is the quiescent cycle of the core's heat, in which nothing of it performs any more (R242). -/
def State.quietNow (s : State) (c : Nat) : Bool :=
  let h := s.heat (s.partOf c)
  decide (h.phase = .stopping) && decide (h.quiet = some s.gcount)

/-- Arrivals and checks still take place in the present cycle (R242). -/
def State.flows (s : State) (c : Nat) : Bool := s.begins c s.gcount

/-! Accesses of engine work. -/

/-- An access of engine work of a core (R23): requester code 6 with the issue cycle and the bundle of its command. Conflicts are
looked for once every access of the cycle has taken its banks. -/
def State.engineAccess (s : State) (c issue pos seg : Nat) (banks : BitVec 16) (addr last : Nat) (op : BankOp) : State :=
  let k := s.core c
  let a : Access := { id := k.nextId, code := codeCopy, issue := issue, src := c, banks := banks, addr := addr,
                      first := s.gcount, last := last, conflictAt := none, pos := pos, seg := seg, op := op }
  (s.setCore c { k with acc := k.acc ++ [a], nextId := k.nextId + 1 }).at s.gcount (.bankAccess c a.id .occupy)

/-- A read of scratchpad bytes raises the ECC trap when one of them has an uncorrectable error (R239, class 8 cause 2). -/
def State.spadReadError (s : State) (c : Nat) (reads : Nat → Bool) (bundle : Option (Nat × Nat)) : State :=
  match (s.core c).badSpad.find? reads with
  | some x => s.raiseTrap c { cls := 8, cause := 2, fmask := 0, bundle := bundle, detail := x }
  | none => s

/-- The access with an operation. -/
def Core.accWith (k : Core) (op : BankOp) : Option Access := k.acc.find? (fun a => decide (a.op = op))

/-- An access with this operation met a conflict. -/
def Core.voided (k : Core) (op : BankOp) : Bool :=
  match k.accWith op with | some a => a.conflictAt.isSome | none => false

/-- The accesses with an operation leave the list. -/
def Core.dropAcc (k : Core) (op : BankOp) : Core := { k with acc := k.acc.filter (fun a => decide (a.op ≠ op)) }

/-! Bytes that an `RD` delivered (R290). -/

/-- The latest delivery of a unit's data to an engine that has arrived. -/
def latestOf : List Delivery → Option Delivery
  | [] => none
  | d :: rest =>
    match latestOf rest with
    | some x => if x.at_ < d.at_ then some d else some x
    | none => some d

/-- A byte of HBM as an engine of a core holds it: the latest delivery of its unit (log entry 15). The heat loader proves
that there is one (R290); where there is none the byte is a free value. -/
def State.delivered (s : State) (c pa : Nat) (pour : Bool) : Byte :=
  let l := (s.core c).deliv.filter (fun d =>
    decide (d.pa = pa / 64 * 64) && decide (d.pour = pour) && decide (d.at_ ≤ s.gcount))
  match latestOf l with
  | some d => BitVec.ofNat 8 (elem 8 d.data.toNat (pa % 64))
  | none => Config.freeByte (s.choice + pa)

/-- The lead of a `WR` and the way of an `RD`'s data between a channel and a core (R290). -/
def wrLead (c ch : Nat) : Nat := if c / 64 = chanDie ch then 24 else 64
def rdDelay (c ch : Nat) : Nat := if c / 64 = chanDie ch then 40 else 80

end Sys2Proof.Machine
end

