-- ==== Sys2Proof/Machine/Copy.lean ====
section
/-! DEFINITION. The copy engine (R185 to R188, R207): the record of a `COPY`, its checks, its tiles. -/

namespace Sys2Proof.Machine

/-! The record (R185). -/

def copyCount (r d : Nat) : Nat := fld r (96 * d + 320) 16
def copyValid (r d : Nat) : Nat := fld r (96 * d + 336) 16
def copySstr (r d : Nat) : Int := signedVal 32 (fld r (96 * d + 352) 32)
def copyDstr (r d : Nat) : Int := signedVal 32 (fld r (96 * d + 384) 32)
def copySfmt (r : Nat) : Nat := fld r 256 5
def copyDfmt (r : Nat) : Nat := fld r 261 5
def copySrc (r : Nat) : Nat := fld r 128 64
def copyDst (r : Nat) : Nat := fld r 192 64

/-- A bit copy (R185). -/
def copyIsBit (r : Nat) : Bool := decide (copySfmt r = copyDfmt r) && decide (fld r 269 8 = 0x7F)

/-! Tiles (R187). -/

/-- Tiles along i0 and along i1. -/
def copyTilesA (r : Nat) : Nat := (copyCount r 0 + 15) / 16
def copyTilesB (r : Nat) : Nat := (copyCount r 1 + 63) / 64

/-- T (R187). -/
def copyTiles (r : Nat) : Nat :=
  [2, 3, 4, 5, 6].foldl (fun acc d => acc * copyCount r d) (copyTilesA r * copyTilesB r)

/-- The indices i2 to i6 of a count of the tiles beyond a and b, the lowest dimension varying fastest. -/
def copyHigh (r : Nat) : List Nat → Nat → List Nat
  | [], _ => []
  | d :: rest, x => x % copyCount r d :: copyHigh r rest (x / copyCount r d)

/-- The index tuples of tile k in traversal order: i1 outer, i0 inner (R187). -/
def copyTuples (r k : Nat) : List (List Nat) :=
  let a := k % copyTilesA r
  let b := k / copyTilesA r % copyTilesB r
  let high := copyHigh r [2, 3, 4, 5, 6] (k / copyTilesA r / copyTilesB r)
  (List.range (min 64 (copyCount r 1 - 64 * b))).flatMap (fun y =>
    (List.range (min 16 (copyCount r 0 - 16 * a))).map (fun x => (16 * a + x) :: (64 * b + y) :: high))

/-- The position of a tuple with the given strides (R186). -/
def copyAt (str : Nat → Int) (t : List Nat) : Int :=
  (t.zipIdx.map (fun p => (p.1 : Int) * str p.2)).foldl (· + ·) 0

/-- The tuple is valid along every dimension (R186). -/
def copyIsValid (r : Nat) (t : List Nat) : Bool := t.zipIdx.all (fun p => decide (p.1 < copyValid r p.2))

/-- The bit of memory at which element e of a tensor starts (R185). -/
def elemBit (base : Nat) (f : Nat) (e : Int) : Int := 8 * (base : Int) + (fmtWidth f : Int) * e

/-- The bytes that hold an element (R185), none when it begins below address 0. -/
def elemBytes (base : Nat) (f : Nat) (e : Int) : Option (List Nat) :=
  let b := elemBit base f e
  if b < 0 then none
  else
    let lo := b.toNat / 8
    let hi := (b.toNat + fmtWidth f - 1) / 8
    some ((List.range (hi + 1 - lo)).map (fun i => lo + i))

/-- Every byte of an element lies in its space (R184, R185). -/
def State.elemInSpace (s : State) (c w f : Nat) (e : Int) : Bool :=
  match elemBytes (wordAddr w) f e with
  | none => false
  | some l => l.all (fun x =>
    if wordSpace w = 0 then decide (x < Config.spadBytes) else ((s.heat (s.partOf c)).pinned x).isSome)

/-- Every index tuple of the copy. -/
def copyAll (r : Nat) : List (List Nat) := (List.range (copyTiles r)).flatMap (copyTuples r)

/-- Check 2 of R182 for a `COPY` (R185). -/
def State.copyLegal (s : State) (c r : Nat) : Bool :=
  recOk 0x10 true r && decide (fld r 992 32 = 0) && decide (fld r 277 43 = 0) && decide (copySfmt r ≤ 16) &&
    decide (copyDfmt r ≤ 16) && decide (wordSpace (copySrc r) ≤ 1) && decide (wordSpace (copyDst r) ≤ 1) &&
    (copyIsBit r || (decide (copySfmt r < 14) && decide (copyDfmt r < 14))) &&
    (copyAll r).all (fun t =>
      (!copyIsValid r t || s.elemInSpace c (copySrc r) (copySfmt r) (copyAt (copySstr r) t)) &&
        s.elemInSpace c (copyDst r) (copyDfmt r) (copyAt (copyDstr r) t))

/-- Check 5: a byte of a valid source element is a byte of a destination element (R186). -/
def copyOverlaps (r : Nat) : Bool :=
  decide (wordSpace (copySrc r) = wordSpace (copyDst r)) &&
    (let dst := (copyAll r).flatMap (fun t =>
       (elemBytes (wordAddr (copyDst r)) (copyDfmt r) (copyAt (copyDstr r) t)).getD [])
     (copyAll r).any (fun t => copyIsValid r t &&
       ((elemBytes (wordAddr (copySrc r)) (copySfmt r) (copyAt (copySstr r) t)).getD []).any (fun x => dst.contains x)))

/-- Check 3: START falls within the span in which the engine is busy with an earlier copy (R187). -/
def Core.copyBusy (k : Core) (start : Nat) : Bool :=
  k.copies.any (fun x => decide (x.start ≤ start) && decide (start < x.start + 16 * x.tiles))

/-- P_k (R187). -/
def copyPerform (x : CopyRun) (tile : Nat) : Nat :=
  x.start + 16 * tile + (if wordSpace (copySrc x.rec_.toNat) = 0 then 31 else 95)

/-- A copy accepted (R187). -/
def State.acceptCopy (s : State) (c : Nat) (a : Access) (r start : Nat) : State :=
  if copyTiles r = 0 then s
  else
    let k := s.core c
    let x : CopyRun := { id := k.nextId, rec_ := BitVec.ofNat 1024 r, issue := a.issue, start := start,
                         tiles := copyTiles r, pos := a.pos, seg := a.seg, read := [] }
    (s.setCore c { k with copies := k.copies ++ [x], nextId := k.nextId + 1 }).at start (.copyTile c x.id 0 .occupy)

/-! A tile (R186, R187). -/

/-- The scratchpad banks that bytes lie in. -/
def banksOfBytes (l : List Nat) : BitVec 16 := bankBits (l.map bankOf)

/-- The bytes of the valid source elements of a tile. -/
def tileSource (r k : Nat) : List Nat :=
  ((copyTuples r k).filter (copyIsValid r)).flatMap (fun t =>
    (elemBytes (wordAddr (copySrc r)) (copySfmt r) (copyAt (copySstr r) t)).getD [])

/-- The bytes of the destination elements of a tile. -/
def tileDest (r k : Nat) : List Nat :=
  (copyTuples r k).flatMap (fun t =>
    (elemBytes (wordAddr (copyDst r)) (copyDfmt r) (copyAt (copyDstr r) t)).getD [])

/-- A source byte as the engine reads it: from the scratchpad, or as delivered (R187, R290). -/
def State.copyByte (s : State) (c space x : Nat) : Byte :=
  if space = 0 then (s.core c).spad.read x
  else
    match (s.heat (s.partOf c)).pinned x with
    | some pa => s.delivered c pa false
    | none => Config.freeByte (s.choice + x)

/-- A source element (R185). -/
def State.copyElem (s : State) (c w f : Nat) (e : Int) : Nat :=
  let bs := ((elemBytes (wordAddr w) f e).getD []).map (s.copyByte c (wordSpace w))
  elem (fmtWidth f) (natOf bs / 2 ^ ((elemBit (wordAddr w) f e).toNat % 8)) 0

/-- The result of a position of the copy (R186). -/
def State.copyResult (s : State) (c r : Nat) (t : List Nat) : Nat :=
  if !copyIsValid r t then 0
  else
    let x := s.copyElem c (copySrc r) (copySfmt r) (copyAt (copySstr r) t)
    if copyIsBit r then x
    else convertValue (copyDfmt r) (fld r 266 2) (decide (fld r 268 1 = 1))
      (xmul (widen (copySfmt r) x) (scaleE8M0 (fld r 269 8)))

/-- Bits put into bytes: `w` bits of `v` from bit `b` on, over what the bytes hold already. -/
def putBits (m : Sparse (Byte × Byte)) (b w v : Nat) : Sparse (Byte × Byte) :=
  let mask := (2 ^ w - 1) * 2 ^ (b % 8)
  let val := v % 2 ^ w * 2 ^ (b % 8)
  (List.range ((b % 8 + w + 7) / 8)).foldl (fun m i =>
    let mk := BitVec.ofNat 8 (elem 8 mask i)
    let vl := BitVec.ofNat 8 (elem 8 val i)
    let old := sget (0, 0) m (b / 8 + i)
    sset (0, 0) m (b / 8 + i) (old.1 ||| mk, (old.2 &&& ~~~mk) ||| vl)) m

/-- The destination bytes of a tile, later elements over earlier ones (R186). -/
def State.tileBytes (s : State) (c r k : Nat) : List (Nat × Byte × Byte) :=
  let m := (copyTuples r k).foldl (fun m t =>
    putBits m (elemBit (wordAddr (copyDst r)) (copyDfmt r) (copyAt (copyDstr r) t)).toNat (fmtWidth (copyDfmt r))
      (s.copyResult c r t)) ([] : Sparse (Byte × Byte))
  m.map (fun p => (p.1, p.2.1, p.2.2))

/-- The bytes of a performed tile: into the scratchpad, or on their way to their `WR` (R187). -/
def State.performTile (s : State) (c r : Nat) (l : List (Nat × Byte × Byte)) : State :=
  if wordSpace (copyDst r) = 0 then
    s.modCore c (fun k => l.foldl (fun k p => k.store p.1 [(k.spad.read p.1 &&& ~~~p.2.1) ||| p.2.2]) k)
  else
    let h := s.heat (s.partOf c)
    let q := l.filterMap (fun p => (h.pinned p.1).map (fun pa =>
      ({ at_ := s.gcount, pa := pa, mask := p.2.1, val := p.2.2 } : OutByte)))
    s.modCore c (fun k => { k with outq := k.outq ++ q })

/-- A copy of a number. -/
def Core.copyOf (k : Core) (id : Nat) : Option CopyRun := k.copies.find? (fun x => decide (x.id = id))

/-- A copy changed in place. -/
def Core.modCopy (k : Core) (id : Nat) (f : CopyRun → CopyRun) : Core :=
  { k with copies := k.copies.map (fun x => if x.id = id then f x else x) }

/-- R187, R188, R207. A tile takes its source banks, its source bytes are read, it takes its destination banks, and its bytes
perform at P_k unless an access of it met a conflict, or its heat is quiescent (R242). -/
def execCopyTile (c id tile : Nat) (part : AccPart) (s : State) : Result :=
  match (s.core c).copyOf id with
  | none => .next s
  | some x =>
    let r := x.rec_.toNat
    let now := s.gcount
    match part with
    | .occupy =>
      if !s.begins c x.start then
        .next (s.modCore c (fun k => { k with copies := k.copies.filter (fun y => decide (y.id ≠ id)) }))
      else
        let inSp := decide (wordSpace (copySrc r) = 0)
        let s1 := if tile + 1 < x.tiles then s.at (now + 16) (.copyTile c id (tile + 1) .occupy) else s
        let s2 := if inSp then
            s1.engineAccess c x.issue x.pos x.seg (banksOfBytes (tileSource r tile)) 0 (now + 15) (.copySrc id tile)
          else s1
        let s3 := s2.at (if inSp then now else now + 80) (.copyTile c id tile .read)
        let p := copyPerform x tile
        let s4 := if wordSpace (copyDst r) = 0 then s3.at (p - 15) (.copyTile c id tile .reserve) else s3
        .next (s4.at p (.copyTile c id tile .perform))
    | .read =>
      let l := s.tileBytes c r tile
      let s0 := if wordSpace (copySrc r) = 0 then s.spadReadError c (tileSource r tile).contains (some (x.pos, x.seg)) else s
      .next (s0.modCore c (fun k => k.modCopy id (fun x => { x with read := sset [] x.read tile l })))
    | .reserve =>
      .next (s.engineAccess c x.issue x.pos x.seg (banksOfBytes (tileDest r tile)) 0 (now + 15) (.copyDst id tile))
    | .perform =>
      let k := s.core c
      let void := k.voided (.copySrc id tile) || k.voided (.copyDst id tile) || s.quietNow c
      let s1 := if void then s else s.performTile c r (sget [] x.read tile)
      .next (s1.modCore c (fun k =>
        let k1 := ((k.dropAcc (.copySrc id tile)).dropAcc (.copyDst id tile)).modCopy id (fun x =>
          { x with read := sset [] x.read tile [] })
        if tile + 1 = x.tiles then { k1 with copies := k1.copies.filter (fun y => decide (y.id ≠ id)) } else k1))

end Sys2Proof.Machine
end

