-- ==== Sys2Proof/Machine/Crucible.lean ====
section
/-! DEFINITION. Crucible commands (R191 to R195, R296, R298): their records, their sending and arrival, their execution in the
windows of a bank, and the release of a `CFENCE`. -/

namespace Sys2Proof.Machine

/-! The record (R191). -/

def crucLen (r : Nat) : Nat := fld r 256 11
def crucOp (r : Nat) : Nat := fld r 267 3
def crucFmt (r : Nat) : Nat := fld r 270 5
def crucParam (r : Nat) : Nat := fld r 288 32
def crucData (r : Nat) : Nat := fld r 192 64
def crucTgt (r : Nat) : Nat := fld r 128 64

/-- A range lies within one 1 KiB-aligned block (R191). -/
def inBlock (a n : Nat) : Bool := decide (a / 1024 = (a + n - 1) / 1024)

/-- FMT, OP and PARAM of a kind (R191). -/
def crucFields (kind r : Nat) : Bool :=
  match kind with
  | 0x13 => decide (crucParam r = 0) && decide (crucOp r ≤ 2) &&
      (decide (crucFmt r = 10) || decide (crucFmt r = 8) || decide (crucFmt r = 2))
  | 0x14 => decide (crucOp r = 0) && (decide (crucFmt r = 10) || decide (crucFmt r = 8))
  | _ => decide (crucOp r = 0) && decide (crucFmt r = 0) && decide (crucData r = 0)

/-- Check 2 of R182 for a crucible command (R184, R191). -/
def State.crucLegal (s : State) (c kind r : Nat) : Bool :=
  let n := crucLen r
  let t := wordAddr (crucTgt r)
  let d := wordAddr (crucData r)
  recOk kind true r && decide (fld r 320 704 = 0) && decide (fld r 275 13 = 0) && crucFields kind r &&
    decide (32 ≤ n) && decide (n ≤ 1024) && decide (n % 32 = 0) &&
    decide (wordSpace (crucTgt r) = 1) && decide (t % 32 = 0) && inBlock t n &&
    (s.heat (s.partOf c)).pinnedRange t n &&
    (decide (kind = 0x15) ||
      (decide (wordSpace (crucData r) = 0) && decide (d % 32 = 0) && inBlock d n && inSpad d n))

/-- A crucible command accepted (R193). -/
def State.acceptCruc (s : State) (c : Nat) (a : Access) (kind r start : Nat) : State :=
  let k := s.core c
  let pa := ((s.heat (s.partOf c)).pinned (wordAddr (crucTgt r))).getD 0
  let x : CrucCmd := { id := k.nextId, kind := kind, core := c, rec_ := BitVec.ofNat 1024 r, issue := a.issue,
                       start := start, arrival := 0, pa := pa, data := [], sent := false, fin := none, pos := a.pos,
                       seg := a.seg }
  let s1 := s.setCore c { k with cruc := k.cruc ++ [x], nextId := k.nextId + 1 }
  (s1.at start (.crucibleSend c x.id .occupy)).at start (.crucibleSend c x.id .perform)

def Core.crucOf (k : Core) (id : Nat) : Option CrucCmd := k.cruc.find? (fun x => decide (x.id = id))
def Core.modCruc (k : Core) (id : Nat) (f : CrucCmd → CrucCmd) : Core :=
  { k with cruc := k.cruc.map (fun x => if x.id = id then f x else x) }
def Core.dropCruc (k : Core) (id : Nat) : Core := { k with cruc := k.cruc.filter (fun x => decide (x.id ≠ id)) }

/-- Cycles from START to the arrival at the bank (R193). -/
def crucDelay (c ch : Nat) : Nat := if c / 64 = chanDie ch then 24 else 64

/-- R193. At START the core reads the command's data, and sends the command unless the read met a conflict. -/
def execCrucibleSend (c id : Nat) (part : AccPart) (s : State) : Result :=
  match (s.core c).crucOf id with
  | none => .next s
  | some x =>
    let r := x.rec_.toNat
    let d := wordAddr (crucData r)
    match part with
    | .occupy | .reserve =>
      if !s.begins c x.start then .next (s.modCore c (fun k => k.dropCruc id))
      else if x.kind = 0x15 then .next s
      else .next (s.engineAccess c x.issue x.pos x.seg (rangeBanks d (crucLen r)) d s.gcount (.crucData id))
    | .read | .perform =>
      if (s.core c).voided (.crucData id) then .next (s.modCore c (fun k => (k.dropAcc (.crucData id)).dropCruc id))
      else
        let t := s.gcount + crucDelay c (paChannel x.pa)
        let data := if x.kind = 0x15 then [] else (s.core c).load d (crucLen r)
        let s0 := if x.kind = 0x15 then s
                  else s.spadReadError c (fun y => decide (d ≤ y) && decide (y < d + crucLen r)) (some (x.pos, x.seg))
        .next ((s0.modCore c (fun k => (k.dropAcc (.crucData id)).modCruc id (fun x =>
          { x with data := data, sent := true, arrival := t }))).at t (.crucibleArrival c id))

/-! Queues and windows (R193, R296). -/

/-- The command of a queue entry. -/
def State.crucAt (s : State) (e : Nat × Nat) : Option CrucCmd := (s.core e.1).crucOf e.2

/-- `a` precedes `b` in a queue (R193): arrival, START, core, issue. -/
def crucBefore (a b : CrucCmd) : Bool :=
  decide (a.arrival < b.arrival) || (decide (a.arrival = b.arrival) &&
    (decide (a.start < b.start) || (decide (a.start = b.start) &&
      (decide (a.core < b.core) || (decide (a.core = b.core) && decide (a.issue < b.issue))))))

/-- A command placed in the queue of its bank. -/
def State.enqueue (s : State) (x : CrucCmd) (q : List (Nat × Nat)) : List (Nat × Nat) :=
  q.takeWhile (fun e => match s.crucAt e with | some y => crucBefore y x | none => true) ++ [(x.core, x.id)] ++
    q.dropWhile (fun e => match s.crucAt e with | some y => crucBefore y x | none => true)

/-- The detail of a timeline violation (R289). -/
def timelineDetail (cycle prior : Int) (entry ch rule : Nat) : Nat :=
  cycle64 cycle + entry % 2 ^ 32 * 2 ^ 96 + ch % 512 * 2 ^ 151 + rule % 256 * 2 ^ 160 + wrapInt 40 prior * 2 ^ 168

/-- R193, R289. A command joins its bank's queue, or finds 16 commands in it; one that arrives after the stop is discarded
(R242). -/
def execCrucibleArrival (c id : Nat) (s : State) : Result :=
  match (s.core c).crucOf id with
  | none => .next s
  | some x =>
    let late := match s.workStop c with | some S => decide (S < s.gcount) | none => false
    let ch := paChannel x.pa
    let b := paBank x.pa
    let bank := s.bank ch b
    if late then .next (s.modCore c (fun k => k.dropCruc id))
    else if 16 ≤ bank.queue.length then
      .next ((s.modCore c (fun k => k.dropCruc id)).raiseTrap (chanCore ch)
        { cls := 6, cause := 2, fmask := 0, bundle := none, detail := timelineDetail (s.heatCycle c) 0 b ch 32 })
    else .next (s.setBank ch b { bank with queue := s.enqueue x bank.queue })

/-- E of a command (R296). -/
def crucCycles (r : Nat) : Nat := 1 + (crucLen r + 255) / 256

/-- The first waiting host AtomicOp of a bank was applied by cycle w (R233). -/
def Bank.atomicDue (b : Bank) (w : Nat) : Bool := match b.atomics with | a :: _ => decide (a.apply ≤ w) | [] => false

/-- What a bank's crucible does next in its window, starting no earlier than `from_` (R296): the next eligible command when it
ends within the window, else the next host AtomicOp when that does (R233). -/
def State.crucNext (s : State) (ch b from_ : Nat) : State :=
  let bank := s.bank ch b
  match bank.window with
  | none => s
  | some (w, last) =>
    let cmd := match bank.queue with
      | [] => none
      | e :: _ => (s.crucAt e).bind (fun x => if x.arrival ≤ w then some x else none)
    match cmd with
    | some x =>
      let e := from_ + crucCycles x.rec_.toNat - 1
      if e ≤ last then (s.setBank ch b { bank with busy := e }).at e (.crucibleExecute ch b)
      else if !bank.atomicDue w then s
      else if from_ + 1 ≤ last then (s.setBank ch b { bank with busy := from_ + 1 }).at (from_ + 1) (.hostAtomicExecute ch b)
      else s
    | none =>
      if !bank.atomicDue w then s
      else if from_ + 1 ≤ last then (s.setBank ch b { bank with busy := from_ + 1 }).at (from_ + 1) (.hostAtomicExecute ch b)
      else s

/-- An element after a command (R192). -/
def crucElem (kind fmt op param y x : Nat) : Nat :=
  match kind with
  | 0x13 =>
    match op with
    | 0 => if fmt = 2 then (y + x) % 2 ^ 32 else roundTo fmt 0 (xadd 0 (widen fmt y) (widen fmt x))
    | 1 => fmtPick fmt true y x
    | _ => fmtPick fmt false y x
  | 0x14 => roundTo fmt 0 (xadd 0 (xmul (widen 10 param) (widen fmt x)) (widen fmt y))
  | _ => param

/-- The extent of a command after it (R192). -/
def crucExtent (x : CrucCmd) (old : List Byte) : List Byte :=
  let r := x.rec_.toNat
  let n := crucLen r
  let f := if x.kind = 0x15 then 10 else crucFmt r
  let w := fmtWidth f
  bytesOf n (packList w (List.zipWith (crucElem x.kind f (crucOp r) (crucParam r)) (elems w (8 * n / w) (natOf old))
    (elems w (8 * n / w) (natOf x.data))))

/-- The window of a bank ends before the heat's quiescent cycle (R242). -/
def State.windowRuns (s : State) (ch last : Nat) : Bool :=
  match (s.heat (if s.mgmt.pmode = 0 then 0 else chanDie ch)).quiet with
  | some q => decide (last < q)
  | none => true

/-- A command reads its extent, whose lines may hold an error (R299), and writes it (R192). -/
def State.crucRun (s : State) (x : CrucCmd) (n : Nat) : State :=
  let s1 := if s.paStale x.pa then s else match s.hbmFault x.pa n with | some t => s.raiseTrap x.core t | none => s
  s1.hbmStore x.pa (crucExtent x (s.hbmLoad x.pa n))

/-- R296, R298. The command at the head of the queue takes effect in its last cycle; the next one starts in the cycle after. -/
def execCrucibleExecute (ch b : Nat) (s : State) : Result :=
  let bank := s.bank ch b
  match bank.window, bank.queue with
  | some (w, last), e :: rest =>
    if bank.busy ≠ s.gcount then .next s
    else
      match s.crucAt e with
      | none => .next ((s.setBank ch b { bank with queue := rest }).crucNext ch b (s.gcount + 1))
      | some x =>
        if w < x.arrival then .next s
        else
          let n := crucLen x.rec_.toNat
          let s1 := if s.windowRuns ch last then s.crucRun x n else s
          let s2 := s1.setBank ch b { bank with queue := rest }
          let s3 := s2.modCore x.core (fun k =>
            { k.modCruc x.id (fun y => { y with fin := some last }) with
              cruc := (k.modCruc x.id (fun y => { y with fin := some last })).cruc.filter (fun y =>
                match y.fin with | some f => decide (s.gcount ≤ f) | none => true) })
          .next ((s3.atOnce (last + 1) (.cfenceRelease x.core)).crucNext ch b (s.gcount + 1))
  | _, _ => .next s

/-! `CFENCE` (R195). -/

/-- A command lies in the scope of a fence: 0 the bank, 1 the channel of the word's address, 2 the device. -/
def inScope (scope : Nat) (word : Option Nat) (pa : Nat) : Bool :=
  match word with
  | some w =>
    if scope = 0 then decide (paChannel w = paChannel pa) && decide (paBank w = paBank pa)
    else decide (paChannel w = paChannel pa)
  | none => decide (2 ≤ scope)

/-- R195. The next bundle issues at max(c+3, F+1), once every earlier command of the scope has executed in a window that is
over. -/
def execCfenceRelease (c : Nat) (s : State) : Result :=
  let k := s.core c
  match k.seq.memHold with
  | .cfence issue scope word =>
    let open_ := k.cruc.filter (fun x => decide (x.issue < issue) && inScope scope word x.pa &&
      (match x.fin with | some f => decide (s.gcount ≤ f) | none => true))
    if s.gcount < issue + 3 ∨ k.issues = false ∨ (scope < 2 ∧ word = none) then .next s
    else
      match open_ with
      | [] => .next ((s.modCore c (fun k => { k with seq := { k.seq with memHold := .none } })).release c)
      | _ :: _ =>
        .next (open_.foldl (fun s x => match x.fin with | some f => s.atOnce (f + 1) (.cfenceRelease c) | none => s) s)
  | _ => .next s

/-- The address word that a `CFENCE` read at c+2 (R195): a bad one is a bad command record. -/
def State.fenceWordRead (s : State) (c : Nat) (a : Access) : State :=
  let w := natOf ((s.core c).load a.addr 8)
  let pa := if wordSpace w = 1 then (s.heat (s.partOf c)).pinned (wordAddr w) else none
  match pa with
  | some p =>
    s.modCore c (fun k =>
      match k.seq.memHold with
      | .cfence issue scope _ => { k with seq := { k.seq with memHold := .cfence issue scope (some p) } }
      | _ => k)
  | none =>
    s.raiseTrap c { cls := 5, cause := 2, fmask := 0, bundle := some (a.pos, a.seg), detail := a.addr }

end Sys2Proof.Machine
end

