-- ==== Sys2Proof/Machine/FrontOps.lean ====
section
/-! DEFINITION. What the front end does as one: rings and packets (R316, R318), the journal (R333), launches (R211, R321), the
doorbell filter with its kicks (R321, R322), tokens (R319) and publication (R320, R334). -/

namespace Sys2Proof.Machine

/-! Bytes by virtual address (R343). -/

/-- Pieces of 32 KiB that n bytes can touch: a piece lies in one channel (R283, R363). -/
def pagesOf (n : Nat) : Nat := n / 32768 + 2

/-- n bytes from a virtual address of a partition, none when a piece of them does not translate. -/
def State.readPages (s : State) (part : Nat) : Nat → Nat → Nat → State × Option (List Byte)
  | 0, _, n => (s, if n = 0 then some [] else none)
  | fuel + 1, va, n =>
    if n = 0 then (s, some [])
    else
      let m := min n (32768 - va % 32768)
      match s.translate part va false with
      | none => (s, none)
      | some pa =>
        let (s1, bs) := (s.tagCheck pa m).dynLoad pa m
        let (s2, rest) := s1.readPages part fuel (va + m) (n - m)
        (s2, rest.map (fun r => bs ++ r))

/-- The walks for n bytes from a virtual address, one for each piece. -/
def State.walksMeet (s : State) (part va n : Nat) : State :=
  (List.range (pagesOf n)).foldl (fun s i =>
    let a := if i = 0 then va else (va / 32768 + i) * 32768
    if a < va + n then s.walkMeets part a else s) s

def State.readVA (s : State) (part va n : Nat) : State × Option (List Byte) :=
  (s.walksMeet part va n).readPages part (pagesOf n) va n

/-- Every row of n bytes from a virtual address of a partition is served now; a page that does not translate needs no service
(R229). -/
def State.servedVA (s : State) (part va n : Nat) : Bool :=
  (List.range (pagesOf n)).all (fun i =>
    let a := if i = 0 then va else (va / 32768 + i) * 32768
    let m := min (va + n - a) (32768 - a % 32768)
    match s.translate part a false with
    | some pa => s.servedAll [(pa, m)]
    | none => true)

/-- Every byte of a range is mapped, for writing when `write`. -/
def State.mappedVA (s : State) (part va n : Nat) (write : Bool) : Bool :=
  (List.range (pagesOf n)).all (fun i =>
    let a := if i = 0 then va else (va / 32768 + i) * 32768
    decide (va + n ≤ a) || (s.translate part a write).isSome)

/-- Bytes written from a virtual address up; a byte whose page is not mapped writable is not written. -/
def State.writePages (s : State) (part : Nat) : Nat → Nat → List Byte → State
  | 0, _, _ => s
  | fuel + 1, va, bs =>
    match bs with
    | [] => s
    | _ :: _ =>
      let m := min bs.length (32768 - va % 32768)
      let s1 := match s.translate part va true with
        | some pa => s.dynStore pa (bs.take m)
        | none => s
      s1.writePages part fuel (va + m) (bs.drop m)

def State.writeVA (s : State) (part va : Nat) (bs : List Byte) : State :=
  (s.walksMeet part va bs.length).writePages part (pagesOf bs.length) va bs

/-! Packets (R318). -/

def pktType (p : Nat) : Nat := fld p 0 8
def pktIrq (p : Nat) : Bool := decide (fld p 8 1 = 1)
def pktFwsee (p : Nat) : Bool := decide (fld p 9 1 = 1)
def pktDep (p : Nat) : Nat := fld p 32 32
def pktImage (p : Nat) : Nat := fld p 64 64
def pktCaddr (p : Nat) : Nat := fld p 128 64
def pktCtoken (p : Nat) : Nat := fld p 192 32
def pktCqueue (p : Nat) : Nat := fld p 224 11
def pktTime (p : Nat) : Nat := fld p 256 64
def pktPeriod (p : Nat) : Nat := fld p 320 32
def pktSave (p : Nat) : Nat := fld p 448 64
/-- The reserved bits of a packet are 0. -/
def pktClean (p : Nat) : Bool := decide (fld p 10 22 = 0) && decide (fld p 235 21 = 0) && decide (fld p 352 96 = 0)

/-- The home partition of a function (R339, R341): VMAP_v, and partition 0 in whole-chip mode. -/
def State.homeOf (s : State) (v : Nat) : Nat := if s.mgmt.pmode = 0 then 0 else fld (sget 0 s.mgmt.vmap v).toNat 0 2

/-- The table through which the front end reaches a queue's ring and what its packets name (R316). -/
def State.ringPart (s : State) (q : Nat) : Nat := s.homeOf (q / 64)

/-- The queue is enabled (R316). -/
def Queue.enabled (x : Queue) : Bool := decide (4 ≤ x.log2n.toNat) && decide (x.log2n.toNat ≤ 16)

/-- Where packet n of a queue's ring lies (R316). -/
def Queue.packetVA (x : Queue) (n : Nat) : Nat := x.base.toNat + 64 * (n % 2 ^ x.log2n.toNat)

/-- Packet n of a queue's ring, none when its address does not translate (R316, R321). -/
def State.packetAt (s : State) (q n : Nat) : State × Option Nat :=
  let (s1, b) := s.readVA (s.ringPart q) ((s.queue q).packetVA n) 64
  (s1, b.map natOf)

/-- The head packet of a queue can be read in a service slot now (R321, R291). -/
def State.packetServed (s : State) (q : Nat) : Bool :=
  let x := s.queue q
  s.servedVA (s.ringPart q) (x.packetVA x.head.toNat) 64

/-- The header of the image that a packet names can be read in a service slot now (R208, R291). -/
def State.headerServed (s : State) (q pkt : Nat) : Bool := s.servedVA (s.ringPart q) (pktImage pkt) 64

/-! The journal (R333). -/

/-- The ring's size, none while there is no journal. -/
def State.journalSize (s : State) : Option Nat :=
  let l := fld s.fe.jbase.toNat 0 5
  if 16 ≤ l ∧ l ≤ 30 then some (2 ^ l) else none

/-- Where the ring lies. -/
def State.journalBase (s : State) : Nat := fld s.fe.jbase.toNat 16 44 * 2 ^ 16

/-- An append of n bytes has room. -/
def State.journalRoom (s : State) (size n : Nat) : Bool :=
  decide ((s.fe.jtail % size + size - s.fe.jlow.toNat % size) % size + n < size)

/-- A record appended, its SEQ and GC written into the copy; it reaches the ring through the table of the partition that holds
the scheduler core (R176, R333), and `jtail` moves once it has performed (R352). -/
def State.journalPut (s : State) (size : Nat) (rec_ : List Byte) : State :=
  let bs := rec_.take 4 ++ bytesOf 4 s.gcount ++ bytesOf 8 s.fe.jseq ++ rec_.drop 16
  let t := s.fe.jtail % size
  let n := min bs.length (size - t)
  let part := s.partOf s.scheduler
  let s1 := (s.writeVA part (s.journalBase + t) (bs.take n)).writeVA part s.journalBase (bs.drop n)
  { s1 with fe := { s1.fe with jtail := (t + bs.length) % size, jseq := (s1.fe.jseq + 1) % 2 ^ 64 } }

/-- The address at which an append of n bytes meets a page that is not mapped for writing. -/
def State.journalFault (s : State) (size n : Nat) : Option Nat :=
  let t := s.fe.jtail % size
  let k := min n (size - t)
  let part := s.partOf s.scheduler
  if !s.mappedVA part (s.journalBase + t) k true then some (s.journalBase + t)
  else if k < n && !s.mappedVA part s.journalBase (n - k) true then some s.journalBase
  else none

/-- Every row of an append of n bytes is served now (R229, R291). -/
def State.journalServed (s : State) (size n : Nat) : Bool :=
  let t := s.fe.jtail % size
  let k := min n (size - t)
  let part := s.partOf s.scheduler
  s.servedVA part (s.journalBase + t) k && s.servedVA part s.journalBase (n - k)

/-- What waits in the front end is looked at again in the next cycle (R291, R333). -/
def State.lookAgain (s : State) : State := s.atOnce (s.gcount + 1) .journalHeldAppend

/-- What waits for the journal's page to be mapped is looked at again once translation has changed (log entry 37). -/
def State.mapsChanged (s : State) : State :=
  if s.fe.heldRecs.isEmpty then s else s.atOnce s.gcount .journalHeldAppend

/-- JFULL stands at the scheduler core while a hardware record waits for room (R333). -/
def State.raiseJfull (s : State) : State :=
  match s.journalSize with
  | some size => if !s.fe.heldRecs.isEmpty && !s.journalRoom size 32 then s.wake s.scheduler 6 else s
  | none => s

/-- A hardware record's 32 bytes, SEQ and GC still open. -/
def hardwareRecord (typ : Nat) (w0 w1 : Word64) : List Byte :=
  bytesOf 4 (0x4A5E + 2 * 2 ^ 16 + typ * 2 ^ 24) ++ zeros 12 ++ bytesOf 8 w0.toNat ++ bytesOf 8 w1.toNat

/-- A hardware record that cannot be appended now: JFULL without room (R333); with room it waits for a service slot, or for the
ring's page to be mapped (R352, log entry 37). -/
def State.journalWaits (s : State) (size : Nat) : State :=
  if !s.journalRoom size 32 then s.wake s.scheduler 6
  else if (s.journalFault size 32).isNone then s.lookAgain
  else s

/-- A hardware record can be appended now. -/
def State.journalReady (s : State) (size : Nat) : Bool :=
  s.journalRoom size 32 && (s.journalFault size 32).isNone && s.journalServed size 32

/-- A hardware record appended, or made to wait behind those that wait already (R333); the answer tells whether what follows
it may go on. -/
def State.journalTry (s : State) (r : HeldRec) : State × Bool :=
  match s.journalSize with
  | none => (s, true)
  | some size =>
    if s.fe.heldRecs.isEmpty && s.journalReady size then (s.journalPut size (hardwareRecord r.typ r.w0 r.w1), true)
    else
      let s1 : State := { s with fe := { s.fe with heldRecs := s.fe.heldRecs ++ [r] } }
      (s1.journalWaits size, false)

/-- Queue and packet index of a record's body (R333). -/
def recordWord (q idx : Nat) : Word64 := BitVec.ofNat 64 (q % 2 ^ 11 + idx % 2 ^ 32 * 2 ^ 32)

/-! Kicks (R321, R322). -/

/-- Kick(q); a re-evaluation port does not set FPEND.KICK (R353). -/
def State.kickQueue (s : State) (q : Nat) (wake : Bool) : State :=
  let s1 : State := { s with fe := { s.fe with kick := setIndex s.fe.kick q true } }
  if wake then s1.wake s1.scheduler 0 else s1

/-! Launches (R211, R321). -/

/-- A partition is free when no heat of it has been launched without yet completing, ending or being stopped (R315). -/
def State.partFree (s : State) (p : Nat) : Bool :=
  match (s.heat p).phase with
  | .none | .ended | .trapped | .atCut => true
  | .arming | .armed | .running | .stopping => false

/-- Heats that stand stopped while another heat runs in their partition make room for it. -/
def State.parkHeat (s : State) (p : Nat) : State :=
  let h := s.heat p
  if h.phase = .trapped ∨ h.phase = .atCut then { s with parked := (p, h) :: s.parked } else s

/-- The lowest die of a partition (R360). -/
def State.partDie (s : State) (p : Nat) : Nat := if s.mgmt.pmode = 0 then 0 else p

/-- A launch: the decision falls in the present cycle G, in which the packet has been read, and the origin in G + LEAD (R211,
R321). Arming takes place between the two (R212). -/
def State.launch (s : State) (q idx pkt : Nat) : State :=
  let p := (s.queue q).part.toNat
  let (s1, img) := s.readVA (s.ringPart q) (pktImage pkt) 64
  let hdr := match img with | some b => natOf b | none => 0
  let lead := fld hdr 128 64
  let g := s1.gcount
  let r : HeldRec := { typ := 1, w0 := recordWord q idx, w1 := BitVec.ofNat 64 (g + lead), completion := none }
  let s2 := (s1.journalTry r).1.parkHeat p
  let h : Heat := { heatReset with phase := .arming, queue := q, index := idx, packet := BitVec.ofNat 512 pkt,
                                   hasPacket := true, origin := g + lead, heatId := fld hdr 64 32, lead := lead }
  let s3 := (s2.setHeat p h).later 0 (.heatArm p)
  let s4 := if lead < 1024 then s3 else s3.at (g + lead - 1) (.launchCheck p)
  s4.traceRaw (s4.partDie p) g (64 * s4.partDie p) 21 0 h.heatId (q + idx % 2 ^ 32 * 2 ^ 16)

/-- The launch test of R321 for a packet of the given TYPE, but for the power cap; no launch while the cores are held in
reset (R348). -/
def State.launchable (s : State) (q pkt typ : Nat) : Bool :=
  let x := s.queue q
  x.res && !s.fe.hold && !s.mgmt.inReset && decide (pktType pkt = typ) && !pktFwsee pkt && pktClean pkt &&
    decide (pktDep pkt ≤ x.met.toNat) && s.partFree x.part.toNat

/-- The launch test of R321 with the power cap of R348. -/
def State.mayLaunch (s : State) (q pkt typ : Nat) : Bool := s.launchable q pkt typ && !Config.drawAboveCap s.choice

/-- What the read of a queue's head packet has come to. -/
inductive HeadRead where
  | waits (got : Option (BitVec 32 × Nat))
  | fault
  | packet (p : Nat)
deriving DecidableEq, Repr

/-- The head packet of a queue, `got` where it has been read already, and, when a launch of the given TYPE follows, the header of
its image, each read in a service slot of its own (R291, R321). -/
def State.readHead (s : State) (q : Nat) (got : Option (BitVec 32 × Nat)) (launches : Bool) (typ : Nat) : State × HeadRead :=
  let head := (s.queue q).head
  let go := fun (s : State) (p : Nat) =>
    if launches && s.launchable q p typ && !s.headerServed q p then (s, HeadRead.waits (some (head, p))) else (s, .packet p)
  match got.filter (fun g => decide (g.1 = head)) with
  | some (_, p) => go s p
  | none =>
    if s.packetServed q then
      match s.packetAt q head.toNat with
      | (s1, none) => (s1, .fault)
      | (s1, some p) => go s1 p
    else (s, .waits none)

/-- The filter's decision on the packet it has read (R321); `wake` is false for a re-evaluation port (R353). -/
def State.judge (s : State) (q pkt : Nat) (wake : Bool) : State :=
  let x := s.queue q
  if s.mayLaunch q pkt 1 then
    let s1 := (s.setQueue q { x with head := x.head + 1 }).launch q x.head.toNat pkt
    if x.head + 1 = x.tail then s1 else s1.kickQueue q wake
  else s.kickQueue q wake

/-- The cycles that the filter takes before it reads a packet, besides its wait for a service slot: at most 48 (R365). -/
def evalDelay (d : Nat) : Nat := d % 49

/-- The steps of R321 that stand before the packet's read: a tail for a disabled queue, or one too far ahead, sets ERR and
kicks; any other becomes TAIL, and unless the ring is then empty the packet is read from some cycle on. -/
def State.takeTail (s : State) (q : Nat) (t : BitVec 32) (wake : Bool) : State × Option FeEval :=
  let x := s.queue q
  if x.enabled = false ∨ 2 ^ x.log2n.toNat < (t - x.head).toNat then
    ((s.setQueue q { x with err := true }).kickQueue q wake, none)
  else
    let s1 := s.setQueue q { x with tail := t }
    if x.head = t then (s1, none)
    else
      let (d, s2) := s1.draw
      (s2, some { queue := q, from_ := .read, wake := wake, due := s2.gcount + evalDelay d, link := none, got := none })

/-- An evaluation goes as far as it can in the present cycle; the answer is what is left of it (R291, R321). -/
def State.serveEval (s : State) (e : FeEval) : State × Option FeEval :=
  let read := fun (s : State) (e : FeEval) =>
    if s.gcount < e.due then (s, some e)
    else if (s.queue e.queue).head = (s.queue e.queue).tail then (s, none)
    else
      match s.readHead e.queue e.got true 1 with
      | (s1, .waits got) => (s1, some { e with due := s.gcount + 1, got := got })
      | (s1, .fault) => (s1.kickQueue e.queue e.wake, none)
      | (s1, .packet p) => (s1.judge e.queue p e.wake, none)
  let take := fun (t : BitVec 32) =>
    match s.takeTail e.queue t e.wake with
    | (s1, some e1) => read s1 e1
    | (s1, none) => (s1, none)
  match e.from_ with
  | .read => read s e
  | .written t => take t
  | .rewritten => take (s.queue e.queue).tail

/-- Completions that a fall of HOLD has let go are not all published, with their PUBLISH records appended (R354). -/
def State.releasing (s : State) : Bool :=
  s.fe.pubs.any (fun d => d.released) ||
    s.fe.heldRecs.any (fun r => decide (r.typ = 3) && (match r.completion with | some d => d.released | none => false))

/-- The evaluations under way, those of one queue in the order of their arrival (R321), none before the completions that a fall
of HOLD has let go (R354). -/
def State.serveEvals (s : State) : State :=
  if s.fe.evals.isEmpty then s
  else if s.releasing then s.lookAgain
  else
    let go := fun (acc : State × List FeEval) (e : FeEval) =>
      if acc.2.any (fun x => decide (x.queue = e.queue)) then (acc.1, acc.2 ++ [e])
      else
        match acc.1.serveEval e with
        | (s1, some r) => (s1, acc.2 ++ [r])
        | (s1, none) => (s1, acc.2)
    let (s1, kept) := s.fe.evals.foldl go ({ s with fe := { s.fe with evals := [] } }, [])
    let s2 : State := { s1 with fe := { s1.fe with evals := kept ++ s1.fe.evals } }
    kept.foldl (fun s e => if s.gcount < e.due then s.atOnce e.due .journalHeldAppend else s) s2

/-- An evaluation enters the filter (R319, R321, R353). It is looked
at after the firmware contexts' accesses of the cycle, so that a kick follows a `KCLR` (R322). -/
def State.ring (s : State) (q : Nat) (t : EvalFrom) (wake : Bool) (link : Option LinkName := none) : State :=
  let e : FeEval := { queue := q, from_ := t, wake := wake, due := s.gcount, link := link, got := none }
  State.atOnce { s with fe := { s.fe with evals := s.fe.evals ++ [e] } } s.gcount .journalHeldAppend

/-- R319. A token delivered to a queue: MET rises, and the filter evaluates the queue as if its tail had been rewritten. -/
def State.deliverToken (s : State) (q : Nat) (t : BitVec 32) : State :=
  let x := s.queue q
  let m := if x.met.toNat < t.toNat then t else x.met
  (s.setQueue q { x with met := m }).ring q .rewritten true

/-! Publication (R320, R333, R334, R338). -/

/-- RUN of a queue cleared. -/
def State.clearRun (s : State) (q : Nat) : State := s.setQueue q { s.queue q with run := false }

/-- The completion word written at CADDR (R320). -/
def State.completionWord (s : State) (d : Completion) : State :=
  let a := pktCaddr d.packet.toNat
  let w := bytesOf 8 (d.status % 256 + d.gc % 2 ^ 48 * 2 ^ 16)
  if a = 0 then s
  else
    match fld a 60 4 with
    | 1 => s.writeVA (s.ringPart d.queue) (fld a 0 60) w
    | 4 => { s with host := s.host.writeBytes (fld a 0 60) w }
    | _ => s

/-- The completion word of a completion can be written now: it lies outside HBM, or its row is served (R229, R291). -/
def State.wordServed (s : State) (d : Completion) : Bool :=
  let a := pktCaddr d.packet.toNat
  d.muted || decide (a = 0) || decide (fld a 60 4 ≠ 1) || s.servedVA (s.ringPart d.queue) (fld a 0 60) 8

/-- Publication of a completion (R320); one of a reset function is muted: only its PUBLISH record is written (R338). -/
def State.publishNow (s : State) (d : Completion) : State :=
  let p := d.packet.toNat
  let s1 := if d.muted then s else
    let s1 := s.completionWord d
    let s2 := if pktCtoken p = 0 then s1 else s1.deliverToken (pktCqueue p) (BitVec.ofNat 32 (pktCtoken p))
    if pktIrq p then s2.emit (.interrupt (d.queue / 64) d.queue) else s2
  let r : HeldRec := { typ := 3, w0 := recordWord d.queue d.index, w1 := 0, completion := some d }
  let (s2, go) := s1.journalTry r
  if go && !d.muted then s2.clearRun d.queue else s2

/-- Publication, behind the completions whose completion words wait for a service slot. -/
def State.publish (s : State) (d : Completion) : State :=
  if s.fe.pubs.isEmpty && s.wordServed d then s.publishNow d
  else State.lookAgain { s with fe := { s.fe with pubs := s.fe.pubs ++ [d] } }

/-- The waiting completions published as far as their words can be written now; none while HOLD is 1 (R334). -/
def State.servePubs (s : State) : State :=
  if s.fe.hold then s
  else
    let go := fun (acc : State × List Completion) (d : Completion) =>
      if acc.2.isEmpty && acc.1.wordServed d then (acc.1.publishNow d, []) else (acc.1, acc.2 ++ [d])
    let (s1, kept) := s.fe.pubs.foldl go ({ s with fe := { s.fe with pubs := [] } }, [])
    let s2 : State := { s1 with fe := { s1.fe with pubs := kept ++ s1.fe.pubs } }
    if kept.isEmpty then s2 else s2.lookAgain

/-! Save areas (R250, R328). -/

/-- A save area written on, row by row, as far as its rows are served now. Its bytes are open: the layout is the front end's own
(R328). -/
def State.serveSave (s : State) (r : SaveRun) : Nat → State × SaveRun
  | 0 => (s, r)
  | fuel + 1 =>
    let m := min r.left (1024 - r.va % 1024)
    if m = 0 ∨ s.servedVA r.part r.va m = false then (s, r)
    else
      let s1 := s.writeVA r.part r.va ((List.range m).map (fun i => Config.freeByte (s.choice + i)))
      State.serveSave { s1 with choice := s1.choice + m } { r with va := r.va + m, left := r.left - m } fuel

/-- The save areas go on as far as they can in the present cycle. -/
def State.serveSaves (s : State) : State :=
  let go := fun (acc : State × List SaveRun) (r : SaveRun) =>
    let (s1, r1) := acc.1.serveSave r (r.left / 1024 + 2)
    (s1, if r1.left = 0 then acc.2 else acc.2 ++ [r1])
  let (s1, kept) := s.fe.saves.foldl go ({ s with fe := { s.fe with saves := [] } }, [])
  let s2 : State := { s1 with fe := { s1.fe with saves := kept } }
  if kept.isEmpty then s2 else s2.lookAgain

/-- A completion whose COMPLETE record is written is published, unless HOLD holds it (R320, R334). -/
def State.publishOrHold (s : State) (d : Completion) : State :=
  if s.fe.hold then { s with fe := { s.fe with heldDone := s.fe.heldDone ++ [d] } } else s.publish d

/-- What follows a hardware record once it is in the journal (R320, R333). -/
def State.afterRecord (s : State) (r : HeldRec) : State :=
  match r.typ, r.completion with
  | 2, some d => s.publishOrHold d
  | 3, some d => if d.muted then s else s.clearRun d.queue
  | _, _ => s

/-- A heat that a reset of a function ends and that has not come to its end; one launched from the function's queues since is no
such heat (R338). -/
def Heat.endsFor (fn : Nat) (h : Heat) : Bool :=
  h.muted && h.hasPacket && decide (h.queue / 64 = fn) && decide (h.phase ≠ .none) && decide (h.phase ≠ .ended)

/-- The resets that are complete, every heat they end having come to its end, are answered (R338). -/
def State.serveResets (s : State) : State :=
  let busy := fun (fn : Nat) => (List.range 4).any (fun p => (s.heat p).endsFor fn)
  let done := s.fe.resets.filter (fun fn => !busy fn)
  done.foldl (fun s fn => s.emit (.resetDone fn)) { s with fe := { s.fe with resets := s.fe.resets.filter busy } }

/-- A heat that completes, stops for good or is rejected (R320): the COMPLETE record, publication, the HEAT cause at the
scheduler core (R326) and the trace record (R359). -/
def State.completeHeat (s : State) (p : Nat) (h : Heat) (status : Nat) : State :=
  let d : Completion := { queue := h.queue, index := h.index, packet := h.packet, status := status, gc := s.gcount,
                          heatId := h.heatId, part := p, muted := h.muted, released := false }
  let r : HeldRec := { typ := 2, w0 := recordWord h.queue h.index,
                       w1 := BitVec.ofNat 64 (status % 256 + s.gcount % 2 ^ 48 * 2 ^ 16), completion := some d }
  let (s1, go) := s.journalTry r
  let s2 := if go then s1.publishOrHold d else s1
  let s3 := s2.wake s2.scheduler 5
  s3.traceRaw (s3.partDie p) s3.gcount (64 * s3.partDie p) 22 0 h.heatId
    (h.queue + h.index % 2 ^ 32 * 2 ^ 16 + status % 256 * 2 ^ 48)

/-- The heat of a partition ends with a status. -/
def State.endHeat (s : State) (p status : Nat) : State :=
  let h := s.heat p
  let h1 : Heat := { h with phase := .ended, stopReq := none, cutK := none, stopS := none, quiet := none, endStatus := none }
  ((s.setHeat p h1).completeHeat p h status).serveResets

end Sys2Proof.Machine
end

