-- ==== Sys2Proof/Machine/Ingot.lean ====
section
/-! DEFINITION. Ingots as functions of their bytes (R265, R269 to R278): the CRC, the header checks, codebooks and tables, and
the expansion of VQ and EMH blocks. -/

namespace Sys2Proof.Machine

/-! CRC-32C (R269). -/

/-- One bit of the reflected division by the Castagnoli polynomial. -/
def crcBit (c : Nat) : Nat := if c % 2 = 1 then (c / 2) ^^^ 0x82F63B78 else c / 2

/-- One byte. -/
def crcByte (c : Nat) (b : Byte) : Nat :=
  crcBit (crcBit (crcBit (crcBit (crcBit (crcBit (crcBit (crcBit (c ^^^ b.toNat))))))))

/-- CRC-32C of bytes (R269). -/
def crc32c (bs : List Byte) : Nat := (bs.foldl crcByte 0xFFFFFFFF) ^^^ 0xFFFFFFFF

/-- The CRC of a block with its CRC field taken as zero (R269). -/
def blockCrc (bs : List Byte) : Nat := crc32c (bs.take 12 ++ [0, 0, 0, 0] ++ bs.drop 16)

/-! Codebooks and tables (R275, R277). -/

/-- Bytes of one element of a method's format (R265). -/
def ingotElem (f : Nat) : Nat := if f = 8 then 2 else 1

/-- The entries of a CODEBOOK payload, none when it fails R275. -/
def codebookOf (f : Nat) (pl : List Byte) : Option (List (List Byte)) :=
  let w := 8 * ingotElem f
  let n := pl.length / w
  if pl.length % w = 0 ∧ 1 ≤ n ∧ n ≤ 4096 then
    some ((List.range n).map (fun i => (pl.drop (w * i)).take w))
  else none

/-- Exponent symbols of a format, its exponent and its mantissa bits (R277, R278). -/
def emhSymbols (f : Nat) : Nat := match f with | 6 => 16 | 7 => 32 | _ => 256
def emhMant (f : Nat) : Nat := match f with | 6 => 3 | 7 => 2 | _ => 7
def emhExp (f : Nat) : Nat := match f with | 6 => 4 | 7 => 5 | _ => 8

/-- The code lengths of a TABLE payload, none when it fails R277. -/
def tableOf (f : Nat) (pl : List Byte) : Option (List Nat) :=
  let l := pl.map BitVec.toNat
  let kraft := (l.map (fun x => if x = 0 then 0 else 2 ^ (15 - x))).foldl (· + ·) 0
  if l.length = emhSymbols f ∧ l.all (fun x => decide (x ≤ 15)) = true ∧ l.any (fun x => decide (x ≠ 0)) = true ∧
      kraft ≤ 2 ^ 15 then some l
  else none

/-- Symbols of a table with a code of this length. -/
def lenCount (t : List Nat) (len : Nat) : Nat := if len = 0 then 0 else (t.filter (fun x => decide (x = len))).length

/-- The first canonical code of a length (R277, RFC 1951). -/
def firstCode (t : List Nat) : Nat → Nat
  | 0 => 0
  | len + 1 => 2 * (firstCode t len + lenCount t len)

/-- The symbol with a code, none when the table has no such code. -/
def symbolOf (t : List Nat) (len code : Nat) : Option Nat :=
  let first := firstCode t len
  if code < first then none
  else (((t.zipIdx.filter (fun p => decide (p.1 = len))).map Prod.snd)[code - first]?)

/-! The header (R265, R272). -/

def hdrMethod (h : Nat) : Nat := fld h 23 3
def hdrFmt (h : Nat) : Nat := fld h 28 5
def hdrId (h : Nat) : Nat := fld h 33 4

/-- The formats that a method accepts (R265). -/
def methodFmt (m f : Nat) : Bool :=
  match m with
  | 0 => decide (f ≤ 16)
  | 1 | 3 => decide (f = 6) || decide (f = 8) || decide (f = 16)
  | _ => decide (6 ≤ f) && decide (f ≤ 8)

/-- The reason for which a block is corrupt, 0 for none (R265): its bytes against method, format, slot, coded length,
expanded length and point of its pour. -/
def ingotReason (bs : List Byte) (method fmt id clen xlen xpt : Nat) : Nat :=
  let h := natOf (bs.take 16)
  let m := hdrMethod h
  if fld h 0 16 ≠ 0x1A9E then 1
  else if fld h 16 7 ≠ 0 ∨ 4 < m ∨ 2 < fld h 37 2 ∨ (if m = 0 then 0 else 3) < hdrId h ∨
      (fld h 39 1 = 1 ∧ (m ≠ 1 ∨ hdrFmt h = 16)) then 2
  else if m ≠ method ∨ hdrFmt h ≠ fmt ∨ hdrId h ≠ id ∨ methodFmt m (hdrFmt h) = false then 3
  else if fld h 48 24 ≠ clen then 4
  else if fld h 72 24 ≠ xlen then 5
  else if fld h 26 2 ≠ xpt then 6
  else if fld h 96 32 ≠ blockCrc bs then 7
  else if (m = 3 ∧ (codebookOf fmt (bs.drop 16)).isNone = true) ∨ (m = 4 ∧ (tableOf fmt (bs.drop 16)).isNone = true) then 8
  else 0

/-! Expansion (R274, R276, R278): the bytes produced and the reason of a size error, 0 for none. -/

/-- The bytes of a VQ entry, scaled when SCL is 1 (R276). -/
def vqEntry (h f : Nat) (row : List Byte) : List Byte :=
  if fld h 39 1 = 1 then
    let w := fmtWidth f
    bytesOf (8 * ingotElem f) (packList w ((elems w 8 (natOf row)).map (fun x =>
      convertValue f 0 false (xmul (widen f x) (scaleE8M0 (fld h 40 8))))))
  else row

/-- The codes of a VQ block from code i on (R276). -/
def vqLoop (h f : Nat) (book : List (List Byte)) (bits plen cw : Nat) : Nat → Nat → List Byte → List Byte × Nat
  | 0, i, acc => (acc, if (i * cw + 7) / 8 < plen then 1 else 0)
  | n + 1, i, acc =>
    if 8 * plen < (i + 1) * cw then (acc, 2)
    else
      match book[bits / 2 ^ (i * cw) % 2 ^ cw]? with
      | none => (acc, 3)
      | some row => vqLoop h f book bits plen cw n (i + 1) (acc ++ vqEntry h f row)

/-- R276. -/
def expandVq (h f xlen : Nat) (book : List (List Byte)) (pl : List Byte) : List Byte × Nat :=
  let cw := match fld h 37 2 with | 0 => 8 | 1 => 10 | _ => 12
  vqLoop h f book (natOf pl) pl.length cw (xlen / (8 * ingotElem f)) 0 []

/-- One exponent code read bit by bit (R278): the symbol and the next bit, or the reason of a size error. -/
def emhCode (t : List Nat) (bits nbits : Nat) : Nat → Nat → Nat → Nat → Except Nat (Nat × Nat)
  | 0, _, _, _ => .error 4
  | fuel + 1, ex, len, code =>
    if nbits ≤ ex then .error 2
    else
      let code' := 2 * code + bits / 2 ^ ex % 2
      if 15 < len + 1 then .error 4
      else
        match symbolOf t (len + 1) code' with
        | some sym => .ok (sym, ex + 1)
        | none => emhCode t bits nbits fuel (ex + 1) (len + 1) code'

/-- The elements of an EMH block from element i on (R278). -/
def emhLoop (f : Nat) (t : List Nat) (bits plen ms : Nat) : Nat → Nat → Nat → List Byte → List Byte × Nat
  | 0, _, ex, acc => (acc, if (ex + 7) / 8 < plen then 1 else 0)
  | n + 1, i, ex, acc =>
    match emhCode t bits (8 * plen) 17 ex 0 0 with
    | .error r => (acc, r)
    | .ok (sym, ex') =>
      let mb := emhMant f
      let v := bits / 2 ^ i % 2 * 2 ^ (emhExp f + mb) + sym * 2 ^ mb + bits / 2 ^ (ms + i * mb) % 2 ^ mb
      emhLoop f t bits plen ms n (i + 1) ex' (acc ++ bytesOf (ingotElem f) v)

/-- R278. -/
def expandEmh (f xlen : Nat) (t : List Nat) (pl : List Byte) : List Byte × Nat :=
  let n := xlen / ingotElem f
  let ms := 8 * ((n + 7) / 8)
  let ex := ms + 8 * ((n * emhMant f + 7) / 8)
  if 8 * pl.length < ex then ([], 2) else emhLoop f t (natOf pl) pl.length ms n 0 ex []

/-- The bytes of a data block's expansion and the reason of its size error (R274, R276, R278). -/
def expandBlock (method f xlen : Nat) (book : List (List Byte)) (t : List Nat) (bs : List Byte) : List Byte × Nat :=
  match method with
  | 0 => (bs.drop 16, 0)
  | 1 => expandVq (natOf (bs.take 16)) f xlen book (bs.drop 16)
  | _ => expandEmh f xlen t (bs.drop 16)

/-- Exactly n bytes: surplus discarded, shortfall filled with zeros (R270). -/
def exactly (n : Nat) (bs : List Byte) : List Byte := bs.take n ++ List.replicate (n - bs.length) 0

end Sys2Proof.Machine
end

