-- ==== Sys2Proof/Machine/Outer.lean ====
section
/-! DEFINITION. The outer tiers and the peers as dynamic requests and pours reach them (R197, R302 to R306, R362, R363), and the
tags of parked requests (R253). -/

namespace Sys2Proof.Machine

/-- A unit is absent (R363). -/
def State.isAbsent (s : State) (u : UnitKind) (n : Nat) : Bool := s.mgmt.absent.contains (u, n)

/-- Flash pages that only the management function or the boot ROM may read (R303). -/
def State.flashClosed (s : State) (a n : Nat) : Bool :=
  s.flash.dir.any (fun d =>
    let b := d.bits.toNat
    (decide (fld b 16 8 = 4) || decide (fld b 16 8 = 6)) && decide (fld b 128 64 < a + n) &&
      decide (a < fld b 128 64 + 4096 * fld b 192 32))

/-- The address on the pooled memory device of a space-3 address of a partition, none on a fault (R304, R305). -/
def State.extentAddr (s : State) (part a n : Nat) : Option Nat :=
  let e := (sget 0 s.mgmt.extents (16 * part + fld a 40 4)).toNat
  if s.mgmt.priv.getLsbD part && s.mgmt.linkbActive && decide (fld a 44 16 = 0) && decide (fld e 0 1 = 1) &&
      decide (fld a 0 40 + n ≤ fld e 44 20 * 2 ^ 21) then
    some (fld e 21 23 * 2 ^ 21 + fld a 0 40)
  else none

/-- A peer port is present: at least two of its four lanes are (R363). -/
def State.portPresent (s : State) (port : Nat) : Bool :=
  decide (2 ≤ ((List.range 4).filter (fun i => !s.isAbsent .peerLane (4 * port + i))).length)

/-- A device number leads to at least one port that is present (R362, R363). -/
def State.peerReached (s : State) (peer : Nat) : Bool :=
  let mask := s.hbm.readNat (s.trace.peertab.toNat + 4 * peer) 4
  decide (peer < 65535) && (List.range 18).any (fun port => decide (fld mask port 1 = 1) && s.portPresent port)

/-- Where n bytes of a far address lie in the memory of their space, none when the request meets a translation fault. -/
def State.farAddr (s : State) (part peer w n : Nat) : Option Nat :=
  let a := wordAddr w
  match wordSpace w with
  | 2 => if s.isAbsent .flash (a / 2 ^ 41) || s.flashClosed a n then none else some a
  | 3 => s.extentAddr part a n
  | 4 => some a
  | _ => if s.peerReached peer then some (peer * 2 ^ 60 + a) else none

/-- Bytes read from, and written to, the far side. -/
def State.farLoad (s : State) (space a n : Nat) : List Byte :=
  match space with
  | 2 => s.flash.mem.readBytes a n
  | 3 => s.cxl.readBytes a n
  | 4 => s.host.readBytes a n
  | _ => s.peer.readBytes a n
def State.farStore (s : State) (space a : Nat) (bs : List Byte) : State :=
  match space with
  | 3 => { s with cxl := s.cxl.writeBytes a bs }
  | 4 => { s with host := s.host.writeBytes a bs }
  | _ => { s with peer := s.peer.writeBytes a bs }

/-! Parked requests (R253). -/

/-- A park tag no request of the core holds (R253). -/
def Core.freeTag (k : Core) : Nat :=
  let used := k.dyn.flatMap (fun x => x.reqs.filterMap (fun q => match q.st with | .parked t _ => some t | _ => none)) ++
    k.runs.flatMap (fun r => r.reqs.filterMap (fun q => if q.at_.isNone then some q.tag else none))
  ((List.range Config.maxRequests).find? (fun t => !used.contains t)).getD 0

/-- The type-6 event of a request that parks (R253). -/
def State.parkEvent (s : State) (c tag va : Nat) : State :=
  s.event c 6 0 (va % 2 ^ 64 + tag * 2 ^ 64) (va % 2 ^ 60 + tag * 2 ^ 60)

/-- The class-7 trap of a request given up (R239, R253). -/
def State.abandonTrap (s : State) (c tag va : Nat) : State :=
  s.raiseTrap c { cls := 7, cause := 1, fmask := 0, bundle := none, detail := va % 2 ^ 64 + tag * 2 ^ 64 }

end Sys2Proof.Machine
end

