-- ==== Sys2Proof/Machine/Tundish.lean ====
section
/-! DEFINITION. Pours and the tundish (R189, R190, R254 to R281): the buffer model, requests and arrivals, the expanders, the
removals with their policies, and the pieces of an expanded block. -/

namespace Sys2Proof.Machine

/-! The descriptor and the index table (R255, R256). -/

def PourDesc.get (p : PourDesc) (lo len : Nat) : Nat := fld p.d.toNat lo len
def PourDesc.src (p : PourDesc) : Nat := p.get 0 64
def PourDesc.nblk (p : PourDesc) : Nat := p.get 64 32
def PourDesc.chunk (p : PourDesc) : Nat := p.get 96 32
def PourDesc.period (p : PourDesc) : Nat := p.get 128 32
def PourDesc.delay (p : PourDesc) : Nat := p.get 160 32
def PourDesc.cap (p : PourDesc) : Nat := p.get 192 20
def PourDesc.trapPolicy (p : PourDesc) : Bool := decide (p.get 232 1 = 1)
def PourDesc.point (p : PourDesc) : Nat := p.get 233 2
def PourDesc.allow (p : PourDesc) : Nat := p.get 320 32

/-- The entry of block k. -/
def PourDesc.entry (p : PourDesc) (k : Nat) : Nat := (p.index.getD k 0).toNat
def PourDesc.soff (p : PourDesc) (k : Nat) : Nat := fld (p.entry k) 0 40
def PourDesc.tsize (p : PourDesc) (k : Nat) : Nat := fld (p.entry k) 40 21
def PourDesc.xsize (p : PourDesc) (k : Nat) : Nat := fld (p.entry k) 61 24
def PourDesc.method (p : PourDesc) (k : Nat) : Nat := fld (p.entry k) 85 3
def PourDesc.fmt (p : PourDesc) (k : Nat) : Nat := fld (p.entry k) 88 5
def PourDesc.slot (p : PourDesc) (k : Nat) : Nat := fld (p.entry k) 93 2
def PourDesc.clen (p : PourDesc) (k : Nat) : Nat := p.soff (k + 1) - p.soff k

/-- TOFF_k (R257). -/
def PourDesc.toff (p : PourDesc) (k : Nat) : Nat := (List.range k).foldl (fun acc j => acc + p.tsize j) 0

/-- The removal offset L_k (R258). -/
def PourDesc.off (p : PourDesc) (k : Nat) : Nat := if p.get 231 1 = 1 then p.list.getD k 0 else k * p.get 288 32

/-- Bytes of the stream that the pour delivers from block b on. -/
def PourDesc.total (p : PourDesc) : Nat := p.toff p.nblk

/-- The source is in HBM: its times are fixed by the heat (R184, R258, R262). -/
def PourDesc.isStatic (p : PourDesc) : Bool := decide (wordSpace p.src = 1)

/-- t_k (R258). -/
def PourRun.removal (r : PourRun) (p : PourDesc) (k : Nat) : Nat := r.start + p.get 256 32 + p.off k - p.off r.block

/-- A_m (R258). -/
def PourRun.arrival (r : PourRun) (p : PourDesc) (m : Nat) : Nat := r.start + p.delay + m * p.period

/-- The tundish bytes of arrival m (R258). -/
def PourRun.chunkAt (r : PourRun) (p : PourDesc) (m : Nat) : Nat × Nat :=
  let lo := p.toff r.block + m * p.chunk
  (lo, min (lo + p.chunk) p.total)

/-! Runs. -/

def Core.runOf (k : Core) (id : Nat) : Option PourRun := k.runs.find? (fun r => decide (r.id = id))
def Core.modRun (k : Core) (id : Nat) (f : PourRun → PourRun) : Core :=
  { k with runs := k.runs.map (fun r => if r.id = id then f r else r) }
def Core.descOf (k : Core) (d : Nat) : Option PourDesc := sget none k.pours d
def State.modRun (s : State) (c id : Nat) (f : PourRun → PourRun) : State := s.modCore c (fun k => k.modRun id f)

/-- A run with its descriptor. -/
def Core.pour (k : Core) (id : Nat) : Option (PourRun × PourDesc) :=
  match k.runOf id with
  | some r => (k.descOf r.desc).map (fun p => (r, p))
  | none => none

/-- The length of the common part of two ranges. -/
def overlap (a b lo hi : Nat) : Nat := min b hi - max a lo

/-- The bytes of block k that entered or were skimmed. -/
def PourRun.present (r : PourRun) (p : PourDesc) (k : Nat) : Nat :=
  r.got.foldl (fun n x => n + overlap x.1 x.2 (p.toff k) (p.toff (k + 1))) 0

/-- F (R259): the bytes in the window are those of blocks not removed that entered. -/
def PourRun.fullness (r : PourRun) (p : PourDesc) : Nat :=
  r.got.foldl (fun n x => n + overlap x.1 x.2 (p.toff r.next) p.total) 0

/-! The bytes of a stream (R255, R290, R302). -/

/-- Bytes to which the spec gives no value. -/
def State.openBytes (s : State) (a n : Nat) : List Byte := (List.range n).map (fun i => Config.freeByte (s.choice + a + i))

/-- n bytes of a stream in flash or at a peer; the pages of kinds 4 and 6 are not readable for a pour (R302, R303). -/
def State.outerBytes (s : State) (p : PourDesc) (off n : Nat) : List Byte :=
  let a := wordAddr p.src + off
  if wordSpace p.src = 2 then (if s.flashClosed a n then s.openBytes a n else s.flash.mem.readBytes a n)
  else s.peer.readBytes (p.get 352 16 * 2 ^ 60 + a) n

/-- Where byte `o` of a stream in space 3 lies on the pooled memory device, as its request was translated (R306). -/
def PourRun.deviceAt (r : PourRun) (o : Nat) : Option Nat :=
  r.reqs.findSome? (fun q => if q.src ≤ o ∧ o < q.src + q.srcLen then q.at_.map (fun a => a + (o - q.src)) else none)

/-- n bytes of a stream from offset `off` of SRC as the intake or an expander gets them: as the timeline delivered them, or
from the memory that the address word names. -/
def State.streamBytes (s : State) (c : Nat) (r : PourRun) (p : PourDesc) (off n : Nat) : List Byte :=
  let a := wordAddr p.src + off
  match wordSpace p.src with
  | 1 => (List.range n).map (fun i =>
      match (s.heat (s.partOf c)).pinned (a + i) with
      | some pa => s.delivered c pa true
      | none => Config.freeByte (s.choice + a + i))
  | 3 => (List.range n).map (fun i =>
      match r.deviceAt (off + i) with
      | some d => s.cxl.read d
      | none => Config.freeByte (s.choice + a + i))
  | _ => s.outerBytes p off n

/-- The same bytes read from the memory itself, at no time that the heat fixes (R279). -/
def State.streamDirect (s : State) (c : Nat) (p : PourDesc) (off n : Nat) : List Byte :=
  let a := wordAddr p.src + off
  match wordSpace p.src with
  | 1 => (List.range n).map (fun i =>
      match (s.heat (s.partOf c)).pinned (a + i) with
      | some pa => if s.paStale pa then 0 else s.hbm.read pa
      | none => Config.freeByte (s.choice + a + i))
  | 3 =>
    match s.extentAddr (s.partOf c) a n with
    | some d => s.cxl.readBytes d n
    | none => s.openBytes a n
  | _ => s.outerBytes p off n

/-- What the read of such bytes of a stream in HBM meets (R295, R299): stale row groups and lines that cannot be used. -/
def State.streamMeets (s : State) (c : Nat) (p : PourDesc) (off n : Nat) : State :=
  if wordSpace p.src ≠ 1 then s
  else (rowParts (n / 1024 + 2) (wordAddr p.src + off) n).foldl (fun s x =>
    match (s.heat (s.partOf c)).pinned x.1 with
    | none => s
    | some pa =>
      if s.paStale pa then s.staleReads pa x.2
      else match s.hbmFault pa x.2 with | some t => s.raiseTrap c t | none => s) s

/-! The expanders (R265, R267, R273). -/

/-- A slot block applied to the slots of a run (R273, R275, R277): `ok` tells that it is not blank. -/
def PourRun.loadSlot (r : PourRun) (p : PourDesc) (k : Nat) (ok : Bool) (bs : List Byte) : PourRun :=
  let pl := bs.drop 16
  if p.method k = 3 then
    { r with books := sset [] r.books (p.slot k) (if ok then (codebookOf (p.fmt k) pl).getD [] else []) }
  else { r with tables := sset [] r.tables (p.slot k) (if ok then (tableOf (p.fmt k) pl).getD [] else []) }

/-- The reason for which the bytes of block k are corrupt (R265). -/
def PourDesc.reason (p : PourDesc) (k : Nat) (bs : List Byte) : Nat :=
  ingotReason bs (p.method k) (p.fmt k) (p.slot k) (p.clen k) (p.xsize k) p.point

/-- The expansion of a data block with the slots of a run (R273): exactly XSIZE bytes, the size error, the bytes produced. -/
def PourRun.expand (r : PourRun) (p : PourDesc) (k : Nat) (bs : List Byte) : List Byte × Nat × Nat :=
  let h := natOf (bs.take 16)
  let (out, err) := expandBlock (p.method k) (p.fmt k) (p.xsize k) (sget [] r.books (hdrId h)) (sget [] r.tables (hdrId h)) bs
  (exactly (p.xsize k) out, err, out.length)

/-- An expander at L0 to L2 has block k (R265, R270, R273). -/
def PourRun.expandUp (r : PourRun) (p : PourDesc) (k : Nat) (bs : List Byte) : PourRun :=
  let reason := p.reason k bs
  let r1 := { r with nextExp := k + 1 }
  let put := fun (r : PourRun) (e : Expanded) => ({ r with expanded := sset none r.expanded k (some e) } : PourRun)
  if 3 ≤ p.method k then
    put (r1.loadSlot p k (decide (reason = 0)) bs) { bytes := [], corrupt := reason, sizeErr := 0, produced := 0 }
  else if reason ≠ 0 then put r1 { bytes := zeros (p.xsize k), corrupt := reason, sizeErr := 0, produced := 0 }
  else
    let (out, err, n) := r.expand p k bs
    put r1 { bytes := out, corrupt := 0, sizeErr := err, produced := n }

/-- The next block of a stream is expanded upstream. -/
def State.expandOne (s : State) (c id : Nat) : State :=
  match (s.core c).pour id with
  | some (r, p) =>
    if r.nextExp < p.nblk then
      let bs := s.streamBytes c r p (p.soff r.nextExp) (p.clen r.nextExp)
      s.modRun c id (fun r => r.expandUp p r.nextExp bs)
    else s
  | none => s

/-- R273, R265. At points L0 to L2 a block is checked and expanded as it reaches the expander, in stream order. -/
def execBlockExpansion (c id k : Nat) (s : State) : Result :=
  match (s.core c).pour id with
  | some (r, p) => .next (if p.point < 3 ∧ r.nextExp = k ∧ s.flows c ∧ s.begins c r.start then s.expandOne c id else s)
  | none => .next s

/-! Arrivals (R258, R259, R262). -/

/-- The blocks, from the next one to be expanded on, that an arrival of bytes up to `hi` needs. -/
def PourRun.blocksTo (r : PourRun) (p : PourDesc) (hi : Nat) : List Nat :=
  if p.point = 3 then []
  else ((List.range p.nblk).filter (fun j => decide (r.nextExp ≤ j) && (decide (p.toff j < hi) || decide (hi = p.total))))

/-- Tundish bytes lo to hi − 1 of a stream (R254, R258). -/
def State.tundishBytes (s : State) (c : Nat) (r : PourRun) (p : PourDesc) (lo hi : Nat) : List Byte :=
  if p.point = 3 then s.streamBytes c r p (p.soff 0 + lo) (hi - lo)
  else
    (List.range p.nblk).flatMap (fun j =>
      let a := max lo (p.toff j)
      let b := min hi (p.toff (j + 1))
      if a < b then
        match sget none r.expanded j with
        | some e => (e.bytes.drop (a - p.toff j)).take (b - a)
        | none => zeros (b - a)
      else [])

/-- Arrival m of an HBM pour, and what the expanders do before it, placed in the agenda (R258). -/
def State.scheduleArrival (s : State) (c id : Nat) : State :=
  match (s.core c).pour id with
  | some (r, p) =>
    let (lo, hi) := r.chunkAt p r.arrivals
    if lo < hi then
      let t := r.arrival p r.arrivals
      let s1 := (r.blocksTo p hi).foldl (fun s j => s.at t (.blockExpansion c id j)) s
      (s1.modRun c id (fun r => { r with arrivals := r.arrivals + 1 })).at t (.pourArrival c id lo (hi - lo))
    else s
  | none => s

/-- The offset in the stream of the first byte that the tundish bytes below `off` do not need: at L3 the byte itself, upstream
the first block that begins there (R254). -/
def PourDesc.streamEnd (p : PourDesc) (off : Nat) : Nat :=
  if p.point = 3 then p.soff 0 + off
  else if p.total ≤ off then p.soff p.nblk
  else p.soff (((List.range p.nblk).find? (fun j => decide (off ≤ p.toff j))).getD p.nblk)

/-- The request of a pour from space 3 for tundish bytes goes out: translated through the extents, or parked (R253, R305,
R306). `again` tells that it has been parked before. -/
def State.askDevice (s : State) (c id : Nat) (p : PourDesc) (off n : Nat) (again : Bool) : State :=
  let k := s.core c
  let lo := p.streamEnd off
  let len := p.streamEnd (off + n) - lo
  let va := wordAddr p.src + lo
  let far := s.extentAddr (s.partOf c) va len
  let q : PourReq := { off := off, len := n, src := lo, srcLen := len, at_ := far, tag := k.freeTag, late := again || far.isNone }
  let s1 := s.modRun c id (fun r => { r with reqs := r.reqs ++ [q] })
  if q.at_.isSome then s1.later 1 (.pourArrival c id off n) else s1.parkEvent c q.tag va

/-- The intake asks for the next chunk of a flash, CXL or peer stream while there is room (R262); `fuel` bounds the chunks
that the tundish takes. -/
def State.requestMore (s : State) (c id : Nat) : Nat → State
  | 0 => s
  | fuel + 1 =>
    match (s.core c).pour id with
    | some (r, p) =>
      let n := min p.chunk (p.total - r.asked)
      if p.isStatic = true ∨ n = 0 ∨ p.cap < r.fullness p + r.flying + n then s
      else
        let s1 := s.modRun c id (fun r => { r with asked := r.asked + n, flying := r.flying + n })
        let s2 := if wordSpace p.src = 3 then s1.askDevice c id p r.asked n false else s1.later 1 (.pourArrival c id r.asked n)
        s2.requestMore c id fuel
    | none => s

/-- Chunks that a window can hold. -/
def maxChunks : Nat := 0x80000

/-- R262. -/
def execPourRequest (c id : Nat) (s : State) : Result :=
  match (s.core c).runOf id with
  | some r => .next (if s.begins c r.start ∧ s.flows c then s.requestMore c id maxChunks else s)
  | none => .next s

/-- An expander upstream takes a stream in its order: what comes after a parked request waits for it (R253, R273). -/
def PourRun.waitsFor (r : PourRun) (p : PourDesc) (off : Nat) : Bool :=
  decide (p.point < 3) && r.reqs.any (fun q => q.at_.isNone && decide (q.off < off))

/-- Bytes of a range that have not counted at the barrier (log entry 66). -/
def PourRun.toCount (r : PourRun) (lo hi : Nat) : Nat :=
  hi - lo - r.counted.foldl (fun n x => n + overlap x.1 x.2 lo hi) 0

/-- A request that had parked performs: a fence that waits for it looks again (R202, R253). -/
def State.pourCame (s : State) (c : Nat) (r : PourRun) (off : Nat) : State :=
  if r.reqs.any (fun q => q.late && decide (q.off = off)) then
    (s.modRun c r.id (fun r => { r with reqs := r.reqs.map (fun q => if q.off = off then { q with late := false } else q) })).atOnce
      (s.gcount + 1) (.fenceRelease c false)
  else s

/-- R258, R259, R267, R200. Bytes of blocks not yet removed enter the tundish, the others are skimmed; both count at the
pour's barrier. From the stop on nothing enters (R242). -/
def execPourArrival (c id off len : Nat) (s : State) : Result :=
  match (s.core c).pour id with
  | some (r0, p) =>
    if !(s.begins c r0.start && s.flows c) then .next s
    else if r0.waitsFor p off then .next (s.at (s.gcount + 1) (.pourArrival c id off len))
    else
      let s0 := if p.isStatic then s else
        (r0.blocksTo p (off + len)).foldl (fun s _ => s.expandOne c id) s
      match (s0.core c).runOf id with
      | none => .next s0
      | some r =>
        let hi := off + len
        let lo := min hi (max off (p.toff r.next))
        let bs := s0.tundishBytes c r p lo hi
        let s1 := s0.modRun c id (fun r => { r with
          entered := r.entered.writeBytes lo bs, got := r.got ++ [(off, hi)],
          flying := if p.isStatic then r.flying else r.flying - len })
        let s2 := match r.bar with
          | some b => s1.touchBar c b (-(r.toCount off hi : Int)) false
          | none => s1
        .next (if p.isStatic then s2.scheduleArrival c id
               else (s2.pourCame c r off).atOnce s2.gcount (.pourRequest c id))
  | none => .next s

/-- The parked request of a pour under a tag, with its run. -/
def Core.pourParked (k : Core) (tag : Nat) : Option (PourRun × PourReq) :=
  k.runs.findSome? (fun r => (r.reqs.find? (fun q => q.at_.isNone && decide (q.tag = tag))).map (fun q => (r, q)))

/-- A run without a request. -/
def PourRun.dropReq (r : PourRun) (q : PourReq) : PourRun := { r with reqs := r.reqs.filter (fun y => decide (y ≠ q)) }

/-- The parked request of a pour is sent again (R253, R306). -/
def State.replayPour (s : State) (c tag : Nat) : State :=
  match (s.core c).pourParked tag with
  | none => s
  | some (r, q) =>
    match (s.core c).descOf r.desc with
    | some p => (s.modRun c r.id (fun r => r.dropReq q)).askDevice c r.id p q.off q.len true
    | none => s

/-- The parked request of a pour is given up: its bytes never come, and a trap of class 7 follows (R239, R253). -/
def State.abandonPour (s : State) (c tag : Nat) : State :=
  match (s.core c).pourParked tag with
  | none => s
  | some (r, q) =>
    let va := match (s.core c).descOf r.desc with | some p => wordAddr p.src + q.src | none => 0
    ((s.modRun c r.id (fun r => r.dropReq q)).atOnce (s.gcount + 1) (.fenceRelease c false)).abandonTrap c tag va

/-! Removals (R263 to R271, R280, R281). -/

/-- What identifies a block in an event (R271). -/
def blockTag (r : PourRun) (k : Nat) : Nat := k % 2 ^ 32 + r.intake * 2 ^ 32 + r.desc * 2 ^ 33

/-- An event of type 3, 4 or 5 (R271, R359). -/
def State.pourEvent (s : State) (c typ reason count tag : Nat) : State :=
  let n := count % 2 ^ 32
  s.event c typ 0 (tag + n * 2 ^ 64 + reason * 2 ^ 96) (tag % 2 ^ 41 + reason * 2 ^ 48 + n * 2 ^ 64)

/-- The timing trap of causes 7, 8 and 9 (R268, R270, R280). -/
def State.pourTrap (s : State) (c cause : Nat) (take : Option (Nat × Nat)) (k intake : Nat) : State :=
  s.raiseTrap c { cls := 5, cause := cause, fmask := 0, bundle := take, detail := k + intake * 2 ^ 64 }

/-- The pieces of a block's expanded bytes (R263): piece p performs at P_k − np + 1 + p. -/
def State.startPieces (s : State) (c : Nat) (t : Take) (allow : Nat) (bs : List Byte) (poison : Bool) (err produced : Nat)
    (trap : Bool) (tag : Nat) : State :=
  let np := (bs.length + 1023) / 1024
  let k := s.core c
  let first := s.gcount + allow + 1 - np
  let x : PieceRun := { id := k.nextId, dst := t.dst, bytes := bs, first := first, np := np, poison := poison, err := err,
                        produced := produced, trap := trap, tag := tag, issue := t.issue, pos := t.pos, seg := t.seg }
  if np = 0 then s
  else
    let s1 := s.setCore c { k with pieces := k.pieces ++ [x], nextId := k.nextId + 1 }
    if trap then s1.at first (.expansionPiece c x.id 0 .perform)
    else (List.range np).foldl (fun s q =>
      (s.at (first + q) (.expansionPiece c x.id q .occupy)).at (first + q) (.expansionPiece c x.id q .perform)) s1

/-- A removal that meets an underflow, a corruption or a missed operand (R267, R268, R280). Upstream the expander has emptied the
slot of a corrupt block in stream order (R273). -/
def State.blankBlock (s : State) (c : Nat) (r : PourRun) (p : PourDesc) (k : Nat) (late missed : Bool)
    (reason missing : Nat) (take : Option Take) : State :=
  if p.trapPolicy then
    s.pourTrap c (if missed then 8 else 7) (take.map (fun t => (t.pos, t.seg))) k r.intake
  else
    let s1 := if 3 ≤ p.method k ∧ p.point = 3 then s.modRun c r.id (fun r => r.loadSlot p k false []) else s
    match take with
    | none => s1
    | some t =>
      let s2 := if late then s1.pourEvent c 3 0 missing (blockTag r k)
                else s1.pourEvent c 4 (if missed then 9 else reason) 0 (blockTag r k)
      if 3 ≤ p.method k then s2
      else s2.startPieces c t p.allow (zeros (p.xsize k)) true 0 0 false (blockTag r k)

/-- A removal of a complete, sound block (R263, R270, R281). The size-error mark of an expander at L0 to L2 traps whether or not a
`TAKE` names the block (R240, R270). -/
def State.soundBlock (s : State) (c : Nat) (r : PourRun) (p : PourDesc) (k : Nat) (bs : List Byte) (take : Option Take) :
    State :=
  if 3 ≤ p.method k then
    if p.point = 3 then s.modRun c r.id (fun r => r.loadSlot p k true bs) else s
  else
    match take with
    | none =>
      match sget none r.expanded k with
      | some e => if e.sizeErr ≠ 0 ∧ p.trapPolicy = true ∧ p.point < 3 then s.pourTrap c 9 none k r.intake else s
      | none => s
    | some t =>
      let (out, err, n) :=
        if p.point = 3 then r.expand p k bs
        else
          match sget none r.expanded k with
          | some e => (exactly (p.xsize k) bs, e.sizeErr, e.produced)
          | none => (bs, 0, bs.length)
      if err ≠ 0 ∧ p.trapPolicy = true ∧ p.point < 3 then s.pourTrap c 9 (some (t.pos, t.seg)) k r.intake
      else s.startPieces c t p.allow out (decide (err ≠ 0)) err n (decide (err ≠ 0) && p.trapPolicy) (blockTag r k)

/-- The run after the removal of block k (R259, R267): its bytes are freed, none of it is asked for any more, and the next
removal is due. A request that has parked stays until it performs, and its bytes are then skimmed (R253). -/
def State.afterRemoval (s : State) (c : Nat) (r : PourRun) (p : PourDesc) (k : Nat) : State :=
  let hi := p.toff (k + 1)
  let never := r.toCount (max r.asked (p.toff k)) hi
  let s1 := s.modRun c r.id (fun r => { r with
    next := k + 1, asked := max r.asked hi, closed := decide (p.nblk ≤ k + 1),
    entered := r.entered.filter (fun x => decide (hi ≤ x.1)),
    expanded := sset none r.expanded k none, reqs := r.reqs.filter (fun q => q.late || decide (p.soff (k + 1) < q.src + q.srcLen)),
    takes := r.takes.filter (fun t => decide (t.block ≠ k)) })
  let s2 := match r.bar with
    | some b => if never = 0 then s1 else s1.touchBar c b (-(never : Int)) false
    | none => s1
  let s3 := if k + 1 < p.nblk then s2.at (r.removal p (k + 1)) (.blockRemoval c r.id (k + 1)) else s2
  if p.isStatic then s3 else s3.atOnce s3.gcount (.pourRequest c r.id)

/-- R259, R263 to R268, R280, R281. Block k is removed in its cycle t_k, whatever has arrived of it. From the stop on no
violation is checked (R242). -/
def execBlockRemoval (c id k : Nat) (s : State) : Result :=
  match (s.core c).pour id with
  | none => .next s
  | some (r0, p) =>
    if r0.next ≠ k ∨ r0.closed = true ∨ s.begins c r0.start = false ∨ s.flows c = false then .next s
    else
      let need := if p.point < 3 ∧ p.tsize k = 0 then k + 1 - r0.nextExp else 0
      let s0 := (List.range need).foldl (fun s _ => s.expandOne c id) s
      match (s0.core c).runOf id with
      | none => .next s0
      | some r =>
        let have_ := r.present p k
        let bs := r.entered.readBytes (p.toff k) (p.tsize k)
        let late := decide (have_ < p.tsize k)
        let reason := if p.point = 3 then p.reason k bs
                      else match sget none r.expanded k with | some e => e.corrupt | none => 0
        let take := r.takes.find? (fun t => decide (t.block = k))
        let missed := (decide (p.method k = 1) || decide (p.method k = 2)) &&
          r.preload.any (fun j => decide (p.method j = p.method k + 2) && decide (p.slot j = p.slot k))
        let s1 := s0.afterRemoval c r p k
        .next (if late then s1.blankBlock c r p k true false 0 (p.tsize k - have_) take
               else if reason ≠ 0 then s1.blankBlock c r p k false false reason 0 take
               else if missed then s1.blankBlock c r p k false true 0 0 take
               else s1.soundBlock c r p k bs take)

/-- R263, R264, R270. A piece performs unless it met a conflict, and sets or clears the poison of its granule; the size error
of its block is written with the last piece. -/
def execExpansionPiece (c id piece : Nat) (part : AccPart) (s : State) : Result :=
  match (s.core c).pieces.find? (fun x => decide (x.id = id)) with
  | none => .next s
  | some x =>
    let bs := (x.bytes.drop (1024 * piece)).take 1024
    let a := x.dst + 1024 * piece
    match part with
    | .occupy | .reserve =>
      .next (s.engineAccess c x.issue x.pos x.seg (rangeBanks a bs.length) a s.gcount (.piece id piece))
    | .read | .perform =>
      let drop := fun (s : State) => s.modCore c (fun k => { k with pieces := k.pieces.filter (fun y => decide (y.id ≠ id)) })
      if x.trap then
        .next (drop (if s.flows c then s.pourTrap c 9 (some (x.pos, x.seg)) (x.tag % 2 ^ 32) (x.tag / 2 ^ 32 % 2) else s))
      else
        let void := (s.core c).voided (.piece id piece)
        let s1 := s.modCore c (fun k =>
          let k1 := k.dropAcc (.piece id piece)
          if void then k1
          else
            let k2 := k1.store a bs
            if x.poison then { k2 with poison := setIndex k2.poison (a / 1024) true }
            else if bs.length = 1024 then { k2 with poison := setIndex k2.poison (a / 1024) false }
            else k2)
        if piece + 1 < x.np then .next s1
        else .next (drop (if x.err ≠ 0 then s1.pourEvent c 5 x.err x.produced x.tag else s1))

/-! Slot blocks of a pour started again (R279, R280). -/

/-- The last CODEBOOK and the last TABLE block of each slot that precede block b (R279), in stream order. -/
def PourDesc.slotBlocks (p : PourDesc) (b : Nat) : List Nat :=
  (List.range b).filter (fun j => decide (3 ≤ p.method j) &&
    !((List.range b).any (fun i => decide (j < i) && decide (p.method i = p.method j) && decide (p.slot i = p.slot j))))

/-- The slots of a run started at block b, filled from the stream itself (R279). -/
def State.fillSlots (s : State) (c : Nat) (p : PourDesc) (b : Nat) (r : PourRun) : PourRun :=
  (p.slotBlocks b).foldl (fun r j =>
    let bs := s.streamDirect c p (p.soff j) (p.clen j)
    r.loadSlot p j (decide (p.reason j bs = 0)) bs) r

/-- R279. The next slot block of a pour that a restart or a resume started again has been delivered. -/
def execCodebookDelivery (c id : Nat) (s : State) : Result :=
  match (s.core c).runOf id with
  | some r =>
    if !s.flows c then .next s
    else
      let s1 := s.modRun c id (fun r => { r with preload := r.preload.drop 1 })
      .next (if 1 < r.preload.length then s1.later 1 (.codebookDelivery c id) else s1)
  | none => .next s

/-! `POUR` and `TAKE` (R189, R190). -/

def pourDescNo (r : Nat) : Nat := fld r 128 8
def pourIntake (r : Nat) : Nat := fld r 136 1
def pourBlock (r : Nat) : Nat := fld r 160 32

/-- The ranges of the stream that a pour from block b uses, by offset and length: its blocks, and the blocks that fill its slots
(R184, R189, R279). -/
def PourDesc.usedRanges (p : PourDesc) (b : Nat) : List (Nat × Nat) :=
  (p.soff b, p.soff p.nblk - p.soff b) :: (p.slotBlocks b).map (fun j => (p.soff j, p.clen j))

/-- Check 2 of R182 for a `POUR` (R184, R189). -/
def State.pourLegal (s : State) (c r : Nat) : Bool :=
  match (s.core c).descOf (pourDescNo r) with
  | none => false
  | some p =>
    recOk 0x11 p.isStatic r && decide (fld r 192 832 = 0) && decide (fld r 137 23 = 0) && decide (pourBlock r < p.nblk) &&
      (!p.isStatic || (p.usedRanges (pourBlock r)).all (fun x =>
        (s.heat (s.partOf c)).pinnedRange (wordAddr p.src + x.1) x.2))

/-- Check 3 for a `POUR`: its intake carries a pour at START (R189), the cycle of the last removal included (log entry 67). -/
def Core.pourBusy (k : Core) (intake start : Nat) : Bool :=
  k.runs.any (fun r => decide (r.intake = intake) && !r.closed && decide (r.start ≤ start) &&
    (match k.descOf r.desc with | some p => decide (start ≤ r.removal p (p.nblk - 1)) | none => false))

/-- What the reads of the slot blocks before block b meet (R279, R299). -/
def State.slotsMeet (s : State) (c : Nat) (p : PourDesc) (b : Nat) : State :=
  (p.slotBlocks b).foldl (fun s j => s.streamMeets c p (p.soff j) (p.clen j)) s

/-- A pour accepted (R189, R258, R262). -/
def State.acceptPour (s0 : State) (c : Nat) (a : Access) (r start : Nat) : State :=
  match (s0.core c).descOf (pourDescNo r) with
  | none => s0
  | some p =>
    let b := pourBlock r
    let s := s0.slotsMeet c p b
    let k := s.core c
    let x : PourRun := { id := k.nextId, intake := pourIntake r, desc := pourDescNo r, start := start, block := b, next := b,
                         nextExp := b, arrivals := 0, entered := [], got := [], asked := p.toff b, flying := 0,
                         reqs := [], counted := [], takes := [], expanded := [], books := [], tables := [], preload := [], bar := recBar r,
                         issue := a.issue, pos := a.pos, seg := a.seg, closed := false }
    let x1 := s.fillSlots c p b x
    let s1 := s.setCore c { k with runs := k.runs ++ [x1], nextId := k.nextId + 1 }
    let s2 := if p.isStatic then s1.scheduleArrival c x.id else s1.at start (.pourRequest c x.id)
    s2.at (x.removal p b) (.blockRemoval c x.id b)

/-- The pours of a descriptor that an intake carries, running or still to start. -/
def Core.carried (k : Core) (intake desc : Nat) : List PourRun :=
  k.runs.filter (fun r => decide (r.intake = intake) && decide (r.desc = desc) && !r.closed)

/-- The slots of a `TAKE`'s block number that has an entry. -/
def takeWrites (p : PourDesc) (k : Nat) : Bool := decide (p.method k < 3)

/-- Check 2 of R182 for a `TAKE` (R190, R263). -/
def State.takeLegal (s : State) (c r : Nat) : Bool :=
  let k := s.core c
  let dst := fld r 192 64
  match k.descOf (pourDescNo r) with
  | none => false
  | some p =>
    let x := p.xsize (pourBlock r)
    recOk 0x12 true r && decide (fld r 256 768 = 0) && decide (fld r 137 23 = 0) &&
      !(k.carried (pourIntake r) (pourDescNo r)).isEmpty &&
      (!takeWrites p (pourBlock r) ||
        (decide (wordSpace dst = 0) && inSpad (wordAddr dst) x && decide (wordAddr dst % 1024 = 0) &&
          decide (groupOf (wordAddr dst) = groupOf (wordAddr dst + x - 1))))

/-- The carried pour in which START is the removal cycle of the block (R182, check 4). -/
def Core.takeRun (k : Core) (r start : Nat) : Option PourRun :=
  (k.carried (pourIntake r) (pourDescNo r)).find? (fun x =>
    match k.descOf x.desc with
    | some p => decide (x.next ≤ pourBlock r) && decide (pourBlock r < p.nblk) && decide (x.removal p (pourBlock r) = start)
    | none => false)

/-- A `TAKE` accepted (R190, R263). -/
def State.acceptTake (s : State) (c : Nat) (a : Access) (r : Nat) (x : PourRun) : State :=
  let t : Take := { block := pourBlock r, dst := wordAddr (fld r 192 64), issue := a.issue, pos := a.pos, seg := a.seg }
  s.modRun c x.id (fun x => { x with takes := x.takes ++ [t] })

end Sys2Proof.Machine
end

