-- ==== Sys2Proof/Machine/Dynamic.lean ====
section
/-! DEFINITION. `PUT` and `GET` (R196 to R198, R229, R253, R302, R304, R305, R344, R362): their records, their requests, the
translation of dynamic accesses through the dies' caches, parked requests, and what peers send and ask for. -/

namespace Sys2Proof.Machine

/-! The record (R196). -/

def dynSrc (r : Nat) : Nat := fld r 128 64
def dynDst (r : Nat) : Nat := fld r 192 64
def dynLen (r : Nat) : Nat := fld r 256 32
def dynStep (r : Nat) : Nat := fld r 288 32
def dynPeer (r : Nat) : Nat := fld r 320 16
def dynRcore (r : Nat) : Nat := fld r 336 8
def dynRbar (r : Nat) : Option Nat := if fld r 351 1 = 1 then some (fld r 344 5) else none

/-- A range lies in the space of its address word (R184). -/
def wordInSpace (w n : Nat) : Bool :=
  match wordSpace w with
  | 0 => inSpad (wordAddr w) n
  | 2 => decide (wordAddr w + n ≤ 2 ^ 43)
  | _ => decide (wordAddr w + n ≤ 2 ^ 60)

/-- Check 2 of R182 for a `PUT` or a `GET` (R196). -/
def dynLegal (get : Bool) (r : Nat) : Bool :=
  let src := dynSrc r
  let dst := dynDst r
  let n := dynLen r
  recOk (if get then 0x17 else 0x16) false r && decide (fld r 352 672 = 0) && decide (fld r 349 2 = 0) && decide (0 < n) &&
    wordInSpace src n && wordInSpace dst n &&
    (dynStep r = 0 || (recBar r).isSome) &&
    (if get then
       decide (wordSpace dst ≤ 1) && decide (2 ≤ wordSpace src) && decide (wordSpace src ≤ 5) && decide (fld r 344 8 = 0) &&
         (decide (wordSpace src ≠ 2) || (decide (wordAddr src % 4096 = 0) && decide (n % 4096 = 0)))
     else
       decide (wordSpace src ≤ 1) && decide (3 ≤ wordSpace dst) && decide (wordSpace dst ≤ 5) &&
         (decide (wordSpace dst = 5) || decide (fld r 344 8 = 0)))

/-- A `PUT` or `GET` accepted (R197). -/
def State.acceptDyn (s : State) (c : Nat) (a : Access) (get : Bool) (r start : Nat) : State :=
  let k := s.core c
  let x : DynCmd := { id := k.nextId, get := get, remote := false, rec_ := BitVec.ofNat 1024 r, issue := a.issue,
                      start := start, next := 0, reqs := [], stepOpen := decide (dynStep r ≠ 0), began := false,
                      heatId := s.heatIdOf (s.partOf c), pos := a.pos, seg := a.seg }
  (s.setCore c { k with dyn := k.dyn ++ [x], nextId := k.nextId + 1 }).at start (.dynamicRequestIssue c x.id)

def Core.dynOf (k : Core) (id : Nat) : Option DynCmd := k.dyn.find? (fun x => decide (x.id = id))
def Core.modDyn (k : Core) (id : Nat) (f : DynCmd → DynCmd) : Core :=
  { k with dyn := k.dyn.map (fun x => if x.id = id then f x else x) }
def State.modDyn (s : State) (c id : Nat) (f : DynCmd → DynCmd) : State := s.modCore c (fun k => k.modDyn id f)

/-- The request of a command that holds a byte. -/
def DynCmd.reqAt (x : DynCmd) (off : Nat) : Option Req :=
  x.reqs.find? (fun q => decide (q.off ≤ off) && decide (off < q.off + q.len))

/-- A request changed in place. -/
def DynCmd.modReq (x : DynCmd) (off : Nat) (f : Req → Req) : DynCmd :=
  { x with reqs := x.reqs.map (fun q => if q.off = off then f q else q) }

/-- Outstanding requests of a core; what peers send is none of its own (R197). -/
def Core.outstanding (k : Core) : Nat :=
  ((k.dyn.filter (fun x => !x.remote)).map (fun x => (x.reqs.filter (fun q => decide (q.st ≠ .done))).length)).foldl (· + ·) 0

/-- The far and the near address word of a command (R197). -/
def DynCmd.far (x : DynCmd) : Nat := if x.get then dynSrc x.rec_.toNat else dynDst x.rec_.toNat
def DynCmd.near (x : DynCmd) : Nat := if x.get then dynDst x.rec_.toNat else dynSrc x.rec_.toNat

/-! Translation of a dynamic access (R343, R344). -/

/-- What a cache keeps of a leaf for one 64 KiB page: the physical page in bits 31:8, the leaf's size in bits 6:1, WR. -/
def cacheWord (l : Leaf) : Nat := l.pa / 65536 % 2 ^ 24 * 256 + l.bits * 2 + fld l.entry 61 1

/-- The physical address by which a die reaches a virtual address: from its cache or from the table, as it chooses; neither
leads to an absent channel (R363). -/
def State.dynTranslate (s : State) (die part va : Nat) (write : Bool) : State × Option Nat :=
  let key := 4 * die + part
  let page := va % 2 ^ 60 / 65536
  let s1 : State := { s with choice := s.choice + 1 }
  match s.cache.find? (fun e => decide (e.1 = key) && decide (e.2.1 = page)), Config.useCached s.choice, inRegSpace va with
  | some e, true, false =>
    let pa := fld e.2.2 8 24 * 65536 + va % 65536
    (s1, if (write && decide (e.2.2 % 2 = 0)) || s.mgmt.absent.contains (.channel, paChannel pa) then none else some pa)
  | _, _, _ =>
    let s2 := s1.walkMeets part va
    match s.walk part va with
    | none => (s2, none)
    | some l =>
      let rest := s.cache.filter (fun e => !(decide (e.1 = key) && decide (e.2.1 = page)))
      ({ s2 with cache := rest ++ [(key, page, cacheWord l)] },
       if write && decide (fld l.entry 61 1 = 0) then none else some l.pa)

/-- The physical ranges of n bytes from a virtual address, or the address at which translation faults. -/
def State.dynRange (s : State) (die part : Nat) (write : Bool) : Nat → Nat → Nat → State × Option Nat × List (Nat × Nat)
  | 0, _, _ => (s, none, [])
  | fuel + 1, va, n =>
    if n = 0 then (s, none, [])
    else
      let m := min n (32768 - va % 32768)
      match s.dynTranslate die part va write with
      | (s1, none) => (s1, some va, [])
      | (s1, some pa) =>
        let (s2, f, l) := s1.dynRange die part write fuel (va + m) (n - m)
        (s2, f, (pa, m) :: l)

/-- Bytes of physical ranges read, and written. -/
def State.rangesLoad (s : State) (l : List (Nat × Nat)) : State × List Byte :=
  l.foldl (fun (acc : State × List Byte) p =>
    let (s1, bs) := acc.1.dynLoad p.1 p.2
    (s1, acc.2 ++ bs)) (s, [])

/-- What a heat's dynamic read of physical ranges raises (R299). -/
def State.rangesFault (s : State) (l : List (Nat × Nat)) : Option TrapInfo :=
  l.findSome? (fun p => if s.paStale p.1 then none else s.hbmFault p.1 p.2)
def State.rangesStore (s : State) : List (Nat × Nat) → List Byte → State
  | [], _ => s
  | (pa, m) :: rest, bs => (s.dynStore pa (bs.take m)).rangesStore rest (bs.drop m)

/-! Requests (R197, R253). -/

/-- R253. A request that meets a translation fault parks, and the core writes a type-6 event. -/
def State.park (s : State) (c id off va : Nat) : State :=
  let tag := (s.core c).freeTag
  (s.modDyn c id (fun x => x.modReq off (fun q => { q with st := .parked tag va }))).parkEvent c tag va

/-- Bytes of one bank at the near side: a scratchpad bank's 256, or the row of an HBM bank's 1024 (R21, R283). -/
def DynCmd.unit (x : DynCmd) : Nat := if wordSpace x.near = 1 then 1024 else 256

/-- The offsets at which the parts of n bytes from an offset begin, each part in one bank (R24, R229). -/
def bankParts (unit_ base : Nat) : Nat → Nat → Nat → List Nat
  | 0, _, _ => []
  | fuel + 1, off, n =>
    if n = 0 then []
    else
      let m := min n (unit_ - (base + off) % unit_)
      off :: bankParts unit_ base fuel (off + m) (n - m)

/-- Bytes of the part of a request that begins at an offset. -/
def DynCmd.partLen (x : DynCmd) (q : Req) (off : Nat) : Nat :=
  min (x.unit - (wordAddr x.near + off) % x.unit) (q.off + q.len - off)

/-- Bytes count at the barrier of a command (R197, R200). -/
def State.countAt (s : State) (c : Nat) (x : DynCmd) (n : Nat) : State :=
  match recBar x.rec_.toNat with
  | some b => s.touchBar c b (-(n : Int)) false
  | none => s

/-- What may go on in the next cycle once a request has come further: fences, and requests that waited for a free place (R197,
R202, R234). -/
def State.dynMoved (s : State) (c : Nat) : State :=
  let s1 := s.atOnce (s.gcount + 1) (.fenceRelease c false)
  (s1.core c).dyn.foldl (fun s x =>
    if x.began && decide (x.next < dynLen x.rec_.toNat) then s.atOnce (s.gcount + 1) (.dynamicRequestIssue c x.id) else s) s1

/-- A request is over; a command with nothing left to do leaves the list once its step has ended (R198). -/
def State.finishReq (s : State) (c id off : Nat) : State :=
  let s1 := s.modDyn c id (fun x => x.modReq off (fun q => { q with st := .done, todo := [], data := [] }))
  let s2 := s1.modCore c (fun k => { k with dyn := k.dyn.filter (fun x =>
    x.stepOpen || decide (x.next < dynLen x.rec_.toNat) || x.reqs.any (fun q => decide (q.st ≠ .done))) })
  s2.dynMoved c

/-- The bytes of a `PUT`'s request have been read from their source; the far side accepts them at a time of its own. What a
peer's `GET` asked for goes back (R197). -/
def State.sourceRead (s : State) (c id off : Nat) : State :=
  match (s.core c).dynOf id with
  | some x =>
    if x.remote then
      let data := match x.reqAt off with | some q => q.data | none => []
      (s.emit (.peerBytes (dynPeer x.rec_.toNat) 0 0 (wordAddr x.near) data)).finishReq c id off
    else
      let s1 := s.modDyn c id (fun x => x.modReq off (fun q => { q with st := .local_, todo := [] }))
      (s1.dynMoved c).later 1 (.dynamicRequestPerform c id off)
  | none => s

/-- The parts of a request still to come placed in the agenda, `least` cycles from now or later: dynamic requesters of the
scratchpad, or of HBM (R24, R229). -/
def State.startParts (s : State) (c : Nat) (x : DynCmd) (q : Req) (least : Nat) : State :=
  let l := if q.todo.isEmpty then bankParts x.unit (wordAddr x.near) (q.len / x.unit + 2) q.off q.len else q.todo
  let s1 := s.modDyn c x.id (fun x => x.modReq q.off (fun q => { q with todo := l }))
  l.foldl (fun s p =>
    s.later least (if wordSpace x.near = 1 then .dynamicRequestPerform c x.id p else .dynamicBankAccess c x.id p)) s1

/-- A request goes out: its addresses are translated, and it parks when one faults; a `PUT` reads its source (R184, R197).
A request sent after the cycle's bank accesses takes its banks from the next cycle on (R24). -/
def State.sendReq (s : State) (c id off least : Nat) : State :=
  match (s.core c).dynOf id with
  | none => s
  | some x =>
    match x.reqAt off with
    | none => s
    | some q =>
      let part := s.partOf c
      let w := x.near
      let near := wordAddr w + off
      let s0 := if wordSpace x.far = 5 then s.tagCheck (s.trace.peertab.toNat + 4 * dynPeer x.rec_.toNat) 4 else s
      let (s1, f, _) := if wordSpace w = 1 then s0.dynRange (c / 64) part x.get 3 near q.len else (s0, none, [])
      match s1.farAddr part (dynPeer x.rec_.toNat) (x.far + off) q.len, f with
      | none, _ => s1.park c id off (wordAddr x.far + off)
      | _, some va => s1.park c id off va
      | some a, none =>
        let s2 := s1.modDyn c id (fun x => x.modReq off (fun q => { q with farAt := a }))
        if x.get && q.todo.isEmpty then s2.later 1 (.dynamicRequestPerform c id off) else s2.startParts c x q least

/-- R197, R198, R230, R242. The engine issues the command's next request when one of the 2048 places is free; from the stop on
none is sent. -/
def execDynamicRequestIssue (c id : Nat) (s : State) : Result :=
  match (s.core c).dynOf id with
  | none => .next s
  | some x =>
    let r := x.rec_.toNat
    if !(s.begins c x.start && s.flows c) then
      .next (s.modDyn c id (fun x => { x with next := dynLen r, stepOpen := x.began && x.stepOpen }))
    else if dynLen r ≤ x.next ∨ Config.maxRequests ≤ (s.core c).outstanding then
      .next (s.modDyn c id (fun x => { x with began := true }))
    else
      let n := min (4096 - (wordAddr x.far + x.next) % 4096) (dynLen r - x.next)
      let q : Req := { off := x.next, len := n, todo := [], farAt := 0, st := .sent, data := zeros n }
      let first := decide (x.next = 0) && decide (dynStep r ≠ 0)
      let s1 := if first then
          s.traceCore c s.gcount 17 (dynStep r + dynLen r * 2 ^ 32 + dynPeer r * 2 ^ 64 + fld r 72 5 * 2 ^ 80)
        else s
      let s2 := s1.modDyn c id (fun x => { x with reqs := x.reqs ++ [q], next := x.next + n, began := true })
      let s3 := s2.sendReq c id q.off 0
      .next (if x.next + n < dynLen r then s3.later 1 (.dynamicRequestIssue c id) else s3)

/-- A part of a request has performed at the near side with these bytes: it counts at the barrier, and with the last part the
request has its bytes (R197, R200). -/
def State.partDone (s : State) (c : Nat) (x : DynCmd) (q : Req) (off : Nat) (bs : List Byte) : State :=
  let i := off - q.off
  let rest := q.todo.filter (fun p => decide (p ≠ off))
  let s1 := s.modDyn c x.id (fun x => x.modReq q.off (fun q =>
    { q with todo := rest, data := q.data.take i ++ bs ++ q.data.drop (i + bs.length) }))
  let s2 := s1.countAt c x bs.length
  if rest.isEmpty then (if x.get then s2.finishReq c x.id q.off else s2.sourceRead c x.id q.off) else s2

/-- A part of a request in HBM waits for a cycle in which its bank is served and performs there: bytes of a `GET` or of a peer
are written, the source of a `PUT` is read. A page that no longer translates parks the request; a peer's bytes then perform
nowhere (R229, R253, R291, R299). -/
def State.hbmPart (s : State) (c : Nat) (x : DynCmd) (q : Req) (off : Nat) : State :=
  let va := wordAddr x.near + off
  let n := x.partLen q off
  match s.dynTranslate (c / 64) (s.partOf c) va x.get with
  | (s1, none) => if x.remote then s1.finishReq c x.id q.off else s1.park c x.id q.off va
  | (s1, some pa) =>
    if !s1.served pa then s1.at (s.gcount + 1) (.dynamicRequestPerform c x.id off)
    else if x.get then
      let bs := (q.data.drop (off - q.off)).take n
      (s1.dynStore pa bs).partDone c x q off bs
    else
      let fault := if s1.paStale pa then none else s1.hbmFault pa n
      let s2 := if x.remote then s1.tagCheck pa n else match fault with | some t => s1.raiseTrap c t | none => s1
      let (s3, bs) := s2.dynLoad pa n
      s3.partDone c x q off bs

/-- R197, R200, R229. The far side serves a `GET`'s request, whose bytes then perform at their destination; a part of a request
performs in HBM; the far side accepts a `PUT`'s bytes. -/
def execDynamicRequestPerform (c id off : Nat) (s : State) : Result :=
  match (s.core c).dynOf id with
  | none => .next s
  | some x =>
    match x.reqAt off with
    | none => .next s
    | some q =>
      let r := x.rec_.toNat
      if q.st = .sent ∧ q.todo.contains off = true then .next (s.hbmPart c x q off)
      else if x.get then
        if q.st = .sent ∧ q.todo = [] then
          let bs := s.farLoad (wordSpace x.far) q.farAt q.len
          let s1 := s.modDyn c id (fun x => x.modReq off (fun q => { q with data := bs }))
          .next (s1.startParts c x q 0)
        else .next s
      else if q.st = .local_ then
        let s1 := s.farStore (wordSpace x.far) q.farAt q.data
        let s2 := if wordSpace x.far = 5 then
            s1.emit (.peerBytes (dynPeer r) (dynRcore r) (fld r 344 8) (wordAddr x.far + off) q.data)
          else s1
        .next (s2.finishReq c id off)
      else .next s

/-- No static access occupies the bank of a byte in the present cycle (R24). -/
def State.bankFree (s : State) (c a : Nat) : Bool :=
  let k := s.core c
  (k.active s.gcount).all (fun x => !x.banks.getLsbD (bankOf a))

/-- R24, R197, R229. One bank's part of a request waits for a cycle in which no static access occupies the bank and performs
there: bytes of a `GET` or of a peer are written, the source of a `PUT` is read. -/
def execDynamicBankAccess (c id off : Nat) (s : State) : Result :=
  match (s.core c).dynOf id with
  | none => .next s
  | some x =>
    match x.reqAt off with
    | none => .next s
    | some q =>
      let a := wordAddr x.near + off
      if q.st ≠ .sent ∨ q.todo.contains off = false then .next s
      else if !s.bankFree c a then .next (s.at (s.gcount + 1) (.dynamicBankAccess c id off))
      else
        let n := x.partLen q off
        if x.get then
          let bs := (q.data.drop (off - q.off)).take n
          .next ((s.modCore c (fun k => k.store a bs)).partDone c x q off bs)
        else
          let s1 := s.spadReadError c (fun y => decide (a ≤ y) && decide (y < a + n)) (some (x.pos, x.seg))
          .next (s1.partDone c x q off ((s.core c).load a n))

/-! Parked requests (R253). -/

/-- The request parked under a tag: its command, its offset, the address that faulted. -/
def Core.parkedAt (k : Core) (tag : Nat) : Option (Nat × Nat × Nat) :=
  k.dyn.findSome? (fun x => x.reqs.findSome? (fun q =>
    match q.st with
    | .parked t va => if t = tag then some (x.id, q.off, va) else none
    | _ => none))

/-- R253. The request is sent again. -/
def execParkedRequestReplay (c tag : Nat) (s : State) : Result :=
  match (s.core c).parkedAt tag with
  | none => .next (s.replayPour c tag)
  | some (id, off, _) =>
    .next ((s.modDyn c id (fun x => x.modReq off (fun q => { q with st := .sent }))).sendReq c id off 1)

/-- R239, R253. The request is given up, and a trap of class 7 follows in this cycle. -/
def execParkedRequestAbandon (c tag : Nat) (s : State) : Result :=
  match (s.core c).parkedAt tag with
  | none => .next (s.abandonPour c tag)
  | some (id, off, va) => .next ((s.finishReq c id off).abandonTrap c tag va)

/-! What peers send and ask for (R197). -/

/-- A command of a peer's at a core: the parts of its one request are placed in the present cycle (R24, R197). -/
def State.remoteWork (s : State) (core : Nat) (get : Bool) (r : Nat) (data : List Byte) : State :=
  let k := s.core core
  let n := data.length
  let q : Req := { off := 0, len := n, todo := [], farAt := 0, st := .sent, data := data }
  let x : DynCmd := { id := k.nextId, get := get, remote := true, rec_ := BitVec.ofNat 1024 r, issue := s.gcount,
                      start := s.gcount, next := n, reqs := [q], stepOpen := false, began := true, heatId := 0, pos := 0,
                      seg := 0 }
  let s1 := s.setCore core { k with dyn := k.dyn ++ [x], nextId := k.nextId + 1 }
  let l := bankParts x.unit (wordAddr x.near) (n / x.unit + 2) 0 n
  let s2 := s1.modDyn core x.id (fun x => x.modReq 0 (fun q => { q with todo := l }))
  l.foldl (fun s p =>
    s.at s.gcount (if wordSpace x.near = 1 then .dynamicRequestPerform core x.id p else .dynamicBankAccess core x.id p)) s2

/-- R197, R200. Bytes of a peer's `PUT` perform at this device, in HBM through the table of the named core's partition, and
count at its barrier; bytes whose page does not translate perform nowhere (log entry 20). Bytes for the scratchpad itself, none at
all, and bytes beyond the scratchpad are the model's own case (log entry 74). -/
def execRemoteArrival (core : Nat) (bar : Option BarReg) (space addr : Nat) (data : List Byte) (s : State) : Result :=
  let n := data.length
  let hbm := decide (space = 1)
  if n = 0 ∨ (hbm = false ∧ inSpad addr n = false) then .next s
  else
    let w := addr % 2 ^ 60 + (if hbm then 2 ^ 60 else 0)
    let r := w * 2 ^ 192 + (match bar with | some b => (128 + b.toNat) * 2 ^ 72 | none => 0)
    .next (s.remoteWork core true r data)

/-- R197, R229. A peer's `GET` is served through the table of a partition (log entry 20): the parts of the bytes are read in
service slots, and the bytes go back once all are read. -/
def execPeerGetRequest (peer addr len : Nat) (s : State) : Result :=
  let p := if s.mgmt.pmode = 0 then 0 else Config.peerPart addr % 4
  let r := (addr % 2 ^ 60 + 2 ^ 60) * 2 ^ 128 + peer % 2 ^ 16 * 2 ^ 320
  if len = 0 then .next s else .next (s.remoteWork (64 * p) false r (zeros len))

end Sys2Proof.Machine
end

