-- ==== Sys2Proof/Machine/BankAccess.lean ====
section
/-! DEFINITION. The moments of a static access (R22, R23, R26): what it does when it takes its banks, reads and performs, with
the checks of an engine command as its record is read (R182). -/

namespace Sys2Proof.Machine

/-- The trap of a failing check of an engine command (R182, R239): DETAIL is the record's address. -/
def State.commandTrap (s : State) (c : Nat) (a : Access) (cls cause : Nat) : State :=
  s.raiseTrap c { cls := cls, cause := cause, fmask := 0, bundle := some (a.pos, a.seg), detail := a.addr }

/-- Check 2 of R182. -/
def State.commandLegal (s : State) (c kind r : Nat) : Bool :=
  match kind with
  | 0x10 => s.copyLegal c r
  | 0x11 => s.pourLegal c r
  | 0x12 => s.takeLegal c r
  | 0x16 => dynLegal false r
  | 0x17 => dynLegal true r
  | _ => s.crucLegal c kind r

/-- Check 3 of R182. -/
def Core.commandBusy (k : Core) (kind r start : Nat) : Bool :=
  match kind with
  | 0x10 => k.copyBusy start
  | 0x11 => k.pourBusy (pourIntake r) start
  | _ => false

/-- A command that passed checks 1 to 3: checks 4 and 5, and its acceptance (R182). -/
def State.acceptCommand (s : State) (c : Nat) (a : Access) (kind r start : Nat) : State :=
  match kind with
  | 0x10 => if copyOverlaps r then s.commandTrap c a 10 0 else s.acceptCopy c a r start
  | 0x11 => s.acceptPour c a r start
  | 0x12 =>
    match (s.core c).takeRun r start with
    | some x => s.acceptTake c a r x
    | none => s.commandTrap c a 5 4
  | 0x16 => s.acceptDyn c a false r start
  | 0x17 => s.acceptDyn c a true r start
  | _ => s.acceptCruc c a kind r start

/-- R182, R242, R246. The record of an engine command as read at c+2: its five checks in order; none is made once work no
longer begins. START is taken with the total shift. -/
def State.command (s : State) (c : Nat) (a : Access) (kind : Nat) : State :=
  let h := s.heat (s.partOf c)
  let r := natOf ((s.core c).load a.addr 128)
  let start := recStart r + h.sigma
  let issue : Int := (a.issue : Int) - h.origin
  let t := s.ofHeatCycle c start
  if !s.flows c then s
  else if start < issue + 16 then s.commandTrap c a 5 1
  else if !s.commandLegal c kind r then s.commandTrap c a 5 2
  else if (s.core c).commandBusy kind r t then s.commandTrap c a 5 3
  else s.acceptCommand c a kind r t

/-- The byte is one that an access reads when it performs, or an `ATOM` or `RED` at its read (R177 to R182). -/
def Access.readsByte (k : Core) (a : Access) (x : Nat) : Bool :=
  let range := fun (n : Nat) => decide (a.addr ≤ x) && decide (x < a.addr + n)
  match a.op with
  | .vload _ => range 1024
  | .sload _ | .kload _ | .fenceWord _ => range 8
  | .gather _ w idx =>
    range 16384 && (elems w (8192 / w) idx.toNat).any (fun t => decide (t % (131072 / w) = (x - a.addr) / (w / 8)))
  | .stepA n => range (((sget none k.steps n).map (fun r => stepBytesA r.fmt)).getD 0)
  | .stepB n => range (((sget none k.steps n).map (fun r => stepBytesB r.fmt)).getD 0)
  | .atom .. => range 4
  | .command _ => range 128
  | .callLoad => range 16
  | _ => false

/-- The ECC trap of an access's read (R239, class 8 cause 2). -/
def State.readError (s : State) (c : Nat) (a : Access) : State :=
  s.spadReadError c (a.readsByte (s.core c)) (some (a.pos, a.seg))

/-- What an access does when it performs without having met a conflict. -/
def State.performAccess (s : State) (c : Nat) (a : Access) : State :=
  match a.op with
  | .command kind => s.command c a kind
  | .fenceWord _ => s.fenceWordRead c a
  | .callLoad => s.returnRead c a
  | _ => s.performPlain c a

/-- The access stays in the list after its last cycle: an `ATOM` until its old value has reached the load queue (R29). -/
def Access.stays (a : Access) : Bool :=
  match a.op with
  | .atom true _ _ _ _ => true
  | _ => false

/-- R22, R23, R26. A static access takes its banks, where conflicts are found, then reads and performs in its cycles; an access
that has met a conflict reads and writes nothing (R23). -/
def execBankAccess (c id : Nat) (part : AccPart) (s : State) : Result :=
  match (s.core c).accOf id with
  | none => .next s
  | some a =>
    match part with
    | .occupy | .reserve => .next (s.detect c)
    | .read => .next (if a.conflictAt.isNone then (s.readError c a).atomRead c id else s)
    | .perform =>
      let s0 := match a.op with | .atom .. => s | _ => if a.conflictAt.isNone then s.readError c a else s
      let s1 := if a.conflictAt.isNone then s0.performAccess c a else s0
      .next (if a.stays then s1 else s1.modCore c (fun k => k.closeAccess id))

/-- R23, R179. A remote store takes its bank at the target core and performs there. -/
def execVstnArrival (c id : Nat) (part : AccPart) (s : State) : Result :=
  match (s.core c).accOf id with
  | none => .next s
  | some a =>
    match part with
    | .occupy | .read | .reserve => .next (s.detect c)
    | .perform =>
      let s1 := if a.conflictAt.isNone then s.performPlain c a else s
      .next (s1.modCore c (fun k => k.closeAccess id))

end Sys2Proof.Machine
end

