-- ==== Sys2Proof/Machine/Hbm.lean ====
section
/-! DEFINITION. The channel timelines and what the channels do besides (R284 to R301): commands with the rules checked at
issue, data of static commands, refresh, elision and stale rows, windows and service slots, and the patrol. -/

namespace Sys2Proof.Machine

/-! Entries (R285). -/

def entCycle (e : Nat) : Nat := fld e 88 40
def entOp (e : Nat) : Nat := fld e 84 4
def entCore (e : Nat) : Nat := fld e 72 8
def entUse (e : Nat) : Nat := fld e 70 2
def entRow (e : Nat) : Nat := fld e 48 16
def entBank (e : Nat) : Nat := fld e 43 5
def entCol (e : Nat) : Nat := fld e 39 4
def entArg (e : Nat) : Nat := fld e 0 32

/-- The instruction of an entry (R286). -/
def entryInstr (ch i e : Nat) : Option Instr :=
  match entOp e with
  | 1 => some (.act ch i)
  | 2 => some (.rd ch i)
  | 3 => some (.wr ch i)
  | 4 => some (.pre ch i)
  | 5 => some (.refpb ch i)
  | 6 => some (.wopen ch i)
  | 7 => some (.svc ch i)
  | _ => none

/-- The cycle of an entry: its schedule cycle plus the total shift (R245). -/
def Heat.entryAt (h : Heat) (e : Nat) : Nat := ((h.origin : Int) + entCycle e + h.sigma).toNat

/-- Entry i of a channel's timeline placed in the agenda. -/
def State.scheduleEntry (s : State) (p ch i : Nat) : State :=
  let h := s.heat p
  match h.timeline ch with
  | none => s
  | some t =>
    match t.entries[i]? with
    | none => s
    | some e =>
      match entryInstr ch i e.toNat with
      | some ins => s.at (h.entryAt e.toNat) ins
      | none => s

/-! The rules (R287, R288). -/

/-- The pseudo-channel of a bank (R283). -/
def pseudo (b : Nat) : Bool := decide (16 ≤ b)
def Channel.acts (x : Channel) (b : Nat) : List Nat := if pseudo b then x.acts1 else x.acts0
def Channel.lastRd (x : Channel) (b : Nat) : Option Nat := if pseudo b then x.rd1 else x.rd0
def Channel.lastWr (x : Channel) (b : Nat) : Option Nat := if pseudo b then x.wr1 else x.wr0

/-- A least distance not kept: the rule and the earlier command's cycle. -/
def tooSoon (rule : Nat) (from_ : Option Nat) (dist t : Nat) : Option (Nat × Option Nat) :=
  match from_ with
  | some f => if t < f + dist then some (rule, some f) else none
  | none => none

/-- A state rule not kept. -/
def broken (rule : Nat) (bad : Bool) : Option (Nat × Option Nat) := if bad then some (rule, none) else none

/-- The later of two cycles. -/
def laterOf (a b : Option Nat) : Option Nat :=
  match a, b with
  | some x, some y => some (max x y)
  | some x, none => some x
  | none, y => y

/-- The banks that the ARG of an `SVC` lends (R285). -/
def lentBanks (arg : Nat) : List Nat := (List.range 32).filter (fun b => decide (fld arg b 1 = 1))

/-- The first rule that a command of a channel breaks at cycle t (R287, R288), rules in the order of their numbers. Rule 14 is
a least distance as R287 words it; it counts from a refresh that a `REFPB` made (log entry 64). -/
def ruleBroken (x : Channel) (op bank row arg t : Nat) : Option (Nat × Option Nat) :=
  let b := x.getBank bank
  let named := if op = 7 then lentBanks arg else [bank]
  let inWin := b.windowOpen t
  let checks : List (Option (Nat × Option Nat)) :=
    [ if op = 2 then tooSoon 1 b.act 35 t else none,
      if op = 3 then tooSoon 2 b.act 25 t else none,
      if op = 4 then tooSoon 3 b.act 83 t else none,
      if op = 1 ∨ op = 5 ∨ op = 6 then tooSoon 4 b.pre 35 t else none,
      if op = 1 then tooSoon 5 b.act 118 t else none,
      if op = 1 then tooSoon 6 ((x.acts bank)[0]?) 5 t else none,
      if op = 1 then tooSoon 7 ((x.acts bank)[3]?) 40 t else none,
      if op = 2 ∨ op = 3 then tooSoon 8 (laterOf (x.lastRd bank) (x.lastWr bank)) 3 t else none,
      if op = 4 then tooSoon 9 b.rd 10 t else none,
      if op = 4 then tooSoon 10 b.wr 40 t else none,
      if op = 2 then tooSoon 11 (x.lastWr bank) 20 t else none,
      if op = 3 then tooSoon 12 (x.lastRd bank) 8 t else none,
      if 1 ≤ op ∧ op ≤ 6 then tooSoon 13 b.ref 400 t else none,
      if op = 5 then tooSoon 14 (sget none x.refAt (groupKey bank (arg % 8192))) tREFW t else none,
      broken 16 (decide (op = 2 ∨ op = 3) && !inWin && decide (b.row ≠ some row)),
      broken 17 (decide (op = 1 ∨ op = 5 ∨ op = 6) && b.row.isSome),
      broken 18 (decide (1 ≤ op ∧ op ≤ 7) && named.any (fun n =>
        ((x.getBank n).windowOpen t && decide (op ≠ 2)) || (x.getBank n).lentNow t)),
      broken 20 (decide (op = 3) && x.stale.contains (groupKey bank (row / 8))) ]
  checks.findSome? id

/-- A channel after it issues the command of an entry at cycle t (R286). -/
def Channel.issue (x : Channel) (e t : Nat) : Channel :=
  let b := entBank e
  let k := x.getBank b
  match entOp e with
  | 1 =>
    let x1 := x.setBank b { k with row := some (entRow e), act := some t }
    let l := (t :: x.acts b).take 4
    if pseudo b then { x1 with acts1 := l } else { x1 with acts0 := l }
  | 2 =>
    let x1 := x.setBank b { k with rd := some t }
    if pseudo b then { x1 with rd1 := some t } else { x1 with rd0 := some t }
  | 3 =>
    let x1 := x.setBank b { k with wr := some t }
    if pseudo b then { x1 with wr1 := some t } else { x1 with wr0 := some t }
  | 4 => x.setBank b { k with row := none, pre := some t }
  | 5 =>
    let g := entArg e % 8192
    let x1 := x.setBank b { k with ref := some t }
    if fld (entArg e) 13 1 = 0 && x.stale.contains (groupKey b g) then x1
    else { x1.refresh b g t with stale := x.stale.filter (fun q => decide (q ≠ groupKey b g)),
                                 refAt := sset none x.refAt (groupKey b g) (some t) }
  | 6 => x.setBank b { k with window := some (t, t + entRow e - 1) }
  | 7 =>
    let last := t + entRow e - 1
    let x1 := (List.range 32).foldl (fun x b =>
      if (BitVec.ofNat 32 (entArg e)).getLsbD b then x.setBank b { x.getBank b with row := none, lent := some last } else x) x
    { x1 with svc := some (t, entRow e, BitVec.ofNat 32 (entArg e)) }
  | _ => x

/-- A refused command (R289): the timeline violation of class 6, cause 1. -/
def State.violation (s : State) (p ch entry rule : Nat) (prior : Option Nat) : State :=
  let org := (s.heat p).origin
  let pr : Int := match prior with | some f => (f : Int) - org | none => 0
  s.raiseTrap (chanCore ch) { cls := 6, cause := 1, fmask := 0, bundle := none,
                              detail := timelineDetail ((s.gcount : Int) - org) pr entry ch rule }

/-- A command of a timeline in its cycle: checked again, refused or issued, and the next entry placed (R289). At the quiescent
cycle the timeline pauses (R242). -/
def timelineOp (ch i op : Nat) (s : State) (f : Nat → Nat → State → State) : Result :=
  let p := s.chanPart ch
  let h := s.heat p
  match (h.timeline ch).bind (fun t => t.entries[i]?) with
  | none => .next s
  | some e0 =>
    let e := e0.toNat
    if entOp e ≠ op ∨ h.entryAt e ≠ s.gcount ∨ ¬ (h.phase = .running ∨ h.phase = .stopping) ∨
        (h.phase = .stopping ∧ h.quiet = some s.gcount) then .next s
    else
      let s1 := s.scheduleEntry p ch (i + 1)
      match ruleBroken (s1.chan ch) op (entBank e) (entRow e) (entArg e) s1.gcount with
      | some (rule, prior) => .next (s1.violation p ch i rule prior)
      | none => .next (f p e s1)

/-! The commands (R286). -/

/-- The channel issues an entry's command in the present cycle. -/
def State.chanIssue (s : State) (ch e : Nat) : State := s.setChan ch ((s.chan ch).issue e s.gcount)

/-- R286. -/
def execAct (ch entry : Nat) (s : State) : Result := timelineOp ch entry 1 s (fun _ e s => s.chanIssue ch e)

/-- R286, R290, R295, R298, R299. The data reaches the engine of CORE 40 or 80 cycles later. -/
def execRd (ch entry : Nat) (s : State) : Result :=
  timelineOp ch entry 2 s (fun _ e s =>
    let x := s.chan ch
    let b := entBank e
    let c := entCore e
    let pa := paOf ch b (entRow e) (entCol e)
    let stale := x.isStale b (entRow e)
    let s1 := s.chanIssue ch e
    let data : BitVec 512 := if stale then 0 else BitVec.ofNat 512 (natOf (s1.hbmLoad pa 64))
    let s2 := if stale then s1.staleEvent c ch pa false
              else match s1.hbmFault pa 64 with | some t => s1.raiseTrap c t | none => s1
    s2.modCore c (fun k => { k with deliv := k.deliv ++
      [({ at_ := s.gcount + rdDelay c ch, pa := pa, data := data, pour := decide (entUse e = 1),
           stale := stale } : Delivery)] }))

/-- Bits written into a line of HBM: `whole` when every byte is. -/
def State.hbmMasked (s : State) (pa : Nat) (l : List OutByte) : State :=
  let m := l.foldl (fun m o => m.write o.pa ((m.read o.pa &&& ~~~o.mask) ||| o.val)) s.hbm
  let whole := (List.range 64).all (fun i => l.any (fun o => decide (o.pa = pa + i) && decide (o.mask = BitVec.allOnes 8)))
  { s with hbm := m, lines := sset lineReset s.lines (pa / 64) (s.lineWritten (pa / 64) whole) }

/-- R286, R187, R242, R290. The unit takes what the engine of CORE has sent for it; a `WR` with nothing to carry is
suppressed. -/
def execWr (ch entry : Nat) (s : State) : Result :=
  timelineOp ch entry 3 s (fun _ e s =>
    let b := entBank e
    let c := entCore e
    let pa := paOf ch b (entRow e) (entCol e)
    let mine := fun (o : OutByte) => decide (o.pa / 64 = pa / 64) && decide (o.at_ + wrLead c ch ≤ s.gcount)
    let l := (s.core c).outq.filter mine
    let s1 := s.chanIssue ch e
    let s2 := s1.modCore c (fun k => { k with outq := k.outq.filter (fun o => !mine o) })
    if l.isEmpty then s2 else s2.hbmMasked pa l)

/-- R286. -/
def execPre (ch entry : Nat) (s : State) : Result := timelineOp ch entry 4 s (fun _ e s => s.chanIssue ch e)

/-- R292, R294. With INIT zeros are written to the group first and its stale bit is cleared; without it a stale group is
not refreshed. -/
def execRefpb (ch entry : Nat) (s : State) : Result :=
  timelineOp ch entry 5 s (fun _ e s =>
    let b := entBank e
    let g := entArg e % 8192
    let s1 := if fld (entArg e) 13 1 = 1 then s.initGroup ch b g else s
    (s1.chanIssue ch e).at (s.gcount + tREFW) (.rowGroupStale ch b g))

/-- R286, R296. The window opens and the first eligible command starts. -/
def execWopen (ch entry : Nat) (s : State) : Result :=
  timelineOp ch entry 6 s (fun _ e s =>
    (s.chanIssue ch e).crucNext ch (entBank e) s.gcount)

/-- R286, R291. The slot opens; each bank lent to it counts as precharged from the cycle after its last. A host AtomicOp that
waits for a lent bank executes (R233). -/
def execSvc (ch entry : Nat) (s : State) : Result :=
  timelineOp ch entry 7 s (fun _ e s =>
    let s1 := s.chanIssue ch e
    (List.range 32).foldl (fun s b =>
      if (BitVec.ofNat 32 (entArg e)).getLsbD b && !(s.bank ch b).atomics.isEmpty then
        s.atOnce s.gcount (.hostAtomicExecute ch b)
      else s) s1)

/-! Refresh deadlines (R292 to R294). -/

/-- The heat declares the group not live at a heat cycle (R293). -/
def Timeline.elided (t : Timeline) (bank g : Nat) (h : Int) : Bool :=
  t.elide.any (fun e0 =>
    let e := e0.toNat
    decide (fld e 43 5 = bank) && decide (fld e 30 13 ≤ g) && decide (g ≤ fld e 17 13) &&
      decide ((fld e 88 40 : Int) ≤ h) && decide (h < (fld e 48 40 : Int)))

/-- The row groups of a channel whose deadline is this cycle and that are not stale yet. -/
def Channel.expiring (x : Channel) (t : Nat) : List Nat :=
  ((List.range (32 * 8192)).filter (fun k => decide (sget (x.refreshed + tREFW) x.deadline k = t) && !x.stale.contains k))

/-- R288, R293, R294. At a deadline that no `REFPB` has moved, a group inside an elision interval becomes stale, and one
outside is a violation of rule 19. One event serves every group of the channel that shares the deadline. -/
def execRowGroupStale (ch _bank _group : Nat) (s : State) : Result :=
  let p := s.chanPart ch
  let h := s.heat p
  let x := s.chan ch
  match h.timeline ch with
  | none => .next s
  | some tl =>
    let cyc : Int := (s.gcount : Int) - h.origin - h.sigma
    let l := x.expiring s.gcount
    if s.timelineBusy ch = false ∨ l = [] then .next s
    else
      let out := l.filter (fun k => tl.elided (k / 8192) (k % 8192) cyc)
      let s1 := s.setChan ch { x with stale := x.stale ++ out }
      .next (if out.length < l.length then s1.violation p ch 0 19 none else s1)

/-- R292. A controller without a running timeline refreshes every row group that is not stale by itself, after END too. The
refresh of an armed or a paused heat's channel is in the deadlines that its launch and its resume set. -/
def execControllerRunRefresh (ch : Nat) (s : State) : Result :=
  let h := s.heat (s.chanPart ch)
  let over_ := s.timelineRuns ch && decide (s.timelineEnd ch < s.gcount)
  if (h.timeline ch).isSome ∧ h.phase ≠ .none ∧ h.phase ≠ .ended ∧ over_ = false then .next s
  else .next (s.setChan ch { s.chan ch with refreshed := s.gcount, deadline := [] })

/-! The patrol (R300, R301). -/

/-- The lines of a partition's channels: the first, and the one after the last (R2, R315). -/
def State.patrolRange (s : State) (p : Nat) : Nat × Nat :=
  if s.mgmt.pmode = 0 then (0, 12 * 2 ^ 30) else (3 * p * 2 ^ 30, (3 * p + 3) * 2 ^ 30)

def State.setPatrol (s : State) (p : Nat) (r : Patrol) : State := { s with patrol := sset patrolReset s.patrol p r }

/-- R301. CMD 1. -/
def execPatrolStartScrub (part : Nat) (s : State) : Result :=
  let r := s.patrolOf part
  if r.state = 0 then
    let l := (s.patrolRange part).1
    .next ((s.setPatrol part { r with state := 1, line := l, stopping := false }).later 1 (.patrolLine part l))
  else .next s

/-- R301. CMD 2. -/
def execPatrolRotate (part : Nat) (s : State) : Result :=
  let r := s.patrolOf part
  if r.state = 0 then
    if (sget none s.mgmt.keys (4 * part + (r.cur + 1).toNat)).isSome then
      let l := (s.patrolRange part).1
      .next ((s.setPatrol part { r with state := 2, next := r.cur + 1, line := l, stopping := false }).later 1
        (.patrolLine part l))
    else .next s
  else if r.state = 3 then
    .next ((s.setPatrol part { r with state := 2, stopping := false }).later 1 (.patrolLine part r.line))
  else .next s

/-- R301. CMD 3: the patrol stops after the line it is at. -/
def execPatrolStop (part : Nat) (s : State) : Result :=
  let r := s.patrolOf part
  if r.state = 1 ∨ r.state = 2 then .next (s.setPatrol part { r with stopping := true }) else .next s

/-- What the patrol makes of a line (R301): none for an integrity failure. -/
def State.patrolled (s : State) (p line : Nat) (r : Patrol) : Option LineMeta :=
  let m := sget lineReset s.lines line
  if m.ecc = .uncorrectable then some { m with poison := true }
  else if !s.tagGood line then none
  else if r.state = 2 ∧ m.ver = r.cur then some { m with ver := r.next, key := some (s.keyOf p r.next.toNat), ecc := .good }
  else if m.ver = r.cur ∨ (r.state = 2 ∧ m.ver = r.next) then some { m with ecc := .good }
  else none

/-- R301. One line; then the next one, the end of the pass, or the stop. An integrity failure is raised at core 0 of the die
that owns the channel (log entry 16). -/
def execPatrolLine (part line : Nat) (s : State) : Result :=
  let r := s.patrolOf part
  if ¬ (r.state = 1 ∨ r.state = 2) ∨ r.line ≠ line then .next s
  else
    let pa := 64 * line
    let ch := paChannel pa
    let last := decide ((s.patrolRange part).2 ≤ line + 1)
    let go := fun (s : State) =>
      let r1 := { r with line := line + 1 }
      if last then
        s.setPatrol part { r1 with state := 0, stopping := false, passes := r.passes + 1,
                                   cur := if r.state = 2 then r.next else r.cur }
      else if r.stopping then s.setPatrol part { r1 with state := if r.state = 1 then 0 else 3, stopping := false }
      else (s.setPatrol part r1).later 1 (.patrolLine part (line + 1))
    if !s.served pa then .next (s.at (s.gcount + 1) (.patrolLine part line))
    else if (s.chan ch).isStale (paBank pa) (paRow pa) then .next (go s)
    else
      match s.patrolled part line r with
      | some m => .next (go { s with lines := sset lineReset s.lines line m })
      | none =>
        .next ((s.setPatrol part { r with state := 0, stopping := false }).raiseTrap (chanCore ch)
          { cls := 9, cause := 1, fmask := 0, bundle := none, detail := pa })

end Sys2Proof.Machine
end

