-- ==== Sys2Proof/Machine/FwFault.lean ====
section
/-! DEFINITION. The faults of a firmware context, which belong to no heat, and the machine-check route (R335, R350, R351). -/

namespace Sys2Proof.Machine

def State.fwOf (s : State) (c : Nat) : FwCtx := (s.core c).fw
def State.modFwOf (s : State) (c : Nat) (f : FwCtx → FwCtx) : State := s.modCore c (fun k => { k with fw := f k.fw })

/-- The standby's core index (R332). -/
def standbyCore : Nat := 128

/-! Faults of a context (R335, R350, R351). -/

/-- What the device tells the management function: a context stopped for good, all scheduling stopped, the attestation key
used up, the inlet at its first threshold. -/
def noticeStopped : Nat := 1
def noticeNoScheduler : Nat := 2
def noticeAttestation : Nat := 3
def noticeInlet : Nat := 4

/-- The context issues nothing any more. -/
def State.stopFw (s : State) (c : Nat) : State :=
  s.modFwOf c (fun f => { f with mode := .stopped, branch := none, trapped := none, resume := none })

/-- R335. The machine-check route: HOLD is set, the scheduler's context is stopped, and the standby becomes the scheduler and
takes MCHK with the record of R351; a machine check of the standby as scheduler stops all scheduling. -/
def State.machineCheck (s : State) (c : Nat) (t : TrapInfo) : State :=
  let s1 : State := { s with fe := { s.fe with hold := true } }
  let s2 := s1.stopFw c
  if c = standbyCore then
    State.emit { s2 with fe := { s2.fe with dead := true } } (.notice noticeNoScheduler c)
  else
    let s3 : State := { s2 with fe := { s2.fe with sched := standbyCore } }
    (s3.fwStore standbyCore 0x7F80 (bytesOf 64 (trapRecord c false s.gcount 0 t))).wake standbyCore 3

/-- R350. A fault of a firmware context stops no heat. At the scheduler core it takes the machine-check route; elsewhere the
context is stopped, the management function is told, and heats that the core handles end (R241). -/
def State.fwFault (s : State) (c : Nat) (t : TrapInfo) : State :=
  if (s.fwOf c).mode = .stopped then s
  else if c = s.scheduler then s.machineCheck c t
  else
    let s1 := s.stopFw c
    State.emit { s1 with fe := { s1.fe with deadFw := setIndex s1.fe.deadFw c true } } (.notice noticeStopped c)

/-- A fault of the bundle at a position. -/
def fwTrap (cls cause pos detail : Nat) : TrapInfo :=
  { cls := cls, cause := cause, fmask := 0, bundle := some (pos, 0), detail := detail }

/-- A word of data memory in ECC error that a read of n bytes meets (R350, R351). -/
def FwCtx.badData (f : FwCtx) (a n : Nat) : Option Nat := f.badD.find? (fun x => decide (a ≤ x) && decide (x < a + n))

/-- The fault of an error in data memory: POS 0xFFFF, bit 64 of DETAIL set (R351). -/
def dataFault (a : Nat) : TrapInfo := { cls := 8, cause := 5, fmask := 0, bundle := none, detail := a + 2 ^ 64 }

end Sys2Proof.Machine
end

