-- ==== Sys2Proof/Machine/Land.lean ====
section
/-! DEFINITION. Results landing in their registers (R26), the resolution of simultaneous writes (R27), and the writes of
system registers that land like results (R131, R325). -/

namespace Sys2Proof.Machine

/-! Log requests (R331). -/

/-- The core number under which the management function submits log requests (log entry 65). -/
def managementCore : Nat := 256

/-- A request with the four words of its block (R331). -/
def LogReq.withBlock (r : LogReq) (bs : List Byte) : LogReq :=
  let w := fun (i : Nat) => natOf ((bs.drop (8 * i)).take 8)
  { r with kind := w 0, src := w 1, pages := w 2, module := w 3, unread := false }

/-- A request enters the log engine, with the 32 bytes of its block at `a`, or with none while they are still to be read (R331). -/
def State.enterLog (s : State) (core part a : Nat) (bs : Option (List Byte)) : State :=
  let r0 : LogReq := { id := s.nextLog, core := core, block := a, kind := 0, src := 0, pages := 0, module := 0, part := part,
                       since := s.gcount, unread := true, got := [] }
  let r := match bs with | some b => r0.withBlock b | none => r0
  ({ s with logq := s.logq ++ [r], nextLog := s.nextLog + 1 }).at (s.gcount + 1) (.logAppend r.id)

/-- A request submitted by a write of `logsub`, whose block lies in the context's data memory and may hold an ECC error (R331,
R350), or by the management function, whose block lies in HBM and is read in a service slot (log entry 65). -/
def State.submitLog (s : State) (c : Nat) (v : Word64) : State :=
  if c < managementCore then
    let a := v.toNat % 2 ^ 15
    match (s.fwOf c).badData a 32 with
    | some x => s.fwFault c (dataFault x)
    | none => s.enterLog c (s.partOf c) a (some ((s.fwOf c).dmem.readBytes a 32))
  else s.enterLog c (s.homeOf 32) v.toNat none

/-! Simultaneous writes (R27). -/

/-- The order of the slots in a collision (R27): the lower wins. -/
def slotRank : Slot → Nat
  | .mem => 0 | .prm => 1 | .mat => 2 | .vec => 3 | .sca => 4 | .ctl => 5

/-- The unit of collision of an update (R27): a register of s, q, v, k, w, y, a system register, or one tile. Address
streams and barrier posts never collide, and a discarded write of s0, q0 or w0 takes no part (R17). -/
def unitOf (p : Pending) : Option (Bool × Nat × Nat) :=
  match p.eff with
  | .sreg n _ => if n = 0 then none else some (p.fw, 0, n)
  | .qreg n _ => if n = 0 then none else some (p.fw, 1, n)
  | .vreg n _ _ => some (p.fw, 2, n)
  | .kreg n _ => some (p.fw, 3, n)
  | .wreg n _ _ => if n = 0 then none else some (p.fw, 4, n)
  | .step t _ _ | .rows t _ _ | .tileSet t _ | .tileClear t => some (p.fw, 5, t)
  | .carry n _ => some (p.fw, 6, n)
  | .sysreg n _ => some (p.fw, 7, n)
  | .fwreg n _ => some (p.fw, 8, n)
  | .stream _ _ _ | .post _ _ | .token _ _ => none

/-- `a` beats `b` (R27): the earlier slot of the order, or the later-issued of one slot. -/
def beats (a b : Pending) : Bool :=
  decide (slotRank a.slot < slotRank b.slot) || (decide (a.slot = b.slot) && decide (b.issued < a.issued))

/-- An update of those landing takes effect: no other update of its unit beats it (R27). -/
def wins (all : List Pending) (p : Pending) : Bool :=
  (unitOf p).isNone || !(all.any (fun x => decide (unitOf x = unitOf p) && beats x p))

/-! The updates. -/

/-- A vector register with the groups of a mask replaced (R33, R137). -/
def mergeGroups (mask : BitVec 256) (old new : VReg) : VReg :=
  if mask = BitVec.allOnes 256 then new
  else BitVec.ofNat 8192 (packList 32 ((List.range 256).map (fun k =>
    if mask.getLsbD k then elem 32 new.toNat k else elem 32 old.toNat k)))

/-- A field of a stream written from an s register (R130). -/
def setStream (a : BitVec 128) (fsel : Nat) (v : Word64) : BitVec 128 :=
  let put := fun (lo len : Nat) => BitVec.ofNat 128 (putField a.toNat lo len v.toNat)
  match fsel with
  | 0 => put 0 21
  | 1 => put 21 21
  | 2 => put 42 21
  | 3 => put 63 21
  | 4 => put 84 21
  | 5 => put 105 11
  | _ => a

/-- The writable bits of CSP, CSBASE and SLIMIT (R104). -/
def stackBits (v : Word64) : Word64 := v &&& 0x7FFFF0

/-- A system register written (R28, R104, R131). -/
def Core.swr (k : Core) (n : Nat) (v : Word64) : Core :=
  match n with
  | 0 => { k with sstat := sstatAfter k.sstat v 0 }
  | 1 => { k with csp := stackBits v }
  | 2 => { k with csbase := stackBits v }
  | 3 => { k with slimit := stackBits v }
  | _ => k

/-- A firmware system register written (R325); the registers with a row of their own schedule its event. -/
def State.fswr (s : State) (c n : Nat) (v : Word64) : State :=
  let set := fun (f : FwCtx → FwCtx) => s.modCore c (fun k => { k with fw := f k.fw })
  let may := decide (c = s.scheduler) || decide (c = standbyCore)
  match n with
  | 0 => set (fun f => { f with fvec := v })
  | 1 => set (fun f => { f with fepc := v })
  | 3 =>
    let s1 := set (fun f => { f with fpend := f.fpend &&& ~~~(v.setWidth 7) })
    if c = s.scheduler then s1.raiseJfull else s1
  | 4 => (set (fun f => { f with fenable := v.setWidth 7 })).pokeFw c
  | 5 => set (fun f => { f with fshare := min 256 v.toNat })
  | 7 => if may then State.raiseJfull { s with fe := { s.fe with sched := v.toNat % 256 } } else s
  | 8 => s.at s.gcount (.holdWrite c v)
  | 9 =>
    if may then State.at { s with fe := { s.fe with jbase := v &&& 0xFFFFFFFFFFF001F } } s.gcount .journalHeldAppend else s
  | 11 => if may then State.at { s with fe := { s.fe with jlow := v } } s.gcount .journalHeldAppend else s
  | 12 =>
    let p := fld v.toNat 4 4
    let delta := fld v.toNat 8 56
    if 4 ≤ p then s
    else
      match fld v.toNat 0 4 with
      | 1 => s.at s.gcount (.heatStopRequest p)
      | 2 => s.at s.gcount (.heatResume p delta)
      | 3 => s.at s.gcount (.heatRestart p delta)
      | 4 => s.at s.gcount (.heatEnd p)
      | _ => s
  | 13 =>
    match fld v.toNat 0 2 with
    | 1 => s.at s.gcount (.patrolStartScrub (s.partOf c))
    | 2 => s.at s.gcount (.patrolRotate (s.partOf c))
    | 3 => s.at s.gcount (.patrolStop (s.partOf c))
    | _ => s
  | 14 =>
    let q := fld v.toNat 0 11
    if v.getLsbD 63 then s.at s.gcount (.timerArm q) else s.at s.gcount (.timerDisarm q)
  | 15 => s.submitLog c v
  | _ => s

/-- The register of the compute context that an update writes, by its file and number (R17). -/
def writtenOf (p : Pending) : Option (Nat × Nat) :=
  if p.fw then none
  else
    match p.eff with
    | .sreg n _ => some (0, n)
    | .qreg n _ => some (1, n)
    | .vreg n _ _ => some (2, n)
    | .kreg n _ => some (3, n)
    | .wreg n _ _ => some (4, n)
    | .step t _ _ | .rows t _ _ | .tileSet t _ | .tileClear t => some (5, t)
    | .carry n _ => some (6, n)
    | .sysreg _ _ | .fwreg _ _ | .stream _ _ _ | .post _ _ | .token _ _ => none

/-- The register of an update holds no error once it has been written (log entry 63). -/
def Core.writtenReg (k : Core) (p : Pending) : Core :=
  match writtenOf p with
  | some x => { k with badReg := k.badReg.filter (fun r => decide (r ≠ x)) }
  | none => k

/-- A step that adds to an accumulator with an uncorrectable error traps as it reads it (R166, R239). -/
def State.accError (s : State) (c : Nat) (p : Pending) : State :=
  match p.eff with
  | .step t id false =>
    match sget none (s.core c).steps id with
    | some r =>
      if (s.core c).badReg.contains (5, t) then
        s.raiseTrap c { cls := 8, cause := 1, fmask := 0, bundle := some (r.pos, r.seg), detail := t }
      else s
    | none => s
  | _ => s

/-- One update applied, with the flags of its own computation (R27, R44, R61). -/
def State.applyEff (s0 : State) (c : Nat) (p : Pending) : State :=
  let s := (s0.accError c p).modCore c (fun k => k.writtenReg p)
  let s1 := if p.gufl then s.modCore c (fun k => k.setFlag flagGufl) else s
  match p.eff with
  | .sreg n v =>
    if p.fw then s1.modCore c (fun k => { k with fw := k.fw.ws n v }) else s1.modCore c (fun k => k.ws n v)
  | .qreg n v =>
    if p.fw then s1.modCore c (fun k => { k with fw := k.fw.wq n v }) else s1.modCore c (fun k => k.wq n v)
  | .vreg n mask v => s1.modCore c (fun k => k.wv n (mergeGroups mask (k.rv n) v))
  | .kreg n v => s1.modCore c (fun k => k.wk n v)
  | .wreg n mask v => s1.modCore c (fun k => k.ww n ((v &&& mask) ||| (k.rw n &&& ~~~mask)))
  | .stream n fsel v => s1.modCore c (fun k => k.wa n (setStream (k.ra n) fsel v))
  | .step t id zeroing =>
    match sget none (s1.core c).steps id with
    | some r =>
      let (tile, iovf) := stepTile r zeroing ((s1.core c).rm t)
      s1.modCore c (fun k => let k1 := k.wm t tile; if iovf then k1.setFlag flagIovf else k1)
    | none => s1
  | .rows t rg v => s1.modCore c (fun k => k.wm t (setRowGroup (k.rm t) rg v))
  | .tileSet t v => s1.modCore c (fun k => k.wm t v)
  | .tileClear t => s1.modCore c (fun k => k.wm t { k.rm t with poison := 0 })
  | .carry n v => s1.modCore c (fun k => k.wy n v)
  | .sysreg n v => s1.modCore c (fun k => k.swr n v)
  | .fwreg n v => s1.fswr c n v
  | .post b n => s1.touchBar c b n true
  | .token q t => s1.deliverToken q t

/-- A step's operands are kept until it has landed or lost. -/
def dropStep (p : Pending) (k : Core) : Core :=
  match p.eff with
  | .step _ id _ => { k with steps := sset none k.steps id none }
  | _ => k

/-- A step whose A or B read a conflict voided writes no element (R23): it takes no part in its landing cycle. -/
def Core.voidStep (k : Core) (p : Pending) : Bool :=
  match p.eff with
  | .step _ id _ => match sget none k.steps id with | some r => r.a.isNone || r.b.isNone | none => true
  | _ => false

/-- A clear of SSTAT comes first, so that a flag set by hardware in its cycle stays set (R131). -/
def isClear (p : Pending) : Bool := match p.eff with | .sysreg 0 _ => true | _ => false

/-- R26, R27. The results of a core due in this cycle land: of those of one register one takes effect, and WCONF records a
discarded write of the compute context. Before them the barriers take the update of the cycle that is over (R200). -/
def execResultLand (c : Nat) (s : State) : Result :=
  let s0 := s.settleAll c
  let landing := (s0.core c).pend.filter (fun p => decide (p.at_ ≤ s0.gcount))
  let due := landing.filter (fun p => !(s0.core c).voidStep p)
  let s1 := s0.modCore c (fun k => { k with pend := k.pend.filter (fun p => decide (s0.gcount < p.at_)) })
  let won := due.filter (wins due)
  let s2 := (won.filter isClear ++ won.filter (fun p => !isClear p)).foldl (fun acc p => acc.applyEff c p) s1
  let lost := due.any (fun p => !wins due p && !p.fw)
  .next (s2.modCore c (fun k =>
    let k1 := landing.foldl (fun k p => dropStep p k) k
    if lost then k1.setFlag flagWconf else k1))

end Sys2Proof.Machine
end

