-- ==== Sys2Proof/Machine/Scalar.lean ====
section
/-! DEFINITION. The SCA slot (R122 to R134, R325): scalar arithmetic, compares and predicates, the copies between register
files, address streams, system registers and cycle reads. Each meaning is one line over a shared operation of its form. -/

namespace Sys2Proof.Machine

/-- A scalar result lands in S[d] (R26). -/
def State.landS (s : State) (lat : Nat) (d : SReg) (v : Word64) : Result := .next (s.landIn lat .sca (.sreg d.toNat v))

/-- A predicate result lands in Q[d] at c+1 (R26). -/
def State.landQ (s : State) (d : QReg) (v : Bool) : Result := .next (s.landIn 1 .sca (.qreg d.toNat v))

/-- Form SR (R122): S[d] := f S[a] S[b], `lat` cycles after issue. -/
def scalarOp (i : Instr) (g : Gate) (lat : Nat) (d a b : SReg) (f : Word64 → Word64 → Word64) (s : State) : Result :=
  runOp i false g s (fun s => s.landS lat d (f (s.rs a.toNat) (s.rs b.toNat)))

/-- Form SI (R123): S[d] := f S[a] imm. -/
def scalarImm (i : Instr) (g : Gate) (d a : SReg) (imm : Word64) (f : Word64 → Word64 → Word64) (s : State) : Result :=
  runOp i false g s (fun s => s.landS 1 d (f (s.rs a.toNat) imm))

/-- The register compares (R126); `cond` is numbered as in `cmpS`. -/
def scalarCmp (i : Instr) (g : Gate) (cond : Nat) (d : QReg) (a b : SReg) (s : State) : Result :=
  runOp i false g s (fun s => s.landQ d (cmpS cond (s.rs a.toNat) (s.rs b.toNat)))

/-- The compares with an immediate (R126). DEDUCED: equality compares with the sign-extended one, as ch. 21's program uses it
(log entry 14). -/
def scalarCmpi (i : Instr) (g : Gate) (cond : Nat) (d : QReg) (a : SReg) (imm : BitVec 13) (s : State) : Result :=
  let op : Word64 := if cond = 3 ∨ cond = 5 then imm.setWidth 64 else imm.signExtend 64
  runOp i false g s (fun s => s.landQ d (cmpS cond (s.rs a.toNat) op))

/-- Form SQ over predicates (R127). -/
def predOp (i : Instr) (g : Gate) (d a b : QReg) (f : Bool → Bool → Bool) (s : State) : Result :=
  runOp i false g s (fun s => s.landQ d (f (s.rq a.toNat) (s.rq b.toNat)))

/-- The low six bits of a shift count (R122). -/
def sh6 (b : Word64) : Nat := b.toNat % 64

/-- `DIV`, `DIVU`, `REM`, `REMU` (R124). -/
def divS (a b : Word64) : Word64 := if b = 0 then BitVec.allOnes 64 else a.sdiv b
def divU (a b : Word64) : Word64 := if b = 0 then BitVec.allOnes 64 else a / b
def remS (a b : Word64) : Word64 := if b = 0 then a else a.srem b
def remU (a b : Word64) : Word64 := if b = 0 then a else a % b

/-! Form SR (R122, R124, R125). -/

/-- R122. -/
def execAdd (g : Gate) (d a b : SReg) (s : State) : Result :=
  scalarOp (.add g d a b) g 1 d a b (fun a b => a + b) s

/-- R122. -/
def execSub (g : Gate) (d a b : SReg) (s : State) : Result :=
  scalarOp (.sub g d a b) g 1 d a b (fun a b => a - b) s

/-- R122. -/
def execAnd (g : Gate) (d a b : SReg) (s : State) : Result :=
  scalarOp (.and g d a b) g 1 d a b (fun a b => a &&& b) s

/-- R122. -/
def execOr (g : Gate) (d a b : SReg) (s : State) : Result :=
  scalarOp (.or g d a b) g 1 d a b (fun a b => a ||| b) s

/-- R122. -/
def execXor (g : Gate) (d a b : SReg) (s : State) : Result :=
  scalarOp (.xor g d a b) g 1 d a b (fun a b => a ^^^ b) s

/-- R122. -/
def execShl (g : Gate) (d a b : SReg) (s : State) : Result :=
  scalarOp (.shl g d a b) g 1 d a b (fun a b => a <<< sh6 b) s

/-- R122. -/
def execShr (g : Gate) (d a b : SReg) (s : State) : Result :=
  scalarOp (.shr g d a b) g 1 d a b (fun a b => a >>> sh6 b) s

/-- R122. -/
def execSar (g : Gate) (d a b : SReg) (s : State) : Result :=
  scalarOp (.sar g d a b) g 1 d a b (fun a b => a.sshiftRight (sh6 b)) s

/-- R122. -/
def execMin (g : Gate) (d a b : SReg) (s : State) : Result :=
  scalarOp (.min g d a b) g 1 d a b (fun a b => if a.slt b then a else b) s

/-- R122. -/
def execMax (g : Gate) (d a b : SReg) (s : State) : Result :=
  scalarOp (.max g d a b) g 1 d a b (fun a b => if a.slt b then b else a) s

/-- R122. -/
def execMinu (g : Gate) (d a b : SReg) (s : State) : Result :=
  scalarOp (.minu g d a b) g 1 d a b (fun a b => if a.ult b then a else b) s

/-- R122. -/
def execMaxu (g : Gate) (d a b : SReg) (s : State) : Result :=
  scalarOp (.maxu g d a b) g 1 d a b (fun a b => if a.ult b then b else a) s

/-- R125. -/
def execMul (g : Gate) (d a b : SReg) (s : State) : Result :=
  scalarOp (.mul g d a b) g 3 d a b (fun a b => a * b) s

/-- R125. -/
def execMulh (g : Gate) (d a b : SReg) (s : State) : Result :=
  scalarOp (.mulh g d a b) g 3 d a b (fun a b => BitVec.ofInt 64 (a.toInt * b.toInt / (2 ^ 64 : Int))) s

/-- R125. -/
def execMulhu (g : Gate) (d a b : SReg) (s : State) : Result :=
  scalarOp (.mulhu g d a b) g 3 d a b (fun a b => BitVec.ofNat 64 (a.toNat * b.toNat / 2 ^ 64)) s

/-- R124. -/
def execDiv (g : Gate) (d a b : SReg) (s : State) : Result :=
  scalarOp (.div g d a b) g 20 d a b (fun a b => divS a b) s

/-- R124. -/
def execDivu (g : Gate) (d a b : SReg) (s : State) : Result :=
  scalarOp (.divu g d a b) g 20 d a b (fun a b => divU a b) s

/-- R124. -/
def execRem (g : Gate) (d a b : SReg) (s : State) : Result :=
  scalarOp (.rem g d a b) g 20 d a b (fun a b => remS a b) s

/-- R124. -/
def execRemu (g : Gate) (d a b : SReg) (s : State) : Result :=
  scalarOp (.remu g d a b) g 20 d a b (fun a b => remU a b) s

/-! Form SI (R123). -/

/-- R123. -/
def execAddi (g : Gate) (d a : SReg) (imm : BitVec 13) (s : State) : Result :=
  scalarImm (.addi g d a imm) g d a (imm.signExtend 64) (fun a i => a + i) s

/-- R123. -/
def execAndi (g : Gate) (d a : SReg) (imm : BitVec 13) (s : State) : Result :=
  scalarImm (.andi g d a imm) g d a (imm.signExtend 64) (fun a i => a &&& i) s

/-- R123. -/
def execOri (g : Gate) (d a : SReg) (imm : BitVec 13) (s : State) : Result :=
  scalarImm (.ori g d a imm) g d a (imm.signExtend 64) (fun a i => a ||| i) s

/-- R123. -/
def execXori (g : Gate) (d a : SReg) (imm : BitVec 13) (s : State) : Result :=
  scalarImm (.xori g d a imm) g d a (imm.signExtend 64) (fun a i => a ^^^ i) s

/-- R123. -/
def execShli (g : Gate) (d a : SReg) (imm : BitVec 13) (s : State) : Result :=
  scalarImm (.shli g d a imm) g d a (imm.setWidth 64) (fun a i => a <<< sh6 i) s

/-- R123. -/
def execShri (g : Gate) (d a : SReg) (imm : BitVec 13) (s : State) : Result :=
  scalarImm (.shri g d a imm) g d a (imm.setWidth 64) (fun a i => a >>> sh6 i) s

/-- R123. -/
def execSari (g : Gate) (d a : SReg) (imm : BitVec 13) (s : State) : Result :=
  scalarImm (.sari g d a imm) g d a (imm.setWidth 64) (fun a i => a.sshiftRight (sh6 i)) s

/-- R123. -/
def execCati (g : Gate) (d a : SReg) (imm : BitVec 13) (s : State) : Result :=
  scalarImm (.cati g d a imm) g d a (imm.setWidth 64) (fun a i => (a <<< 13) + i) s

/-! Compares (R126). -/

/-- R126. -/
def execCmpeq (g : Gate) (d : QReg) (a b : SReg) (s : State) : Result :=
  scalarCmp (.cmpeq g d a b) g 0 d a b s

/-- R126. -/
def execCmpne (g : Gate) (d : QReg) (a b : SReg) (s : State) : Result :=
  scalarCmp (.cmpne g d a b) g 1 d a b s

/-- R126. -/
def execCmplt (g : Gate) (d : QReg) (a b : SReg) (s : State) : Result :=
  scalarCmp (.cmplt g d a b) g 2 d a b s

/-- R126. -/
def execCmpltu (g : Gate) (d : QReg) (a b : SReg) (s : State) : Result :=
  scalarCmp (.cmpltu g d a b) g 3 d a b s

/-- R126. -/
def execCmple (g : Gate) (d : QReg) (a b : SReg) (s : State) : Result :=
  scalarCmp (.cmple g d a b) g 4 d a b s

/-- R126. -/
def execCmpleu (g : Gate) (d : QReg) (a b : SReg) (s : State) : Result :=
  scalarCmp (.cmpleu g d a b) g 5 d a b s

/-- R126. -/
def execCmpeqi (g : Gate) (d : QReg) (a : SReg) (imm : BitVec 13) (s : State) : Result :=
  scalarCmpi (.cmpeqi g d a imm) g 0 d a imm s

/-- R126. -/
def execCmpnei (g : Gate) (d : QReg) (a : SReg) (imm : BitVec 13) (s : State) : Result :=
  scalarCmpi (.cmpnei g d a imm) g 1 d a imm s

/-- R126. -/
def execCmplti (g : Gate) (d : QReg) (a : SReg) (imm : BitVec 13) (s : State) : Result :=
  scalarCmpi (.cmplti g d a imm) g 2 d a imm s

/-- R126. -/
def execCmpltui (g : Gate) (d : QReg) (a : SReg) (imm : BitVec 13) (s : State) : Result :=
  scalarCmpi (.cmpltui g d a imm) g 3 d a imm s

/-- R126. -/
def execCmplei (g : Gate) (d : QReg) (a : SReg) (imm : BitVec 13) (s : State) : Result :=
  scalarCmpi (.cmplei g d a imm) g 4 d a imm s

/-- R126. -/
def execCmpleui (g : Gate) (d : QReg) (a : SReg) (imm : BitVec 13) (s : State) : Result :=
  scalarCmpi (.cmpleui g d a imm) g 5 d a imm s

/-! Predicates (R127). -/

/-- R127. -/
def execQand (g : Gate) (d a b : QReg) (s : State) : Result :=
  predOp (.qand g d a b) g d a b (fun a b => a && b) s

/-- R127. -/
def execQor (g : Gate) (d a b : QReg) (s : State) : Result :=
  predOp (.qor g d a b) g d a b (fun a b => a || b) s

/-- R127. -/
def execQxor (g : Gate) (d a b : QReg) (s : State) : Result :=
  predOp (.qxor g d a b) g d a b (fun a b => xor a b) s

/-- R127. -/
def execQandn (g : Gate) (d a b : QReg) (s : State) : Result :=
  predOp (.qandn g d a b) g d a b (fun a b => a && !b) s

/-! Copies between register files (R128, R129). -/

/-- A 32-bit value in every lane. -/
def broadcast32 (x : Nat) : VReg := BitVec.ofNat 8192 (packList 32 (List.replicate 256 (x % 2 ^ 32)))

/-- R128. -/
def execXs (g : Gate) (a : SReg) (v : VField) (s : State) : Result :=
  runOp (.xs g a v) false g s (fun s => withV (.xs g a v) s v (fun n =>
    .next (s.landIn 3 .sca (.vreg n (BitVec.allOnes 256) (broadcast32 (s.rs a.toNat).toNat)))))

/-- R129. -/
def execXv (g : Gate) (d : SReg) (v : VField) (lane : BitVec 8) (s : State) : Result :=
  runOp (.xv g d v lane) false g s (fun s => withV (.xv g d v lane) s v (fun n =>
    s.landS 3 d (BitVec.ofNat 64 (elem 32 (s.me.rv n).toNat lane.toNat))))

/-! Streams, system registers, cycle reads (R130 to R134). -/

/-- R130. -/
def execAset (g : Gate) (d : StreamReg) (a : SReg) (fsel : BitVec 3) (s : State) : Result :=
  runOp (.aset g d a fsel) false g s (fun s =>
    .next (s.landIn 1 .sca (.stream d.toNat fsel.toNat (s.rs a.toNat))))

/-- The value `SRD` reads (R131). -/
def State.readSys (s : State) (n : Nat) : Word64 :=
  let c := s.cur.core
  match n with
  | 0 => s.me.sstat
  | 1 => s.me.csp
  | 2 => s.me.csbase
  | 3 => s.me.slimit
  | 4 => BitVec.ofNat 64 c
  | _ => BitVec.ofNat 64 ((s.heat (s.partOf c)).heatId % 2 ^ 32)

/-- R131. -/
def execSrd (g : Gate) (d : SReg) (n : BitVec 13) (s : State) : Result :=
  runOp (.srd g d n) false g s (fun s => s.landS 1 d (s.readSys n.toNat))

/-- R131. -/
def execSwr (g : Gate) (n : BitVec 13) (a : SReg) (s : State) : Result :=
  runOp (.swr g n a) false g s (fun s => .next (s.landIn 1 .sca (.sysreg n.toNat (s.rs a.toNat))))

/-- The heat cycle that `GCRD` reads (R132): in a firmware context the value of the heat armed or running in its core's
partition, or a value no heat cycle takes. -/
def State.readHeatCycle (s : State) : Word64 :=
  let c := s.cur.core
  let live := match (s.heat (s.partOf c)).phase with
    | .armed | .running | .stopping => true
    | _ => false
  if s.cur.fw && !live then 0x8000000000000000 else BitVec.ofInt 64 (s.heatCycle c)

/-- R132. -/
def execGcrdHeat (g : Gate) (d : SReg) (s : State) : Result :=
  runOp (.gcrdHeat g d) false g s (fun s => s.landS 1 d s.readHeatCycle)

/-- R132. -/
def execGcrdGcount (g : Gate) (d : SReg) (s : State) : Result :=
  runOp (.gcrdGcount g d) false g s (fun s => s.landS 1 d (BitVec.ofNat 64 s.gcount))

/-- R133. -/
def execLxrd (g : Gate) (d : SReg) (n : BitVec 13) (s : State) : Result :=
  runOp (.lxrd g d n) false g s (fun s => s.landS 1 d (BitVec.ofNat 64 (s.me.loopIdx n.toNat (stageNo g))))

/-- PCTL of a partition as it reads (R300). -/
def patrolWord (r : Patrol) : Word64 :=
  BitVec.ofNat 64 (r.state.toNat * 2 ^ 2 + r.cur.toNat * 2 ^ 4 + r.next.toNat * 2 ^ 6 + r.passes.toNat * 2 ^ 8)

/-- The value `FSRD` reads (R325). -/
def State.readFw (s : State) (n : Nat) : Word64 :=
  let f := s.me.fw
  match n with
  | 0 => f.fvec
  | 1 => f.fepc
  | 2 => f.fcause
  | 3 => f.fpend.setWidth 64
  | 4 => f.fenable.setWidth 64
  | 5 => BitVec.ofNat 64 f.fshare
  | 6 => f.fxaddr
  | 7 => BitVec.ofNat 64 s.fe.sched
  | 8 => if s.fe.hold then 1 else 0
  | 9 => s.fe.jbase
  | 10 => BitVec.ofNat 64 s.fe.jtail
  | 11 => s.fe.jlow
  | 13 => patrolWord (s.patrolOf (s.partOf s.cur.core))
  | _ => 0

/-- R325. -/
def execFsrd (g : Gate) (d : SReg) (n : BitVec 13) (s : State) : Result :=
  runOp (.fsrd g d n) false g s (fun s => s.landS 1 d (s.readFw n.toNat))

/-- R325. -/
def execFswr (g : Gate) (n : BitVec 13) (a : SReg) (s : State) : Result :=
  runOp (.fswr g n a) false g s (fun s => .next (s.landIn 1 .sca (.fwreg n.toNat (s.rs a.toNat))))

end Sys2Proof.Machine
end

