-- ==== Sys2Proof/Machine/Matrix.lean ====
section
/-! DEFINITION. The MAT slot (R161 to R173): the steps, the row-group moves, the scan and the carry moves. -/

namespace Sys2Proof.Machine

/-! Steps (R163 to R167). -/

/-- The scales of an operand of `rows` runs at offset `t` of each, element by element in the order of its bytes (R165): `per`
registers to a set. -/
def operandScales (k : Core) (f kreg per rows n : Nat) : List (Option (BitVec 8)) :=
  if stepScaled f kreg then
    (List.range rows).flatMap (fun i => (List.range (stepK f)).map (fun t =>
      some (BitVec.ofNat 8 (elem 8 (k.rk (kreg + per * scaleSet f n t + i / 8)).toNat (i % 8)))))
  else []

/-- A step (R163): its addresses, scales, predicate and stage are read at issue, its operands at c+2, its accumulator in
its landing cycle c+10 (R166). -/
def stepOp (ins : Instr) (g : Gate) (dst : Nat) (zeroing : Bool) (sa sb : StreamReg) (f : BitVec 5) (ka kb : KReg)
    (s : State) : Result :=
  runOp ins false g s (fun s =>
    let c := s.cur.core
    let k := s.me
    let fmt := f.toNat
    let n := k.loopIdx (strField (k.ra sa.toNat) 105 3) (stageNo g)
    let aAddr := s.addrOf g sa (stepAlignA fmt)
    let bAddr := s.addrOf g sb (stepAlignB fmt)
    let id := k.nextId
    let run : StepRun := { fmt := fmt, scaleA := operandScales k fmt ka.toNat 8 64 n,
                           scaleB := operandScales k fmt kb.toNat 4 32 n, a := none, b := none, poison := false,
                           pos := s.cur.pos, seg := s.cur.seg }
    let s1 := s.setCore c { k with steps := sset none k.steps id (some run), nextId := id + 1 }
    let s2 := s1.access codeMatA (groupBanks (groupOf aAddr)) aAddr 2 2 (.stepA id)
    let s3 := s2.access codeMatB (groupBanks (groupOf bAddr)) bAddr 2 2 (.stepB id)
    .next (s3.landIn 10 .mat (.step dst id zeroing)))

/-- R163, R166. -/
def execMma (g : Gate) (t : TileReg) (sa sb : StreamReg) (f : BitVec 5) (ka kb : KReg) (s : State) : Result :=
  stepOp (.mma g t sa sb f ka kb) g t.toNat false sa sb f ka kb s

/-- R163, R166. -/
def execMmaz (g : Gate) (t : TileReg) (sa sb : StreamReg) (f : BitVec 5) (ka kb : KReg) (s : State) : Result :=
  stepOp (.mmaz g t sa sb f ka kb) g t.toNat true sa sb f ka kb s

/-- R64, R163. The offset tile of the pair is written. -/
def execMmaa (g : Gate) (t : TileReg) (sa sb : StreamReg) (f : BitVec 5) (ka kb : KReg) (s : State) : Result :=
  stepOp (.mmaa g t sa sb f ka kb) g (t.toNat + 1) false sa sb f ka kb s

/-- R64, R163. -/
def execMmaaz (g : Gate) (t : TileReg) (sa sb : StreamReg) (f : BitVec 5) (ka kb : KReg) (s : State) : Result :=
  stepOp (.mmaaz g t sa sb f ka kb) g (t.toNat + 1) true sa sb f ka kb s

/-! Row-group moves (R168 to R170). -/

/-- R65, R168. -/
def execMgain (g : Gate) (t : TileReg) (rg : BitVec 3) (v : VField) (s : State) : Result :=
  runOp (.mgain g t rg v) false g s (fun s => withV (.mgain g t rg v) s v (fun n =>
    .next (s.landIn 4 .mat (.rows t.toNat rg.toNat (s.me.rv n)))))

/-- The poison-read event of a tile read (R170, R252, R359). -/
def State.poisonRead (s : State) (t rg : Nat) : State :=
  let lanes := rowPoison (s.me.rm t) rg
  let count := ((List.range 256).filter (fun i => lanes.getLsbD i)).length
  if lanes = 0 then s
  else s.event s.cur.core 1 (t + rg * 32) lanes.toNat (t + rg * 32 + count * 2 ^ 8)

/-- R168, R170. -/
def execMrd (g : Gate) (t : TileReg) (rg : BitVec 3) (v : VField) (s : State) : Result :=
  runOp (.mrd g t rg v) false g s (fun s => withV (.mrd g t rg v) s v (fun n =>
    .next ((s.poisonRead t.toNat rg.toNat).landIn 4 .mat
      (.vreg n (BitVec.allOnes 256) (rowGroup (s.me.rm t.toNat) rg.toNat)))))

/-- R168. -/
def execMwr (g : Gate) (t : TileReg) (rg : BitVec 3) (v : VField) (s : State) : Result :=
  runOp (.mwr g t rg v) false g s (fun s => withV (.mwr g t rg v) s v (fun n =>
    .next (s.landIn 4 .mat (.rows t.toNat rg.toNat (s.me.rv n)))))

/-- R169. -/
def execMzero (g : Gate) (t : TileReg) (s : State) : Result :=
  runOp (.mzero g t) false g s (fun s => .next (s.landIn 4 .mat (.tileSet t.toNat tileReset)))

/-- R169. -/
def execMclrp (g : Gate) (t : TileReg) (s : State) : Result :=
  runOp (.mclrp g t) false g s (fun s => .next (s.landIn 4 .mat (.tileClear t.toNat)))

/-! The scan and the carry moves (R61, R171, R172). -/

/-- R61, R171. Both tiles and the carry land at c+14; a flush marks each of the three (R27). -/
def execAscan (g : Gate) (t : TileReg) (cy : BitVec 3) (s : State) : Result :=
  runOp (.ascan g t cy) false g s (fun s =>
    let k := s.me
    let (gain, off, carry, flush) := scanPair (k.rm t.toNat) (k.rm (t.toNat + 1)) (k.ry cy.toNat)
    let s1 := s.landIn 14 .mat (.tileSet t.toNat gain) flush
    let s2 := s1.landIn 14 .mat (.tileSet (t.toNat + 1) off) flush
    .next (s2.landIn 14 .mat (.carry cy.toNat carry) flush))

/-- R63, R172. -/
def execMsvc (g : Gate) (cy : BitVec 3) (v : VField) (s : State) : Result :=
  runOp (.msvc g cy v) false g s (fun s => withV (.msvc g cy v) s v (fun n =>
    .next (s.landIn 4 .mat (.vreg n (BitVec.allOnes 256) (carryImage (s.me.ry cy.toNat))))))

/-- R63, R172. -/
def execMldc (g : Gate) (cy : BitVec 3) (v : VField) (s : State) : Result :=
  runOp (.mldc g cy v) false g s (fun s => withV (.mldc g cy v) s v (fun n =>
    .next (s.landIn 4 .mat (.carry cy.toNat (carryOfImage (s.me.rv n))))))

end Sys2Proof.Machine
end

