-- ==== Sys2Proof/Machine/MemSlot.lean ====
section
/-! DEFINITION. The MEM slot (R175 to R182, R195, R200 to R203): scratchpad loads and stores, gathers and scatters, remote
stores, read-modify-writes, the load queue, the engine commands as they read their records, fences and posts, and in a
firmware context the operations it waits for. -/

namespace Sys2Proof.Machine

/-- A MEM operation of a firmware context (R176): it waits for its completion, whose time the spec leaves open. -/
def State.fwMemOp (s : State) (i : Instr) (addr value : Word64) : Result :=
  let s1 := s.modFw (fun f =>
    { f with mode := .waiting, mem := some { instr := i, pos := f.pos, addr := addr, value := value, issued := s.gcount } })
  .next (s1.later 1 (.firmwareAccessComplete s.cur.core))

/-- The operand address of a firmware MEM operation: s(SA) (R176). -/
def State.fwAddr (s : State) (sa : StreamReg) : Word64 := s.rs sa.toNat

/-! Plain accesses (R177). -/

/-- R177. -/
def execVld (g : Gate) (v : VField) (sa : StreamReg) (s : State) : Result :=
  runOp (.vld g v sa) false g s (fun s => withV (.vld g v sa) s v (fun d =>
    let a := s.addrOf g sa 1024
    .next (s.access codeMem (rangeBanks a 1024) a 2 2 (.vload d))))

/-- R177. -/
def execVst (g : Gate) (v : VField) (sa : StreamReg) (s : State) : Result :=
  runOp (.vst g v sa) false g s (fun s => withV (.vst g v sa) s v (fun n =>
    let a := s.addrOf g sa 1024
    .next (s.access codeMem (rangeBanks a 1024) a 3 3 (.vstore (s.me.rv n)))))

/-- R176, R177. -/
def execSld (g : Gate) (d : SReg) (sa : StreamReg) (s : State) : Result :=
  runOp (.sld g d sa) false g s (fun s =>
    if s.cur.fw then s.fwMemOp (.sld g d sa) (s.fwAddr sa) 0
    else
      let a := s.addrOf g sa 8
      .next (s.access codeMem (rangeBanks a 8) a 2 2 (.sload d.toNat)))

/-- R176, R177. -/
def execSst (g : Gate) (r : SReg) (sa : StreamReg) (s : State) : Result :=
  runOp (.sst g r sa) false g s (fun s =>
    if s.cur.fw then s.fwMemOp (.sst g r sa) (s.fwAddr sa) (s.rs r.toNat)
    else
      let a := s.addrOf g sa 8
      .next (s.access codeMem (rangeBanks a 8) a 2 2 (.sstore (s.rs r.toNat))))

/-! Gathers and scatters (R178). -/

/-- R178. -/
def execVgth (g : Gate) (f : BitVec 5) (v : VField) (sa : StreamReg) (idx : VField) (s : State) : Result :=
  let i : Instr := .vgth g f v sa idx
  runOp i false g s (fun s => withV i s v (fun d => withV i s idx (fun x =>
    let a := s.addrOf g sa 16384
    .next (s.access codeMem (groupBanks (groupOf a)) a 2 17 (.gather d (fmtWidth f.toNat) (s.me.rv x))))))

/-- R178. -/
def execVsct (g : Gate) (f : BitVec 5) (v : VField) (sa : StreamReg) (idx : VField) (s : State) : Result :=
  let i : Instr := .vsct g f v sa idx
  runOp i false g s (fun s => withV i s v (fun n => withV i s idx (fun x =>
    let a := s.addrOf g sa 16384
    .next (s.access codeMem (groupBanks (groupOf a)) a 2 17 (.scatter (s.me.rv n) (fmtWidth f.toNat) (s.me.rv x))))))

/-! Remote stores (R25, R179). -/

/-- The distance of two numbers. -/
def distance (a b : Nat) : Nat := if a ≤ b then b - a else a - b

/-- The hop count between two cores' places on their dies' meshes (R25). -/
def hops (a b : Nat) : Nat := distance (a % 8) (b % 8) + distance (a % 64 / 8) (b % 64 / 8)

/-- Cycles from the issue of a `VSTN` to its performing (R179). -/
def vstnDelay (a b : Nat) : Nat := (if a / 64 = b / 64 then 12 else 52) + 2 * hops a b

/-- R179. The store is an access of the target core from the issuing core. -/
def execVstn (g : Gate) (v : VField) (sa : StreamReg) (core : BitVec 8) (s : State) : Result :=
  let i : Instr := .vstn g v sa core
  runOp i false g s (fun s => withV i s v (fun n =>
    let c := s.cur.core
    let t := core.toNat
    let a := s.addrOf g sa 1024
    let at_ := s.gcount + vstnDelay c t
    let k := s.core t
    let acc : Access := { id := k.nextId, code := codeVstn, issue := s.gcount, src := c, banks := rangeBanks a 1024,
                          addr := a, first := at_, last := at_, conflictAt := none, pos := s.cur.pos, seg := s.cur.seg,
                          op := .vstn (s.me.rv n) }
    let s1 := s.setCore t { k with acc := k.acc ++ [acc], nextId := k.nextId + 1 }
    .next ((s1.at at_ (.vstnArrival t acc.id .occupy)).at at_ (.vstnArrival t acc.id .perform))))

/-! Read-modify-writes and the load queue (R29 to R31, R180, R181). -/

/-- R29, R180. It owns its bank from c+2 to c+4: it reads at c+2 and writes at c+4. -/
def rmwOp (isAtom : Bool) (f : BitVec 5) (r : SReg) (g : Gate) (sa : StreamReg) (op : BitVec 3) (s : State) : State × Nat :=
  let a := s.addrOf g sa 4
  let c := s.cur.core
  let (s1, id) := s.openAccess codeRmw (rangeBanks a 4) a 2 4
    (.atom isAtom f.toNat op.toNat ((s.rs r.toNat).setWidth 32) none)
  (((s1.at (s1.gcount + 2) (.bankAccess c id .occupy)).at (s1.gcount + 2) (.bankAccess c id .read)).at
    (s1.gcount + 4) (.bankAccess c id .perform), id)

/-- R180. -/
def execAtom (g : Gate) (f : BitVec 5) (r : SReg) (sa : StreamReg) (op : BitVec 3) (s : State) : Result :=
  runChecked (.atom g f r sa op) g s (fun s =>
    let (s1, id) := rmwOp true f r g sa op s
    .next ((s1.modCore s.cur.core (fun k => { k with lqOut := k.lqOut + 1 })).at (s.gcount + 7)
      (.loadQueuePush s.cur.core id)))

/-- R180. -/
def execRed (g : Gate) (f : BitVec 5) (r : SReg) (sa : StreamReg) (op : BitVec 3) (s : State) : Result :=
  runOp (.red g f r sa op) false g s (fun s => .next (rmwOp false f r g sa op s).1)

/-- R31, R181. -/
def execLqpop (g : Gate) (d : SReg) (s : State) : Result :=
  runChecked (.lqpop g d) g s (fun s =>
    let x := s.me.lq.headD 0
    .next ((s.modCore s.cur.core (fun k => { k with lq := k.lq.drop 1 })).landIn 2 .mem (.sreg d.toNat x)))

/-! Engine commands (R182): the record is read at c+2 and checked there. -/

/-- The record of a command read at c+2 (R182). -/
def engineOp (i : Instr) (g : Gate) (kind : Nat) (sa : StreamReg) (s : State) : Result :=
  runOp i false g s (fun s =>
    let a := s.addrOf g sa 128
    .next (s.access codeMem (rangeBanks a 128) a 2 2 (.command kind)))

/-- R182, R185. -/
def execCopy (g : Gate) (sa : StreamReg) (s : State) : Result := engineOp (.copy g sa) g 0x10 sa s
/-- R182, R189. -/
def execPour (g : Gate) (sa : StreamReg) (s : State) : Result := engineOp (.pour g sa) g 0x11 sa s
/-- R182, R190. -/
def execTake (g : Gate) (sa : StreamReg) (s : State) : Result := engineOp (.take g sa) g 0x12 sa s
/-- R182, R191. -/
def execCred (g : Gate) (sa : StreamReg) (s : State) : Result := engineOp (.cred g sa) g 0x13 sa s
/-- R182, R191. -/
def execCaxpy (g : Gate) (sa : StreamReg) (s : State) : Result := engineOp (.caxpy g sa) g 0x14 sa s
/-- R182, R191. -/
def execCfill (g : Gate) (sa : StreamReg) (s : State) : Result := engineOp (.cfill g sa) g 0x15 sa s
/-- R182, R196. -/
def execPut (g : Gate) (sa : StreamReg) (s : State) : Result := engineOp (.put g sa) g 0x16 sa s
/-- R182, R196. -/
def execGet (g : Gate) (sa : StreamReg) (s : State) : Result := engineOp (.get g sa) g 0x17 sa s

/-! Fences (R195, R202) and posts (R200). -/

/-- R195. For `.bank` and `.chan` an address word is read at c+2; the wait is looked at from c+3 on. -/
def execCfence (g : Gate) (sa : StreamReg) (scope : BitVec 2) (s : State) : Result :=
  runOp (.cfence g sa scope) false g s (fun s =>
    let c := s.cur.core
    let a := s.addrOf g sa 8
    let s1 := if scope.toNat < 2 then s.access codeMem (rangeBanks a 8) a 2 2 (.fenceWord scope.toNat) else s
    let s2 := s1.modSeq (fun q => { q with memHold := .cfence s.gcount scope.toNat none })
    .next (s2.at (s.gcount + 3) (.cfenceRelease c)))

/-- R202. A firmware context's accesses have performed when it issues its next bundle (R176). -/
def execFence (g : Gate) (scope : BitVec 2) (s : State) : Result :=
  runOp (.fence g scope) false g s (fun s =>
    let c := s.cur.core
    if s.cur.fw then
      let s1 := s.modFw (fun f =>
        { f with mode := .waiting, mem := some { instr := .fence g scope, pos := f.pos, addr := 0, value := 0, issued := s.gcount } })
      .next (s1.at (s.gcount + 1) (.fenceRelease c true))
    else
      let s1 := s.modSeq (fun q => { q with memHold := .fence s.gcount (decide (scope.toNat = 1)) })
      .next (s1.at (s.gcount + 1) (.fenceRelease c false)))

/-- R200. The post takes effect at c+1. -/
def execBpost (g : Gate) (r : SReg) (bar : BarReg) (s : State) : Result :=
  runOp (.bpost g r bar) false g s (fun s =>
    .next (s.landIn 1 .mem (.post bar.toNat (fld (s.rs r.toNat).toNat 0 40))))

/-! Firmware queue, kick and journal instructions (R203), performed at their completion. -/

/-- R203. -/
def execQrd (g : Gate) (sa : StreamReg) (s : State) : Result :=
  runOp (.qrd g sa) false g s (fun s => s.fwMemOp (.qrd g sa) (s.fwAddr sa) 0)
/-- R203. -/
def execKscan (g : Gate) (sa : StreamReg) (s : State) : Result :=
  runOp (.kscan g sa) false g s (fun s => s.fwMemOp (.kscan g sa) (s.fwAddr sa) 0)
/-- R203. -/
def execKclr (g : Gate) (sa : StreamReg) (s : State) : Result :=
  runOp (.kclr g sa) false g s (fun s => s.fwMemOp (.kclr g sa) (s.fwAddr sa) 0)
/-- R203. -/
def execJapp (g : Gate) (sa : StreamReg) (s : State) : Result :=
  runOp (.japp g sa) false g s (fun s => s.fwMemOp (.japp g sa) (s.fwAddr sa) 0)

end Sys2Proof.Machine
end

