-- ==== Sys2Proof/Machine/FlashLog.lean ====
section
/-! DEFINITION. The flash log (R302, R303, R331, R364): appends of whole pages with their directory records, and the requests
of firmware. -/

namespace Sys2Proof.Machine

/-- A directory record (R303). -/
def dirBits (kind seq first pages crc gc : Nat) : BitVec 512 :=
  BitVec.ofNat 512 (0x2F4A + kind * 2 ^ 16 + seq % 2 ^ 64 * 2 ^ 64 + first % 2 ^ 64 * 2 ^ 128 + pages % 2 ^ 32 * 2 ^ 192 +
    crc % 2 ^ 32 * 2 ^ 224 + gc % 2 ^ 64 * 2 ^ 256)

/-- Pages appended at a module's tail, with their directory record; the sequence number it bears (R303). -/
def State.appendPages (s : State) (module kind : Nat) (bs : List Byte) : State × Nat :=
  let tail := sget 0 s.flash.tail module
  let seq := sget 0 s.flash.seq module
  let first := module * 2 ^ 41 + tail
  let d : DirRec := { module := module, bits := dirBits kind seq first (bs.length / 4096) (crc32c bs) s.gcount }
  ({ s with flash := { mem := s.flash.mem.writeBytes first bs, tail := sset 0 s.flash.tail module (tail + bs.length),
                       seq := sset 0 s.flash.seq module (seq + 1), dir := s.flash.dir ++ [d] } }, seq)

/-- A module is present and has room for n more bytes. -/
def State.moduleTakes (s : State) (module n : Nat) : Bool :=
  decide (module < 4) && !s.isAbsent .flash module && decide (sget 0 s.flash.tail module + n ≤ 2 ^ 41)

/-- R331. The request block is read as the write of `logsub`, or the management function's request, takes effect. -/
def execLogSubmit (core : Nat) (v : Word64) (s : State) : Result := .next (s.submitLog core v)

/-- The request of an identity is over, its word 3 written: in the context's data memory, or in HBM for the management function
(R331, log entry 65). -/
def State.answerLog (s : State) (r : LogReq) (v : Nat) : State :=
  let s1 : State := { s with logq := s.logq.filter (fun x => decide (x.id ≠ r.id)) }
  if r.core < managementCore then s1.fwStore r.core ((r.block + 24) % 2 ^ 15) (bytesOf 8 v)
  else s1.writeVA r.part (r.block + 24) (bytesOf 8 v)

/-- Word 3 of a request can be written now (R229). -/
def State.answerServed (s : State) (r : LogReq) : Bool :=
  decide (r.core < managementCore) || s.servedVA r.part (r.block + 24) 8

/-- A request the log engine accepts (R303, R331): kinds 4 and 6 from the management function only, at least one page, and room
in a module that is present. -/
def State.logValid (s : State) (r : LogReq) : Bool :=
  ((decide (1 ≤ r.kind) && decide (r.kind ≤ 3)) ||
    (decide (managementCore ≤ r.core) && (decide (r.kind = 4) || decide (r.kind = 6)))) &&
    decide (0 < r.pages) && decide (r.pages < 2 ^ 32) && s.moduleTakes r.module (4096 * r.pages)

/-- Bytes read so far. -/
def LogReq.count (r : LogReq) : Nat := (r.got.map List.length).foldl (· + ·) 0

/-- The bytes that the log engine reads and appends in a cycle of 0.4 ns at 1.68 TB/s (R303, R365). -/
def logRate : Nat := 672

/-- The log engine has read the next piece of a request, which lies in one line. It goes on at a cycle of its own, but no later
than the log rate lets it, so that only service slots hold a request up further (R365, log entry 19). -/
def State.logGot (s : State) (r : LogReq) (bs : List Byte) : State :=
  let (d, s1) := s.draw
  let room := r.since + 1 + (r.count + bs.length) / logRate - s1.gcount
  State.at { s1 with logq := s1.logq.map (fun x => if x.id = r.id then { x with got := bs :: x.got } else x) }
    (s1.gcount + d % (room + 1)) (.logAppend r.id)

/-- The block of a management function's request read in a service slot; a request whose block does not translate has no word 3 to
be answered in, and goes (R331, log entry 65). -/
def State.readBlock (s : State) (r : LogReq) : State :=
  if !s.servedVA r.part r.block 32 then s.at (s.gcount + 1) (.logAppend r.id)
  else
    match s.readVA r.part r.block 32 with
    | (s1, none) => { s1 with logq := s1.logq.filter (fun x => decide (x.id ≠ r.id)) }
    | (s1, some bs) =>
      State.at { s1 with logq := s1.logq.map (fun x => if x.id = r.id then x.withBlock bs else x) } s1.gcount (.logAppend r.id)

/-- R303, R331, R364. A step of the log engine: the block of the management function's request, the next line of the request's source read in a service slot, or, once all are
read, the append, whose directory SEQ is written into word 3; all ones for an invalid request. -/
def execLogAppend (id : Nat) (s : State) : Result :=
  match s.logq.find? (fun r => decide (r.id = id)) with
  | none => .next s
  | some r =>
    let n := r.count
    let va := r.src + n
    let m := min (64 - va % 64) (4096 * r.pages - n)
    let again := s.at (s.gcount + 1) (.logAppend id)
    if r.unread then .next (s.readBlock r)
    else if s.logValid r = false then
      if s.answerServed r then .next (s.answerLog r 0xFFFFFFFFFFFFFFFF) else .next again
    else if 4096 * r.pages ≤ n then
      if s.answerServed r = false then .next again
      else
        let (s1, seq) := s.appendPages r.module r.kind r.got.reverse.flatten
        .next (s1.answerLog r seq)
    else if !s.servedVA r.part va m then .next again
    else
      match s.readVA r.part va m with
      | (s1, none) => if s1.answerServed r then .next (s1.answerLog r 0xFFFFFFFFFFFFFFFF) else .next again
      | (s1, some bs) => .next (s1.logGot r bs)

end Sys2Proof.Machine
end

