-- ==== Sys2Proof/Machine/Loader.lean ====
section
/-! DEFINITION. The heat image as the heat loader reads it (R208 to R218, R222, R255 to R258, R284 to R286, R293, R373, R374): its
sections, the tables they hold, and the checks that reject it. The checks of the code
and of the command records stand in Machine/LoadChecks.lean and Machine/LoadRecords.lean. -/

namespace Sys2Proof.Machine

/-- A bundle is legal but for the ring check of R74 (R91). -/
def bundleLegal (x : Bundle) : Bool :=
  (decodeHeader x).isSome &&
    allSlots.all (fun sl => match decodeSyl sl (syl x sl) with | some i => i.legalCompute | none => false)

/-- R91, R209. A section of no whole records is rejected also where the rule does not say so (log entry 72). -/
def dictOk (b : List Byte) (c : Nat) : Bool :=
  let bs := (secOf b 2 c).getD []
  let d := coreDict b c
  decide (bs.length % 64 = 0) && (recordsOf 64 bs).all (fun r => zeroAt r 2 14) &&
    d.all (fun p => decide (p.1 < 4096) && bundleLegal p.2 && d.all (fun q => decide (p.1 ≠ q.1 ∨ p.2 = q.2)))

/-- Code records are whole, and each begins at a multiple of 16 (R209, log entry 72). The checks of the segments themselves stand in
Machine/LoadChecks.lean. -/
def codeOk (b : List Byte) (c : Nat) : Bool :=
  match coreCode b c with
  | some l => l.all (fun p => decide (p.1 % 16 = 0))
  | none => false

/-! Loop tables (R106, R107). -/

/-- The entries of a core's loop-table section. -/
def coreLoops (b : List Byte) (c : Nat) : List (Nat × BitVec 192) :=
  (recordsOf 32 ((secOf b 4 c).getD [])).map (fun r => (leAt r 0 2, BitVec.ofNat 192 (leAt r 8 24)))

/-- Two ring segments of one entry have no register in common. -/
def ringsApart : List (Nat × Nat) → Bool
  | [] => true
  | p :: rest => rest.all (fun q => decide (p.1 + p.2 ≤ q.1) || decide (q.1 + q.2 ≤ p.1)) && ringsApart rest

/-- R106, R107. -/
def loopEntryOk (e : Nat) : Bool :=
  let rings := ([128, 144, 160, 176].map (fun lo => (fld e lo 8, fld e (lo + 8) 8))).filter (fun p => decide (p.2 ≠ 0))
  decide (fld e 52 12 = 0) && decide (fld e 36 2 = 0) && decide (fld e 38 2 ≠ 3) && decide (1 ≤ fld e 32 4) &&
    decide (fld e 32 4 ≤ 8) && rings.all (fun p => decide (p.1 + p.2 ≤ 256)) && ringsApart rings

/-- R106, R107, R209: whole records, of entry numbers below 256 (log entry 72). -/
def loopsOk (b : List Byte) (c : Nat) : Bool :=
  let bs := (secOf b 4 c).getD []
  decide (bs.length % 32 = 0) && (recordsOf 32 bs).all (fun r => zeroAt r 2 6) &&
    (coreLoops b c).all (fun p => decide (p.1 < 256) && loopEntryOk p.2.toNat)

/-! Regions (R215, R216). -/

/-- The entries of a core's region table. -/
def coreRegions (b : List Byte) (c : Nat) : List Nat := (recordsOf 16 ((secOf b 5 c).getD [])).map natOf

def regAddr (e : Nat) : Nat := fld e 64 64
def regSize (e : Nat) : Nat := fld e 24 40
def regHreg (e : Nat) : Nat := fld e 16 8
def regGroup (e : Nat) : Nat := fld e 4 2
def regSpace (e : Nat) : Nat := fld e 2 2
def regKeep (e : Nat) : Bool := decide (fld e 1 1 = 1)
def regValid (e : Nat) : Bool := decide (fld e 0 1 = 1)

/-- R215. -/
def regionOk (e : Nat) : Bool :=
  decide (regAddr e = 0) && decide (regSpace e ≠ 3) && (!regValid e ||
    (decide (1 ≤ regSize e) && decide (fld e 6 10 = 0) &&
      (if regSpace e = 0 then decide (regSize e ≤ Config.groupBytes) && decide (regHreg e = 0) else decide (regGroup e = 0))))

/-- Addresses of the scratchpad regions of a group in table order, each at the next 1 KiB boundary (R216); `at_` is the first
free address of each group. -/
def placeSpad : List Nat → (Nat → Nat) → List Nat
  | [], _ => []
  | e :: rest, at_ =>
    if regValid e && decide (regSpace e = 0) then
      let a := (at_ (regGroup e) + 1023) / 1024 * 1024
      a :: placeSpad rest (fun g => if g = regGroup e then a + regSize e else at_ g)
    else 0 :: placeSpad rest at_

/-- The scratchpad addresses of a core's regions. -/
def spadPlaces (b : List Byte) (c : Nat) : List Nat := placeSpad (coreRegions b c) (fun g => g * Config.groupBytes)

/-- R209, R215, R216: whole records (log entry 72), and room for every region in its group. -/
def regionsOk (b : List Byte) (c : Nat) : Bool :=
  let bs := (secOf b 5 c).getD []
  let l := coreRegions b c
  decide (bs.length % 16 = 0) && decide (l.length ≤ 64) && l.all regionOk &&
    (List.zip l (spadPlaces b c)).all (fun p =>
      !(regValid p.1 && decide (regSpace p.1 = 0)) || decide (p.2 + regSize p.1 ≤ (regGroup p.1 + 1) * Config.groupBytes))

/-- The HBM and flash regions of a heat by HREG, one entry each. -/
def heatRegions (b : List Byte) : List Nat :=
  let all := (imgCores b).flatMap (fun c => (coreRegions b c).filter (fun e => regValid e && decide (regSpace e ≠ 0)))
  (List.range 256).filterMap (fun h => all.find? (fun e => decide (regHreg e = h)))

/-- Entries of one HREG agree in SIZE, SPACE and FATE (R216). -/
def hregsAgree (b : List Byte) : Bool :=
  let hs := heatRegions b
  (imgCores b).all (fun c => (coreRegions b c).all (fun e =>
    !(regValid e && decide (regSpace e ≠ 0)) || hs.any (fun x => decide (regHreg x = regHreg e) &&
      decide (regSize x = regSize e) && decide (regSpace x = regSpace e) && decide (regKeep x = regKeep e))))

/-- R210. A record of another length than 288 bytes, or a START of 2^40 or more, is rejected too (log entry 72). -/
def taskOk (b : List Byte) (c : Nat) : Bool :=
  match secOf b 1 c with
  | none => true
  | some t =>
    decide (t.length = 288) && zeroAt t 17 15 && decide (taskStart t < 2 ^ 40) &&
      (heatCode b).any (fun p => decide (p.1 = taskFirst t)) &&
      (decide (taskStack t = 0xFF) ||
        (match (coreRegions b c)[taskStack t]? with
         | some e => regValid e && decide (regSpace e = 0)
         | none => false))

/-! Pour tables (R255 to R258). -/

/-- The records of a pour table, none when they run past the section. -/
def pourRecords : Nat → List Byte → Option (List (Nat × PourDesc))
  | 0, bs => if bs.isEmpty then some [] else none
  | fuel + 1, bs =>
    if bs.isEmpty then some []
    else
      let d : BitVec 1024 := BitVec.ofNat 1024 (leAt bs 8 128)
      let n := fld d.toNat 64 32
      let listed := decide (fld d.toNat 231 1 = 1)
      let len := 136 + 16 * (n + 1) + (if listed then 8 * n else 0)
      if bs.length < len ∨ zeroAt bs 2 6 = false then none
      else
        let p : PourDesc := {
          d := d
          index := (List.range (n + 1)).map (fun k => BitVec.ofNat 128 (leAt bs (136 + 16 * k) 16))
          list := if listed then (List.range n).map (fun k => leAt bs (136 + 16 * (n + 1) + 8 * k) 8) else [] }
        (pourRecords fuel (bs.drop len)).map (fun rest => (leAt bs 0 2, p) :: rest)

def corePours (b : List Byte) (c : Nat) : Option (List (Nat × PourDesc)) :=
  match secOf b 6 c with
  | some bs => pourRecords (bs.length + 1) bs
  | none => some []

/-- R255. -/
def pourDescOk (p : PourDesc) : Bool :=
  let sp := wordSpace p.src
  decide (p.get 368 656 = 0) && decide (p.get 235 21 = 0) && (decide (sp = 5) || decide (p.get 352 16 = 0)) &&
    decide (16 ≤ p.allow) && (if p.get 231 1 = 1 then decide (p.get 288 32 = 0) else decide (1 ≤ p.get 288 32)) &&
    decide (p.get 212 19 % 1024 = 0) && decide (p.get 212 19 + p.cap ≤ 0x80000) && decide (1024 ≤ p.cap) &&
    decide (p.cap % 1024 = 0) && decide (1 ≤ p.period) && decide (1 ≤ p.chunk) && decide (p.chunk ≤ p.cap) &&
    decide (1 ≤ p.nblk) && (decide (sp = 1) || decide (sp = 2) || decide (sp = 3) || decide (sp = 5))

/-- R256, R257 for one block. -/
def pourBlockOk (p : PourDesc) (k : Nat) : Bool :=
  let m := p.method k
  let f := p.fmt k
  let x := p.xsize k
  decide (fld (p.entry k) 95 33 = 0) && decide (p.soff k + 16 ≤ p.soff (k + 1)) && decide (m ≤ 4) && methodFmt m f &&
    (if p.point = 3 then decide (p.tsize k = p.clen k)
     else decide (p.tsize k = if 3 ≤ m then 0 else x)) &&
    (match m with
     | 0 => decide (x = p.clen k - 16) && decide (p.slot k = 0)
     | 1 => decide (x ≠ 0) && decide (x % (8 * ingotElem f) = 0)
     | 2 => decide (x ≠ 0) && decide (x % ingotElem f = 0)
     | _ => decide (x = 0)) && decide (x ≤ 16384)

/-- Listed removal offsets begin at 0 and rise (R258). -/
def risingFrom0 : List Nat → Bool
  | [] => true
  | a :: rest => decide (a = 0) && ((List.zip (a :: rest) rest).all (fun p => decide (p.1 < p.2)))

def pourOk (p : PourDesc) : Bool :=
  pourDescOk p && (List.range p.nblk).all (pourBlockOk p) && decide (p.entry p.nblk < 2 ^ 40) && risingFrom0 p.list

/-- The HBM or flash region that a pour's SRC names by HREG, none when SRC is an address (log entry 17). -/
def pourRegion (b : List Byte) (p : PourDesc) : Option Nat :=
  (heatRegions b).find? (fun e => decide (regHreg e = wordAddr p.src) && decide (regSpace e = wordSpace p.src))

/-- Every module of a stream at an address in flash is present (R302, R363). -/
def State.flashPresent (s : State) (p : PourDesc) : Bool :=
  let a := wordAddr p.src
  (List.range 4).all (fun m =>
    !s.isAbsent .flash m || decide (a + p.soff p.nblk ≤ m * 2 ^ 41) || decide ((m + 1) * 2 ^ 41 ≤ a)) &&
    decide (a + p.soff p.nblk ≤ 2 ^ 43)

/-- R255 to R258; a pour from space 3 needs a privileged partition (R304), one from flash modules that are present (R363). -/
def State.poursOk (s : State) (part : Nat) (b : List Byte) (c : Nat) : Bool :=
  match corePours b c with
  | none => false
  | some l => l.all (fun p => decide (p.1 < 256) && pourOk p.2 &&
      (decide (wordSpace p.2.src ≠ 3) || s.mgmt.priv.getLsbD part) &&
      (decide (wordSpace p.2.src ≠ 2) || (pourRegion b p.2).isSome || s.flashPresent p.2))

/-! Parting lines (R222). -/

def coreParts (b : List Byte) (c : Nat) : List PartLine :=
  (recordsOf 144 ((secOf b 7 c).getD [])).map (fun r =>
    let e := natOf r
    { cut := fld e 0 12, livem := BitVec.ofNat 32 (fld e 96 32), livev := BitVec.ofNat 1024 (fld e 128 1024) })

/-- R209, R222: whole records (log entry 72). -/
def partsOk (b : List Byte) (c : Nat) : Bool :=
  let bs := (secOf b 7 c).getD []
  decide (bs.length % 144 = 0) && (recordsOf 144 bs).all (fun r => decide (fld (natOf r) 12 84 = 0))

/-! Triggers and groups (R217, R220). -/

def imgTriggers (b : List Byte) : List (Nat × Trigger) :=
  (List.zip (List.range 256) (recordsOf 16 ((secOf b 8 0xFFFF).getD []))).filterMap (fun p =>
    let e := natOf p.2
    if fld e 0 1 = 1 then
      some (p.1, { queue := fld e 32 16 % 2048, token := BitVec.ofNat 32 (fld e 64 32), fired := false })
    else none)

def imgGroups (b : List Byte) : List Group :=
  (recordsOf 64 ((secOf b 9 0xFFFF).getD [])).map (fun r =>
    let e := natOf r
    { g := fld e 0 8, kind := fld e 160 2, n := fld e 128 32, mask := BitVec.ofNat 256 (fld e 256 256),
      cdly := fld e 176 16, cbase := fld e 192 64 })

/-- The cores of a group. -/
def groupCores (g : Group) : List Nat := (List.range 256).filter (fun c => g.mask.getLsbD c)

def groupOk (cores : List Nat) (g : Group) : Bool :=
  (decide (g.kind = 1) || decide (g.kind = 2)) && decide (16 ≤ g.cdly) && (groupCores g).all (fun c => cores.contains c)

/-- Group numbers are unique (R217). -/
def groupsOnce : List Group → Bool
  | [] => true
  | g :: rest => rest.all (fun x => decide (x.g ≠ g.g)) && groupsOnce rest

/-- R209, R217: whole records (log entry 72). -/
def groupsOk (b : List Byte) (cores : List Nat) : Bool :=
  let bs := (secOf b 9 0xFFFF).getD []
  decide (bs.length % 64 = 0) && (imgGroups b).all (groupOk cores) && groupsOnce (imgGroups b)

/-- A spatial entry of a core's loop table names a group of its KIND that holds the core, with COUNT 0 (R217). -/
def spatialOk (b : List Byte) (c : Nat) : Bool :=
  (coreLoops b c).all (fun p =>
    let e := p.2.toNat
    let kind := fld e 38 2
    decide (kind = 0) || (decide (fld e 0 32 = 0) && (imgGroups b).any (fun g =>
      decide (g.g = fld e 64 32) && decide (g.kind = kind) && g.mask.getLsbD c)))

/-- P and p of a core in a group (R217). -/
def groupShare (g : Group) (c : Nat) : Nat × Nat :=
  if g.kind = 1 then ((groupCores g).length, ((groupCores g).filter (fun x => decide (x < c))).length)
  else
    let dies := (List.range 4).filter (fun d => (groupCores g).any (fun x => decide (x / 64 = d)))
    (dies.length, (dies.filter (fun d => decide (d < c / 64))).length)

/-- A loop-table entry after the loader's distribution (R217). -/
def distribute (groups : List Group) (c : Nat) (e : BitVec 192) : BitVec 192 :=
  let x := e.toNat
  if fld x 38 2 = 0 then e
  else
    match groups.find? (fun g => decide (g.g = fld x 64 32)) with
    | none => e
    | some g =>
      let (pp, p) := groupShare g c
      let count := if p < g.n then (g.n - p + pp - 1) / pp else 0
      BitVec.ofNat 192 (putField (putField (putField x 0 32 count) 64 32 p) 96 32 pp)

/-! Channel timelines (R284 to R286, R293). -/

/-- R284. -/
def timelineHeaderOk (h : Nat) (len : Nat) : Bool :=
  decide (fld h 0 16 = 0x7C3D) && decide (fld h 224 32 = 0) && decide (64 ≤ fld h 144 16) &&
    decide (fld h 144 16 ≤ fld h 128 16 * 64) && decide (len = 32 + 16 * fld h 160 32 + 16 * fld h 192 32)

/-- R285, R286. -/
def entryOk (e : Nat) : Bool :=
  let op := entOp e
  let col := decide (op = 2) || decide (op = 3)
  decide (1 ≤ op) && decide (op ≤ 7) && decide (fld e 80 4 = 0) && decide (fld e 64 6 = 0) && decide (fld e 32 7 = 0) &&
    (if col then decide (entUse e ≤ 1) else decide (entCore e = 0) && decide (entUse e = 0) && decide (entCol e = 0)) &&
    (match op with
     | 1 | 2 | 3 => decide (entArg e = 0)
     | 4 => decide (entArg e = 0) && decide (entRow e = 0)
     | 5 => decide (fld e 14 18 = 0) && decide (entRow e = 0)
     | 6 => decide (entArg e = 0) && decide (4 ≤ entRow e) && decide (entRow e ≤ 4096)
     | _ => decide (entBank e = 0) && decide (16 ≤ entRow e))

/-- The class of a command (R286): row 1, column 2, slot 3. -/
def entClass (e : Nat) : Nat := match entOp e with | 2 | 3 => 2 | 7 => 3 | _ => 1

/-- CYCLE never decreases, and a cycle holds at most one command of a class; slots do not overlap (R286). -/
def entriesOk : List Nat → Nat → Nat → Bool
  | [], _, _ => true
  | e :: rest, prev, svcEnd =>
    decide (prev ≤ entCycle e) && (decide (entOp e ≠ 7) || decide (svcEnd ≤ entCycle e)) &&
      (decide (entClass e = 3) || (rest.takeWhile (fun x => decide (entCycle x = entCycle e))).all (fun x =>
        decide (entClass x ≠ entClass e))) &&
      entriesOk rest (entCycle e) (if entOp e = 7 then entCycle e + entRow e else svcEnd)

/-- The channel once every refresh deadline before heat cycle t has passed: a group inside an elision interval is stale then;
none when a group outside one misses its deadline (R288, R293, R294). -/
def Channel.expireTo (tl : Timeline) (x : Channel) (t : Nat) : Option Channel :=
  if t ≤ tREFW then some x
  else
    let at_ := fun (k : Nat) => sget (x.refreshed + tREFW) x.deadline k
    let due := (List.range (32 * 8192)).filter (fun k => decide (at_ k < t) && !x.stale.contains k)
    if due.all (fun k => tl.elided (k / 8192) (k % 8192) (at_ k)) then some { x with stale := x.stale ++ due } else none

/-- The first entry of a timeline, from number `i` on, that breaks a rule of R287 or R288, with the rule; a deadline missed is
named with the entry that follows it (R289). -/
def ruleFault (tl : Timeline) : Nat → List Nat → Channel → Option (Nat × Nat)
  | i, [], x => if (x.expireTo tl (tl.end_ + 1)).isNone then some (i, 19) else none
  | i, e :: rest, x =>
    match x.expireTo tl (entCycle e) with
    | none => some (i, 19)
    | some x1 =>
      match ruleBroken x1 (entOp e) (entBank e) (entRow e) (entArg e) (entCycle e) with
      | some (rule, _) => some (i, rule)
      | none => ruleFault tl (i + 1) rest (x1.issue e (entCycle e))

/-- Slot cycles in the window of w cycles from heat cycle lo on, those before heat cycle 0 and after END among them (R291). -/
def slotCycles (end_ : Nat) (slots : List (Nat × Nat)) (lo : Int) (w : Nat) : Int :=
  let hi := lo + w - 1
  slots.foldl (fun n p => n + max 0 (min (min (p.2 : Int) hi) end_ - max (p.1 : Int) lo + 1))
    (max 0 (min hi (-1) - lo + 1) + max 0 (hi - max lo ((end_ : Int) + 1) + 1))

/-- Every window of SVCB cycles holds SVCA slot cycles (R291). The count changes its course only where an edge of the window
passes an edge of a slot or of the timeline, so the windows that begin or end there decide. -/
def shareOk (end_ svca svcb : Nat) (es : List Nat) : Bool :=
  let slots := (es.filter (fun e => decide (entOp e = 7))).map (fun e => (entCycle e, entCycle e + entRow e - 1))
  let edges := 0 :: (end_ + 1) :: slots.flatMap (fun p => [p.1, p.2 + 1])
  edges.all (fun x => decide ((svca : Int) ≤ slotCycles end_ slots x svcb) &&
    decide ((svca : Int) ≤ slotCycles end_ slots ((x : Int) - svcb) svcb))

/-- The timeline of a channel. -/
def parseTimeline (ch : Nat) (bs : List Byte) : Timeline :=
  let h := leAt bs 0 32
  let n := fld h 160 32
  let es := (recordsOf 16 (bs.drop 32)).map (fun r => BitVec.ofNat 128 (natOf r))
  { ch := ch, end_ := fld h 64 64, entries := es.take n, elide := es.drop n }

def imgTimelines (b : List Byte) : List Timeline :=
  ((sectionsOf b).filter (fun x => decide (x.typ = 10))).map (fun x => parseTimeline x.unit_ (secBytes b x))

def timelineOk (bs : List Byte) : Bool :=
  let h := leAt bs 0 32
  let n := fld h 160 32
  let es := (recordsOf 16 (bs.drop 32)).map natOf
  decide (32 ≤ bs.length) && timelineHeaderOk h bs.length && (es.take n).all entryOk && entriesOk (es.take n) 0 0 &&
    (ruleFault (parseTimeline 0 bs) 0 (es.take n) channelReset).isNone &&
    (es.drop n).all (fun e => decide (fld e 30 13 ≤ fld e 17 13) && decide (fld e 88 40 < fld e 48 40)) &&
    shareOk (fld h 64 64) (fld h 128 16) (fld h 144 16) (es.take n)

def timelinesOk (b : List Byte) : Bool :=
  (sectionsOf b).all (fun x => decide (x.typ ≠ 10) || timelineOk (secBytes b x))

/-! Region data and address words (R209, R216, R374). -/

/-- A region by the UNIT and number of a region-data section or an address-word record: its entry, and its core and position
when it lies in a scratchpad. -/
def findRegion (b : List Byte) (unit_ num : Nat) : Option Nat :=
  if unit_ = 0xFFFF then (heatRegions b).find? (fun e => decide (regHreg e = num))
  else
    match (coreRegions b unit_)[num]? with
    | some e => if regValid e && decide (regSpace e = 0) then some e else none
    | none => none

/-- The channel, the entry and the rule of the first timeline that breaks one (R289). -/
def imgRuleFault (b : List Byte) : Option (Nat × Nat × Nat) :=
  (imgTimelines b).findSome? (fun t =>
    (ruleFault t 0 (t.entries.map (fun e => e.toNat)) channelReset).map (fun f => (t.ch, f)))

/-- Region data lies within its region (R209, log entry 72). -/
def dataOk (b : List Byte) (x : Section) : Bool :=
  let d := secBytes b x
  match findRegion b x.unit_ (leAt d 0 1) with
  | some e => decide (16 ≤ d.length) && zeroAt d 1 7 && decide (leAt d 8 8 + (d.length - 16) ≤ regSize e)
  | none => false

/-- The address-word records of an image. -/
def imgWords (b : List Byte) : List (List Byte) :=
  ((sectionsOf b).filter (fun x => decide (x.typ = 13))).flatMap (fun x => recordsOf 32 (secBytes b x))

/-- A group has a completion bitmap: its own address word, or one that the loader writes (R217, R374). -/
def groupHasBits (b : List Byte) (g : Group) : Bool :=
  decide (g.cbase ≠ 0) || (imgWords b).any (fun r => decide (leAt r 0 2 = 0xFFFE) && decide (leAt r 2 1 = g.g))

/-- R374. A CORE other than 0xFFFF for space 1 or 2 and a bitmap record of another space or offset are rejected too (log entry 72).
-/
def wordOk (b : List Byte) (r : List Byte) : Bool :=
  let unit_ := leAt r 0 2
  let space := leAt r 3 1
  let core := leAt r 4 2
  let target := leAt r 6 1
  let tgt := if space = 0 then
      (match (coreRegions b core)[target]? with
       | some e => regValid e && decide (regSpace e = 0) && decide (core < 256)
       | none => false)
    else decide (core = 0xFFFF) && (heatRegions b).any (fun e => decide (regHreg e = target) && decide (regSpace e = space))
  decide (r.length = 32) && zeroAt r 7 1 && zeroAt r 16 16 && decide (space ≤ 2) && tgt &&
    (if unit_ = 0xFFFE then
       decide (space = 1) && decide (leAt r 8 8 = 0) && (imgGroups b).any (fun g => decide (g.g = leAt r 2 1))
     else
       match findRegion b unit_ (leAt r 2 1) with
       | some e => decide (leAt r 8 8 + 8 ≤ regSize e)
       | none => false)

/-- The address of a heat-wide region. -/
def placeOf (l : List (Nat × Nat)) (h : Nat) : Nat := (sfind l h).getD 0

/-- The address word of a record (R374). -/
def wordValue (b : List Byte) (place : List (Nat × Nat)) (r : List Byte) : Nat :=
  let space := leAt r 3 1
  let target := leAt r 6 1
  let a := if space = 0 then (spadPlaces b (leAt r 4 2)).getD target 0 else placeOf place target
  space * 2 ^ 60 + a

/-- What a region holds after its data sections and its address words, by offset. -/
def regionContent (b : List Byte) (place : List (Nat × Nat)) (unit_ num : Nat) : Memory :=
  let m := (sectionsOf b).foldl (fun (m : Memory) x =>
    let d := secBytes b x
    if x.typ = 11 ∧ x.unit_ = unit_ ∧ leAt d 0 1 = num then Memory.writeBytes m (leAt d 8 8) (d.drop 16) else m) []
  (imgWords b).foldl (fun (m : Memory) r =>
    if leAt r 0 2 = unit_ ∧ leAt r 2 1 = num then
      Memory.writeBytes m (leAt r 8 8) (bytesOf 8 (wordValue b place r))
    else m) m

/-- Every core-level check of the tables. -/
def State.coreTablesOk (s : State) (part : Nat) (b : List Byte) (c : Nat) : Bool :=
  taskOk b c && dictOk b c && codeOk b c && loopsOk b c && regionsOk b c && s.poursOk part b c && partsOk b c && spatialOk b c

/-! The save area (R375). -/

/-- Set bits of a number among its low n. -/
def bitCount (n x : Nat) : Nat := ((List.range n).filter (fun i => decide (fld x i 1 = 1))).length

/-- N (R375): what each core's tables keep, whether or not it has a task, and 64 KiB for each core of the heat. -/
def saveSize (b : List Byte) : Nat :=
  let per := (List.range Config.cores).foldl (fun acc c =>
    let keep := (coreRegions b c).foldl (fun a e =>
      if regValid e && decide (regSpace e = 0) && regKeep e then a + regSize e else a) 0
    let vs := (coreParts b c).foldl (fun m p => max m (bitCount 1024 p.livev.toNat)) 0
    let ms := (coreParts b c).foldl (fun m p => max m (bitCount 32 p.livem.toNat)) 0
    acc + (if (imgCores b).contains c then 65536 else 0) + keep + 1024 * vs + 8448 * ms) 0
  (per + 65535) / 65536 * 65536

/-! The signature (R346). -/

/-- The image with the bytes of its signature section counted as zeros. -/
def unsignedImage (b : List Byte) : List Byte :=
  match (sectionsOf b).find? (fun x => decide (x.typ = 12)) with
  | some x => b.take x.off ++ zeros x.len ++ b.drop (x.off + x.len)
  | none => b

/-- The signed message. -/
def imageDigest (b : List Byte) : BitVec 512 := Config.shake256 (unsignedImage b)

/-- The signature of a heat satisfies its partition (R346). -/
def State.signatureOk (s : State) (part : Nat) (b : List Byte) : Bool :=
  match secOf b 12 0xFFFF with
  | none => !s.mgmt.reqsig.getLsbD part
  | some g =>
    let key := g.take 68
    decide (g.length = 2892) && zeroAt g 68 4 && !(zeroAt g 0 68) &&
      (List.range 4).any (fun j => decide ((sget 0 s.mgmt.trust (4 * part + j)).toNat = natOf key)) &&
      Config.xmssVerify key (imageDigest b) (g.drop 72)

/-! Shape and presence (R315, R363). -/

/-- SHAPE fits the partition (R315). -/
def State.shapeFits (s : State) (part : Nat) (b : List Byte) : Bool :=
  let oneDie := decide (fld (imgShape b) 0 1 = 1)
  if s.mgmt.pmode = 0 then decide (part = 0) && !oneDie
  else oneDie && decide (fld (imgShape b) 1 2 = part)

/-- Cores and channels that the image names belong to the partition and are present (R209, R315, R363). -/
def State.unitsPresent (s : State) (part : Nat) (b : List Byte) : Bool :=
  (imgCores b).all (fun c => decide (s.partOf c = part) && !s.mgmt.absent.contains (.core, c)) &&
    (imgGroups b).all (fun g => (groupCores g).all (fun c => !s.mgmt.absent.contains (.core, c))) &&
    (imgTimelines b).all (fun t => decide (s.chanPart t.ch = part) && !s.mgmt.absent.contains (.channel, t.ch))

end Sys2Proof.Machine
end

