-- ==== Sys2Proof/Machine/LoadChecks.lean ====
section
/-! DEFINITION. The heat loader's checks of code and of command records (R66, R91, R93, R103, R107, R111, R115, R120, R179,
R202, R218, R222, R223, R226, R249). The segments of each core are expanded along its chain and checked bundle by bundle; the
checks over execution paths follow the edges that branches, calls and returns can take. What the code alone does not decide is
one predicate of Config (log entry 22). -/

namespace Sys2Proof.Machine

/-! Segments (R88, R91, R96). -/

/-- A segment of a core's chain: its bundles, LAST and NEXT, the record its expansion ends in, and whether it was expanded to
its end without one. -/
structure Seg where
  va : Nat
  bundles : List Bundle
  last : Bool
  next : Nat
  rec_ : Option ExpRecord
  whole : Bool
deriving DecidableEq, Repr

/-- The segments up to the first that is not whole. -/
def cutChain : List Seg → List Seg
  | [] => []
  | x :: rest => if x.whole then x :: cutChain rest else [x]

/-- The segments of a core, expanded. -/
def coreSegs (b : List Byte) (c : Nat) : List Seg :=
  let code := heatCode b
  let dict := coreDict b c
  let look := fun t => (dict.find? (fun p => decide (p.1 = t))).map (fun p => p.2)
  cutChain ((coreChain b c).eraseDups.map (fun va =>
    let bs := codeFrom code (code.length + 1) va
    let e := expandSegment look va bs
    { va := va, bundles := e.bundles, last := decide (16 ≤ bs.length) && decide (leAt bs 2 1 % 2 = 1), next := leAt bs 8 8 % 2 ^ 60,
      rec_ := e.stop.getD none,
      whole := decide (e.stop = some none) }))

/-- No illegal token, no unloaded entry, no reserved bit in a descriptor (R91), and at most 1024 bundles (R93). -/
def tokensOk (l : List Seg) : Bool :=
  l.all (fun x => match x.rec_ with | some r => !(r.token || decide (r.cause = 5)) | none => true)

/-! Bundles in segment order. -/

def ctlOf (x : Bundle) : Option Instr := decodeSyl .ctl (syl x .ctl)
def scaOf (x : Bundle) : Option Instr := decodeSyl .sca (syl x .sca)
def memOf (x : Bundle) : Option Instr := decodeSyl .mem (syl x .mem)

/-- The PART bit, the RESTART bit and CUT of a bundle's header (R70). -/
def partBit (x : Bundle) : Bool := decide (fld x.toNat 7 1 = 1)
def markBit (x : Bundle) : Bool := decide (fld x.toNat 6 1 = 1)
def cutField (x : Bundle) : Nat := fld x.toNat 8 12

/-- A bundle in its place: its segment's number in the chain, its position. -/
structure Place where
  seg : Nat
  pos : Nat
  x : Bundle
deriving DecidableEq, Repr

/-- Every bundle of a core in segment order. -/
def flatCode (l : List Seg) : List Place :=
  l.zipIdx.flatMap (fun p => p.1.bundles.zipIdx.map (fun q => { seg := p.2, pos := q.2, x := q.1 }))

/-- The number in segment order of a segment's first bundle. -/
def segStart (l : List Seg) (n : Nat) : Nat := (l.take n).foldl (fun a x => a + x.bundles.length) 0

/-- The segment that follows one in its chain: the next one, or the earlier one to which NEXT leads back. -/
def nextSeg (l : List Seg) (n : Nat) : Option Nat :=
  match l[n]? with
  | none => none
  | some x =>
    if x.last || !x.whole then none
    else if n + 1 < l.length then some (n + 1)
    else l.findIdx? (fun y => decide (y.va = x.next))

/-- The number of the bundle that follows bundle `i` straight on, across the end of its segment too (R95). -/
def bundleAfter (l : List Seg) (fl : List Place) (i : Nat) : Option Nat :=
  match fl[i]?, fl[i + 1]? with
  | some _, some _ => some (i + 1)
  | some p, none => (nextSeg l p.seg).map (segStart l)
  | none, _ => none

/-! Loops (R66, R103, R107, R111). -/

/-- A `LOOP` in its place with its loop-table entry: the first bundle of its body and the body's length, its stage count, its
cut stride, its kernel iterations when the heat fixes them (R108), the most it runs where the code says so (R113), the index of its first source iteration and the step between
indices (R110), and the delay of its completion bits when one core alone sets them (R218). -/
structure Body where
  seg : Nat
  pos : Nat
  lvl : Nat
  len : Nat
  stages : Nat
  stride : Nat
  iters : Option Nat
  most : Option Nat
  base : Nat
  step : Nat
  cdly : Option Nat
deriving DecidableEq, Repr

/-- A position lies in a body. -/
def Body.holds (y : Body) (p : Place) : Bool :=
  decide (p.seg = y.seg) && decide (y.pos < p.pos) && decide (p.pos ≤ y.pos + y.len)

/-- The first bundle of a body. -/
def Body.first (y : Body) (p : Place) : Bool := decide (p.seg = y.seg) && decide (p.pos = y.pos + 1)

/-- Kernel iterations of a loop of N source iterations and S stages (R108). -/
def kernelIters (n s : Nat) : Nat := if n = 0 then 0 else n + s - 1

/-- The syllable can be disabled, or enabled only at times (R32). -/
def conditional (g : Gate) : Bool := decide (g.pred ≠ 0) || decide (g.stage ≠ 0)

/-- The kernel iterations that a `LEXIT` of a place leaves a loop of S stages at most: one whose predicate cannot disable it runs in
the first kernel iteration of its stage (R32, R113). -/
def exitAfter (lvl stages : Nat) (p : Place) : Option Nat :=
  match ctlOf p.x with
  | some (.lexit g l) => if g.pred = 0 ∧ l.toNat = lvl then some (g.stage.toNat + stages) else none
  | _ => none

/-- The lesser of two bounds, none standing for no bound. -/
def lesser : Option Nat → Option Nat → Option Nat
  | some a, some b => some (min a b)
  | some a, none => some a
  | none, x => x

/-- The bodies of a core; a `LOOP` whose entry the image does not supply has none. -/
def bodiesOf (b : List Byte) (c : Nat) (fl : List Place) : List Body :=
  let loops := coreLoops b c
  let groups := imgGroups b
  fl.filterMap (fun p =>
    match ctlOf p.x with
    | some (.loop _ cnt lte body lvl) =>
      (loops.find? (fun q => decide (q.1 = lte.toNat))).map (fun q =>
        let e := (distribute groups c q.2).toNat
        let iters := if cnt = 0 then some (kernelIters (fld e 0 32) (fld e 32 4)) else none
        let inside := fl.filter (fun r => decide (r.seg = p.seg) && decide (p.pos < r.pos) && decide (r.pos ≤ p.pos + body.toNat + 1))
        { seg := p.seg, pos := p.pos, lvl := lvl.toNat, len := body.toNat + 1, stages := fld e 32 4, stride := fld e 40 12,
          iters := iters, most := (inside.map (exitAfter lvl.toNat (fld e 32 4))).foldl lesser iters,
          base := fld e 64 32, step := fld e 96 32,
          cdly := ((groups.find? (fun g => decide (fld q.2.toNat 38 2 = 1) && decide (g.g = fld q.2.toNat 64 32) &&
            decide (g.kind = 1) && groupHasBits b g))).map (fun g => g.cdly) })
    | _ => none)

/-- The innermost body that holds a place: the one whose `LOOP` stands last. -/
def innermost (l : List Body) (p : Place) : Option Body :=
  (l.filter (fun y => y.holds p)).foldl (fun m y =>
    match m with
    | some z => if z.pos < y.pos then some y else m
    | none => some y) none

/-- The `LOOP` syllables of a core keep R93, R107 and R111; a `LEXIT` that no body holds is rejected (log entry 23). -/
def loopPlaceOk (b : List Byte) (c : Nat) (segs : List Seg) (bodies : List Body) (p : Place) : Bool :=
  match ctlOf p.x with
  | some (.loop g cnt lte body lvl) =>
    let entry := (coreLoops b c).find? (fun q => decide (q.1 = lte.toNat))
    let outer := bodies.filter (fun y => y.holds p)
    (match entry with
     | some q => decide (fld q.2.toNat 38 2 = 0) || decide (cnt = 0)
     | none => false) &&
      decide (g.pred = 0) && decide (g.stage = 0) &&
      decide (p.pos + body.toNat + 1 < ((segs.map (fun x => x.bundles.length)).getD p.seg 0)) &&
      outer.all (fun y => decide (y.lvl ≠ lvl.toNat) && decide (y.stages ≤ 1))
  | some (.lexit _ lvl) =>
    (match innermost bodies p with
     | some y => decide (y.lvl = lvl.toNat)
     | none => false)
  | _ => true

/-- An instruction that may not stand in a delay bundle (R103). -/
def noDelay (x : Bundle) : Bool :=
  match ctlOf x with
  | some (.br ..) | some (.call ..) | some (.bri ..) | some (.calli ..) | some (.ret ..) | some (.loop ..) | some (.halt ..)
  | some (.waitd ..) | some (.waita ..) | some (.align ..) => true
  | _ => false

/-- An instruction that may not stand in a loop body (R103). -/
def noBody (x : Bundle) : Bool :=
  match ctlOf x with
  | some (.br ..) | some (.call ..) | some (.bri ..) | some (.calli ..) | some (.ret ..) | some (.halt ..) | some (.waita ..)
  | some (.align ..) => true
  | _ => false

/-- A branch-class instruction (R101). -/
def isBranch (x : Bundle) : Bool :=
  match ctlOf x with
  | some (.br ..) | some (.call ..) | some (.bri ..) | some (.calli ..) | some (.ret ..) => true
  | _ => false

/-- R66 and R103 for a bundle in loop bodies. A mark on the first bundle of an inner body is rejected unless that bundle is the first
of every body that holds it (log entry 73). -/
def bodyPlaceOk (bodies : List Body) (p : Place) : Bool :=
  (bodies.filter (fun y => y.holds p)).all (fun y => (y.first p || !(partBit p.x || markBit p.x)) && !noBody p.x)

/-- R103: no control instruction in the two bundles that follow a branch. -/
def delayOk (segs : List Seg) (fl : List Place) : Bool :=
  let clean := fun (i : Option Nat) => match i.bind (fun j => fl[j]?) with | some q => !noDelay q.x | none => true
  fl.zipIdx.all (fun p => !isBranch p.1.x ||
    (let j := bundleAfter segs fl p.2
     clean j && clean (j.bind (bundleAfter segs fl))))

/-- A `BR` or `CALL` names a bundle of the current or the next segment (R93). -/
def targetOk (segs : List Seg) (seg idx : Nat) (next : Bool) : Bool :=
  match (if next then nextSeg segs seg else some seg).bind (fun n => segs[n]?) with
  | some x => decide (idx < x.bundles.length)
  | none => match segs[seg]? with | some x => !x.last | none => false

/-- R93 (branch targets), R115 and R179 for one bundle. -/
def State.namesInHeat (s : State) (part : Nat) (b : List Byte) (segs : List Seg) (p : Place) : Bool :=
  (match ctlOf p.x with
   | some (.br _ idx seg) => targetOk segs p.seg idx.toNat seg
   | some (.call _ idx seg) => targetOk segs p.seg idx.toNat seg
   | some (.trig _ n) => (imgTriggers b).any (fun t => decide (t.1 = n.toNat))
   | _ => true) &&
    (match memOf p.x with
     | some (.vstn _ _ _ core) => decide (s.partOf core.toNat = part) && !s.mgmt.absent.contains (.core, core.toNat)
     | _ => true)

/-- The CUT bases of a core's parting lines have entries, and no two lines share one (R222). -/
def cutsOk (parts : List PartLine) (fl : List Place) : Bool :=
  let cuts := (fl.filter (fun p => partBit p.x)).map (fun p => cutField p.x)
  cuts.all (fun n => parts.any (fun e => decide (e.cut = n))) && decide (cuts.eraseDups.length = cuts.length)

/-! Execution paths. The control transfer of a branch leaves its second delay bundle (R101). -/

/-- A bundle on a path by its number, its place among the delay bundles of a branch (0 for none, 1 for the first, 2 for the
second) with the number of that branch, where the calls under way return to, innermost first, and for how many more calls the
stack has room (R105). -/
structure PathNode where
  num : Nat
  delay : Nat
  branch : Nat
  calls : List Nat
  room : Nat
deriving DecidableEq, Repr

/-- A bundle with no delay bundles before it. -/
def plainNode (num : Nat) (calls : List Nat) (room : Nat) : PathNode :=
  { num := num, delay := 0, branch := 0, calls := calls, room := room }

/-- Calls under way that a path keeps account of; a path with more of them ends. -/
def maxCalls : Nat := 64

/-- The calls that the stack of a core's launch values has room for (R104, R105), at most `maxCalls`; as many where the code may
move the stack with `SWR`. -/
def callRoom (b : List Byte) (c : Nat) (fl : List Place) : Nat :=
  let moves := fl.any (fun p => match scaOf p.x with | some (.swr ..) => true | _ => false)
  let t := (secOf b 1 c).getD []
  let size := if taskStack t = 0xFF then 0 else regSize ((coreRegions b c).getD (taskStack t) 0)
  if moves then maxCalls else min maxCalls (size / 16)

/-- The number of the bundle that a `BR` or `CALL` of segment `seg` names (R93, R101). -/
def namedTarget (segs : List Seg) (seg idx : Nat) (next : Bool) : List Nat :=
  match (if next then nextSeg segs seg else some seg) with
  | some n => [segStart segs n + idx]
  | none => []

/-- Where a branch of bundle `q` can lead once its delay bundles have issued, with the calls then under way (R101, R102, R105):
every bundle of the two segments for a register target, the bundle after the innermost call's delay bundles for a return.
`after` is the bundle that follows the second delay bundle; where it lies beyond the next segment the call's record names no
bundle (R105), and the path ends with the return (log entry 71). -/
def branchTargets (segs : List Seg) (fl : List Place) (q : Place) (after : Option Nat) (n : PathNode) : List PathNode :=
  let near := (List.range fl.length).filter (fun i =>
    match fl[i]? with
    | some p => decide (p.seg = q.seg) || decide (nextSeg segs q.seg = some p.seg)
    | none => false)
  let called := fun (l : List Nat) =>
    match after with
    | some a =>
      let back := match fl[a]? with
        | some p => if p.seg = q.seg ∨ nextSeg segs q.seg = some p.seg then a else fl.length
        | none => fl.length
      if 0 < n.room then l.map (fun i => plainNode i (back :: n.calls) (n.room - 1)) else []
    | none => []
  match ctlOf q.x with
  | some (.br _ idx nx) => (namedTarget segs q.seg idx.toNat nx).map (fun i => plainNode i n.calls n.room)
  | some (.call _ idx nx) => called (namedTarget segs q.seg idx.toNat nx)
  | some (.bri ..) => near.map (fun i => plainNode i n.calls n.room)
  | some (.calli ..) => called near
  | some (.ret ..) => match n.calls with | i :: rest => [plainNode i rest (n.room + 1)] | [] => []
  | _ => []

/-- The gate of a CTL syllable that ends the straight way: a branch or `HALT`. -/
def leaves (x : Bundle) : Option Gate :=
  match ctlOf x with
  | some (.br g _ _) | some (.call g _ _) | some (.bri g _) | some (.calli g _) | some (.ret g) | some (.halt g) => some g
  | _ => none

/-- The straight way stays open after a bundle: it neither branches nor halts whatever its predicate. -/
def stays (x : Bundle) : Bool := match leaves x with | some g => conditional g | none => true

/-- A call that its predicate cannot disable finds no room in the stack and traps (R105): the path ends there. -/
def overflows (x : Bundle) (n : PathNode) : Bool :=
  match ctlOf x with
  | some (.call g ..) | some (.calli g _) => !conditional g && decide (n.room = 0)
  | _ => false

/-- A `TRAP` that runs whatever its predicate: nothing issues after it (R116, R241). -/
def trapsAlways (x : Bundle) : Bool := match ctlOf x with | some (.trap g _) => !conditional g | _ => false

/-- The nodes that can issue after a node. -/
def nodeAfter (segs : List Seg) (fl : List Place) (n : PathNode) : List PathNode :=
  match fl[n.num]? with
  | none => []
  | some p =>
    let after := bundleAfter segs fl n.num
    let on := fun (d br : Nat) =>
      match after with
      | some i => [{ n with num := i, delay := d, branch := br }]
      | none => []
    if trapsAlways p.x then []
    else if n.delay = 2 then
      match fl[n.branch]? with
      | some q => (if stays q.x then on 0 0 else []) ++
          (branchTargets segs fl q after n).filter (fun m => decide (m.num < fl.length))
      | none => []
    else if n.delay = 1 then on 2 n.branch
    else if overflows p.x n then []
    else if isBranch p.x then on 1 n.num
    else if stays p.x then on 0 0
    else []

/-- Rounds that a search of the paths may take. -/
def pathRounds (fl : List Place) : Nat := (6 * fl.length + 1) * (maxCalls + 1)

/-- Everything reached from a frontier; `fuel` bounds the rounds. -/
def reachFrom {α : Type} [DecidableEq α] (next : α → List α) : Nat → List α → List α → List α
  | 0, seen, _ => seen
  | fuel + 1, seen, front =>
    let new := (front.flatMap next).eraseDups.filter (fun x => !seen.contains x)
    if new.isEmpty then seen else reachFrom next fuel (seen ++ new) new

/-! The static and the dynamic domain (R120, R202). -/

/-- A node with its domain: true for the dynamic one. -/
abbrev DomNode := PathNode × Bool

/-- The domains after a bundle (R118, R119). One that its gate may disable leaves both (log entry 23). -/
def domAfter (x : Bundle) (dyn : Bool) : List Bool :=
  match ctlOf x with
  | some (.waita g _) => if conditional g then [dyn, true] else [true]
  | some (.align g _) => if conditional g then [dyn, false] else [false]
  | _ => [dyn]

/-- The nodes with domains that can issue after one. -/
def domNext (segs : List Seg) (fl : List Place) (n : DomNode) : List DomNode :=
  match fl[n.1.num]? with
  | some p => (domAfter p.x n.2).flatMap (fun d => (nodeAfter segs fl n.1).map (fun m => (m, d)))
  | none => []

/-- What may stand in a bundle that can issue in a domain (R120, R202). -/
def domainAllows (x : Bundle) (dyn : Bool) : Bool :=
  if dyn then
    !(partBit x || markBit x) && (match ctlOf x with | some (.waitd ..) => false | _ => true) &&
      (match memOf x with | some (.vstn ..) => false | _ => true)
  else match memOf x with | some (.fence ..) => false | _ => true

/-- Every node that a path of a core reaches, in its domain; a path begins in the static one (R214). -/
def domNodes (segs : List Seg) (fl : List Place) (room : Nat) : List DomNode :=
  let start : List DomNode := if fl.isEmpty then [] else [(plainNode 0 [] room, false)]
  reachFrom (domNext segs fl) (pathRounds fl) start start

/-- R120, R202. -/
def domainsOk (segs : List Seg) (fl : List Place) (room : Nat) : Bool :=
  (domNodes segs fl room).all (fun n =>
    match fl[n.1.num]? with
    | some p => domainAllows p.x n.2
    | none => true)

/-! Effective cuts (R112, R223). -/

/-- The least and the greatest effective cut of a parting line, none when its loop never runs a kernel iteration; a `LEXIT` that
always runs bounds the iterations (R113). -/
def cutRange (bodies : List Body) (p : Place) : Option (Nat × Nat) :=
  match innermost bodies p with
  | none => some (cutField p.x, cutField p.x)
  | some y =>
    match y.most with
    | some 0 => none
    | some (j + 1) => some (cutField p.x, cutField p.x + j * y.stride)
    | none => some (cutField p.x, cutField p.x)

/-- The line at a place can part, with its range. -/
def lineAt (bodies : List Body) (fl : List Place) (i : Nat) : Option (Nat × Nat) :=
  match fl[i]? with
  | some p => if partBit p.x then cutRange bodies p else none
  | none => none

/-- R223 for one place: a counted stride, an effective cut of at most 4095, and one kernel iteration where every iteration
has the same cut. -/
def linePlaceOk (bodies : List Body) (p : Place) : Bool :=
  !partBit p.x ||
    (match innermost bodies p with
     | none => true
     | some y => if y.stride = 0 then (match y.most with | some n => decide (n ≤ 1) | none => false) else true) &&
    (match cutRange bodies p with
     | some r => decide (r.2 ≤ 4095)
     | none => true)

/-- Successive parting lines rise on every path (R223). -/
def cutsRise (segs : List Seg) (fl : List Place) (bodies : List Body) (room : Nat) : Bool :=
  let fuel := pathRounds fl
  let next := nodeAfter segs fl
  let start : List PathNode := if fl.isEmpty then [] else [plainNode 0 [] room]
  let all := reachFrom next fuel start start
  let stop := fun (n : PathNode) => if (lineAt bodies fl n.num).isSome then [] else next n
  all.all (fun n =>
    match lineAt bodies fl n.num with
    | none => true
    | some r => (reachFrom stop fuel [] (next n) ++ next n).all (fun m =>
        match lineAt bodies fl m.num with
        | some q => decide (r.2 < q.1)
        | none => true))

/-- A loop with a cut stride that holds a parting line counts from its entry (R223). -/
def stridesOk (fl : List Place) (bodies : List Body) : Bool :=
  bodies.all (fun y => decide (y.stride = 0) || y.iters.isSome ||
    fl.all (fun p => !(partBit p.x && decide (innermost bodies p = some y))))

/-! The firmware share (R226). -/

/-- A path at one of its bundles: the node, the domain, and the loops that hold it, innermost first. A loop carries the kernel
iterations it may still begin (none: without end) and whether it may end sooner, which is so where the window opens inside
it. -/
structure Walk where
  node : PathNode
  dyn : Bool
  loops : List (Body × Option Nat × Bool)
deriving DecidableEq, Repr

/-- What the code alone does not decide: where a register leads, how long a `WAITD`, an `ALIGN` in the static domain or a fence
idles; and a `TRAP` that always runs, after which nothing issues. The waits of `WAITA` and of an `ALIGN` in the dynamic domain count as no
cycles. -/
def breaksOff (x : Bundle) (dyn : Bool) : Bool :=
  (match ctlOf x with
   | some (.bri ..) | some (.calli ..) | some (.waitd ..) => true
   | some (.align ..) => !dyn
   | _ => trapsAlways x) ||
    (match memOf x with
     | some (.cfence ..) | some (.fence ..) => true
     | _ => false)

/-- A `LEXIT` leaves at most S − 1 further kernel iterations (R113); one that its gate may disable may leave them all. -/
def exitLoops (x : Bundle) (l : List (Body × Option Nat × Bool)) : List (List (Body × Option Nat × Bool)) :=
  match ctlOf x, l with
  | some (.lexit g _), (y, rem, early) :: rest =>
    ((y, some (match rem with | some n => min n (y.stages - 1) | none => y.stages - 1), early) :: rest) ::
      (if conditional g then [l] else [])
  | _, _ => [l]

/-- What follows the bundle at number `i` straight on: the next bundle, or at the end of a body its first bundle again or what
follows the loop (R108). -/
def straightOn (after : Nat → Option Nat) (p : Place) (i : Nat) :
    List (Body × Option Nat × Bool) → List (Nat × List (Body × Option Nat × Bool))
  | [] => match after i with | some j => [(j, [])] | none => []
  | (y, rem, early) :: rest =>
    if p.seg = y.seg ∧ p.pos = y.pos + y.len then
      (match rem with
       | none => [(i + 1 - y.len, (y, none, early) :: rest)]
       | some 0 => []
       | some (n + 1) => [(i + 1 - y.len, (y, some n, early) :: rest)]) ++
        (if early = true ∨ rem = some 0 then straightOn after p i rest else [])
    else [(i + 1, (y, rem, early) :: rest)]

/-- What follows a `LOOP`: its body, or what stands after it when it runs no iteration; one whose count comes from a register
may do either, and then repeats without end (R226). -/
def loopOn (after : Nat → Option Nat) (fl : List Place) (bodies : List Body) (p : Place) (i : Nat)
    (l : List (Body × Option Nat × Bool)) : List (Nat × List (Body × Option Nat × Bool)) :=
  match bodies.find? (fun y => decide (y.seg = p.seg) && decide (y.pos = p.pos)) with
  | none => []
  | some y =>
    let past := match fl[i + y.len]? with | some q => straightOn after q (i + y.len) l | none => []
    match y.iters with
    | some 0 => past
    | some (j + 1) => [(i + 1, (y, some j, false) :: l)]
    | none => (i + 1, (y, none, true) :: l) :: past

/-- Where a path goes from its bundle. -/
def Walk.ways (segs : List Seg) (fl : List Place) (bodies : List Body) (w : Walk) (p : Place) :
    List (PathNode × List (Body × Option Nat × Bool)) :=
  let i := w.node.num
  let after := bundleAfter segs fl
  let plain := fun (l : List (Nat × List (Body × Option Nat × Bool))) => l.map (fun q => (plainNode q.1 w.node.calls w.node.room, q.2))
  if w.node.delay = 2 then
    match fl[w.node.branch]? with
    | some q =>
      if breaksOff q.x w.dyn then []
      else (if stays q.x then plain (straightOn after p i w.loops) else []) ++
        (branchTargets segs fl q (after i) w.node).map (fun t => (t, []))
    | none => []
  else if w.node.delay = 0 ∧ overflows p.x w.node = true then []
  else if w.node.delay = 1 ∨ isBranch p.x = true then
    match after i with
    | some j => [({ w.node with num := j, delay := w.node.delay + 1,
                                branch := if w.node.delay = 1 then w.node.branch else i }, w.loops)]
    | none => []
  else
    match ctlOf p.x with
    | some (.halt g) => if conditional g then plain (straightOn after p i w.loops) else []
    | some (.loop ..) => plain (loopOn after fl bodies p i w.loops)
    | _ => (exitLoops p.x w.loops).flatMap (fun l => plain (straightOn after p i l))

/-- The bundles that issue next, where the code decides which they are and the cycles between. -/
def Walk.next (segs : List Seg) (fl : List Place) (bodies : List Body) (w : Walk) : List Walk :=
  match fl[w.node.num]? with
  | none => []
  | some p =>
    if breaksOff p.x w.dyn then []
    else
      (domAfter p.x w.dyn).flatMap (fun d =>
        ((w.ways segs fl bodies p).filter (fun q => decide (q.1.num < fl.length))).map (fun q =>
          { node := q.1, dyn := d, loops := q.2 }))

/-- The walks after one, each with the cycles from its bundle's issue to theirs. -/
def Walk.timed (segs : List Seg) (fl : List Place) (bodies : List Body) (w : Walk) : List (Walk × Nat) :=
  (w.next segs fl bodies).map (fun v => (v, 1 + (match fl[v.node.num]? with | some q => gapOf q.x | none => 0)))

/-- One entry for each path, with its least cycle. -/
def keepLeast {α : Type} [DecidableEq α] (l : List (α × Nat)) : List (α × Nat) :=
  l.foldl (fun acc x =>
    if acc.any (fun y => decide (y.1 = x.1) && decide (y.2 ≤ x.2)) then acc
    else x :: acc.filter (fun y => decide (y.1 ≠ x.1))) []

/-- The paths after one more bundle within a window of `width` cycles, each with its least cycle in it. -/
def windowStep {α : Type} [DecidableEq α] (next : α → List (α × Nat)) (width : Nat) (front : List (α × Nat)) : List (α × Nat) :=
  let new := front.flatMap (fun p => (next p.1).filterMap (fun w => if p.2 + w.2 < width then some (w.1, p.2 + w.2) else none))
  if new.length ≤ front.length then new else keepLeast new

/-- Some path issues `n` more bundles within the window. -/
def overfull {α : Type} [DecidableEq α] (next : α → List (α × Nat)) (width : Nat) : Nat → List (α × Nat) → Bool
  | 0, front => !front.isEmpty
  | n + 1, front => !front.isEmpty && overfull next width n (windowStep next width front)

/-- No path of a window's bundles meets `bad`, the opening ones included; every bundle takes a cycle, so `width` rounds end it. -/
def windowFree {α : Type} [DecidableEq α] (next : α → List (α × Nat)) (bad : α × Nat → Bool) (width : Nat) :
    Nat → List (α × Nat) → Bool
  | 0, _ => true
  | n + 1, front => front.isEmpty || (!front.any bad && windowFree next bad width n (windowStep next width front))

/-- The loops that hold a place, innermost first, in any of their kernel iterations; none when one of them runs no iteration. -/
def loopsAt (bodies : List Body) (p : Place) : Option (List (Body × Option Nat × Bool)) :=
  let l := (bodies.filter (fun y => y.holds p)).mergeSort (fun y z => decide (z.pos ≤ y.pos))
  if l.any (fun y => decide (y.iters = some 0)) then none
  else some (l.map (fun y => (y, y.iters.map (fun j => j - 1), true)))

/-- The walks that a window can open with: every node that a path reaches, in either domain. -/
def windowStarts (segs : List Seg) (fl : List Place) (bodies : List Body) (room : Nat) : List Walk :=
  (domNodes segs fl room).filterMap (fun n =>
    (fl[n.1.num]?).bind (fun p => (loopsAt bodies p).map (fun l => { node := n.1, dyn := n.2, loops := l })))

/-- R226, as far as the code decides its paths and the cycles between its bundles: from no bundle on does a path issue more
than FWB − FWA bundles within FWB cycles. -/
def shareKept (fwa fwb : Nat) (segs : List Seg) (fl : List Place) (bodies : List Body) (starts : List Walk) : Bool :=
  !overfull (Walk.timed segs fl bodies) fwb (fwb - fwa) (starts.map (fun w => (w, 0)))

/-! The load queue and read-modify-writes at parting lines (R249). -/

/-- Entries of the load queue after a bundle that found at least `n`: an `ATOM` that runs whatever its predicate adds one, a
`LQPOP` takes one (R29, R31). -/
def queueAfter (x : Bundle) (n : Nat) : Nat :=
  match memOf x with
  | some (.atom g ..) => if conditional g then n else n + 1
  | some (.lqpop ..) => n - 1
  | _ => n

/-- No decided path of at most six times as many bundles as the core has leads from a bundle to a parting line with an entry of
the load queue on hand. -/
def queueKept (segs : List Seg) (fl : List Place) (bodies : List Body) (starts : List Walk) : Bool :=
  let next := fun (p : Walk × Nat) =>
    match fl[p.1.node.num]? with
    | some q =>
      let n := min (queueAfter q.x p.2) 64
      if n = 0 then [] else (p.1.next segs fl bodies).map (fun w => (w, n))
    | none => []
  let first := starts.flatMap (fun w => next (w, 0))
  (reachFrom next (6 * fl.length + 1) first first).all (fun p =>
    match fl[p.1.node.num]? with
    | some q => !partBit q.x
    | none => true)

/-- A bundle with an `ATOM` or a `RED` that runs whatever its predicate. -/
def isRmw (x : Bundle) : Bool :=
  match memOf x with
  | some (.atom g ..) => !conditional g
  | some (.red g ..) => !conditional g
  | _ => false

/-- No decided path issues a parting line within the four cycles after a read-modify-write, in which its bank is its own
(R29). -/
def reservationKept (segs : List Seg) (fl : List Place) (bodies : List Body) (starts : List Walk) : Bool :=
  let rmw := starts.filter (fun w => match fl[w.node.num]? with | some q => isRmw q.x | none => false)
  windowFree (Walk.timed segs fl bodies) (fun p => match fl[p.1.node.num]? with | some q => partBit q.x | none => false) 5 5
    (windowStep (Walk.timed segs fl bodies) 5 (rmw.map (fun w => (w, 0))))

/-! Static writes of spatial iterations (R218). -/

/-- Cycles from the issue of a store that runs whatever its predicate to its performing (R29, R178, R179); 0 for none. -/
def storeCycles (c : Nat) (x : Bundle) : Nat :=
  let mem := match memOf x with
    | some (.vst g ..) => if conditional g then 0 else 3
    | some (.sst g ..) => if conditional g then 0 else 2
    | some (.vsct g ..) => if conditional g then 0 else 17
    | some (.atom g ..) => if conditional g then 0 else 4
    | some (.red g ..) => if conditional g then 0 else 4
    | some (.vstn g _ _ t) => if conditional g then 0 else vstnDelay c t.toNat
    | _ => 0
  let prm := match decodeSyl .prm (syl x .prm) with
    | some (.stsc g ..) => if conditional g then 0 else 3
    | _ => 0
  max mem prm

/-- R218 for the stores of a core's code on decided paths: none in a spatial loop's body performs CDLY cycles or more after the
last bundle of its kernel iteration, in the cycle of the iteration's bit or later. A body whose last bundle an inner loop holds
is not decided. -/
def iterStoresOk (c : Nat) (segs : List Seg) (fl : List Place) (bodies : List Body) (starts : List Walk) : Bool :=
  bodies.all (fun y =>
    match y.cdly with
    | none => true
    | some d =>
      let ends := fun (p : Walk × Nat) =>
        match fl[p.1.node.num]? with
        | some q => decide (q.seg = y.seg) && decide (q.pos = y.pos + y.len) && decide (innermost bodies q = some y)
        | none => false
      starts.all (fun w =>
        match fl[w.node.num]? with
        | some q =>
          let n := storeCycles c q.x
          !(y.holds q && decide (d ≤ n)) || windowFree (Walk.timed segs fl bodies) ends (n - d + 1) (n - d + 1) [(w, 0)]
        | none => true))

/-- Every check of a core's code. -/
def State.coreCodeOk (s : State) (part : Nat) (b : List Byte) (c : Nat) : Bool :=
  let segs := coreSegs b c
  let fl := flatCode segs
  let bodies := bodiesOf b c fl
  let room := callRoom b c fl
  tokensOk segs && fl.all (loopPlaceOk b c segs bodies) && fl.all (bodyPlaceOk bodies) && delayOk segs fl &&
    fl.all (s.namesInHeat part b segs) && cutsOk (coreParts b c) fl && domainsOk segs fl room && fl.all (linePlaceOk bodies) &&
    stridesOk fl bodies && cutsRise segs fl bodies room &&
    (let starts := windowStarts segs fl bodies room
     shareKept (imgFwa b) (imgFwb b) segs fl bodies starts && queueKept segs fl bodies starts &&
       reservationKept segs fl bodies starts && iterStoresOk c segs fl bodies starts)

end Sys2Proof.Machine
end

