-- ==== Sys2Proof/Machine/LoadRecords.lean ====
section
/-! DEFINITION. The heat loader's checks of command records (R182, R188, R244, R254, R260, R261, R279, R290, R297) and the whole
check of an image. What needs the issue cycles of paths that the code alone does not decide, or records that only code supplies,
is one predicate of Config (log entries 21, 22). -/

namespace Sys2Proof.Machine

/-! Command records that the image supplies (R182, R188, R254, R260, R261, R279): those at the addresses that a command's stream
takes, where no `ASET` of the core writes the stream and only loops that hold the command, of counts the heat fixes, move it (log
entry 21). -/

/-- The streams that a core's `ASET` instructions write. -/
def asetStreams (fl : List Place) : List Nat :=
  fl.filterMap (fun p => match scaOf p.x with | some (.aset _ d _ _) => some d.toNat | _ => none)

/-- The indices of a loop level that an operation of stage `s` in its body meets (R20, R110), up to `n` of them; a count that a
register holds is not known. -/
def Body.indices (y : Body) (g : Gate) (n : Nat) : Option (List Nat) :=
  y.iters.map (fun k =>
    let m := if 1 < y.stages ∧ g.stage ≠ 0 then k + 1 - y.stages else k
    (List.range (min m n)).map (fun i => (y.base + i * y.step) % 2 ^ 64))

/-- What one level adds to a stream's offset, each of its values (R20): none where the level is not one of the loops that hold
the operation. The values repeat with the extent. -/
def levelParts (bodies : List Body) (p : Place) (g : Gate) (ext lv : Nat) (str : Int) : Option (List Int) :=
  if str = 0 ∨ 6 ≤ lv then some [0]
  else (bodies.find? (fun y => y.holds p && decide (y.lvl = lv))).bind (fun y =>
    (y.indices g ext).map (fun l => (l.map (fun (i : Nat) => str * (i : Int) % (ext : Int))).eraseDups))

/-- Every address that a stream takes for an operation at a place (R20), where the image alone fixes them. -/
def streamAddrs (bodies : List Body) (p : Place) (g : Gate) (a : BitVec 128) : Option (List Nat) :=
  let ext := if strField a 84 21 = 0 then Config.groupBytes else strField a 84 21
  let part := fun (str lv : Nat) => levelParts bodies p g ext (strField a lv 3) (signedVal 21 (strField a str 21))
  match part 21 105, part 42 108, part 63 111 with
  | some l0, some l1, some l2 =>
    let offs := (l0.flatMap (fun x => (l1.map (fun y => (x + y) % (ext : Int))).eraseDups)).eraseDups
    let sums := (offs.flatMap (fun x => (l2.map (fun y => (x + y) % (ext : Int))).eraseDups)).eraseDups
    some (sums.map (fun x => Config.groupBytes * strField a 114 2 + (strField a 0 21 + x.toNat) % Config.groupBytes))
  | _, _, _ => none

/-- The 128 bytes of a record in a scratchpad region, as the heat launches. -/
def launchRecord (b : List Byte) (place : List (Nat × Nat)) (c at_ : Nat) : Option Nat :=
  ((List.zip (coreRegions b c) (spadPlaces b c)).zipIdx.find? (fun p =>
    regValid p.1.1 && decide (regSpace p.1.1 = 0) && decide (p.1.2 ≤ at_) && decide (at_ + 128 ≤ p.1.2 + regSize p.1.1))).map
      (fun p => natOf (Memory.readBytes (regionContent b place c p.2) (at_ - p.1.2) 128))

/-- The records that the commands at a place read, where the image alone fixes them: each with its address. -/
def placeRecords (b : List Byte) (place : List (Nat × Nat)) (c : Nat) (moved : List Nat) (bodies : List Body)
    (pick : Instr → Option StreamReg) (p : Place) : List (Nat × Nat) :=
  match (memOf p.x).bind pick with
  | some a =>
    if moved.contains a.toNat then []
    else
      (((streamAddrs bodies p (gateOf (syl p.x .mem)) (taskStream ((secOf b 1 c).getD []) a.toNat)).getD []).map
        (fun x => x / 128 * 128)).eraseDups.filterMap (fun x => (launchRecord b place c x).map (fun r => (x, r)))
  | none => []

/-- The records of the commands that a selector picks among a core's MEM operations, one for each address. -/
def launchRecords (b : List Byte) (place : List (Nat × Nat)) (c : Nat) (fl : List Place) (pick : Instr → Option StreamReg) : List Nat :=
  let moved := asetStreams fl
  let bodies := bodiesOf b c fl
  (fl.flatMap (placeRecords b place c moved bodies pick)).eraseDups.map Prod.snd

def pickPour : Instr → Option StreamReg
  | .pour _ sa => some sa
  | _ => none

def pickCopy : Instr → Option StreamReg
  | .copy _ sa => some sa
  | _ => none

def pickCruc : Instr → Option StreamReg
  | .cred _ sa => some sa
  | .caxpy _ sa => some sa
  | .cfill _ sa => some sa
  | _ => none

def pickTake : Instr → Option StreamReg
  | .take _ sa => some sa
  | _ => none

/-- A pour descriptor with the address of the region its SRC names; one that holds an address keeps it (log entry 17). -/
def placePour (b : List Byte) (place : List (Nat × Nat)) (p : PourDesc) : PourDesc :=
  match pourRegion b p with
  | some e => { p with d := BitVec.ofNat 1024 (putField p.d.toNat 0 64 (regSpace e * 2 ^ 60 + placeOf place (regHreg e))) }
  | none => p

/-! The buffer proof (R260) and the expander checks (R261). -/

/-- TOFF_k for every k (R257). -/
def PourDesc.toffs (p : PourDesc) : List Nat :=
  ((List.range p.nblk).foldl (fun (acc : List Nat × Nat) k => (acc.1 ++ [acc.2 + p.tsize k], acc.2 + p.tsize k)) ([0], 0)).1

/-- R260 from the next removal on: what is left of the removals as (t_k, TSIZE_k, TOFF_(k+1) − TOFF_b), the bytes that have
come, the bytes in the window, the next arrival, the next block; cycles count from START. The answer is the first violating
event: whether an underflow, its block or arrival, its cycle. -/
def bufferProof (cap chunk period delay total : Nat) :
    Nat → List (Nat × Nat × Nat) → Nat → Nat → Nat → Nat → Option (Bool × Nat × Nat)
  | 0, _, _, _, m, _ => some (false, m, 0)
  | fuel + 1, rem, x, f, m, k =>
    let ta := delay + m * period
    let arrives := decide (x < total)
    let c := min chunk (total - x)
    match rem with
    | [] =>
      if !arrives then none
      else if cap < f + c then some (false, m, ta)
      else bufferProof cap chunk period delay total fuel [] (x + c) (f + c) (m + 1) k
    | (tk, size, hi) :: rest =>
      if arrives && decide (ta < tk) then
        if cap < f + c then some (false, m, ta)
        else bufferProof cap chunk period delay total fuel rem (x + c) (f + c) (m + 1) k
      else if x < hi then some (true, k, tk)
      else
        let f1 := f - size
        if arrives && decide (ta = tk) then
          if cap < f1 + c then some (false, m, ta)
          else bufferProof cap chunk period delay total fuel rest (x + c) (f1 + c) (m + 1) (k + 1)
        else bufferProof cap chunk period delay total fuel rest x f1 m (k + 1)

/-- t_k − START (R258). -/
def PourDesc.removalAt (p : PourDesc) (b k : Nat) : Nat := p.get 256 32 + p.off k - p.off b

/-- The first event that violates R260 in a pour from block b on. -/
def PourDesc.bufferFault (p : PourDesc) (b : Nat) : Option (Bool × Nat × Nat) :=
  let offs := p.toffs
  let base := offs.getD b 0
  let total := offs.getD p.nblk 0 - base
  let rem := ((List.range p.nblk).drop b).map (fun k => (p.removalAt b k, p.tsize k, offs.getD (k + 1) 0 - base))
  bufferProof p.cap p.chunk p.period p.delay total (rem.length + total / p.chunk + 2) rem 0 0 0 b

/-- W_k (R261). -/
def PourDesc.work (p : PourDesc) (k : Nat) : Nat :=
  let x := p.xsize k
  let e := ingotElem (p.fmt k)
  match p.method k with
  | 0 => (x + 255) / 256
  | 1 => (x / (8 * e) + 1) / 2
  | 2 => (x + 8 * e - 1) / (8 * e)
  | _ => (p.clen k + 255) / 256

/-- np_k (R261). -/
def PourDesc.pieces (p : PourDesc) (k : Nat) : Nat := (p.xsize k + 1023) / 1024

/-- R261 for block k of a pour from block b on, but for its last check. The output queue holds most at a removal. -/
def PourDesc.blockTimesOk (p : PourDesc) (b k : Nat) : Bool :=
  let t := p.removalAt b k
  let l3 := decide (p.point = 3)
  decide (8 + (if l3 then p.work k else 0) + p.pieces k ≤ p.allow) &&
    (decide (p.nblk ≤ k + 1) ||
      ((!l3 || decide (t + p.work k ≤ p.removalAt b (k + 1))) && decide (t + p.pieces (k + 1) ≤ p.removalAt b (k + 1)))) &&
    decide ((((List.range (k + 1)).drop b).filter (fun j => decide (t < p.removalAt b j + p.allow))).foldl
      (fun n j => n + p.xsize j) 0 ≤ 16384) &&
    (l3 || decide (3 ≤ p.method k) || decide (p.work k * p.chunk ≤ p.tsize k * p.period))

/-- D leaves room for the blocks of R279. -/
def PourDesc.delayOk (p : PourDesc) (b : Nat) : Bool :=
  decide (b = 0) || decide (64 + (p.slotBlocks b).foldl (fun n j => n + p.work j) 0 ≤ p.delay)

/-- A `POUR` record that check 2 of R182 accepts, with its descriptor. -/
def launchPour (b : List Byte) (place : List (Nat × Nat)) (c r : Nat) : Option (Nat × PourDesc) :=
  match ((corePours b c).getD []).find? (fun q => decide (q.1 = pourDescNo r)) with
  | some q =>
    if recOk 0x11 q.2.isStatic r ∧ fld r 192 832 = 0 ∧ fld r 137 23 = 0 ∧ pourBlock r < q.2.nblk then
      some (r, placePour b place q.2)
    else none
  | none => none

/-- Two pours of the two intakes overlap in the tundish while both can be running (R254); one intake carries one pour at a time
(R189). -/
def poursClash (x y : Nat × PourDesc) : Bool :=
  let last := fun (z : Nat × PourDesc) => recStart z.1 + (z.2.removalAt (pourBlock z.1) (z.2.nblk - 1) : Int)
  let base := fun (z : Nat × PourDesc) => z.2.get 212 19
  decide (pourIntake x.1 ≠ pourIntake y.1) && decide (recStart x.1 ≤ last y) && decide (recStart y.1 ≤ last x) && decide (base x < base y + y.2.cap) &&
    decide (base y < base x + x.2.cap)

def noClash : List (Nat × PourDesc) → Bool
  | [] => true
  | x :: rest => rest.all (fun y => !poursClash x y) && noClash rest

/-- The `POUR` records of a core that the image supplies. -/
def launchPours (b : List Byte) (place : List (Nat × Nat)) (c : Nat) (fl : List Place) : List (Nat × PourDesc) :=
  (launchRecords b place c fl pickPour).filterMap (launchPour b place c)

/-- R254, R260, R261, R279 for the pours of a core. -/
def poursProved (l : List (Nat × PourDesc)) : Bool :=
  l.all (fun z => (z.2.bufferFault (pourBlock z.1)).isNone && z.2.delayOk (pourBlock z.1) &&
      ((List.range z.2.nblk).drop (pourBlock z.1)).all (z.2.blockTimesOk (pourBlock z.1))) && noClash l

/-- The first pour of a heat that R260 rejects: its core, its descriptor, the event that it names. -/
def imgPourFault (b : List Byte) (place : List (Nat × Nat)) : Option (Nat × Nat × Bool × Nat × Nat) :=
  (imgCores b).findSome? (fun c =>
    (launchPours b place c (flatCode (coreSegs b c))).findSome? (fun z =>
      (z.2.bufferFault (pourBlock z.1)).map (fun e =>
        (c, pourDescNo z.1, e.1, e.2.1, ((recStart z.1) + (e.2.2 : Int)).toNat))))

/-! Copies within a scratchpad (R188). -/

/-- Distinct bytes of a list that lie in a bank. -/
def bytesInBank (l : List Nat) (k : Nat) : Nat := (l.eraseDups.filter (fun x => decide (bankOf x = k))).length

/-- In every span of sixteen cycles the engine's own reads and writes of one bank are at most 4 KiB (R188). -/
def copySpansOk (r : Nat) : Bool :=
  (List.range (copyTiles r + 1)).all (fun k =>
    let src := if k < copyTiles r then tileSource r k else []
    let dst := if k = 0 then [] else tileDest r (k - 1)
    decide (src.length + dst.length ≤ 4096) ||
      (List.range 16).all (fun bk => decide (bytesInBank src bk + bytesInBank dst bk ≤ 4096)))

/-! The commands that deliver and take bytes of HBM (R290). -/

/-- An `RD` or `WR` of the heat's timelines: the column unit's physical address, the heat cycle, the channel, CORE and USE. -/
structure ColCmd where
  pa : Nat
  cycle : Nat
  ch : Nat
  core : Nat
  use : Nat
deriving DecidableEq, Repr

/-- The commands of one operation code. -/
def colCmds (tls : List Timeline) (op : Nat) : List ColCmd :=
  tls.flatMap (fun t => (t.entries.filter (fun e => decide (entOp e.toNat = op))).map (fun e =>
    let x := e.toNat
    { pa := paOf t.ch (entBank x) (entRow x) (entCol x), cycle := entCycle x, ch := t.ch, core := entCore x, use := entUse x }))

/-- An `RD` of the right CORE and USE delivers the unit of a virtual address by a heat cycle; an address in no pinned window
has no physical one, and its record is bad. -/
def deliveredBy (rds : List ColCmd) (pinned : Nat → Option Nat) (c use va : Nat) (by_ : Int) : Bool :=
  match pinned va with
  | some pa => rds.any (fun d => decide (d.core = c) && decide (d.use = use) && decide (d.pa = pa / 64 * 64) &&
      decide ((d.cycle + rdDelay c d.ch : Int) ≤ by_))
  | none => true

/-- A `WR` of the right CORE and USE takes the unit of a virtual address no earlier than its lead after a heat cycle. -/
def takenAfter (wrs : List ColCmd) (pinned : Nat → Option Nat) (c va : Nat) (from_ : Int) : Bool :=
  match pinned va with
  | some pa => wrs.any (fun d => decide (d.core = c) && decide (d.use = 0) && decide (d.pa = pa / 64 * 64) &&
      decide (from_ + (wrLead c d.ch : Int) ≤ d.cycle))
  | none => true

/-- One address of each column unit of a list of addresses. -/
def unitsOf (l : List Nat) : List Nat := (l.map (fun x => x / 64 * 64)).eraseDups

/-- R290 for a `COPY` record. -/
def copyMatched (rds wrs : List ColCmd) (pinned : Nat → Option Nat) (c r : Nat) : Bool :=
  (List.range (copyTiles r)).all (fun k =>
    let s0 := recStart r + 16 * (k : Int)
    (decide (wordSpace (copySrc r) ≠ 1) || (unitsOf (tileSource r k)).all (fun x => deliveredBy rds pinned c 0 x (s0 + 80))) &&
      (decide (wordSpace (copyDst r) ≠ 1) || (unitsOf (tileDest r k)).all (fun x =>
        takenAfter wrs pinned c x (s0 + (if wordSpace (copySrc r) = 0 then 31 else 95)))))

/-- The source bytes of arrival m of an HBM pour from block b on, as offsets from SRC: the bytes themselves at L3, else the
blocks that begin among its tundish bytes, and the blocks of no tundish bytes before them. -/
def arrivalBytes (p : PourDesc) (b lo hi : Nat) : List Nat :=
  if p.point = 3 then (List.range (hi - lo)).map (fun i => p.soff 0 + lo + i)
  else
    (((List.range p.nblk).drop b).filter (fun j =>
      (decide (lo ≤ p.toff j) || decide (lo = p.toff b)) && (decide (p.toff j < hi) || decide (hi = p.total)))).flatMap (fun j =>
        (List.range (p.clen j)).map (fun i => p.soff j + i))

/-- R290 for a `POUR` record. -/
def pourMatched (rds : List ColCmd) (pinned : Nat → Option Nat) (c : Nat) (z : Nat × PourDesc) : Bool :=
  let p := z.2
  let b := pourBlock z.1
  !p.isStatic || (List.range ((p.total - p.toff b + p.chunk - 1) / p.chunk)).all (fun m =>
    let lo := p.toff b + m * p.chunk
    let by_ := recStart z.1 + ((p.delay + m * p.period : Nat) : Int) - (if p.point ≤ 1 then 8 else 0)
    (unitsOf ((arrivalBytes p b lo (min (lo + p.chunk) p.total)).map (fun o => wordAddr p.src + o))).all (fun x =>
      deliveredBy rds pinned c 1 x by_))

/-! The crucible queues (R297). -/

/-- A crucible command in the loader's simulation: its arrival, START and core, its target and its cycles. -/
structure CrucLoad where
  arrival : Int
  start : Int
  core : Nat
  pa : Nat
  cycles : Nat
deriving DecidableEq, Repr

/-- A record that check 2 of R182 accepts, as the command it sends. -/
def crucLoad (pinned : Nat → Option Nat) (c r : Nat) : Option CrucLoad :=
  let n := crucLen r
  let t := wordAddr (crucTgt r)
  let d := wordAddr (crucData r)
  if recOk (recKind r) true r ∧ fld r 320 704 = 0 ∧ fld r 275 13 = 0 ∧ crucFields (recKind r) r ∧ 32 ≤ n ∧ n ≤ 1024 ∧
      n % 32 = 0 ∧ wordSpace (crucTgt r) = 1 ∧ t % 32 = 0 ∧ inBlock t n ∧
      (recKind r = 0x15 ∨ (wordSpace (crucData r) = 0 ∧ d % 32 = 0 ∧ inBlock d n ∧ inSpad d n)) then
    (pinned (wordAddr (crucTgt r))).map (fun pa =>
      { arrival := recStart r + (crucDelay c (paChannel pa) : Int), start := recStart r, core := c, pa := pa,
        cycles := crucCycles r })
  else none

/-- The order of a queue (R193), but for the issue cycle. -/
def crucLe (x y : CrucLoad) : Bool :=
  decide (x.arrival < y.arrival) || (decide (x.arrival = y.arrival) &&
    (decide (x.start < y.start) || (decide (x.start = y.start) && decide (x.core ≤ y.core))))

/-- The commands at the head of a queue that execute in the window from w to `last`, with their last cycles, and the rest
(R296); `at_` is the first free cycle. -/
def runWindow (w last : Int) : Int → List CrucLoad → List (CrucLoad × Int) × List CrucLoad
  | _, [] => ([], [])
  | at_, x :: rest =>
    let e := at_ + x.cycles - 1
    if x.arrival ≤ w ∧ e ≤ last then
      let (done, left) := runWindow w last (e + 1) rest
      ((x, e) :: done, left)
    else ([], x :: rest)

/-- Every window in turn: the commands that execute with their last cycles, and those that do not. -/
def runWindows : List (Int × Int) → List CrucLoad → List (CrucLoad × Int) × List CrucLoad
  | [], l => ([], l)
  | (w, last) :: rest, l =>
    let (done, left) := runWindow w last w l
    let (more, out) := runWindows rest left
    (done ++ more, out)

/-- The windows of a bank in its channel's timeline: first and last cycle. -/
def bankWindows (t : Timeline) (bk : Nat) : List (Int × Int) :=
  (t.entries.filter (fun e => decide (entOp e.toNat = 6) && decide (entBank e.toNat = bk))).map (fun e =>
    ((entCycle e.toNat : Int), (entCycle e.toNat : Int) + entRow e.toNat - 1))

/-- R297 for one bank. -/
def bankQueueOk (tls : List Timeline) (ch bk : Nat) (l : List CrucLoad) : Bool :=
  match tls.find? (fun t => decide (t.ch = ch)) with
  | none => l.isEmpty
  | some t =>
    let q := l.mergeSort crucLe
    let (done, left) := runWindows (bankWindows t bk) q
    left.isEmpty && done.all (fun p => decide (p.2 ≤ (t.end_ : Int))) &&
      q.zipIdx.all (fun p => decide (((done.take p.2).filter (fun d => decide (p.1.arrival ≤ d.2))).length < 16))

/-- R297 over the commands of a heat. -/
def queuesOk (tls : List Timeline) (l : List CrucLoad) : Bool :=
  (l.map (fun x => (paChannel x.pa, paBank x.pa))).eraseDups.all (fun k =>
    bankQueueOk tls k.1 k.2 (l.filter (fun x => decide ((paChannel x.pa, paBank x.pa) = k))))

/-- The commands of one bank that its windows execute, with their last cycles. -/
def bankRuns (tls : List Timeline) (ch bk : Nat) (l : List CrucLoad) : List (CrucLoad × Int) :=
  match tls.find? (fun t => decide (t.ch = ch)) with
  | none => []
  | some t =>
    (runWindows (bankWindows t bk) (l.mergeSort crucLe)).1

/-! The blocks that a pour's `TAKE` commands name (R261). -/

/-- The `TAKE` records of a core with the places of their commands, and whether the loops about the place issue one of them more
than once. -/
def takeRecords (b : List Byte) (place : List (Nat × Nat)) (c : Nat) (fl : List Place) : List (Nat × Nat × Bool) :=
  let moved := asetStreams fl
  let bodies := bodiesOf b c fl
  fl.zipIdx.flatMap (fun p =>
    if conditional (gateOf (syl p.1.x .mem)) then []
    else
      let again := bodies.any (fun y => y.holds p.1 && (match y.iters with | some n => decide (2 ≤ n) | none => true)) &&
        decide ((placeRecords b place c moved bodies pickTake p.1).length = 1)
      (placeRecords b place c moved bodies pickTake p.1).map (fun r => (p.2, r.2, again)))

/-- R261, last check, for the one pour that an intake of the core carries: a `TAKE` of the pour has START t_k, and no path issues
two of one block. A core with further `POUR` commands for the intake is not decided. -/
def takesOk (b : List Byte) (place : List (Nat × Nat)) (c : Nat) (segs : List Seg) (fl : List Place)
    (pours : List (Nat × PourDesc)) : Bool :=
  let bodies := bodiesOf b c fl
  let cmds := fl.filter (fun p => ((memOf p.x).bind pickPour).isSome)
  let takes := takeRecords b place c fl
  cmds.any (fun p => bodies.any (fun y => y.holds p)) || decide (cmds.length ≠ pours.length) || pours.all (fun z =>
    let mine := takes.filter (fun t => recOk 0x12 true t.2.1 && decide (pourIntake t.2.1 = pourIntake z.1) &&
      decide (pourDescNo t.2.1 = pourDescNo z.1))
    let alone := decide ((pours.filter (fun y => decide (pourIntake y.1 = pourIntake z.1))).length = 1)
    !alone || mine.all (fun t =>
      let k := pourBlock t.2.1
      !(decide (pourBlock z.1 ≤ k) && decide (k < z.2.nblk)) ||
        (decide (recStart t.2.1 = recStart z.1 + (z.2.removalAt (pourBlock z.1) k : Int)) && !t.2.2 &&
          (let others := mine.filter (fun u => decide (u.1 ≠ t.1) && decide (pourBlock u.2.1 = k))
           others.isEmpty ||
             (let first := (domNodes segs fl (callRoom b c fl)).filterMap (fun n => if n.1.num = t.1 then some n.1 else none)
              (reachFrom (nodeAfter segs fl) (pathRounds fl) [] first).all (fun n => !others.any (fun u => decide (u.1 = n.num))))))))

/-! The work of commands that a restart mark finds (R244). -/

/-- The last heat cycle in which a copy begins a tile or performs (R187), that of the last piece of a taken block (R263). -/
def copyEnd (r : Nat) : Int := recStart r + 16 * ((copyTiles r : Int) - 1) + (if wordSpace (copySrc r) = 0 then 31 else 95)
def takeEnd (pours : List (Nat × PourDesc)) (r : Nat) : Option Int :=
  (pours.find? (fun z => decide (pourDescNo z.1 = pourDescNo r))).bind (fun z =>
    if takeWrites z.2 (pourBlock r) then some (recStart r + z.2.allow) else none)

/-- The last cycle of the work of the commands at each bundle that issue whatever their predicate. -/
def workEnds (b : List Byte) (place : List (Nat × Nat)) (c : Nat) (fl : List Place) (pours : List (Nat × PourDesc))
    (pinned : Nat → Option Nat) (runs : List (CrucLoad × Int)) : List (Nat × Int) :=
  let moved := asetStreams fl
  let bodies := bodiesOf b c fl
  fl.zipIdx.flatMap (fun p =>
    if conditional (gateOf (syl p.1.x .mem)) then []
    else
      let of := fun (pick : Instr → Option StreamReg) => (placeRecords b place c moved bodies pick p.1).map Prod.snd
      ((of pickCopy).filterMap (fun r => if recOk 0x10 true r ∧ copyTiles r ≠ 0 then some (copyEnd r) else none) ++
        (of pickTake).filterMap (fun r => if recOk 0x12 true r then takeEnd pours r else none) ++
        (of pickCruc).filterMap (fun r => (crucLoad pinned c r).bind (fun x =>
          (runs.find? (fun y => decide (y.1 = x))).map Prod.snd))).map (fun e => (p.2, e)))

/-- R244 on the paths that the code decides, from the task's first bundle on in the static domain, whose cycles the heat fixes: no
restart mark issues at or before the last cycle of work of a command that stands before it on the path. -/
def marksKept (room start : Nat) (segs : List Seg) (fl : List Place) (bodies : List Body) (works : List (Nat × Int)) : Bool :=
  let after := fun (i : Nat) (m : Int) => (works.filter (fun x => decide (x.1 = i))).foldl (fun a x => max a x.2) m
  let width := ((works.foldl (fun a x => max a x.2) (-1)) + 1).toNat
  let next := fun (p : Walk × Int) => ((p.1.timed segs fl bodies).filter (fun w => !w.1.dyn)).map (fun w =>
    ((w.1, after p.1.node.num p.2), w.2))
  let met := fun (p : (Walk × Int) × Nat) =>
    match fl[p.1.1.node.num]? with
    | some q => markBit q.x && decide ((p.2 : Int) ≤ p.1.2)
    | none => false
  match fl[0]? with
  | none => true
  | some q => windowFree next met width width [(({ node := plainNode 0 [] room, dyn := false, loops := [] }, -1), start + gapOf q.x)]

/-- R188, R244, R254, R260, R261, R279, R290, R297: every check of the records that the region data of the heat's cores
supplies. -/
def launchRecordsOk (b : List Byte) (place : List (Nat × Nat)) (pins : Sparse Nat) : Bool :=
  let pinned := fun va => (sfind pins (va / 65536)).map (fun page => page * 65536 + va % 65536)
  let tls := imgTimelines b
  let rds := colCmds tls 2
  let wrs := colCmds tls 3
  let code := (imgCores b).map (fun c => (c, coreSegs b c, flatCode (coreSegs b c)))
  let crucs := code.flatMap (fun p => (launchRecords b place p.1 p.2.2 pickCruc).filterMap (crucLoad pinned p.1))
  let runs := (crucs.map (fun x => (paChannel x.pa, paBank x.pa))).eraseDups.flatMap (fun k =>
    bankRuns tls k.1 k.2 (crucs.filter (fun x => decide ((paChannel x.pa, paBank x.pa) = k))))
  code.all (fun p =>
    let (c, segs, fl) := p
    let pours := launchPours b place c fl
    poursProved pours && pours.all (pourMatched rds pinned c) && takesOk b place c segs fl pours &&
      (launchRecords b place c fl pickCopy).all (fun r =>
        !(recOk 0x10 true r && decide (wordSpace (copySrc r) ≤ 1) && decide (wordSpace (copyDst r) ≤ 1)) ||
          ((decide (wordSpace (copySrc r) ≠ 0) || decide (wordSpace (copyDst r) ≠ 0) || copySpansOk r) &&
            copyMatched rds wrs pinned c r)) &&
      marksKept (callRoom b c fl) (taskStart ((secOf b 1 c).getD [])) segs fl (bodiesOf b c fl) (workEnds b place c fl pours pinned runs)) &&
    queuesOk tls crucs

/-! The whole image. -/

/-- Where the streams of a heat's pours lie: space, first address and the address after the last. -/
def streamRanges (b : List Byte) (place : List (Nat × Nat)) : List (Nat × Nat × Nat) :=
  (imgCores b).flatMap (fun c => ((corePours b c).getD []).map (fun p =>
    let q := placePour b place p.2
    (wordSpace q.src, wordAddr q.src + q.soff 0, wordAddr q.src + q.soff q.nblk)))

/-- The image with the bytes of every pour's stream counted as zeros: the loader's proofs read none of them (R309). -/
def streamless (b : List Byte) (place : List (Nat × Nat)) : List Byte :=
  let ranges := streamRanges b place
  (sectionsOf b).foldl (fun img x =>
    let d := secBytes b x
    match if x.typ = 11 ∧ x.unit_ = 0xFFFF then findRegion b x.unit_ (leAt d 0 1) else none with
    | none => img
    | some e =>
      let base := placeOf place (regHreg e) + leAt d 8 8
      (ranges.filter (fun r => decide (r.1 = regSpace e))).foldl (fun img r =>
        let lo := max base r.2.1
        let hi := min (base + (d.length - 16)) r.2.2
        let o := x.off + 16 + (lo - base)
        if lo < hi then img.take o ++ zeros (hi - lo) ++ img.drop (o + (hi - lo)) else img) img) b

/-- Everything the heat loader checks on an image whose regions it has placed and pinned. An image without a core has no
execution path to prove anything of. -/
def State.imageOk (s : State) (part : Nat) (b : List Byte) (place : List (Nat × Nat)) (pins : Sparse Nat) : Bool :=
  headerOk b && sectionsOk b && s.shapeFits part b && s.unitsPresent part b &&
    (List.range 256).all (fun c => s.coreTablesOk part b c) && hregsAgree b && groupsOk b (s.partCores part) &&
    timelinesOk b && (sectionsOf b).all (fun x => decide (x.typ ≠ 11) || dataOk b x) && (imgWords b).all (wordOk b) &&
    (imgCores b).all (fun c => s.coreCodeOk part b c) && launchRecordsOk b place pins && s.signatureOk part b &&
    ((imgCores b).isEmpty || Config.pathsProved (streamless b place))

end Sys2Proof.Machine
end

