-- ==== Sys2Proof/Machine/HeatArm.lean ====
section
/-! DEFINITION. Arming a heat (R211 to R217, R344, R373, R374): the image is read and checked, its regions are placed, pinned
and filled, the cores take their launch state, and at heat cycle −1 the heat starts or slips. -/

namespace Sys2Proof.Machine

/-! Placement (R216). -/

/-- Pages that the HBM regions of a heat take. -/
def pagesTaken (l : List Nat) : Nat := l.foldl (fun n e => n + (regSize e + 65535) / 65536) 0

/-- The pages that stopped heats of a partition keep pinned (R245, R250). -/
def State.pinnedPages (s : State) (p : Nat) : List Nat :=
  (s.parked.filter (fun x => decide (x.1 = p))).flatMap (fun x => x.2.pins.map Prod.fst)

/-- The page from which the HBM regions of a heat are placed: the loader's own pick, below page 2^43 so that every address word
keeps its space, or, when a stopped heat of the partition keeps a page there, the page after all of theirs (R216, R250). -/
def State.firstPage (s : State) (p n : Nat) : Nat :=
  let page := Config.regionPage s.choice % 2 ^ 43
  let kept := s.pinnedPages p
  if kept.any (fun q => decide (page ≤ q) && decide (q < page + n)) then kept.foldl max 0 + 1 else page

/-- HBM regions one after another from a 64 KiB page on: HREG and address. -/
def placeHbm : Nat → List Nat → List (Nat × Nat)
  | _, [] => []
  | page, e :: rest => (regHreg e, page * 65536) :: placeHbm (page + (regSize e + 65535) / 65536) rest

/-- The modules of the flash tier that are present. -/
def State.flashModules (s : State) : List Nat := (List.range 4).filter (fun m => !s.isAbsent .flash m)

/-- The pages of HBM regions with their physical pages, none when one does not translate or reaches an absent channel
(R216, R344, R363). -/
def State.pinPages (s : State) (part : Nat) : List Nat → Option (Sparse Nat)
  | [] => some []
  | page :: rest =>
    match s.translate part (page * 65536) true, s.pinPages part rest with
    | some pa, some l =>
      if s.isAbsent .channel (paChannel pa) || s.isAbsent .channel (paChannel (pa + 32768)) then none
      else some (sset 0 l page (pa / 65536))
    | _, _ => none

/-- The 64 KiB pages of the HBM regions. -/
def hbmPages (b : List Byte) (place : List (Nat × Nat)) : List Nat :=
  (heatRegions b).flatMap (fun e =>
    if regSpace e = 1 then (List.range ((regSize e + 65535) / 65536)).map (fun i => placeOf place (regHreg e) / 65536 + i)
    else [])

/-! Contents (R209, R216, R374). -/

/-- The groups with their bitmaps' address words (R374); of two records for one group the first stands (log entry 70). -/
def placedGroups (b : List Byte) (place : List (Nat × Nat)) : List Group :=
  (imgGroups b).map (fun g =>
    match (imgWords b).find? (fun r => decide (leAt r 0 2 = 0xFFFE) && decide (leAt r 2 1 = g.g)) with
    | some r => { g with cbase := wordValue b place r }
    | none => g)

/-- A group's bitmap lies in one HBM region (R218). -/
def bitmapOk (b : List Byte) (place : List (Nat × Nat)) (g : Group) : Bool :=
  decide (g.cbase = 0) || (decide (wordSpace g.cbase = 1) && (heatRegions b).any (fun e =>
    decide (regSpace e = 1) && decide (placeOf place (regHreg e) ≤ wordAddr g.cbase) &&
      decide (wordAddr g.cbase + (g.n + 7) / 8 ≤ placeOf place (regHreg e) + regSize e)))

/-- An HBM region filled through its pinned pages. -/
def State.fillHbm (s : State) (pins : Sparse Nat) (va size : Nat) (m : Memory) : State :=
  (List.range ((size + 65535) / 65536)).foldl (fun s i =>
    match sfind pins (va / 65536 + i) with
    | some page => s.dynStore (page * 65536) (m.readBytes (65536 * i) (min 65536 (size - 65536 * i)))
    | none => s) s

/-- A flash region appended to a module (R216, R303); whole pages. -/
def State.fillFlash (s : State) (module size : Nat) (m : Memory) : State :=
  (s.appendPages module 3 (m.readBytes 0 ((size + 4095) / 4096 * 4096))).1

/-- Where the flash regions will stand: each in a module of its own pick at that module's tail; with the tails that follow. -/
def placeFlash (pick : Nat → Nat) : List Nat → Sparse Nat → List (Nat × Nat)
  | [], _ => []
  | e :: rest, tails =>
    let m := pick (regHreg e)
    let t := sget 0 tails m
    (regHreg e, m * 2 ^ 41 + t) :: placeFlash pick rest (sset 0 tails m (t + (regSize e + 4095) / 4096 * 4096))

/-- Every flash region fits below the end of its module (R302, R303). -/
def flashFits (pick : Nat → Nat) : List Nat → Sparse Nat → Bool
  | [], _ => true
  | e :: rest, tails =>
    let m := pick (regHreg e)
    let t := sget 0 tails m + (regSize e + 4095) / 4096 * 4096
    decide (t ≤ 2 ^ 41) && flashFits pick rest (sset 0 tails m t)

/-! The cores (R91, R104, R210, R213, R217, R373). -/

/-- Key and value pairs as a table; of two pairs of one key the first stands, which is the one that the loader's checks read (log
entry 70). -/
def tableOfPairs {α : Type} [DecidableEq α] (l : List (Nat × α)) : Sparse (Option α) :=
  l.foldr (fun p m => sset none m p.1 (some p.2)) []

/-- The region table of a core with the loader's addresses. -/
def placedRegions (b : List Byte) (place : List (Nat × Nat)) (c : Nat) : List Region :=
  ((List.zip (coreRegions b c) (spadPlaces b c)).filter (fun p => regValid p.1)).map (fun p =>
    let e := p.1
    { addr := if regSpace e = 0 then p.2 else placeOf place (regHreg e), size := regSize e, hreg := regHreg e,
      group := regGroup e, space := regSpace e, preserve := regKeep e })

/-- A core's scratchpad at launch: its regions' contents, and zero elsewhere (R213, R216). -/
def launchSpad (b : List Byte) (place : List (Nat × Nat)) (c : Nat) : Memory :=
  ((List.zip (coreRegions b c) (spadPlaces b c)).zipIdx).foldl (fun (m : Memory) p =>
    let e := p.1.1
    if regValid e && decide (regSpace e = 0) then
      (regionContent b place c p.2).foldl (fun (m : Memory) x =>
        if x.1 < regSize e then Memory.write m (p.1.2 + x.1) x.2 else m) m
    else m) []

/-- The call-stack registers at launch (R104): CSBASE and SLIMIT. -/
def launchStack (b : List Byte) (c : Nat) (t : List Byte) : Nat × Nat :=
  match (coreRegions b c)[taskStack t]? with
  | some e =>
    if taskStack t = 0xFF then (0, 0)
    else
      let a := (spadPlaces b c).getD (taskStack t) 0
      (a, a + regSize e)
  | none => (0, 0)

/-- The launch value of a stream; its reserved bits are ignored and read as zeros (R19). -/
def launchStream (t : List Byte) (n : Nat) : BitVec 128 := ((taskStream t n).setWidth 116).setWidth 128

/-- A core's state at launch (R213), but for its loop buffer; its firmware context stays as it is. -/
def launchCore (b : List Byte) (place : List (Nat × Nat)) (groups : List Group) (origin c : Nat) (k : Core) : Core :=
  let t := (secOf b 1 c).getD []
  let (base, limit) := launchStack b c t
  let pours := ((corePours b c).getD []).map (fun p => (p.1, placePour b place p.2))
  { coreReset with
    fw := k.fw, nextId := k.nextId, pend := k.pend.filter (fun p => p.fw), dyn := k.dyn.filter (fun x => x.remote), task := true, startAt := origin + taskStart t,
    a := (List.range 16).foldl (fun m n => sset streamReset m n (launchStream t n)) [],
    csp := stackBits (BitVec.ofNat 64 base), csbase := stackBits (BitVec.ofNat 64 base),
    slimit := stackBits (BitVec.ofNat 64 limit),
    dict := tableOfPairs (coreDict b c),
    loopTab := tableOfPairs ((coreLoops b c).map (fun p => (p.1, distribute groups c p.2))),
    loopGrp := (coreLoops b c).foldr (fun p m => sset 0 m p.1 (fld p.2.toNat 64 32)) [],
    regions := placedRegions b place c, pours := tableOfPairs pours, parts := coreParts b c,
    spad := launchSpad b place c }

/-- The first two segments of a task expanded (R92). -/
def State.expandFirst (s : State) (c first : Nat) : State :=
  let s1 := s.modCore c (fun k => k.setHalf false (halfBegin first))
  let s2 := s1.fetchAll c false maxLines
  (s2.expandNext c false).fetchAll c true maxLines

/-- The code records of every core written, also of one that has no task (R373). -/
def State.writeCode (s : State) (p : Nat) (b : List Byte) : State :=
  (List.range Config.cores).foldl (fun s c => ((coreCode b c).getD []).foldl (fun s x => s.writeVA p x.1 x.2) s) s

/-- A core armed: its state and its loop buffer. -/
def State.armCore (s : State) (b : List Byte) (place : List (Nat × Nat)) (groups : List Group) (origin c : Nat) : State :=
  (s.modCore c (launchCore b place groups origin c)).expandFirst c (taskFirst ((secOf b 1 c).getD []))

/-- A channel whose timeline a heat carries: precharged, every row group refreshed at heat cycle 0 (R292, R312). -/
def State.armChannel (s : State) (origin ch : Nat) : State :=
  let x := s.chan ch
  let keep := x.bank.map (fun p => (p.1, { bankReset with atomics := p.2.atomics }))
  s.setChan ch { channelReset with bank := keep.filter (fun p => decide (p.2 ≠ bankReset)), refreshed := origin,
                                   stale := x.stale }

/-! Arming (R212). -/

/-- A rejected heat completes with status 3 (R320). -/
def State.rejectHeat (s : State) (p : Nat) : State := s.endHeat p 3

/-- What the loader names when a heat breaks a timing rule or R260 (R260, R289). -/
def State.nameFault (s : State) (p : Nat) (b : List Byte) (place : List (Nat × Nat)) : State :=
  match imgRuleFault b with
  | some (ch, entry, rule) => s.emit (.rejected p ch entry rule)
  | none =>
    match imgPourFault b place with
    | some (c, d, under, i, t) => s.emit (.pourRejected p c d under i t)
    | none => s

/-- Bytes of an image that must be read, as far as those read so far tell: the header, then the section table, then E (R208). -/
def imageNeed (b : List Byte) : Nat :=
  if b.length < 64 then 64
  else if b.length < 64 + 32 * imgNsect b then 64 + 32 * imgNsect b
  else imageLen b

/-- The outcome of a stretch of the image's read. -/
inductive ImageRead where
  | done | waits | fault
deriving DecidableEq, Repr

/-- The image of a packet read on behind the bytes `b`, exactly E of them, through the table of R316 and each row in a service
slot (R208, R291). -/
def State.readImage (s : State) (part va : Nat) : Nat → List Byte → State × List Byte × ImageRead
  | 0, b => (s, b, .waits)
  | fuel + 1, b =>
    let a := va + b.length
    let n := min (1024 - a % 1024) (imageNeed b - b.length)
    if n = 0 then (s, b, .done)
    else if s.servedVA part a n then
      match s.readVA part a n with
      | (s1, some bs) => s1.readImage part va fuel (b ++ bs)
      | (s1, none) => (s1, b, .fault)
    else (s, b, .waits)

/-- Rows that one stretch reads at most. -/
def maxRows : Nat := 4096

/-- The save area holds the N bytes of R375 (R328). -/
def State.saveOk (s : State) (h : Heat) (b : List Byte) : Bool :=
  let w := pktSave h.packet.toNat
  decide (w = 0) || (decide (wordSpace w = 1) && s.mappedVA (s.ringPart h.queue) (wordAddr w) (saveSize b) true)

/-- Everything that arming does once the image has passed and its regions are placed and pinned (R212). -/
def State.armAll (s : State) (p : Nat) (h : Heat) (b : List Byte) (place : List (Nat × Nat)) (pins : Sparse Nat)
    (pick : Nat → Nat) : State :=
  let groups := placedGroups b place
  let s1 := (heatRegions b).foldl (fun s e =>
    let m := regionContent b place 0xFFFF (regHreg e)
    if regSpace e = 1 then s.fillHbm pins (placeOf place (regHreg e)) (regSize e) m
    else s.fillFlash (pick (regHreg e)) (regSize e) m) s
  let h1 : Heat := { h with image := b, heatId := imgHeatId b, cores := imgCores b, pins := pins,
                            triggers := tableOfPairs (imgTriggers b), groups := groups, timelines := imgTimelines b, place := place }
  let s2 := groups.foldl (fun s g =>
    if g.cbase = 0 then s
    else match h1.pinned (wordAddr g.cbase) with
      | some _ => (List.range ((g.n + 7) / 8)).foldl (fun s i =>
          match h1.pinned (wordAddr g.cbase + i) with | some pa => s.dynStore pa [0] | none => s) s
      | none => s) s1
  let s3 := (s2.partCores p).foldl (fun s c => s.modCore c (fun k => { k with task := false, seq := seqReset, spanTrap := false }))
    (s2.writeCode p b)
  let s4 := (imgCores b).foldl (fun s c => s.armCore b place groups h.origin c) s3
  let s5 := (imgTimelines b).foldl (fun s t => s.armChannel h.origin t.ch) s4
  s5.setHeat p { h1 with phase := .armed, endStatus := (s5.heat p).endStatus }

/-- R212, R216, R344. The front end reads, checks and arms the heat of a partition, or rejects it. -/
def execHeatArm (p : Nat) (s : State) : Result :=
  let h := s.heat p
  if h.phase ≠ .arming then .next s
  else
    match s.readImage (s.ringPart h.queue) (pktImage h.packet.toNat) maxRows h.image with
    | (s1, _, .fault) => .next (s1.rejectHeat p)
    | (s1, b, .waits) => .next ((s1.setHeat p { s1.heat p with image := b }).at (s.gcount + 1) (.heatArm p))
    | (s1, b, .done) =>
      let mods := s1.flashModules
      let pick := fun (r : Nat) => mods.getD (Config.flashPick (s1.choice + r) % mods.length) 0
      let hbm := (heatRegions b).filter (fun e => decide (regSpace e = 1))
      let fl := (heatRegions b).filter (fun e => decide (regSpace e = 2))
      let page := s1.firstPage p (pagesTaken hbm)
      let place := placeHbm page hbm ++ placeFlash pick fl s1.flash.tail
      let s2 : State := { s1 with choice := s1.choice + 256 }
      match s2.pinPages p (hbmPages b place) with
      | none => .next (s2.rejectHeat p)
      | some pins =>
        if s2.imageOk p b place pins && s2.saveOk h b && (fl.isEmpty || !mods.isEmpty) && flashFits pick fl s2.flash.tail &&
            decide (page + pagesTaken hbm ≤ 2 ^ 44) && (placedGroups b place).all (bitmapOk b place) then
          .next (s2.armAll p h b place pins pick)
        else .next ((s2.nameFault p b place).rejectHeat p)

/-- R212, R214. At heat cycle −1 an armed heat goes on to run: its cores start at their START cycles, its timelines at their
first commands. A stop request that came before stands (R247), and stops the cores whose first bundle is a stop point once K is
known (R248, R313). A heat that is not armed slips. -/
def execLaunchCheck (p : Nat) (s : State) : Result :=
  let h := s.heat p
  if h.phase = .armed ∧ h.origin = s.gcount + 1 then
    let s1 := s.setHeat p { h with phase := if h.stopReq.isSome then .stopping else .running }
    let s2 := h.cores.foldl (fun s c => s.at (s.core c).startAt (.taskStart c)) s1
    let s3 := h.timelines.foldl (fun s t =>
      (s.scheduleEntry p t.ch 0).at (h.origin + tREFW) (.rowGroupStale t.ch 0 0)) s2
    .next (if h.cores.isEmpty then s3.at h.origin (.heatCompletion p) else h.cores.foldl State.lookStop s3)
  else if h.phase = .arming ∧ h.origin ≤ s.gcount + 1 then
    .next ((s.setHeat p { h with slipped := true }).endHeat p 1)
  else .next s

end Sys2Proof.Machine
end

