-- ==== Sys2Proof/Machine/Heats.lean ====
section
/-! DEFINITION. The life of a running heat (R218, R219, R241 to R251, R279, R311 to R314, R329): its completion bits and its
completion, the stop after a trap, the pre-emption at a cut with what is saved, the restart and the resume with a shift, and
the end by firmware. -/

namespace Sys2Proof.Machine

/-! Completion (R218, R219). -/

/-- One bit of a byte of HBM set by an atomic OR, whose read meets the line's ECC and tag as any read of a heat (R218, R299). -/
def State.orBit (s : State) (pa n : Nat) : State :=
  let s1 := s.freshen pa
  let s2 := match s1.hbmFault pa 1 with
    | some t => s1.raiseTrap (chanCore (paChannel pa)) t
    | none => s1
  s2.hbmStore pa [s2.hbm.read pa ||| BitVec.ofNat 8 (2 ^ n)]

/-- R218. The bit of a global iteration is set by an atomic OR, whatever has become of the heat that completed it. -/
def execCompletionBitWrite (part group iter : Nat) (s : State) : Result :=
  match s.bits.find? (fun w => decide (w.part = part) && decide (w.group = group) && decide (w.iter = iter) &&
      decide (w.at_ ≤ s.gcount)) with
  | none => .next s
  | some w =>
    let s1 : State := { s with bits := s.bits.erase w }
    match w.pa with
    | some pa => .next (s1.orBit pa (iter % 8))
    | none => .next s1

/-- A core of a heat has nothing left to do (R219). -/
def Core.finished (k : Core) : Bool :=
  decide (k.seq.dom = .halted) && k.pend.all (fun p => p.fw) && k.acc.isEmpty && decide (k.lqOut = 0) && k.copies.isEmpty &&
    k.runs.all (fun r => r.closed) && k.pieces.isEmpty && k.cruc.all (fun x => x.fin.isSome) &&
    k.dyn.all (fun x => x.remote || (decide (dynLen x.rec_.toNat ≤ x.next) && x.reqs.all (fun q => decide (q.st = .done))))

/-- The heat has done all its work (R219); a remote store on its way to a core of the partition counts, whether or not the core
has a task. -/
def State.heatDone (s : State) (p : Nat) : Bool :=
  let h := s.heat p
  h.cores.all (fun c => (s.core c).finished) && (s.partCores p).all (fun c => (s.core c).acc.isEmpty) && !(s.bits.any (fun w => decide (w.part = p) && decide (w.heat = h.origin))) &&
    h.timelines.all (fun t => decide (h.origin + t.end_ + h.sigma ≤ s.gcount))

/-- A stopped heat is the current one of its partition again, or over. -/
def State.unpark (s : State) (p : Nat) (h : Heat) : State :=
  { s with parked := s.parked.filter (fun x => !(decide (x.1 = p) && decide (x.2 = h))) }

/-- R219, R320. In the first cycle in which all its work is done the heat completes. A heat that does not run and that a
class-9 trap ends (R239), be it while it is armed or while it stands stopped, completes with its status. -/
def execHeatCompletion (p : Nat) (s : State) : Result :=
  let h := s.heat p
  match h.phase with
  | .running =>
    if h.cores.all (fun c => decide ((s.core c).seq.dom = .halted)) then
      if s.heatDone p then .next (s.endHeat p 0) else .next (s.at (s.gcount + 1) (.heatCompletion p))
    else .next s
  | .arming | .armed | .trapped | .atCut =>
    match h.endStatus with
    | some st => .next (s.endHeat p st)
    | none => .next s
  | .none | .ended =>
    match s.parked.find? (fun x => decide (x.1 = p) && x.2.endStatus.isSome) with
    | some x => .next ((s.unpark p x.2).completeHeat p x.2 (x.2.endStatus.getD 2))
    | none => .next s
  | .stopping => .next s

/-! The stop after a trap (R241, R242, R311). -/

/-- R241. At S no core of the heat issues any more. -/
def execStopCycle (p : Nat) (s : State) : Result :=
  let h := s.heat p
  if h.phase = .stopping ∧ h.byTrap = true ∧ h.stopS = some s.gcount then
    .next (h.cores.foldl (fun s c => s.modCore c Core.stopIssue) s)
  else .next s

/-- A request with the host, a peer or a memory module is still with the far side, not parked. -/
def Req.unparked (q : Req) : Bool := match q.st with | .parked _ _ => false | _ => true

/-- A `PUT` or `GET` at Q (R253): its parked requests are discarded and it sends nothing more. -/
def DynCmd.drained (x : DynCmd) : DynCmd :=
  if x.remote then x else { x with reqs := x.reqs.filter Req.unparked, next := dynLen x.rec_.toNat }

/-- The engines of a core at Q (R242, R253, R311): what is not finished writes nothing, parked requests are discarded; a `TAKE`
begun before the stop goes on to its end. -/
def Core.drained (k : Core) : Core :=
  let dyn := (k.dyn.map DynCmd.drained).filter (fun x => x.reqs.any (fun q => decide (q.st ≠ .done)))
  { k with copies := [], runs := [], cruc := [], outq := [], acc := [], steps := [], dyn := dyn }

/-- A bank with nothing queued. -/
def Bank.cleared (b : Bank) : Bank := { b with queue := [], window := none, lent := none }

/-- The crucible queues of the channels of a heat are empty after Q (R242). -/
def State.clearQueues (s : State) (h : Heat) : State :=
  h.timelines.foldl (fun s t =>
    let x := s.chan t.ch
    let bank := (x.bank.map (fun p => (p.1, p.2.cleared))).filter (fun p => decide (p.2 ≠ bankReset))
    s.setChan t.ch { x with bank := bank }) s

/-- The core whose firmware context handles a heat (R241): the lowest of those that trapped first. -/
def Heat.handler (h : Heat) : Option Nat :=
  match h.trapCores with
  | [] => none
  | c :: rest => some (rest.foldl min c)

/-! The cut (R250). -/

/-- The parting-line entry of a core's stop point: that of its CUT base (R222, R250). -/
def Core.stopEntry (k : Core) : Option PartLine :=
  match k.seq.stopLine with
  | none => none
  | some (pos, _) =>
    match ((k.half k.seq.half).bundles[pos]?).bind decodeHeader with
    | some h => k.parts.find? (fun p => decide (p.cut = h.cut))
    | none => none

/-- An address lies in a preserved scratchpad region. -/
def Core.preserved (k : Core) (a : Nat) : Bool :=
  k.regions.any (fun r => r.preserve && decide (r.space = 0) && decide (r.addr ≤ a) && decide (a < r.addr + r.size))

/-- What a cut saves of a core (R250). -/
def saveCore (h : Heat) (c : Nat) (k : Core) : SavedCore :=
  let live := k.stopEntry
  let vs := match live with | some p => p.livev | none => 0
  let ms := match live with | some p => p.livem | none => 0
  { core := c, seq := k.seq, sched := (k.seq.stopAt : Int) - h.origin - h.sigma, sigma := h.sigma,
    segHdr := (k.half k.seq.half).hdr, halted := decide (k.seq.dom = .halted), s := k.s, k := k.k, q := k.q, w := k.w,
    y := k.y, a := k.a, csp := k.csp, csbase := k.csbase, slimit := k.slimit, sstat := k.sstat,
    bar := k.bar.map (fun p => (p.1, p.2.settled)), v := k.v.filter (fun p => vs.getLsbD p.1),
    m := k.m.filter (fun p => ms.getLsbD p.1), spad := k.spad.filter (fun p => k.preserved p.1),
    poison := k.poison.filter (fun g => k.preserved (1024 * g)), pours := k.runs.filter (fun r => !r.closed),
    bitsDue := k.bitsDue }

/-- A core after its state has been saved and cleared. Its firmware context goes on, results in flight included. The shadow of
an earlier restart mark does not outlive the cut, whose saved state does not list it (log entry 62). -/
def clearCore (k : Core) : Core :=
  { coreReset with fw := k.fw, nextId := k.nextId, dyn := k.drained.dyn, spanTrap := k.spanTrap,
                   pend := k.pend.filter (fun p => p.fw) }

/-- From the cut on the front end writes a heat's save area, in service slots (R250, R328). -/
def State.writeSaveArea (s : State) (h : Heat) : State :=
  let w := pktSave h.packet.toNat
  if wordSpace w = 1 then
    let r : SaveRun := { part := s.ringPart h.queue, va := wordAddr w, left := saveSize h.image }
    State.serveSaves { s with fe := { s.fe with saves := s.fe.saves ++ [r] } }
  else s

/-- R242, R250, R326. At Q the heat is stopped: after a trap it stands for a restart or ends; at a cut its state is saved. The
scheduler learns of it. -/
def execQuiescence (p : Nat) (s : State) : Result :=
  let h := s.heat p
  if h.phase ≠ .stopping ∨ h.quiet ≠ some s.gcount then .next s
  else
    let s1 := s.clearQueues h
    if h.byTrap then
      let s2 := h.cores.foldl (fun s c => s.modCore c Core.drained) s1
      let dead := match h.handler with | some c => s.fe.deadFw.contains c | none => false
      let s3 := s2.setHeat p { h with phase := .trapped }
      match h.endStatus with
      | some st => .next (s3.endHeat p st)
      | none => if dead then .next (s3.endHeat p 2) else .next (s3.wake s3.scheduler 5)
    else
      let saved := h.cores.map (fun c => saveCore h c (s1.core c))
      let s2 := (h.cores.foldl (fun s c => s.modCore c clearCore) s1).writeSaveArea h
      let s3 := s2.setHeat p { h with phase := .atCut, saved := saved, cutK := none, stopReq := none }
      match h.endStatus with
      | some st => .next (s3.endHeat p st)
      | none => .next (s3.wake s3.scheduler 5)

/-! The stop request (R247, R248, R313, R328). -/

/-- What a core reports (R247). -/
def Core.cutReport (k : Core) : Nat := if k.seq.parted then k.seq.lastCut + 1 else 0

/-- A heat that a stop request finds waiting for its origin: the request stands while it is armed and launched (R247). -/
def Heat.waits (h : Heat) : Bool := decide (h.phase = .arming) || decide (h.phase = .armed)

/-- R247, R329. The request reaches every core in the present cycle; a heat that cannot be pre-empted ignores it, and so does
one that stops already. Before the origin no core has issued a parting line, and K is 0. -/
def execHeatStopRequest (p : Nat) (s : State) : Result :=
  let h := s.heat p
  let live := h.cores.filter (fun c => decide ((s.core c).seq.dom ≠ .halted))
  if pktSave h.packet.toNat ≠ 0 ∧ ((h.phase = .running ∧ live ≠ []) ∨ (h.waits = true ∧ h.stopReq.isNone = true)) then
    let K := if h.waits then 0 else live.foldl (fun m c => max m (s.core c).cutReport) 0
    .next ((s.setHeat p { h with phase := if h.waits then h.phase else .stopping, byTrap := false, stopReq := some s.gcount,
                                 cutNext := K, quiet := none, stopS := none }).at (s.gcount + 96) (.cutReduction p))
  else .next s

/-- R247, R248. K reaches every core, and one whose next bundle is its stop point stops. -/
def execCutReduction (p : Nat) (s : State) : Result :=
  let h := s.heat p
  match h.stopReq with
  | some r =>
    if (h.phase = .stopping ∨ h.waits = true) ∧ h.byTrap = false ∧ s.gcount = r + 96 ∧ h.cutK.isNone then
      let s1 := s.setHeat p { h with cutK := some h.cutNext }
      .next ((h.cores.foldl State.lookStop s1).noteStopped (h.cores.headD 0))
    else .next s
  | none => .next s

/-! Starting again (R245, R251, R279, R314). -/

/-- The heat of a partition that a restart or resume names: the current one, or the one parked last when the current one is
over. -/
def State.stoppedHeat (s : State) (p : Nat) (want : HeatPhase) : Option Heat :=
  let h := s.heat p
  if h.phase = want then some h
  else if h.phase = .none ∨ h.phase = .ended then
    (s.parked.find? (fun x => decide (x.1 = p) && decide (x.2.phase = want))).map (fun x => x.2)
  else none

/-- The least of some cycles. -/
def leastOf : List Int → Option Int
  | [] => none
  | a :: rest => match leastOf rest with | some b => some (min a b) | none => some a

/-- The test of R245: M + Σ + Δ ≥ max(Q, C) + 1024. -/
def shiftOk (h : Heat) (now : Nat) (m : Int) (delta : Nat) : Bool :=
  decide (max ((h.quiet.getD 0 : Nat) : Int) now - h.origin + 1024 ≤ m + h.sigma + delta)

/-- A channel after a pause (R292, R312): precharged, every deadline moved by Δ. -/
def State.resumeChannel (s : State) (ch delta : Nat) : State :=
  let x := s.chan ch
  let bank := (x.bank.map (fun p => (p.1, { bankReset with atomics := p.2.atomics }))).filter (fun p => decide (p.2 ≠ bankReset))
  let s1 := s.setChan ch { channelReset with bank := bank, stale := x.stale, refreshed := x.refreshed + delta,
                                             deadline := x.deadline.map (fun p => (p.1, p.2 + delta)) }
  let s2 := s1.at (x.refreshed + delta + tREFW) (.rowGroupStale ch 0 0)
  x.deadline.foldl (fun s p => s.atOnce (p.2 + delta) (.rowGroupStale ch (p.1 / 8192) (p.1 % 8192))) s2

/-- The first entry of a timeline with schedule cycle M or later. -/
def firstFrom (m : Int) : List (BitVec 128) → Nat → Nat
  | [], i => i
  | e :: rest, i => if m ≤ (entCycle e.toNat : Int) then i else firstFrom m rest (i + 1)

/-- The timelines of a heat go on from schedule cycle M (R245, R314). -/
def State.resumeTimelines (s : State) (p : Nat) (m : Int) (delta : Nat) : State :=
  (s.heat p).timelines.foldl (fun s t => (s.resumeChannel t.ch delta).scheduleEntry p t.ch (firstFrom m t.entries 0)) s

/-- Arrivals of an HBM pour that fall at or before a cycle (R258, R279). -/
def PourRun.arrivedBy (r : PourRun) (p : PourDesc) (t : Int) : Nat :=
  if t < (r.start + p.delay : Nat) then 0 else ((t - (r.start + p.delay : Nat)) / p.period).toNat + 1

/-- What the reads of a pour's slot blocks and of its refill up to tundish offset `hi` meet (R279, R299). -/
def State.refillMeets (s : State) (c : Nat) (p : PourDesc) (r : PourRun) (hi : Nat) : State :=
  let lo := p.toff r.next
  let s1 := s.slotsMeet c p r.next
  if hi ≤ lo then s1
  else if p.point = 3 then s1.streamMeets c p (p.soff 0 + lo) (hi - lo)
  else (({ r with nextExp := r.next } : PourRun).blocksTo p hi).foldl (fun s j => s.streamMeets c p (p.soff j) (p.clen j)) s1

/-- R279. A shadowed or saved pour started again at its next block with its timetable moved by `shift`: its slots receive their
blocks, and the tundish is filled with what its arrivals had brought by the schedule cycle `upto` of the resumed bundle (an
absolute cycle of the unshifted timetable). Refilled bytes count at the barrier unless they had counted before (log entry 66). -/
def State.restartPour (s0 : State) (c : Nat) (r : PourRun) (shift : Nat) (upto : Int) : State :=
  match (s0.core c).descOf r.desc with
  | none => s0
  | some p =>
    let s := s0.refillMeets c p r (max (p.toff r.next) (min p.total (p.toff r.block + r.arrivedBy p upto * p.chunk)))
    let k := s.core c
    let lo := p.toff r.next
    let hi := max lo (min p.total (p.toff r.block + r.arrivedBy p upto * p.chunk))
    let r0 : PourRun := { r with id := k.nextId, start := r.start + shift, nextExp := r.next,
                                 arrivals := if p.isStatic then r.arrivedBy p upto else 0, entered := [], got := [],
                                 asked := hi, flying := 0, reqs := [], counted := r.got ++ r.counted, expanded := [], books := [], tables := [],
                                 preload := p.slotBlocks r.next, closed := false }
    let r1 := s.fillSlots c p r.next r0
    let r2 := if lo < hi then
        (r1.blocksTo p hi).foldl (fun r j => r.expandUp p j (s.streamDirect c p (p.soff j) (p.clen j))) r1
      else r1
    let bs := if hi ≤ lo then []
      else if p.point = 3 then s.streamDirect c p (p.soff 0 + lo) (hi - lo)
      else s.tundishBytes c r2 p lo hi
    let r3 : PourRun := { r2 with entered := Memory.writeBytes [] lo bs, got := if lo < hi then [(lo, hi)] else [] }
    let s0 := s.setCore c { k with runs := k.runs ++ [r3], nextId := k.nextId + 1 }
    let s1 := match r3.bar with
      | some b => if r3.toCount lo hi = 0 then s0 else s0.touchBar c b (-(r3.toCount lo hi : Int)) false
      | none => s0
    let s2 := if p.isStatic then s1.scheduleArrival c r3.id else s1.atOnce s1.gcount (.pourRequest c r3.id)
    let s3 := if r3.preload.isEmpty then s2 else s2.later 1 (.codebookDelivery c r3.id)
    s3.at (r3.removal p r.next) (.blockRemoval c r3.id r.next)

/-- The loop buffer filled again from a segment's header (R92, R204). The spec bounds the time by the mark's issue only; the
lines are read in the command's own cycle (log entry 62). -/
def State.refill (s : State) (c : Nat) (h : Bool) (hdr : Nat) : State :=
  let s1 := s.modCore c (fun k => { k.setHalf h (halfBegin hdr) with seq := { k.seq with half := h } })
  let s2 := s1.fetchAll c h maxLines
  (s2.expandNext c h).fetchAll c (!h) maxLines

/-- A core issues its sequencer's bundle at a cycle (R245, R251). -/
def State.issueAt (s : State) (c due : Nat) : State :=
  (s.modCore c (fun k => { k with seq := { k.seq with due := due } })).at due (.bundleIssue c)

/-- The shadow of a core's last restart mark in a heat (R245): one that a mark of another heat left is none of this heat's. -/
def Core.markOf (k : Core) (h : Heat) : Option Shadow := k.shadow.filter (fun x => decide (x.heat = h.origin))

/-- A core without the records of faults that expansion or a branch met (R204). -/
def Core.forgetRecords (k : Core) : Core :=
  { k with half0 := { k.half0 with rec_ := none }, half1 := { k.half1 with rec_ := none }, seq := { k.seq with bad := none } }

/-- R204, R205, R245. A core with a mark restored from its shadow: its sequencer, streams, carries and barriers. CSP, CSBASE,
SLIMIT, the load queue and the completion bits of iterations completed before the mark keep what they hold (log entry 62), SSTAT
keeps its own (R68). A core with no mark
stays stopped. -/
def State.restartCore (s : State) (p c : Nat) : State :=
  let k := s.core c
  let h := s.heat p
  match k.markOf h with
  | none => s.modCore c Core.forgetRecords
  | some x =>
    let due := ((h.origin : Int) + x.sched + h.sigma).toNat
    let upto : Int := (h.origin : Int) + x.sched + x.sigma
    let issued := ((h.origin : Int) + x.sched + x.sigma).toNat
    let s1 := s.setCore c { k with seq := { x.seq with due := due, lastIssue := k.seq.lastIssue }, a := x.a, y := x.y,
                                   bar := x.bar, runs := [], bitsDue := k.bitsDue.filter (fun d => decide (d.at_ < issued)) }
    let s2 := s1.refill c x.seq.half x.segHdr
    (x.pours.foldl (fun s r => s.restartPour c r (h.sigma - x.sigma) upto) s2).issueAt c due

/-- A span of trap records begins for every core of a partition (R240). -/
def State.newSpan (s : State) (p : Nat) : State :=
  (s.partCores p).foldl (fun s c => s.modCore c (fun k => { k with spanTrap := false })) s

/-- R245. A trapped heat starts again from its restart marks with the shift Δ. -/
def execHeatRestart (p delta : Nat) (s : State) : Result :=
  match s.stoppedHeat p .trapped with
  | none => .next s
  | some h =>
    match leastOf (h.cores.filterMap (fun c => ((s.core c).markOf h).map (fun x => x.sched))) with
    | none => .next s
    | some m =>
      if shiftOk h s.gcount m delta then
        let h1 : Heat := { h with phase := .running, sigma := h.sigma + delta, stopS := none, quiet := none, byTrap := false,
                                  trapCores := [], stopReq := none, cutK := none }
        let s1 := ((s.unpark p h).setHeat p h1).newSpan p
        let s2 := h.cores.foldl (fun s c => s.restartCore p c) s1
        .next (s2.resumeTimelines p m delta)
      else .next s

/-- The scratchpad or an HBM region of a core does not keep its contents over a cut (R28, R250). -/
def Core.discards (k : Core) : Bool := k.regions.any (fun r => !r.preserve && decide (r.space ≤ 1))

/-- The loops at a stop point as a resume starts them (R251): the innermost one at its kernel iteration with its original
count. -/
def resumedLoops : List LoopRec → List LoopRec
  | [] => []
  | l :: rest => { l with n := l.orig, j0 := l.j } :: rest

/-- R250, R251. A core restored from what the cut saved of it, with its pours started again, those of a core that had halted too:
they stand at `m`, the earliest schedule cycle among the stop positions. A branch pending at the stop position stays pending (log
entry 62). -/
def State.resumeCore (s : State) (p : Nat) (m : Int) (x : SavedCore) : State :=
  let h := s.heat p
  let c := x.core
  let k0 := launchCore h.image h.place h.groups h.origin c (s.core c)
  let flags := if k0.discards then x.sstat ||| BitVec.ofNat 64 (2 ^ 3) else x.sstat
  let dom := if x.halted then Domain.halted else .static
  let q : Seq := { x.seq with dom := dom, loops := resumedLoops x.seq.loops, hold := .none, memHold := .none, dynSince := none, stopLine := none,
                              resumed := true }
  let k : Core := { k0 with s := x.s, k := x.k, q := x.q, w := x.w, y := x.y, a := x.a, csp := x.csp, csbase := x.csbase,
                            slimit := x.slimit, sstat := flags, bar := x.bar, v := x.v, m := x.m, spad := x.spad,
                            poison := x.poison, seq := q, started := true, dyn := (s.core c).dyn, bitsDue := x.bitsDue }
  let s1 := s.setCore c k
  let upto : Int := (h.origin : Int) + (if x.halted then m else x.sched) + x.sigma
  let pour := fun (s : State) => x.pours.foldl (fun s r => s.restartPour c r (h.sigma - x.sigma) upto) s
  if x.halted then pour s1
  else (pour (s1.refill c x.seq.half x.segHdr)).issueAt c ((h.origin : Int) + x.sched + h.sigma).toNat

/-- The HBM regions that a cut discards read as zero after it (R250). -/
def State.zeroDiscarded (s : State) (h : Heat) : State :=
  (heatRegions h.image).foldl (fun s e =>
    if regSpace e = 1 && !regKeep e then s.fillHbm h.pins (placeOf h.place (regHreg e)) (regSize e) [] else s) s

/-- R251, R314. A heat stopped at a cut goes on with the shift Δ. -/
def execHeatResume (p delta : Nat) (s : State) : Result :=
  match s.stoppedHeat p .atCut with
  | none => .next s
  | some h =>
    let m := leastOf ((h.saved.filter (fun x => !x.halted)).map (fun x => x.sched))
    let ok := match m with | some m => shiftOk h s.gcount m delta | none => true
    if ok then
      let h1 : Heat := { h with phase := .running, sigma := h.sigma + delta, stopS := none, quiet := none, byTrap := false,
                                trapCores := [], stopReq := none, cutK := none, saved := [] }
      let s1 := (((s.unpark p h).setHeat p h1).newSpan p).zeroDiscarded h1
      let s2 := h.saved.foldl (fun s x => s.resumeCore p (m.getD 0) x) s1
      let s3 := match m with | some m => s2.resumeTimelines p m delta | none => s2
      .next (s3.atOnce s3.gcount (.heatCompletion p))
    else .next s

/-! The end by firmware (R329). -/

/-- A heat ends with status 5: at once when it has not begun or stands stopped, else through a stop as after a trap. -/
def State.stopHeat (s : State) (p : Nat) : State :=
  let h := s.heat p
  match h.phase with
  | .arming | .armed => s.endHeat p 5
  | .running => if s.gcount < h.origin then s.endHeat p 5 else s.fixStop p [] (some 5)
  | .stopping =>
    if h.byTrap then s.setHeat p { h with endStatus := some (h.endStatus.getD 5) }
    else if s.gcount < h.origin then s.endHeat p 5
    else s.fixStop p [] (some 5)
  | .trapped | .atCut => s.endHeat p 5
  | .none | .ended =>
    match s.parked.find? (fun x => decide (x.1 = p)) with
    | some x => (s.unpark p x.2).completeHeat p x.2 5
    | none => s

/-- R329. -/
def execHeatEnd (p : Nat) (s : State) : Result := .next (s.stopHeat p)

end Sys2Proof.Machine
end

