-- ==== Sys2Proof/Machine/FrontEnd.lean ====
section
/-! DEFINITION. The front end's own events (R321, R330, R333, R334, R339, R353, R354): doorbells, re-evaluation ports, HOLD, what
waits in the front end, the mailbox engine, and the timer wheel. -/

namespace Sys2Proof.Machine

/-! Doorbells and ports. -/

/-- ERRLOG bit n of a function is set (R340). -/
def State.logError (s : State) (fn n : Nat) : State :=
  let old := sget 0 s.mgmt.errlog fn
  { s with mgmt := { s.mgmt with errlog := sset 0 s.mgmt.errlog fn (old ||| BitVec.ofNat 3 (2 ^ n)) } }

/-- The boot ROM has failed, and the management function alone answers (R345). -/
def State.bootFailed (s : State) : Bool := s.mgmt.bootstat.getLsbD 7

/-- R321, R339. A host write to W2 of a function: an aligned 32-bit write of a doorbell's offset rings its queue; any other is
discarded and logged. The management function has no queues. -/
def execDoorbell (src : HostFn) (w : W2Write) (s : State) : Result :=
  if 32 ≤ src.fn ∨ s.bootFailed = true then .next s
  else if w.off < 0x200 ∧ w.off % 8 = 0 ∧ w.data.length = 4 then
    .next ((s.ring (64 * src.fn + w.off / 8) (.written (BitVec.ofNat 32 (natOf w.data))) true (some src.link)).serveEvals)
  else .next (s.logError src.fn 1)

/-- R353. The filter evaluates the queue from the read of its head packet on; a kick of this evaluation wakes nobody. -/
def execReevaluationPort (q : Nat) (s : State) : Result :=
  if q < 2048 then .next ((s.ring q .read false).serveEvals) else .next s

/-! HOLD (R325, R334, R354). -/

/-- R325. The core may write the scheduler's registers: the scheduler and the standby may. -/
def State.maySchedule (s : State) (core : Nat) : Bool := decide (core = s.scheduler) || decide (core = standbyCore)

/-- A completion that a fall of HOLD lets go (R354). -/
def Completion.letGo (d : Completion) : Completion := { d with released := true }

/-- HOLD falls: every completion it held is let go, those whose words waited for a service slot first, and published in the order
of its COMPLETE record (R334, R354). -/
def State.dropHold (s : State) : State :=
  let fe : FrontEnd := { s.fe with hold := false, heldDone := [], pubs := s.fe.pubs.map Completion.letGo }
  let s1 : State := { s with fe := fe }
  let s2 := if s.fe.pubs.isEmpty then s1 else s1.atOnce s1.gcount .journalHeldAppend
  s.fe.heldDone.foldl (fun s d => s.publish d.letGo) s2

/-- R334, R354. A write of `hold`; when HOLD falls what it held is published. -/
def execHoldWrite (core : Nat) (v : Word64) (s : State) : Result :=
  if s.maySchedule core then
    if v.getLsbD 0 then .next { s with fe := { s.fe with hold := true } }
    else if s.fe.hold then .next s.dropHold
    else .next s
  else .next s


/-! The timer wheel (R330). -/

/-- The first multiple of 1024 at or after a cycle. -/
def nextBucket (t : Nat) : Nat := (t + 1023) / 1024 * 1024

/-- The queue's timer goes off at its TNEXT. -/
def State.setTimer (s : State) (q : Nat) : State :=
  let x := s.queue q
  if x.tarm && decide (s.gcount ≤ x.tnext.toNat) then s.atOnce x.tnext.toNat (.timerRelease q) else s

/-- R330. A `twarm` write with bit 63 set arms the queue from its head packet, which must be of TYPE 2; the packet is read in a
service slot. -/
def execTimerArm (q : Nat) (s : State) : Result :=
  let x := s.queue q
  if x.enabled = false ∨ x.head = x.tail then .next s
  else if s.packetServed q = false then .next (s.atOnce (s.gcount + 1) (.timerArm q))
  else
    match s.packetAt q x.head.toNat with
    | (s1, none) => .next s1
    | (s1, some pkt) =>
      if pktType pkt = 2 then
        let t := nextBucket (max (pktTime pkt) s1.gcount)
        .next ((s1.setQueue q { x with tarm := true, tnext := BitVec.ofNat 64 t }).setTimer q)
      else .next s1

/-- R330. Disarming clears TARM and leaves RUN alone. -/
def execTimerDisarm (q : Nat) (s : State) : Result := .next (s.setQueue q { s.queue q with tarm := false })

/-- The release of a queue whose last run is over, RUN being 1 already: it launches its head packet, or it kicks (R321, R330). A
one-shot release that launches advances HEAD. -/
def State.release1 (s : State) (q : Nat) (pkt : Option Nat) : State :=
  let x := s.queue q
  match pkt with
  | none => s.kickQueue q true
  | some p =>
    if s.mayLaunch q p 2 then
      let head := if pktPeriod p = 0 then x.head + 1 else x.head
      (s.setQueue q { x with head := head }).launch q x.head.toNat p
    else s.kickQueue q true

/-- The timer of a queue still armed for the release of TNEXT goes on by PERIOD, or ends (R330). A release whose cycle has come
while this one waited for a service slot follows at once, so that the phase is kept. -/
def State.timerOn (s : State) (q : Nat) (tnext : BitVec 64) (period : Nat) : State :=
  let x := s.queue q
  let n := tnext + BitVec.ofNat 64 period
  if x.tarm = false ∨ x.tnext ≠ tnext then s
  else if period = 0 then s.setQueue q { x with tarm := false }
  else
    let s1 := s.setQueue q { x with tnext := n }
    if n.toNat < s.gcount then
      let r : Release := { queue := q, tnext := n, launches := none, got := none }
      State.at { s1 with fe := { s1.fe with releases := s1.fe.releases ++ [r] } } s1.gcount (.timerRelease q)
    else s1.setTimer q

/-- RUN tested at a release: a run still open counts a skip, else RUN becomes 1 (R330). -/
def State.testRun (s : State) (q : Nat) : State × Bool :=
  let x := s.queue q
  if x.run then (s.setQueue q { x with skips := x.skips + 1 }, false) else (s.setQueue q { x with run := true }, true)

/-- A release goes as far as it can in the present cycle: its head packet, and the header of the image when it launches, are read
in service slots (R291, R330). While the head packet cannot be read its PERIOD is an open value. -/
def State.serveRelease (s : State) (r : Release) (launches : Bool) : State :=
  match s.readHead r.queue r.got launches 2 with
  | (s1, .waits got) =>
    let r1 : Release := { r with launches := some launches, got := got }
    { s1 with fe := { s1.fe with releases := r1 :: s1.fe.releases } }
  | (s1, .fault) =>
    let (d, s2) := s1.draw
    (if launches then s2.release1 r.queue none else s2).timerOn r.queue r.tnext (1024 * d)
  | (s1, .packet p) => (if launches then s1.release1 r.queue (some p) else s1).timerOn r.queue r.tnext (pktPeriod p)

/-- The releases with that of the queue's TNEXT, in whose cycle the wheel stands, unless it is there already. -/
def State.newRelease (s : State) (q : Nat) : List Release :=
  let x := s.queue q
  let r : Release := { queue := q, tnext := x.tnext, launches := none, got := none }
  if x.tarm && decide (x.tnext.toNat = s.gcount) && !s.fe.releases.any (fun r => decide (r.queue = q) && decide (r.tnext = x.tnext))
  then s.fe.releases ++ [r] else s.fe.releases

/-- A release of the queue that still waits is looked at in the next cycle. -/
def State.moreReleases (s : State) (q : Nat) : State :=
  if s.fe.releases.any (fun r => decide (r.queue = q)) then s.atOnce (s.gcount + 1) (.timerRelease q) else s

/-- R330. At TNEXT the wheel releases the queue or counts a skip, and the timer goes on by PERIOD. A release waits for the
completions that a fall of HOLD has let go (R354), and for the service slots in which its packet is read (R291). -/
def execTimerRelease (q : Nat) (s : State) : Result :=
  let all := s.newRelease q
  match all.find? (fun r => decide (r.queue = q)) with
  | none => .next s
  | some r =>
    if s.releasing then .next (State.moreReleases { s with fe := { s.fe with releases := all } } q)
    else
      let s1 : State := { s with fe := { s.fe with releases := all.erase r } }
      let s2 := match r.launches with
        | some l => s1.serveRelease r l
        | none => let (s2, l) := s1.testRun q; s2.serveRelease r l
      .next (s2.moreReleases q)

end Sys2Proof.Machine
end

