-- ==== Sys2Proof/Machine/Regs.lean ====
section
/-! DEFINITION. The device's registers as the host and firmware reach them: queue records (R316), the management and fleet
registers (R340, R341, R358), the translation caches behind INVAL (R344), the key slots (R342), the shape record (R363). -/

namespace Sys2Proof.Machine

/-! Queue records (R316). -/

/-- The 64-bit word w of a queue's record. -/
def State.queueWord (s : State) (q w : Nat) : Nat :=
  let x := s.queue q
  match w with
  | 0 => x.base.toNat
  | 1 => x.head.toNat + x.tail.toNat * 2 ^ 32
  | 2 => x.met.toNat + x.log2n.toNat * 2 ^ 32 + q / 64 % 32 * 2 ^ 37 + x.part.toNat * 2 ^ 42 + bit x.res * 2 ^ 44 +
      bit x.err * 2 ^ 45 + bit x.run * 2 ^ 46 + bit x.tarm * 2 ^ 47 + x.skips.toNat * 2 ^ 48
  | _ => x.tnext.toNat

/-- A queue record after a firmware write of word w: TAIL and VI are read-only, a 1 clears ERR. -/
def Queue.writeWord (x : Queue) (w v : Nat) : Queue :=
  match w with
  | 0 => { x with base := BitVec.ofNat 60 v }
  | 1 => { x with head := BitVec.ofNat 32 v }
  | 2 => { x with met := BitVec.ofNat 32 v, log2n := BitVec.ofNat 5 (fld v 32 5), part := BitVec.ofNat 2 (fld v 42 2),
                  res := decide (fld v 44 1 = 1), err := x.err && decide (fld v 45 1 = 0), run := decide (fld v 46 1 = 1),
                  tarm := decide (fld v 47 1 = 1), skips := BitVec.ofNat 16 (fld v 48 16) }
  | 3 => { x with tnext := BitVec.ofNat 64 v }
  | _ => x

/-! Registers written as they stand (R341, R358). -/

/-- Firmware writes of these registers are discarded, and the host's management function does not reach the others. -/
def regTakes (byFirmware : Bool) : RegName → Bool
  | .reqsig | .ttbase _ | .vmap _ => true
  | .queueWord q w => byFirmware && decide (q < 2048) && decide (w < 4)
  | .extent p e => byFirmware && decide (p < 4) && decide (e < 16)
  | .priv | .linkb | .keybuf | .trust _ _ | .tsrc | .peerid | .peertab | .trbase _ | .trtail _ | .trmask _ => !byFirmware

/-- A register's new value, without its reserved and read-only bits. -/
def State.setReg (s : State) (r : RegName) (v : Nat) : State :=
  let w : Word64 := BitVec.ofNat 64 v
  let m := s.mgmt
  let t := s.trace
  match r with
  | .priv => { s with mgmt := { m with priv := w } }
  | .reqsig => { s with mgmt := { m with reqsig := w } }
  | .linkb => { s with mgmt := { m with linkb := w &&& 1 } }
  | .keybuf => { s with mgmt := { m with keybuf := BitVec.ofNat 512 v } }
  | .ttbase p => State.mapsChanged { s with mgmt := { m with ttbase := sset 0 m.ttbase p (w &&& 0xFFFFFFFF00) } }
  | .vmap f => { s with mgmt := { m with vmap := sset 0 m.vmap f (w &&& 0x0FFFFFFFFFFF0003) } }
  | .trust p j => { s with mgmt := { m with trust := sset 0 m.trust (4 * p + j) (BitVec.ofNat 544 v) } }
  | .tsrc => { s with trace := { t with tsrc := w } }
  | .peerid => { s with trace := { t with peerid := w } }
  | .peertab => { s with trace := { t with peertab := w } }
  | .trbase d => { s with trace := { t with base := sset 0 t.base d (w &&& 0xFFFC000001) } }
  | .trtail d => { s with trace := { t with tail := sset 0 t.tail d (v % 2 ^ 26) } }
  | .trmask d => { s with trace := { t with mask := sset (BitVec.allOnes 32) t.mask d (BitVec.ofNat 32 v) } }
  | .queueWord q k => (s.setQueue q ((s.queue q).writeWord k v)).setTimer q
  | .extent p e => { s with mgmt := { m with extents := sset 0 m.extents (16 * p + e) (w &&& 0xFFFFFFFFFFE00001) } }

/-- R316, R341, R358, R305. A register write that has no event of its own. -/
def execRegisterWrite (byFirmware : Bool) (r : RegName) (v : Nat) (s : State) : Result :=
  if regTakes byFirmware r then .next (s.setReg r v) else .next s

/-! PMODE (R315). -/

/-- A heat is armed or running in a partition. -/
def State.heatLive (s : State) (p : Nat) : Bool :=
  match (s.heat p).phase with
  | .arming | .armed | .running | .stopping => true
  | .none | .trapped | .atCut | .ended => false

/-- R315. A write to PMODE takes effect when no heat is armed or running, and is discarded otherwise. -/
def execPmodeWrite (v : Word64) (s : State) : Result :=
  if (List.range 4).any s.heatLive then .next s
  else .next { s with mgmt := { s.mgmt with pmode := v &&& 1 } }

/-! Key slots (R342). -/

/-- Slot k is in use by the partition's rotation or scrub. -/
def State.slotInUse (s : State) (p k : Nat) : Bool :=
  let r := s.patrolOf p
  decide (r.state ≠ 0) && (decide (r.cur.toNat = k) || decide (r.next.toNat = k))

/-- R341, R342. A write of KEYCTL with bit 0 set loads a key slot from KEYBUF, unless the slot is in use. -/
def execKeySlotLoad (part k : Nat) (v : Word64) (s : State) : Result :=
  if v.getLsbD 0 && !s.slotInUse part k then
    .next { s with mgmt := { s.mgmt with keys := sset none s.mgmt.keys (4 * part + k) (some s.mgmt.keybuf) } }
  else .next s

/-! INVAL (R344). -/

/-- All ones invalidates every translation of the partition. -/
def invalAll : Word64 := BitVec.allOnes 64

/-- The write of INVAL_p: it reads as written until every die has finished with each address written, at times the spec leaves
open. -/
def State.writeInval (s : State) (part : Nat) (v : Word64) : State :=
  let q := sget [] s.mgmt.invalQ part ++ [v]
  let s1 : State := { s with mgmt := { s.mgmt with inval := sset 0 s.mgmt.inval part v, invalQ := sset [] s.mgmt.invalQ part q } }
  (s1.later 1 (.invalComplete part)).mapsChanged

/-- R344. -/
def execInval (part : Nat) (v : Word64) (s : State) : Result := .next (s.writeInval part v)

/-- A cached translation of a partition covers a VA, in a leaf of its size. -/
def cacheCovers (part : Nat) (v : Word64) (e : Nat × Nat × Nat) : Bool :=
  decide (e.1 % 4 = part) &&
    (decide (v = invalAll) || decide (e.2.1 * 65536 / 2 ^ fld e.2.2 1 6 = v.toNat % 2 ^ 60 / 2 ^ fld e.2.2 1 6))

/-- R344. Every die has finished with the first address written: its old translations are gone, and INVAL_p reads 0 once no
address is left. -/
def execInvalComplete (part : Nat) (s : State) : Result :=
  match sget [] s.mgmt.invalQ part with
  | [] => .next s
  | v :: rest =>
    let left := if rest.isEmpty then 0 else sget 0 s.mgmt.inval part
    .next { s with cache := s.cache.filter (fun e => !cacheCovers part v e),
                   mgmt := { s.mgmt with inval := sset 0 s.mgmt.inval part left,
                                         invalQ := sset [] s.mgmt.invalQ part rest } }

/-! The shape record (R363). -/

/-- The units of a kind, lowest bit first, 1 for one that is present. -/
def State.shapeBits (s : State) (u : UnitKind) (n : Nat) : List Bool := (List.range n).map (fun i => !s.isAbsent u i)

/-- Bits as a number, the first the lowest. -/
def numOfBits : List Bool → Nat
  | [] => 0
  | b :: rest => bit b + 2 * numOfBits rest

/-- The shape record, as one little-endian number. -/
def State.shapeRecord (s : State) : Nat :=
  numOfBits (s.shapeBits .core 256 ++ s.shapeBits .channel 384 ++ s.shapeBits .flash 4 ++ s.shapeBits .peerLane 72 ++
    s.shapeBits .hostLane 32)

/-! Attestation registers (R347). -/

/-- ATTREQ of a function (R347). -/
def State.attStatus (s : State) (fn : Nat) : Nat := sget 0 s.attest.status fn

/-- The 3,024 bytes at W0 offset 0x1000 of a function: its last quote's body and signature, and what ATTREQ reads (R347). -/
def State.quoteOf (s : State) (fn : Nat) : List Byte :=
  let b := sget [] s.attest.quotes fn
  b ++ zeros (3020 - b.length) ++ bytesOf 4 (s.attStatus fn)

/-- ATTREQ and the quote among the words of a function's W0 (R347). -/
def State.attRead (s : State) (fn off : Nat) : Nat :=
  if off = 0x400 then s.attStatus fn
  else if 0x1000 ≤ off ∧ off < 0x1000 + 3024 then natOf (((s.quoteOf fn).drop (off - 0x1000)).take 8)
  else 0

/-! W0 of the management function (R341, R347, R358, R363), by 8-byte words. -/

/-- What the 64-bit word at an offset reads as; unlisted offsets read 0 (R339). -/
def State.mgmtRead (s : State) (off : Nat) : Nat :=
  let m := s.mgmt
  let t := s.trace
  if off = 0x000 then m.pmode.toNat
  else if off = 0x008 then m.priv.toNat
  else if off = 0x010 then m.reqsig.toNat
  else if off = 0x018 then m.linkb.toNat
  else if off = 0x020 then m.bootstat.toNat
  else if 0x100 ≤ off ∧ off < 0x200 then
    match off % 0x40 with
    | 0 => (sget 0 m.ttbase ((off - 0x100) / 0x40)).toNat
    | 8 => (sget 0 m.inval ((off - 0x100) / 0x40)).toNat
    | _ => 0
  else if 0x200 ≤ off ∧ off < 0x200 + 8 * 33 then (sget 0 m.vmap ((off - 0x200) / 8)).toNat
  else if 0x900 ≤ off ∧ off < 0x900 + 0x600 then
    let i := (off - 0x900) % 0x60
    fld (sget 0 m.trust ((off - 0x900) / 0x60)).toNat (8 * i) 64
  else if off = 0x2000 then s.dtime s.gcount
  else if off = 0x2008 then t.tsrc.toNat
  else if off = 0x2010 then t.peerid.toNat
  else if off = 0x2018 then t.peertab.toNat
  else if off = 0x2020 then 0x2400
  else if 0x2100 ≤ off ∧ off < 0x2200 then
    let d := (off - 0x2100) / 0x40
    match off % 0x40 with
    | 0x00 => (sget 0 t.base d).toNat
    | 0x08 => sget 0 t.head d
    | 0x10 => sget 0 t.tail d
    | 0x18 => sget 0 t.drop d % 2 ^ 64
    | 0x20 => (sget (BitVec.allOnes 32) t.mask d).toNat
    | _ => 0
  else if 0x2400 ≤ off ∧ off < 0x2460 then fld s.shapeRecord (8 * (off - 0x2400)) 64
  else s.attRead 32 off

/-- A firmware store of a 64-bit word to an offset of the management function's W0 (R341, R358): REQSIG, TTBASE, INVAL and
VMAP accept it, every other write is discarded. -/
def State.mgmtWrite (s : State) (off v : Nat) : State :=
  if off = 0x010 then s.setReg .reqsig v
  else if 0x100 ≤ off ∧ off < 0x200 then
    let p := (off - 0x100) / 0x40
    match off % 0x40 with
    | 0 => s.setReg (.ttbase p) v
    | 8 => s.writeInval p (BitVec.ofNat 64 v)
    | _ => s
  else if 0x200 ≤ off ∧ off < 0x200 + 8 * 33 then s.setReg (.vmap ((off - 0x200) / 8)) v
  else s

/-! W0 of a virtual function (R340). -/

/-- MBASE of a function (R340, R341). -/
def State.mbase (s : State) (fn : Nat) : Nat := fld (sget 0 s.mgmt.vmap fn).toNat 16 44 * 2 ^ 16

/-- What the 64-bit word at an offset of a virtual function's W0 reads as. -/
def State.viRead (s : State) (v off : Nat) : Nat :=
  if off = 0x000 then 0x53580741
  else if off = 0x008 then v + s.homeOf v * 2 ^ 8 + bit (s.mgmt.priv.getLsbD (s.homeOf v)) * 2 ^ 16
  else if off = 0x010 then s.mbase v
  else if off = 0x018 then (sget 0 s.mgmt.errlog v).toNat
  else if 0x100 ≤ off ∧ off < 0x300 then
    let x := s.queue (64 * v + (off - 0x100) / 8)
    x.base.toNat + (x.log2n.toNat + 12) % 16 * 2 ^ 60
  else s.attRead v off

end Sys2Proof.Machine
end

