-- ==== Sys2Proof/Machine/Firmware.lean ====
section
/-! DEFINITION. The firmware contexts (R121, R176, R202, R203, R317, R323 to R327, R335, R350, R351): the issue of a bundle in
an idle cycle, the taking of a cause, the faults of a context with the machine-check route, and the completion of a MEM
operation. -/

namespace Sys2Proof.Machine

/-! When a context issues (R323). -/

/-- Bundles the context has issued in the aligned window of 256 cycles that holds cycle g. -/
def FwCtx.usedIn (f : FwCtx) (g : Nat) : Nat := if f.window = g / 256 then f.issuedIn else 0

/-- The later cycle in which a context that may not issue now tries again, none when it may: it issues in cycles in which the
compute context issued nothing, and in at most FSHARE bundles of a window. -/
def State.fwRetry (s : State) (c : Nat) : Option Nat :=
  let f := s.fwOf c
  if (s.core c).seq.lastIssue = some s.gcount then some (s.gcount + 1)
  else if f.fshare ≤ f.usedIn s.gcount then some ((s.gcount / 256 + 1) * 256)
  else none

/-- The context's next bundle is due at cycle t; a cause that may be taken is looked at there first (R326). -/
def State.scheduleFw (s : State) (c t : Nat) : State :=
  ((s.modFwOf c (fun f => { f with due := t })).at t (.firmwareBundleIssue c)).pokeFw c

/-! Issue (R323, R324, R350). -/

/-- The bundle at a position of the instruction memory. -/
def FwCtx.bundleAt (f : FwCtx) (pos : Nat) : Bundle := BitVec.ofNat 384 (f.imem.readNat (48 * pos) 48)

/-- The legal operation of a slot of a firmware bundle (R75, R135, R176, R323). -/
def fwSlotOp (b : Bundle) (sl : Slot) : Option Instr := (decodeSyl sl (syl b sl)).filter Instr.legalFirmware

/-- The first failing syllable of a firmware bundle, or its header (R239). -/
def fwIllegal (b : Bundle) : Option Nat :=
  match allSlots.find? (fun sl => (fwSlotOp b sl).isNone) with
  | some sl => some (syl b sl)
  | none => if fld b.toNat 0 32 ≠ 0 then some (fld b.toNat 0 32) else none

/-- A bundle commits: its operations are the next to run, CTL last. -/
def State.commitFw (s : State) (c : Nat) (b : Bundle) : State :=
  let f := s.fwOf c
  let ops := [Slot.sca, .vec, .mat, .prm, .mem, .ctl].filterMap (fwSlotOp b)
  let s1 := s.modFwOf c (fun f => { f with window := s.gcount / 256, issuedIn := f.usedIn s.gcount + 1 })
  { s1 with cur := { core := c, fw := true, pos := f.pos, seg := 0 }, slots := ops, issuing := some c }

/-- R323, R324, R350. The context issues the bundle at its position, or raises the fault it meets there. -/
def execFirmwareBundleIssue (c : Nat) (s : State) : Result :=
  let f := s.fwOf c
  if f.mode ≠ .running ∨ f.due ≠ s.gcount ∨ s.mgmt.inReset = true then .next s
  else
    match s.fwRetry c with
    | some t => .next (s.scheduleFw c t)
    | none =>
      if f.away.isSome ∨ Config.fwBundles ≤ f.pos then
        .next (s.fwFault c (fwTrap 3 6 f.pos (f.away.getD (BitVec.ofNat 64 f.pos)).toNat))
      else if f.badI.contains f.pos then .next (s.fwFault c (fwTrap 8 5 f.pos (48 * f.pos)))
      else
        let b := f.bundleAt f.pos
        match fwIllegal b with
        | some w => .next (s.fwFault c (fwTrap 1 0 f.pos w))
        | none => .next (s.commitFw c b)

/-- The value that named a target beyond the context's code, which faults when the target would issue: bit 10 is 1, or the
index is above 681 (R324, R351). -/
def fwAway (t : Target) : Option Word64 := if t.raw.getLsbD 10 ∨ Config.fwBundles ≤ t.idx then some t.raw else none

/-- Where the context goes on after a bundle: the position a `FRET` resumes at, a branch's target after its two delay bundles,
or the bundle that follows (R101, R326). -/
def FwCtx.next (f : FwCtx) : FwCtx :=
  match f.resume, f.branch with
  | some p, _ => { f with pos := p, away := none, resume := none, branch := none }
  | none, some (t, n) =>
    if n ≤ 1 then { f with pos := t.idx, away := fwAway t, branch := none }
    else { f with pos := f.pos + 1, away := none, branch := some (t, n - 1) }
  | none, none => { f with pos := f.pos + 1, away := none }

/-- The context after its bundle's operations have run (R135, R176, R326). -/
def State.finishFw (s : State) (c : Nat) : State :=
  let f := s.fwOf c
  match f.trapped with
  | some n => s.fwFault c (fwTrap 14 n f.pos 0)
  | none =>
    let s1 := s.modFwOf c FwCtx.next
    match f.mode with
    | .running => s1.scheduleFw c (s1.gcount + 1)
    | .chilled => (s1.modFwOf c (fun f => { f with due := s.gcount + 1, branch := none })).pokeFw c
    | .waiting | .off | .stopped => s1

/-! Causes (R326). -/

/-- The lowest bit of some causes. -/
def lowestCause (x : BitVec 7) : Nat := ((List.range 7).find? (fun i => x.getLsbD i)).getD 0

/-- R326. The context takes the lowest cause it may take in a cycle in which it would issue, and no branch of its own still has
delay bundles to issue; issue goes on at FVEC in the same cycle. -/
def execFirmwareCauseTaken (c : Nat) (s : State) : Result :=
  let f := s.fwOf c
  let awake := decide (f.mode = .running) && decide (f.due = s.gcount)
  let asleep := decide (f.mode = .chilled) && decide (f.due ≤ s.gcount)
  if f.fin ∨ f.takeable = 0 ∨ f.branch.isSome ∨ f.mem.isSome ∨ s.mgmt.inReset ∨ (awake || asleep) = false then .next s
  else
    match s.fwRetry c with
    | some t => if asleep then .next (s.atOnce t (.firmwareCauseTaken c)) else .next s
    | none =>
      let n := lowestCause f.takeable
      let s1 := s.modFwOf c (fun f =>
        { f with fepc := f.away.getD (BitVec.ofNat 64 f.pos), fcause := BitVec.ofNat 64 (n + 0x100), pos := f.fvec.toNat,
                 away := none, mode := .running, due := s.gcount })
      if asleep then .next (s1.at s.gcount (.firmwareBundleIssue c)) else .next s1

/-! MEM operations (R176, R203, R317). -/

/-- Firmware writes to data memory; those to 0x7F48 up are discarded (R327). -/
def State.fwWrite (s : State) (c a : Nat) (bs : List Byte) : State :=
  let cells := ((List.range bs.length).map (fun i => (a + i) % 2 ^ 15)).zip bs
  s.modFwOf c (fun f => { f with dmem := f.dmem.writeList (cells.filter (fun p => decide (p.1 < 0x7F48))) })

/-- The operation is over and the context may issue its next bundle at cycle t (R176). -/
def State.fwResumeAt (s : State) (c t : Nat) : State :=
  let s1 := s.modFwOf c (fun f => { f with mem := none })
  match (s.fwOf c).mode with
  | .waiting => (s1.modFwOf c (fun f => { f with mode := .running })).scheduleFw c t
  | .chilled => (s1.modFwOf c (fun f => { f with due := t })).pokeFw c
  | .off | .running | .stopped => s1

/-- The operation is complete: the context issues its next bundle in the next cycle (R176). -/
def State.fwResume (s : State) (c : Nat) : State := s.fwResumeAt c (s.gcount + 1)

/-- R253, R326. The context's own translation fault: the access does not perform. With FIN 1 it is a nested fault of the
context. -/
def State.fwXlat (s : State) (c va pos : Nat) : State :=
  let s1 := s.modFwOf c (fun f => { f with fxaddr := BitVec.ofNat 64 va })
  if (s.fwOf c).mode = .stopped then s1.fwResume c
  else if (s.fwOf c).fin then (s1.modFwOf c (fun f => { f with mem := none })).fwFault c (fwTrap 7 2 pos va)
  else (s1.fwResume c).wake c 4

/-- The operation looks for a service slot again in the next cycle (R229). -/
def State.fwAgain (s : State) (c : Nat) : State := s.at (s.gcount + 1) (.firmwareAccessComplete c)

/-- A word the context loads. -/
def State.fwLoaded (s : State) (c : Nat) (r : SReg) (v : Nat) : State :=
  (s.modFwOf c (fun f => f.ws r.toNat (BitVec.ofNat 64 v))).fwResume c

/-- A read of the device register space (R317), none where it faults. -/
def State.regRead (s : State) (va : Nat) : Option Nat :=
  let off := va - Config.regSpace
  if off < 32 * 2048 then some (s.queueWord (off / 32) (off % 32 / 8))
  else if 0x8000000 ≤ off ∧ off < 0x8000000 + 8 * 2048 then some 0
  else if 0x10000000 ≤ off ∧ off < 0x10010000 then some (s.mgmtRead (off - 0x10000000))
  else none

/-- A write of the device register space (R317, R353). -/
def State.regWrite (s : State) (va v : Nat) : Option State :=
  let off := va - Config.regSpace
  if off < 32 * 2048 then some (s.setReg (.queueWord (off / 32) (off % 32 / 8)) v)
  else if 0x8000000 ≤ off ∧ off < 0x8000000 + 8 * 2048 then
    let q := (off - 0x8000000) / 8
    some (s.ring q .read false)
  else if 0x10000000 ≤ off ∧ off < 0x10010000 then some (s.mgmtWrite (off - 0x10000000) v)
  else none

/-- The address of a firmware dynamic access: bits 59:0, an aligned word (R176, R177). -/
def fwDynAddr (a : Word64) : Nat := a.toNat % 2 ^ 60 / 8 * 8

/-- A dynamic `SLD`; in HBM it waits until its bank is served (R176, R229, R317). -/
def State.fwDynLoad (s : State) (c : Nat) (m : FwMem) (r : SReg) : State :=
  let va := fwDynAddr m.addr
  if inRegSpace va then
    match s.regRead va with
    | some v => s.fwLoaded c r v
    | none => s.fwXlat c va m.pos
  else
    match s.dynTranslate (c / 64) (s.partOf c) va false with
    | (s1, none) => s1.fwXlat c va m.pos
    | (s1, some pa) =>
      if s1.served pa then
        let fault := if s1.paStale pa then none else (s1.hbmFault pa 8).filter (fun t => decide (t.cls = 9))
        let s2 := match fault with | some t => s1.raiseTrap c t | none => s1
        let (s3, bs) := s2.dynLoad pa 8
        s3.fwLoaded c r (natOf bs)
      else s1.fwAgain c

/-- A dynamic `SST`; in HBM it waits until its bank is served (R176, R229, R317). -/
def State.fwDynStore (s : State) (c : Nat) (m : FwMem) : State :=
  let va := fwDynAddr m.addr
  if inRegSpace va then
    match s.regWrite va m.value.toNat with
    | some s1 => s1.fwResume c
    | none => s.fwXlat c va m.pos
  else
    match s.dynTranslate (c / 64) (s.partOf c) va true with
    | (s1, none) => s1.fwXlat c va m.pos
    | (s1, some pa) =>
      if s1.served pa then (s1.dynStore pa (bytesOf 8 m.value.toNat)).fwResume c
      else s1.fwAgain c

/-- An answer of a block instruction: a word of its block (R203). -/
def State.fwAnswer (s : State) (c block word v : Nat) : State :=
  (s.fwWrite c (block + 8 * word) (bytesOf 8 v)).fwResume c

/-- `QRD` (R203). -/
def State.doQrd (s : State) (c b q dst : Nat) : State :=
  if 2048 ≤ q then s.fwAnswer c b 2 2
  else if (s.queue q).head = (s.queue q).tail then s.fwAnswer c b 2 1
  else if !s.servedVA (s.ringPart q) ((s.queue q).packetVA (s.queue q).head.toNat) 64 then s.fwAgain c
  else
    match s.packetAt q (s.queue q).head.toNat with
    | (s1, none) => s1.fwAnswer c b 2 3
    | (s1, some p) => (s1.fwWrite c dst (bytesOf 64 p)).fwAnswer c b 2 0

/-- `KSCAN` (R203). -/
def State.doKscan (s : State) (c b first : Nat) : State :=
  s.fwAnswer c b 1 ((s.fe.kick.find? (fun i => decide (first ≤ i))).getD 0xFFFFFFFFFFFFFFFF)

/-- `KCLR` (R203, R322). -/
def State.doKclr (s : State) (c b i : Nat) : State :=
  if 2048 ≤ i then s.fwAnswer c b 1 2
  else
    let old := s.fe.kick.contains i
    State.fwAnswer { s with fe := { s.fe with kick := setIndex s.fe.kick i false } } c b 1 (bit old)

/-- `JAPP` (R203, R333). Bytes of a source that runs past the end of the data memory read as zeros (log entry 25). -/
def State.doJapp (s : State) (c b src n pos : Nat) : State :=
  if n < 16 ∨ 256 < n ∨ n % 16 ≠ 0 then s.fwAnswer c b 2 0xFFFFFFFFFFFFFFFF
  else
    match s.journalSize with
    | none => s.fwAnswer c b 2 0xFFFFFFFFFFFFFFFE
    | some size =>
      if s.journalRoom size n then
        match s.journalFault size n, (s.fwOf c).badData src n with
        | _, some a => (s.modFwOf c (fun f => { f with mem := none })).fwFault c (dataFault a)
        | some va, none => s.fwXlat c va pos
        | none, none =>
          if s.journalServed size n then
            let seq := s.fe.jseq
            (s.journalPut size ((s.fwOf c).dmem.readBytes src n)).fwAnswer c b 2 seq
          else s.fwAgain c
      else s.fwAnswer c b 2 0xFFFFFFFFFFFFFFFE

/-- R176, R203. The MEM operation that a context waits for completes and its result is written. The block of a block instruction lies
in the data memory, whatever bit 63 of the address says (log entry 25). -/
def execFirmwareAccessComplete (c : Nat) (s : State) : Result :=
  let f := s.fwOf c
  match f.mem with
  | none => .next s
  | some m =>
    let fault := fun (a : Nat) => (s.modFwOf c (fun f => { f with mem := none })).fwFault c (dataFault a)
    let local_ := !m.addr.getLsbD 63
    let a := m.addr.toNat % 2 ^ 15 / 8 * 8
    let b := m.addr.toNat % 2 ^ 15 / 32 * 32
    let w := fun (i : Nat) => f.dmem.readNat (b + 8 * i) 8
    match m.instr with
    | .sld _ r _ =>
      if local_ then
        match f.badData a 8 with
        | some x => .next (fault x)
        | none => .next (s.fwLoaded c r (f.dmem.readNat a 8))
      else .next (s.fwDynLoad c m r)
    | .sst .. =>
      if local_ then .next ((s.fwWrite c a (bytesOf 8 m.value.toNat)).fwResume c) else .next (s.fwDynStore c m)
    | .qrd .. => match f.badData b 16 with | some x => .next (fault x) | none => .next (s.doQrd c b (w 0) (w 1))
    | .kscan .. => match f.badData b 8 with | some x => .next (fault x) | none => .next (s.doKscan c b (w 0))
    | .kclr .. => match f.badData b 8 with | some x => .next (fault x) | none => .next (s.doKclr c b (w 0))
    | .japp .. =>
      match f.badData b 16 with
      | some x => .next (fault x)
      | none => .next (s.doJapp c b (w 0 % 2 ^ 15) (w 1) m.pos)
    | _ => .next (s.fwResume c)

/-! The release of a fence (R202, R230). -/

/-- A request has performed for a fence: at its local end, and for `.sys` at the far side of a `PUT` too. -/
def Req.fenced (get sys : Bool) (q : Req) : Bool :=
  match q.st with
  | .sent | .parked _ _ => false
  | .local_ => !sys || get
  | .done => true

/-- Every access the context issued before the fence has performed, a pour's request that parked among them (R202, R253). A pour's
other requests count as no access of the context (log entry 69). -/
def Core.fenceMet (k : Core) (issue : Nat) (sys : Bool) : Bool :=
  k.runs.all (fun r => decide (issue ≤ r.issue) || r.reqs.all (fun q => !q.late)) &&
  k.dyn.all (fun x => x.remote || decide (issue ≤ x.issue) ||
    (decide (dynLen x.rec_.toNat ≤ x.next) && x.reqs.all (fun q => q.fenced x.get sys)))

/-- R202, R230. A fence lets the next bundle issue once every dynamic access before it has performed. A firmware context's
accesses have performed when it issues a bundle (R176). -/
def execFenceRelease (c : Nat) (fw : Bool) (s : State) : Result :=
  if fw then
    match (s.fwOf c).mem with
    | some m => match m.instr with | .fence .. => .next (s.fwResumeAt c s.gcount) | _ => .next s
    | none => .next s
  else
    let k := s.core c
    match k.seq.memHold with
    | .fence issue sys =>
      if k.issues && k.fenceMet issue sys then
        .next ((s.modCore c (fun k => { k with seq := { k.seq with memHold := .none } })).release c)
      else .next s
    | _ => .next s

end Sys2Proof.Machine
end

