-- ==== Sys2Proof/Machine/Hostside.lean ====
section
/-! DEFINITION. What the host does to the device and what it learns (R232, R233, R337 to R340, R345, R347): the mailbox engine,
host AtomicOps, function resets, the links, attestation, and the boot ROM's reset sequence. -/

namespace Sys2Proof.Machine

/-! The windows (R339). -/

/-- Bytes of a function's W1 window (R339). -/
def w1Size : Nat := 2 ^ 36

/-- The physical ranges of n bytes of a function's window, none on a fault; a piece of 32 KiB lies in one channel (R283, R363). -/
def State.windowRanges (s : State) (part : Nat) (write : Bool) : Nat → Nat → Nat → Option (List (Nat × Nat))
  | 0, _, n => if n = 0 then some [] else none
  | fuel + 1, va, n =>
    if n = 0 then some []
    else
      let m := min n (32768 - va % 32768)
      match s.translateHost part va write, s.windowRanges part write fuel (va + m) (n - m) with
      | some (pa, _), some rest => some ((pa, m) :: rest)
      | _, _ => none

/-- The ranges an access to offset `off` reaches. -/
def State.windowAccess (s : State) (fn off n : Nat) (write : Bool) : Option (List (Nat × Nat)) :=
  if off + n ≤ w1Size then s.windowRanges (s.homeOf fn) write (pagesOf n) (s.mbase fn + off) n else none

/-- The walks that such an access takes (R343). -/
def State.windowMeets (s : State) (fn off n : Nat) : State :=
  if off + n ≤ w1Size then s.walksMeet (s.homeOf fn) (s.mbase fn + off) n else s

/-! Host AtomicOps (R233). -/

/-- The target of an AtomicOp: a naturally aligned 32-bit or 64-bit word on a writable system-atomic page. -/
def State.atomicTarget (s : State) (fn off : Nat) (op : AtomicKind) (size : Nat) : Option Nat :=
  if op = .other ∨ (size ≠ 4 ∧ size ≠ 8) ∨ w1Size < off + size ∨ off % size ≠ 0 then none
  else
    match s.translateHost (s.homeOf fn) (s.mbase fn + off) true with
    | some (pa, true) => some pa
    | _ => none

/-- An AtomicOp accepted in the cycle in which its bank's window opens, or in which a slot that lends the bank begins, is met by
that window or slot (R233); a window that is over counts for nothing. -/
def State.atomicMet (s : State) (ch b : Nat) : State :=
  let bank := s.bank ch b
  let slot := match (s.chan ch).svc with
    | some (w, _, _) => if w = s.gcount ∧ bank.lentNow s.gcount = true then s.atOnce s.gcount (.hostAtomicExecute ch b) else s
    | none => s
  match bank.window with
  | some (w, last) =>
    if last < s.gcount then slot
    else if w = s.gcount ∧ bank.busy < s.gcount then s.crucNext ch b s.gcount
    else s
  | none => slot

/-- R233. An AtomicOp is accepted and waits for its bank, or completes with Unsupported Request and is logged. Without a running
timeline the controller executes it within 64 cycles; otherwise within 64 cycles of END when neither a window nor a slot has. -/
def State.acceptAtomic (s : State) (fn off : Nat) (op : AtomicKind) (size x cmp : Nat) (link : LinkName) : State :=
  match s.atomicTarget fn off op size with
  | none => (s.logError fn 2).emit (.unsupported fn)
  | some pa =>
    let ch := paChannel pa
    let b := paBank pa
    let bank := s.bank ch b
    let free := !s.timelineBusy ch
    let a : HostAtomic := { fn := fn, op := op, size := size, pa := pa, x := x, cmp := cmp, apply := s.gcount,
                            link := some link, free := free }
    let (d, s1) := (s.setBank ch b { bank with atomics := bank.atomics ++ [a] }).draw
    let last := if free then s1.gcount else s1.timelineEnd ch + 1
    (s1.at (last + d % 64) (.hostAtomicExecute ch b)).atomicMet ch b

/-- A window of the running timeline opens on the bank between a cycle and END (R233). -/
def State.windowComes (s : State) (ch b from_ : Nat) : Bool :=
  let h := s.heat (s.chanPart ch)
  match h.timeline ch with
  | some t => t.entries.any (fun e =>
      decide (entOp e.toNat = 6) && decide (entBank e.toNat = b) && decide (from_ ≤ h.entryAt e.toNat))
  | none => false

/-- The word after an AtomicOp (R233). -/
def atomicNew (a : HostAtomic) (old : Nat) : Nat :=
  match a.op with
  | .fetchAdd => (old + a.x) % 2 ^ (8 * a.size)
  | .swap => a.x % 2 ^ (8 * a.size)
  | .cas => if old = a.cmp % 2 ^ (8 * a.size) then a.x % 2 ^ (8 * a.size) else old
  | .other => old

/-- The first waiting AtomicOp of a bank executes; its completion is sent unless its link has gone down since (R338). -/
def State.runAtomic (s : State) (ch b : Nat) (a : HostAtomic) (rest : List HostAtomic) : State :=
  let (s1, bs) := (s.tagCheck a.pa a.size).dynLoad a.pa a.size
  let old := natOf bs
  let s2 := s1.dynStore a.pa (bytesOf a.size (atomicNew a old))
  let s3 := s2.setBank ch b { s2.bank ch b with atomics := rest }
  if a.link.isSome then s3.emit (.atomicDone a.fn old) else s3

/-- R233. The first waiting AtomicOp of a bank executes: as the bank's next command of a window, in a service slot when no
window comes, or in the controller's own cycles when no timeline ran at its apply cycle or none runs now. -/
def execHostAtomicExecute (ch b : Nat) (s : State) : Result :=
  let bank := s.bank ch b
  match bank.atomics with
  | [] => .next s
  | a :: rest =>
    let mine := match bank.window with
      | some (w, last) =>
        decide (w ≤ s.gcount) && decide (s.gcount ≤ last) && decide (bank.busy = s.gcount) && decide (a.apply ≤ w)
      | none => false
    if mine then .next ((s.runAtomic ch b a rest).crucNext ch b (s.gcount + 1))
    else if a.free || !s.timelineBusy ch || (bank.lentNow s.gcount && !s.windowComes ch b a.apply) then
      let s1 := s.runAtomic ch b a rest
      .next (if rest.isEmpty then s1 else s1.at s.gcount (.hostAtomicExecute ch b))
    else .next (s.atOnce (s.timelineEnd ch + 1) (.hostAtomicExecute ch b))

/-! The mailbox engine (R232, R291, R339). -/

/-- An access that the boot ROM's failure leaves unanswered: only the management function answers then (R345). -/
def MailAccess.refused (m : MailAccess) (s : State) : Bool := decide (m.src.fn < 32) && s.bootFailed

/-- The physical ranges an access reads or writes, none where it does neither. -/
def State.mailRanges (s : State) (m : MailAccess) : List (Nat × Nat) :=
  if m.refused s then []
  else
    match m.op with
    | .write off data => (s.windowAccess m.src.fn off data.length true).getD []
    | .read off n => (s.windowAccess m.src.fn off n false).getD []
    | .atomic .. => []

/-- R232, R233, R339. An access is applied: a write is stored, a read returns the bytes as they stand, a fault sets ERRLOG, and
an AtomicOp is accepted or refused. -/
def State.applyMail (s : State) (m : MailAccess) : State :=
  if m.refused s then
    match m.op with
    | .write .. => s
    | .read .. | .atomic .. => s.emit (.unsupported m.src.fn)
  else
    match m.op with
    | .write off data =>
      let s := s.windowMeets m.src.fn off data.length
      match s.windowAccess m.src.fn off data.length true with
      | some l => s.rangesStore l data
      | none => s.logError m.src.fn 0
    | .read off n =>
      let s := s.windowMeets m.src.fn off n
      match s.windowAccess m.src.fn off n false with
      | some l =>
        let (s1, bs) := (l.foldl (fun s p => s.tagCheck p.1 p.2) s).rangesLoad l
        s1.emit (.readDone m.src.fn bs)
      | none => (s.logError m.src.fn 0).emit (.unsupported m.src.fn)
    | .atomic off op size x cmp => s.acceptAtomic m.src.fn off op size x cmp m.src.link

/-- R232. The accesses that wait are applied as far as their banks are served, those of one function in the order in which the
links delivered them. -/
def State.serveMail (s : State) : State :=
  let go := fun (acc : State × List MailAccess) (m : MailAccess) =>
    if acc.2.any (fun x => decide (x.src.fn = m.src.fn)) || !acc.1.servedAll (acc.1.mailRanges m) then (acc.1, acc.2 ++ [m])
    else (acc.1.applyMail m, acc.2)
  let (s1, kept) := s.mail.foldl go ({ s with mail := [] }, [])
  let s2 : State := { s1 with mail := kept }
  if kept.isEmpty then s2 else s2.lookAgain

/-- An access that a link delivers waits behind the earlier ones of its function. -/
def State.receive (s : State) (src : HostFn) (op : MailOp) : State :=
  State.serveMail { s with mail := s.mail ++ [{ src := src, op := op }] }

/-- R232, R339. -/
def execMailboxWrite (src : HostFn) (off : Nat) (data : List Byte) (s : State) : Result := .next (s.receive src (.write off data))

/-- R232, R339. -/
def execMailboxRead (src : HostFn) (off len : Nat) (s : State) : Result := .next (s.receive src (.read off len))

/-- R233. -/
def execHostAtomicop (src : HostFn) (off : Nat) (op : AtomicKind) (size x cmp : Nat) (s : State) : Result :=
  .next (s.receive src (.atomic off op size x cmp))

/-! What waits (R291, R321, R333). -/

/-- R333. The first waiting hardware record is appended when it can be, or let go when there is no journal, and what follows it
goes on; the next one is looked at in the same cycle. Without room JFULL stays raised. -/
def State.serveRecs (s : State) : State :=
  match s.fe.heldRecs with
  | [] => s
  | r :: rest =>
    let s1 : State := { s with fe := { s.fe with heldRecs := rest } }
    let more := fun (s : State) => if rest.isEmpty then s else s.at s.gcount .journalHeldAppend
    match s.journalSize with
    | none => more (s1.afterRecord r)
    | some size =>
      if s.journalReady size then more ((s1.journalPut size (hardwareRecord r.typ r.w0 r.w1)).afterRecord r)
      else s.journalWaits size

/-- R291, R321, R333. What waits in the front end and in the mailbox engine goes on as far as it can: the filter's evaluations,
the completions to publish, the mailbox accesses, and the hardware records. -/
def execJournalHeldAppend (s : State) : Result :=
  .next s.serveEvals.servePubs.serveMail.serveSaves.serveRecs

/-! Function resets and links (R337, R338). -/

/-- A queue after the reset of its function (R338). -/
def Queue.afterFlr (x : Queue) : Queue :=
  { x with res := false, tarm := false, run := false, err := false, log2n := 0, head := 0, tail := 0, met := 0 }

/-- A completion of a reset function is not published (R338). -/
def Completion.muteFor (fn : Nat) (d : Completion) : Completion := if d.queue / 64 = fn then { d with muted := true } else d

/-- A waiting record of a reset function (R338). -/
def HeldRec.muteFor (fn : Nat) (r : HeldRec) : HeldRec :=
  let c := r.completion.map (fun d => d.muteFor fn)
  { r with completion := c }

/-- A stopped heat of the function ends at once (R329, R338). -/
def State.endParked (s : State) (fn : Nat) : State :=
  let mine := s.parked.filter (fun x => decide (x.2.queue / 64 = fn))
  let s1 : State := { s with parked := s.parked.filter (fun x => !decide (x.2.queue / 64 = fn)) }
  mine.foldl (fun s x => s.completeHeat x.1 { x.2 with muted := true } 5) s1

/-- The heat of a partition ends when the function launched it (R329, R338). -/
def State.endLaunched (s : State) (fn p : Nat) : State :=
  let h := s.heat p
  if h.queue / 64 = fn ∧ h.hasPacket = true ∧ h.phase ≠ .none ∧ h.phase ≠ .ended then
    (s.setHeat p { h with muted := true }).stopHeat p
  else s

/-- The reset of a function (R338): of a virtual function all six steps, of the management function its pending ATTREQ. -/
def State.resetFunction (s : State) (fn : Nat) : State :=
  let head := match s.attest.waiting with | x :: _ => decide (x.1 = fn) | [] => false
  let att : Attest := { s.attest with waiting := s.attest.waiting.filter (fun x => decide (x.1 ≠ fn)),
                                      taken := if head then none else s.attest.taken }
  let s1 : State := { s with attest := att }
  if 32 ≤ fn then s1
  else
    let s2 : State := { s1 with mail := s.mail.filter (fun m => decide (m.src.fn ≠ fn)) }
    let s3 := (List.range 64).foldl (fun s i => s.setQueue (64 * fn + i) (s.queue (64 * fn + i)).afterFlr) s2
    let fe : FrontEnd := { s3.fe with kick := s3.fe.kick.filter (fun q => decide (q / 64 ≠ fn)),
                                      evals := s3.fe.evals.filter (fun e => decide (e.queue / 64 ≠ fn)),
                                      releases := s3.fe.releases.filter (fun r => decide (r.queue / 64 ≠ fn)),
                                      heldDone := s3.fe.heldDone.map (fun d => d.muteFor fn),
                                      pubs := s3.fe.pubs.map (fun d => d.muteFor fn),
                                      heldRecs := s3.fe.heldRecs.map (fun r => r.muteFor fn) }
    let s4 : State := { s3 with fe := fe, mgmt := { s3.mgmt with errlog := sset 0 s3.mgmt.errlog fn 0 } }
    ((List.range 4).foldl (fun s p => s.endLaunched fn p) s4).endParked fn

/-- R338. The host learns that the reset is complete once every heat it ends has come to its end. -/
def execFunctionLevelReset (fn : Nat) (s : State) : Result :=
  let s1 := s.resetFunction fn
  .next (State.serveResets { s1 with fe := { s1.fe with resets := s1.fe.resets ++ [fn] } })

/-- The state of a link (R337): down, PCI Express, CXL. -/
def linkOff : Nat := 0
def linkPcie : Nat := 1
def linkCxl : Nat := 2

def State.setLink (s : State) (l : LinkName) (v : Nat) : State :=
  match l with
  | .a => { s with mgmt := { s.mgmt with linkA := v } }
  | .b => { s with mgmt := { s.mgmt with linkB := v } }

/-- A completion owed over a link that goes down is not sent (R338). -/
def HostAtomic.cutOff (l : LinkName) (a : HostAtomic) : HostAtomic := if a.link = some l then { a with link := none } else a

/-- The AtomicOps of every bank with the completions owed over a link dropped. -/
def Channel.cutOff (l : LinkName) (x : Channel) : Channel :=
  { x with bank := x.bank.map (fun p => (p.1, { p.2 with atomics := p.2.atomics.map (fun a => a.cutOff l) })) }

/-- A doorbell that a link delivered and whose tail is not yet applied. -/
def FeEval.fromLink (l : LinkName) (e : FeEval) : Bool := decide (e.link = some l)

/-- R338. The accesses that the link delivered and that are not applied are discarded, and the completions owed over it; with
both links down every virtual function is reset. -/
def execLinkDown (link : LinkName) (s : State) : Result :=
  let s1 : State := { s with mail := s.mail.filter (fun m => decide (m.src.link ≠ link)),
                             chans := s.chans.map (fun p => (p.1, p.2.cutOff link)),
                             fe := { s.fe with evals := s.fe.evals.filter (fun e => !e.fromLink link) } }
  let s2 := s1.setLink link linkOff
  if s2.mgmt.linkA = linkOff ∧ s2.mgmt.linkB = linkOff then
    .next ((List.range 32).foldl (fun s v => s.resetFunction v) s2)
  else .next s2

/-- As what link B trains: as the setting in force at the last reset says (R337). -/
def State.linkbMode (s : State) : Nat := if s.mgmt.linkbActive then linkCxl else linkPcie

/-- R337. Link A trains as PCI Express, link B as its setting says. -/
def execLinkTrain (link : LinkName) (s : State) : Result :=
  match link with
  | .a => .next (s.setLink .a linkPcie)
  | .b => .next (s.setLink .b s.linkbMode)

/-- R340. A read of ERRLOG returns its bits and clears it; a virtual function gets no answer once boot has failed (R345). -/
def execErrlogRead (fn : Nat) (s : State) : Result :=
  if fn < 32 ∧ s.bootFailed = true then .next (s.emit (.unsupported fn))
  else
    let v := sget 0 s.mgmt.errlog fn
    let s1 : State := { s with mgmt := { s.mgmt with errlog := sset 0 s.mgmt.errlog fn 0 } }
    .next (s1.emit (.register fn v.toNat))

/-! Attestation (R347). -/

/-- R347. A nonce written to ATTREQ enters a request; ATTREQ reads 0 until it is served. That of a virtual function goes nowhere
once boot has failed (R345). -/
def execAttreq (fn : Nat) (nonce : BitVec 256) (s : State) : Result :=
  if fn < 32 ∧ s.bootFailed = true then .next s
  else
    let att : Attest := { s.attest with waiting := s.attest.waiting ++ [(fn, nonce)], status := sset 0 s.attest.status fn 0 }
    let s1 : State := { s with attest := att }
    if s.attest.waiting.isEmpty then .next (s1.later 1 .attestationQuote) else .next s1

/-- The heat digest of a function's home partition, zeros when no heat is armed or running there (R347). -/
def State.heatDigest (s : State) (fn : Nat) : BitVec 512 :=
  let h := s.heat (s.homeOf fn)
  match h.phase with
  | .armed | .running | .stopping => imageDigest h.image
  | .none | .arming | .trapped | .atCut | .ended => 0

/-- The 200-byte quote body (R347). -/
def State.quoteBody (s : State) (fn : Nat) (nonce : BitVec 256) : List Byte :=
  bytesOf 32 Config.deviceIdentity.toNat ++ bytesOf 64 (imageDigest s.fwImage).toNat ++ bytesOf 64 (s.heatDigest fn).toNat ++
    bytesOf 4 fn ++ zeros 4 ++ bytesOf 32 nonce.toNat

/-- The signature of a quote in the layout of R346: the index, as RFC 8391 writes it with its highest byte first, and 2,816 bytes
of the signature proper (log entry 47). -/
def signature (i : Nat) (digest : BitVec 512) : List Byte := (bytesOf 4 i).reverse ++ exactly 2816 (Config.xmssSign i digest)

/-- The module that takes a protected-state record of one page. -/
def State.protectModule (s : State) : Option Nat := s.flashModules.find? (fun m => s.moduleTakes m 4096)

/-- The next waiting request is looked at (R347). -/
def State.serveNext (s : State) : State := if s.attest.waiting.isEmpty then s else s.later 1 .attestationQuote

/-- R347. The first request: once its index is used up it is refused; else the next index is taken and recorded in protected
state, and once that record is complete the quote is signed with it and becomes readable. -/
def execAttestationQuote (s : State) : Result :=
  match s.attest.waiting with
  | [] => .next s
  | (fn, nonce) :: rest =>
    match s.attest.taken with
    | none =>
      if 2 ^ 20 ≤ s.attest.index then
        let att : Attest := { s.attest with waiting := rest, status := sset 0 s.attest.status fn 2 }
        .next ((State.emit { s with attest := att } (.notice noticeAttestation fn)).serveNext)
      else
        match s.protectModule with
        | none => .next (s.later 1 .attestationQuote)
        | some m =>
          let i := s.attest.index
          let (s1, _) := s.appendPages m 4 (bytesOf 4096 (i + 1))
          let att : Attest := { s1.attest with index := i + 1, taken := some i }
          .next (State.later { s1 with attest := att } 1 .attestationQuote)
    | some i =>
      let body := s.quoteBody fn nonce
      let q := body ++ signature i (Config.shake256 body)
      let att : Attest := { s.attest with waiting := rest, taken := none, status := sset 0 s.attest.status fn 1,
                                          quotes := sset [] s.attest.quotes fn q }
      .next (State.serveNext { s with attest := att })

/-! Boot (R345). -/

/-- The newest firmware image's record in module 0's directory. -/
def newestFirmware (f : Flash) : Option DirRec :=
  (f.dir.filter (fun d => decide (d.module = 0) && decide (fld d.bits.toNat 16 8 = 6))).getLast?

/-- The key index that the newest protected-state record holds. -/
def protectedIndex (f : Flash) : Nat :=
  match (f.dir.filter (fun d => decide (fld d.bits.toNat 16 8 = 4))).getLast? with
  | some d => f.mem.readNat (fld d.bits.toNat 128 64) 8
  | none => 0

/-- A core whose firmware context has the image and starts at bundle 0. -/
def bootCore (image : List Byte) (t : Nat) (k : Core) : Core :=
  let f : FwCtx := { fwReset with imem := Memory.writeBytes [] 0 (image.take (48 * Config.fwBundles)), mode := .running,
                                  due := t }
  { k with fw := f }

/-- The machine at the beginning of a reset: what lies outside the device, in its flash modules and in HBM stays, with the
setting of link B, the links' own state and the units marked absent; every other part is as after reset. -/
def State.afterReset (s : State) : State :=
  let m : Mgmt := { mgmtReset with linkb := s.mgmt.linkb, linkbActive := s.mgmt.linkb.getLsbD 0, absent := s.mgmt.absentNext,
                                   absentNext := s.mgmt.absentNext, linkA := s.mgmt.linkA, linkB := s.mgmt.linkB }
  let a : Attest := { index := protectedIndex s.flash, taken := none, waiting := [], status := [], quotes := [] }
  { State.reset with agenda := [], choice := s.choice, hbm := s.hbm, lines := s.lines, flash := s.flash,
                     host := s.host, peer := s.peer, cxl := s.cxl, mgmt := m, attest := a, out := s.out }

/-- BOOTSTAT after a step: the step reached, and bit 7 when it failed, which leaves the links up (R345). -/
def State.bootAt (s : State) (step : Nat) (failed : Bool) : State :=
  let s1 := if failed then (s.setLink .a linkPcie).setLink .b s.linkbMode else s
  { s1 with mgmt := { s1.mgmt with bootstat := BitVec.ofNat 64 (step + (if failed then 128 else 0)) } }

/-- R345. The boot ROM's reset sequence: the newest firmware image is read from module F0, its version and its signature are
checked, every core is loaded with it and every context starts at bundle 0. A failure leaves every core stopped. -/
def execReset (s : State) : Result :=
  let s0 := s.afterReset
  match (if s0.isAbsent .flash 0 then none else newestFirmware s0.flash) with
  | none => .next (s0.bootAt 1 true)
  | some d =>
    let image := s0.flash.mem.readBytes (fld d.bits.toNat 128 64) (4096 * fld d.bits.toNat 192 32)
    if Config.firmwareVersion image < Config.rollbackCount then .next (s0.bootAt 2 true)
    else if Config.firmwareVerifies image then
      let s1 : State := { s0 with fwImage := image }
      let cores := (List.range Config.cores).filter (fun c => !s1.isAbsent .core c)
      let s2 := cores.foldl (fun s c =>
        (s.modCore c (bootCore (Config.firmwareBundles image) 1)).at 1 (.firmwareBundleIssue c)) s1
      .next (s2.bootAt 5 false)
    else .next (s0.bootAt 3 true)

end Sys2Proof.Machine
end

