-- ==== Sys2Proof/Machine/Module.lean ====
section
/-! DEFINITION. The module as its operator sees it: device time (R357), the trace rings (R358 to R361), units mapped out (R363),
cooling (R348) and the loss of power (R347). -/

namespace Sys2Proof.Machine

/-! Trace rings (R361). -/

/-- Bytes of a ring. -/
def ringBytes : Nat := 2 ^ 26

/-- Free slots of a ring with one kept empty (R361). -/
def freeSlots (head tail : Nat) : Nat := (tail + ringBytes - head % ringBytes + ringBytes - 32) % ringBytes / 32

/-- The oldest records dropped until the record, with the gap record that a drop needs, has room: the new tail and the count. -/
def makeRoom (head : Nat) : Nat → Nat → Nat → Nat × Nat
  | 0, tail, d => (tail, d)
  | fuel + 1, tail, d =>
    if freeSlots head tail < (if d = 0 then 1 else 2) then makeRoom head fuel ((tail + 32) % ringBytes) (d + 1)
    else (tail, d)

/-- A gap record (R359, R361). -/
def gapRecord (d : Nat) (rec_ : BitVec 256) : BitVec 256 :=
  BitVec.ofNat 256 (fld rec_.toNat 0 64 + 19 * 2 ^ 80 + fld rec_.toNat 88 8 * 2 ^ 88 + d % 2 ^ 64 * 2 ^ 160)

/-- A record put at the head of a die's ring; the head moves once it has performed (R360). -/
def State.putTrace (s : State) (die : Nat) (rec_ : BitVec 256) : State :=
  let head := sget 0 s.trace.head die
  let base := fld (sget 0 s.trace.base die).toNat 26 14 * 2 ^ 26
  let s1 := s.dynStore (base + head) (bytesOf 32 rec_.toNat)
  { s1 with trace := { s1.trace with head := sset 0 s1.trace.head die ((head + 32) % ringBytes) } }

/-- The tail and the drop count that make room for the next record of a die's ring (R361). -/
def State.traceRoom (s : State) (die : Nat) : Nat × Nat :=
  makeRoom (sget 0 s.trace.head die) 3 (sget 0 s.trace.tail die) (sget 0 s.trace.pendDrop die)

/-- Room made for a record, with the gap record that a drop needs (R361). -/
def State.traceGap (s : State) (die : Nat) (rec_ : BitVec 256) : State :=
  let d0 := sget 0 s.trace.pendDrop die
  let (tail, d) := s.traceRoom die
  let t : Trace := { s.trace with tail := sset 0 s.trace.tail die tail, pendDrop := sset 0 s.trace.pendDrop die 0,
                                  drop := sset 0 s.trace.drop die ((sget 0 s.trace.drop die + (d - d0)) % 2 ^ 64) }
  let s1 : State := { s with trace := t }
  if d = 0 then s1 else s1.putTrace die (gapRecord d rec_)

/-- The row at the head of a die's ring is served (R291, R360). -/
def State.traceServed (s : State) (die : Nat) : Bool :=
  s.served (fld (sget 0 s.trace.base die).toNat 26 14 * 2 ^ 26 + sget 0 s.trace.head die)

/-- R360, R361. The die's first waiting record is written in a service slot, after the gap record of what was dropped, in a slot
of its own; a ring disabled since then takes none. -/
def execTraceWrite (die : Nat) (s : State) : Result :=
  match s.trace.queue.find? (fun e => decide (e.1 = die)) with
  | none => .next s
  | some e =>
    let again := fun (s : State) => s.at (s.gcount + 1) (.traceWrite die)
    if (sget 0 s.trace.base die).getLsbD 0 = false then .next { s with trace := { s.trace with queue := s.trace.queue.erase e } }
    else if s.traceServed die = false then .next (again s)
    else
      let s1 := s.traceGap die e.2.2
      if s1.traceServed die then
        .next (State.putTrace { s1 with trace := { s1.trace with queue := s1.trace.queue.erase e } } die e.2.2)
      else .next (again s1)

/-! Device time (R357). -/

/-- TSRC names a source of exchanges; every other value leaves the time free-running (R358). -/
def State.timeSource (s : State) : Bool := decide (1 ≤ s.trace.tsrc.toNat) && decide (s.trace.tsrc.toNat ≤ 19)

/-- A rate correction within its limits (R357). -/
def clampF (f : Int) : Int := max (-fLimit) (min fLimit f)

/-- R357. An exchange sets DT0, G0 and F. DTIME goes on from where it stood, and a forward step of more than 1 ms is recorded in
every ring. -/
def execTimeSync (dt0 g0 : Nat) (f : Int) (s : State) : Result :=
  if s.timeSource then
    let old := s.dtime s.gcount
    let s1 : State := { s with trace := { s.trace with dt0 := dt0, g0 := g0, f := clampF f, slew := old, slewAt := s.gcount } }
    let new := s1.dtime s1.gcount
    if old + 1000000 < new then
      .next ((List.range 4).foldl (fun s d => s.traceRaw d s.gcount (64 * d) 20 0 0 (new - old)) s1)
    else .next s1
  else .next s

/-! Degraded shapes (R363). -/

/-- R363. The unit counts as absent from the next reset on. -/
def execUnitMapOut (unit : UnitKind) (n : Nat) (s : State) : Result :=
  if s.mgmt.absentNext.contains (unit, n) then .next s
  else .next { s with mgmt := { s.mgmt with absentNext := s.mgmt.absentNext ++ [(unit, n)] } }

/-! Cooling (R348). -/

/-- R348. At the first threshold the management function is told. -/
def execInletWarning (s : State) : Result :=
  .next (State.emit { s with mgmt := { s.mgmt with inletWarn := true } } (.notice noticeInlet 0))

/-- Every heat of a partition ends, those that stand stopped too (R329, R348). -/
def State.endPartition (s : State) (p : Nat) : State :=
  let s1 := match (s.heat p).phase with | .none | .ended => s | _ => s.stopHeat p
  let mine := s1.parked.filter (fun x => decide (x.1 = p))
  mine.foldl (fun s x => s.completeHeat p x.2 5) { s1 with parked := s1.parked.filter (fun x => decide (x.1 ≠ p)) }

/-- R348. At the second threshold every heat ends with status 5 and the cores are held in reset. -/
def execInletShutdown (s : State) : Result :=
  let s1 := (List.range 4).foldl (fun s p => s.endPartition p) s
  .next { s1 with mgmt := { s1.mgmt with inletWarn := true, inReset := true } }

/-- A firmware context that leaves reset starts at bundle 0, unless it is stopped for good. -/
def FwCtx.restart (f : FwCtx) (t : Nat) : FwCtx :=
  match f.mode with
  | .off | .stopped => f
  | .running | .waiting | .chilled => { fwReset with imem := f.imem, dmem := f.dmem, badI := f.badI, badD := f.badD,
                                                     mode := .running, due := t }

/-- R348. Below the first threshold the cores leave reset. -/
def execInletRecover (s : State) : Result :=
  let s1 : State := { s with mgmt := { s.mgmt with inletWarn := false, inReset := false } }
  if s.mgmt.inReset then
    .next ((List.range Config.cores).foldl (fun s c =>
      let s2 := s.modFwOf c (fun f => f.restart (s.gcount + 1))
      if (s2.fwOf c).mode = .running then s2.at (s.gcount + 1) (.firmwareBundleIssue c) else s2) s1)
  else .next s1

/-! Power (R347). -/

/-- R347. Everything volatile is lost. The flash modules keep what was appended, what lies outside the module stays, and so do
the units marked absent; the machine does nothing until it is reset. -/
def execPowerLoss (s : State) : Result :=
  let m : Mgmt := { mgmtReset with absent := s.mgmt.absent, absentNext := s.mgmt.absentNext }
  .next { State.reset with agenda := [], choice := s.choice, flash := s.flash, host := s.host, peer := s.peer, cxl := s.cxl,
                           mgmt := m, out := s.out }

end Sys2Proof.Machine
end

