-- ==== Sys2Proof/Machine/Transc.lean ====
section
/-! DEFINITION. The transcendental operations of R53 to R57, each by the algorithm the spec fixes. The constants and the
two tables TExp and TLog are the values that their defining formulas round to. -/

namespace Sys2Proof.Machine

/-- K1 = RoundNE(2^64 × ln 2), K2, K3 and G of R56 and R57. -/
def k1 : Nat := 0xB17217F7D1CF79AC
def k2 : Nat := 0x3D7F7BFF058B1D51
def k3 : Nat := 0xE35846B82505FC6
def gLog : Nat := 0x171547652B82FE17

/-- A quotient rounded to the nearest integer, ties to even (R58, RoundNE). -/
def divRne (n d : Nat) : Nat :=
  let q := n / d
  let r := n % d
  if d < 2 * r ∨ (2 * r = d ∧ q % 2 = 1) then q + 1 else q

/-- The greatest r below 2^bits with r² · d ≤ n: the floor of the square root of n / d, bit by bit. -/
def sqrtDiv (n d : Nat) : Nat → Nat → Nat
  | 0, acc => acc
  | k + 1, acc =>
    let t := acc + 2 ^ k
    if t * t * d ≤ n then sqrtDiv n d k t else sqrtDiv n d k acc

/-- TRcp (R54). -/
def tRcp (i : Nat) : Nat := divRne (2 ^ 31 * 256) (257 + 2 * i)

/-- TRsq (R55): 2^31 / sqrt(1 + (2i + 1)/128), to nearest; the root is irrational, so there is no tie. -/
def tRsq (i : Nat) : Nat :=
  let n := 2 ^ 62 * 128
  let d := 129 + 2 * i
  let r := sqrtDiv n d 32 0
  if d * (2 * r + 1) * (2 * r + 1) < 4 * n then r + 1 else r

/-- IRc (R57). -/
def iRc (i : Nat) : Nat := divRne (2 ^ 32 * 256) (256 + i)

/-- TExp (R56), entries 0 to 31. -/
def tExp0 : List Nat := [
  0x4000000000000000, 0x402C6BE96AF2FB58, 0x4058F6A7ECCCD5B6, 0x4085A050EC0A036A, 0x40B268F9DE0183BA,
  0x40DF50B846EF302B, 0x410C57A1B9FE12F6, 0x41397DCBD952C4A6, 0x4166C34C5615D0EC, 0x41942838F07E22A3,
  0x41C1ACA777DB771B, 0x41EF50ADCAA0D899, 0x421D1461D66F2023, 0x424AF7D9981F7E98, 0x4278FB2B1BCE0D15,
  0x42A71E6C7CE464AF, 0x42D561B3E6243D8A, 0x4303C51791B21550, 0x433248ADC91FDD02, 0x4360EC8CE577AE44,
  0x438FB0CB4F468808, 0x43BE957F7EA712B6, 0x43ED9ABFFB4C6BC9, 0x441CC0A35C8CF8EA, 0x444C0740496D4294,
  0x447B6EAD78AAD636, 0x44AAF701B0C72FEE, 0x44DAA053C812ABD2, 0x450A6ABAA4B77ECD, 0x453A564D3CC4B723,
  0x456A632296394492, 0x459A9151C70F0819]
/-- TExp (R56), entries 32 to 63. -/
def tExp1 : List Nat := [
  0x45CAE0F1F545EB73, 0x45FB521A56EF0042, 0x462BE4E23237A6EF, 0x465C9960DD74BD4B, 0x468D6FADBF2DD4F3,
  0x46BE67E04E28717C, 0x46EF821011734E6B, 0x4720BE54A071AD01, 0x47521CC5A2E6A9E0, 0x47839D7AD1009A90,
  0x47B5408BF36472E2, 0x47E70610E3393241, 0x4818EE218A3358EE, 0x484AF8D5E2A06536, 0x487D2645F7725895,
  0x48AF7689E44B44EA, 0x48E1E9B9D588E19B, 0x49147FEE085028D6, 0x4947393ECA98FCD6, 0x497A15C47B39D53E,
  0x49AD159789F37496, 0x49E038D0777CA5E0, 0x4A137F87D58E025B, 0x4A46E9D646EDBF6A, 0x4A7A77D47F7B84B1,
  0x4AAE299B443C4A6B, 0x4AE1FF436B663FF7, 0x4B15F8E5DC6CBAB0, 0x4B4A169B900C2D00, 0x4B7E587D905625D1,
  0x4BB2BEA4F8BD5847, 0x4BE7492AF621ABD6]
/-- TExp (R56), entries 64 to 95. -/
def tExp2 : List Nat := [
  0x4C1BF828C6DC54B8, 0x4C50CBB7BACBF4CB, 0x4C85C3F13360C4D5, 0x4CBAE0EEA3A8C63C, 0x4CF022C9905BFD32,
  0x4D25899B8FE8B365, 0x4D5B157E4A7FC325, 0x4D90C68B7A20EB1E, 0x4DC69CDCEAA72A9C, 0x4DFC988C79D52661,
  0x4E32B9B417619617, 0x4E69006DC503BA65, 0x4E9F6CD3967FDBA8, 0x4ED5FEFFB1B3D155, 0x4F0CB70C4EA39210,
  0x4F439513B785CC80, 0x4F7A993048D088D7, 0x4FB1C37C7145D328, 0x4FE91412B2006E83, 0x50208B0D9E8090DF,
  0x50582887DCB8A7E1, 0x508FEC9C251A267C, 0x50C7D76542A25B72, 0x50FFE8FE12E750C4, 0x513821818624B40C,
  0x5170810A9F48C7CF, 0x51A907B474015DC9, 0x51E1B59A2CC8DA3E, 0x521A8AD704F3404F, 0x525387864ABB4762,
  0x528CABC35F4F799D, 0x52C5F7A9B6DF5B77]
/-- TExp (R56), entries 96 to 127. -/
def tExp3 : List Nat := [
  0x52FF6B54D8A89C75, 0x533906E05F045106, 0x5372CA67F774358F, 0x53ACB60762AFFAAE, 0x53E6C9DA74B29AB5,
  0x542105FD14C7B869, 0x545B6A8B3D990704, 0x5495F7A0FD3BBB8E, 0x54D0AD5A753E077C, 0x550B8BD3DAB49CBD,
  0x5546932976483B15, 0x5581C377A44346F0, 0x55BD1CDAD49F699C, 0x55F89F6F8B133AF4, 0x56344B525F1FF495,
  0x5670209FFC1F2E82, 0x56AC1F752150A563, 0x56E847EEA1E80A49, 0x57249A29651ADC07, 0x57611642662E4A33,
  0x579DBC56B48521BA, 0x57DA8C8373ADC331, 0x581786E5DB7022C2, 0x5854AB9B37DBD1E5, 0x5891FAC0E95612C8,
  0x58CF747464A7F584, 0x590D18D3330C7F1E, 0x594AE7FAF23EDA52, 0x5988E20954889245, 0x59C7071C20CFD70C,
  0x5A05575132A5CC20, 0x5A43D2C67A54E0C0]
/-- TExp (R56), entries 128 to 159. -/
def tExp4 : List Nat := [
  0x5A827999FCEF3242, 0x5AC14BE9D45CF869, 0x5B0049D42F6AFBB6, 0x5B3F737751D915C8, 0x5B7EC8F19468BBC9,
  0x5BBE4A6164EB92F4, 0x5BFDF7E546520F3E, 0x5C3DD19BD0BA1C1A, 0x5C7DD7A3B17DCF75, 0x5CBE0A1BAB4226DF,
  0x5CFE69229605CEF5, 0x5D3EF4D75F2FF504, 0x5D7FAD59099F22FE, 0x5DC092C6ADB825B8, 0x5E01A53F7974FD86,
  0x5E42E4E2B073D935, 0x5E8451CFAC061B5F, 0x5EC5EC25DB3F6A41, 0x5F07B404C304C9F1, 0x5F49A98BFE1BC11C,
  0x5F8BCCDB3D398841, 0x5FCE1E124712437C, 0x60109D50F86846D8, 0x60534AB7441B6546, 0x6096266533384A2B,
  0x60D9307AE507DD9A, 0x611C69188F1EB339, 0x615FD05E7D6C83E4, 0x61A3666D124BB204, 0x61E72B64C690D8AF,
  0x622B1F66299A6599, 0x626F4291E1603DD5]
/-- TExp (R56), entries 160 to 191. -/
def tExp5 : List Nat := [
  0x62B39508AA836D6F, 0x62F816EB585DE1ED, 0x633CC85AD5122FBD, 0x6381A978219B628F, 0x63C6BA6455DCD8AE,
  0x640BFB40A0B22959, 0x64516C2E47FF1623, 0x64970D4EA8BF8766, 0x64DCDEC3371793D1, 0x6522E0AD7E639312,
  0x6569132F21483BA7, 0x65AF7669D9C2CBE4, 0x65F60A7F79393E2E, 0x663CCF91E88A8873, 0x6683C5C3281EE6E9,
  0x66CAED354FF83222, 0x6712460A8FC24072, 0x6759D0652EE352AF, 0x67A18C678C8C8C61, 0x67E97A341FCA775B,
  0x683199ED779592CA, 0x6879EBB63AE2EDC6, 0x68C26FB128B4CD63, 0x690B2601182B5E56, 0x69540EC8F895722D,
  0x699D2A2BD181482A, 0x69E6784CC2CD61BD, 0x6A2FF94F04B962B0, 0x6A79AD55E7F6FD10, 0x6AC39484D5BAE8C5,
  0x6B0DAEFF4FCDE703, 0x6B57FCE8F09DD17F]
/-- TExp (R56), entries 192 to 223. -/
def tExp6 : List Nat := [
  0x6BA27E656B4EB57A, 0x6BED33988BCBFAB5, 0x6C381CA636D99642, 0x6C8339B26A25494E, 0x6CCE8AE13C57EBDB,
  0x6D1A1056DD26C382, 0x6D65CA379564E639, 0x6DB1B8A7C714A92B, 0x6DFDDBCBED791BAB, 0x6E4A33C89D278E49,
  0x6E96C0C284192610, 0x6EE382DE69BC7BF8, 0x6F307A412F074892, 0x6F7DA70FCE881BF9, 0x6FCB096F5C782210,
  0x7018A18506CCF314, 0x70666F76154A7089, 0x70B47367E994AE92, 0x7102AD7FFF41E9B4, 0x71511DE3EBEC8913,
  0x719FC4B95F452D29, 0x71EEA2262324CB0C, 0x723DB6501B9ED447, 0x728D015D47136B40, 0x72DC8373BE41A454,
  0x732C3CB9B459D38B, 0x737C2D55770FE711, 0x73CC556D6EADCE5F, 0x741CB5281E25EE34, 0x746D4CAC2325A155,
  0x74BE1C203627C62B, 0x750F23AB2A87593E]
/-- TExp (R56), entries 224 to 255. -/
def tExp7 : List Nat := [
  0x75606373EE921C97, 0x75B1DBA18B9B4C20, 0x76038C5B260E5EEE, 0x765575C7FD81D5A0, 0x76A7980F6CCA15C2,
  0x76F9F358EA0C5249, 0x774C87CC06D1812E, 0x779F559070195E36, 0x77F25CCDEE6D7AE6, 0x78459DAC65F45BB5,
  0x78991853D684A285, 0x78ECCCEC5BB84661, 0x7940BB9E2CFFD89D, 0x7994E4919DB5D74E, 0x79E947EF1D320D2D,
  0x7A3DE5DF36DCFEEF, 0x7A92BE8A92436616, 0x7AE7D219F329B948, 0x7B3D20B6399FC237, 0x7B92AA886214411C,
  0x7BE86FB985689DDC, 0x7C3E7072D904A6CE, 0x7C94ACDDAEEA5D3A, 0x7CEB252375C9CF9B, 0x7D41D96DB915019D,
  0x7D98C9E62113E1FA, 0x7DEFF6B672F84E24, 0x7E47600890F223DE, 0x7E9F06067A4360BA, 0x7EF6E8DA4B544F9A,
  0x7F4F08AE3DC7C426, 0x7FA765ACA88F6453]
/-- TExp (R56). -/
def tExp (i : Nat) : Nat :=
  (tExp0 ++ tExp1 ++ tExp2 ++ tExp3 ++ tExp4 ++ tExp5 ++ tExp6 ++ tExp7).getD i 0

/-- TLog (R57), entries 0 to 31. -/
def tLog0 : List Nat := [
  0x0, 0x1709C46D639730, 0x2DFCA16AFB67B6, 0x44D8C4601740A8, 0x5B9E5A187C9D1C, 0x724D8EEAB5D30D,
  0x88E68EB02C9C05, 0x9F6984A583E52A, 0xB5D69BA995434D, 0xCC2DFE1E705F77, 0xE26FD5C9C6AF6E,
  0xF89C4C1510750B, 0x10EB389EE9F55F9, 0x124B5B7DAA0926D, 0x13AA2FDD3F070A4, 0x1507B835D39FD39,
  0x1663F6FAB1FDCF1, 0x17BEEE96CFB7C8A, 0x1918A16DE9DE3D2, 0x1A7111DF35F5E86, 0x1BC842405CE1408,
  0x1D1E34E348C1905, 0x1E72EC111D8B42B, 0x1FC66A0E86464A1, 0x2118B119CC090E9, 0x2269C368E3E1CD3,
  0x23B9A32F65E3DAD, 0x250852964BE45A8, 0x2655D3C51F86C31, 0x27A228DB4C2A0F4, 0x28ED53F2F9814DC,
  0x2A375720BB03E21]
/-- TLog (R57), entries 32 to 63. -/
def tLog1 : List Nat := [
  0x2B8034733F02D41, 0x2CC7EDF63F45C47, 0x2E0E85AA11F4DEF, 0x2F53FD90609C9F6, 0x309857A0751CAD6,
  0x31DB95D0C0E6A32, 0x331DBA0E5E2F733, 0x345EC646AF15E8B, 0x359EBC5B80EE6F4, 0x36DD9E2E616560D,
  0x381B6D9B64B40B9, 0x39582C78DFAE449, 0x3A93DC98D257F2B, 0x3BCE7FC6F65C5F2, 0x3D0817CF4711882,
  0x3E40A671E357DC8, 0x3F782D721BE55BB, 0x40AEAE8896D8989, 0x41E42B6F0BC54DC, 0x4318A5D5BE4F4DB,
  0x444C1F6BDC72D56, 0x457E99DA1981D1F, 0x46B016C96994F22, 0x47E097DBD9F6AF1, 0x49101EAC4F322D7,
  0x4A3EACD714BC8CB, 0x4B6C43F0E5A043E, 0x4C98E58DC3B61DD, 0x4DC49339B2283B5, 0x4EEF4E832A7A329,
  0x501918ECAE6E532, 0x5141F3FAD7FE17F]
/-- TLog (R57), entries 64 to 95. -/
def tLog2 : List Nat := [
  0x5269E12ED8190E6, 0x5390E20479727C5, 0x54B6F7F1EB05092, 0x55DC246D0061B6F, 0x570068E76A9FC40,
  0x5823C6D05E718BB, 0x59463F90BFC1CC6, 0x5A67D4924A68291, 0x5B8887363A7E46E, 0x5CA858DE53BBE41,
  0x5DC74AE90F52D3C, 0x5EE55EB173644BB, 0x6002958D0B563A2, 0x611EF0CF789B7E8, 0x623A71CC32CAD6F,
  0x635519CEDFB5C17, 0x646EEA2493716A3, 0x6587E41423D2B76, 0x66A008E3AE928C2, 0x67B759D694FCBB1,
  0x68CDD82984518BA, 0x69E3851BE06D25C, 0x6AF861E613926AF, 0x6C0C6FBF298FB16, 0x6D1FAFDCB3DFF3C,
  0x6E322370BBF2B82, 0x6F43CBA7ACAE0F5, 0x7054A9AFFA3E9E0, 0x7164BEB43202F50, 0x72740BDAD6E300F,
  0x73829248367D09D, 0x7490532046DF3CB]
/-- TLog (R57), entries 96 to 127. -/
def tLog3 : List Nat := [
  0x759D4F809D7DAD3, 0x76A9888838FC263, 0x77B4FF51767E446, 0x78BFB4F3ED86823, 0x79C9AA8855FD836,
  0x7AD2E11E6A25131, 0x7BDB59CCD77862A, 0x7CE3159F0FEF9C8, 0x7DEA15A3433082A, 0x7EF05AE43C1EB4C,
  0x7FF5E6694321914, 0x80FAB93C236BFDD, 0x81FED45CD3E1410, 0x830238CFA98AD96, 0x8404E793063FD40,
  0x8506E1A779280D1, 0x860828076A7F6DF, 0x8708BBAB1EC571F, 0x88089D8AB55C9B4, 0x8907CE9C014374B,
  0x8A064FD48A6FC27, 0x8B042225495E7DB, 0x8C01467A8863F48, 0x8CFDBDC872F9DD5, 0x8DF988F3D33648E,
  0x8EF4A8ED6D7A343, 0x8FEF1E988B1E797, 0x90E8EADDF798AA5, 0x91E20EA1505387A, 0x92DA8AC530D9CAD,
  0x93D2602B2208623, 0x94C98FB389307E4]
/-- TLog (R57), entries 128 to 159. -/
def tLog4 : List Nat := [
  0x95C01A39432C4C7, 0x96B6009A32B4323, 0x97AB43AE8A39AE1, 0x989FE45165A892A, 0x9993E355D8D516E,
  0x9A874191BEA8B35, 0x9B79FFDB83A0596, 0x9C6C1F014B4C660, 0x9D5D9FD60A7FEB7, 0x9E4E832441A20F6,
  0x9F3EC9BD607DCBB, 0xA02E746A3C8198D, 0xA11D83F3D6BB2F7, 0xA20BF9258E263C2, 0xA2F9D4C4239FA96,
  0xA3E7179698417E8, 0xA4D3C25F66C6695, 0xA5BFD5DEACFE498, 0xA6AB52D8E5CBE73, 0xA7963A0DD736F73,
  0xA8808C387937A79, 0xA96A4A17FDA11C4, 0xAA5374646304E5C, 0xAB3C0BDC1735762, 0xAC241133E99F77E,
  0xAD0B852705DF967, 0xADF268648252571, 0xAED8BBA8AB5AF81, 0xAFBE7FA146DD418, 0xB0A3B502504BCF3,
  0xB1885C7A58B7C82, 0xB26C76BBC80603B]
/-- TLog (R57), entries 160 to 191. -/
def tLog5 : List Nat := [
  0xB3500471274705B, 0xB433064B1961CA5, 0xB5157CF24315FAF, 0xB5F76912F86680E, 0xB6D8CB53C7DF963,
  0xB7B9A45EDE32FD9, 0xB899F4D885E14B2, 0xB979BD68964EDD4, 0xBA58FEB34B84C48, 0xBB37B9593360C2E,
  0xBC15EDFE4E80710, 0xBCF39D4542F4889, 0xBDD0C7CA7D9BF4B, 0xBEAD6E2DC3A6038, 0xBF89910AF029604,
  0xC06531039857974, 0xC1404EAE0A98DE4, 0xC21AEAA63AA6566, 0xC2F5058674E8A8A, 0xC3CE9FE4DEFC3DA,
  0xC4A7BA584E91A17, 0xC580557844AC368, 0xC65871DA70F3350, 0xC73010102C5396A, 0xC80730B050E0E1D,
  0xC8DDD4485A05FAD, 0xC9B3FB6DB2790C6, 0xCA89A6AC4B285AD, 0xCB5ED6957CC4F6E, 0xCC338BB6093897F,
  0xCD07C69D928D22A, 0xCDDB87D489946A5]
/-- TLog (R57), entries 192 to 223. -/
def tLog6 : List Nat := [
  0xCEAECFEB392FD66, 0xCF819F6598B9C6A, 0xD053F6D1F5C6FD0, 0xD125D6B7414D09D, 0xD1F73F9C9926337,
  0xD2C8320942E80FC, 0xD398AE8217B888C, 0xD468B58C084F6D0, 0xD53847AC17BBE35, 0xD6076564C2D4877,
  0xD6D60F38887C44B, 0xD7A445A9E457502, 0xD87209361A333F6, 0xD93F5A5F8698797, 0xDA0C39A5D8495D0,
  0xDAD8A78367B3D67, 0xDBA4A47A362C6D6, 0xDC70310445099D6, 0xDD3B4D9DFBBFD58, 0xDE05FABE446CF5D,
  0xDED038E64B08B51, 0xDF9A0889CB2415B, 0xE0636A2416DE7BC, 0xE12C5E2AE176CB8, 0xE1F4E516262DDFA,
  0xE2BCFF5D7F882FC, 0xE384AD7575E3050, 0xE44BEFCF72A503D, 0xE512C6E46E4E8B7, 0xE5D933278FA8503,
  0xE69F350617B05AB, 0xE764CCF77FD10E5]
/-- TLog (R57), entries 224 to 255. -/
def tLog7 : List Nat := [
  0xE829FB67ED1ACC1, 0xE8EEC0CDBD34CDB, 0xE9B31D93E27961E, 0xEA77122A164F53F, 0xEB3A9F022795763,
  0xEBFDC4850D4342E, 0xECC0832339E5316, 0xED82DB4433E9043, 0xEE44CD59BA6B8CC, 0xEF0659CC91E9E2B,
  0xEFC78104B18BC22, 0xF088436EC6053F2, 0xF148A17122EEEA5, 0xF2089B76CB77C35, 0xF2C831E4582BBA1,
  0xF38765230B295B6, 0xF446359B417E242, 0xF504A3AED32F84A, 0xF5C2AFC7072CC1C, 0xF6805A43C39178D,
  0xF73DA38C5A209C6, 0xF7FA8C044CC52C3, 0xF8B7140E1499FA1, 0xF9733C0B1BE9569, 0xFA2F045E8F47F1D,
  0xFAEA6D67ADA5D39, 0xFBA577876F10222, 0xFC60231DAA6913C, 0xFD1A708BEC3C29E, 0xFDD4602CDCE3C34,
  0xFE8DF2628AE5FCB, 0xFF47278AF5A2489]
/-- TLog (R57). -/
def tLog (i : Nat) : Nat :=
  (tLog0 ++ tLog1 ++ tLog2 ++ tLog3 ++ tLog4 ++ tLog5 ++ tLog6 ++ tLog7).getD i 0

/-- A finite nonzero magnitude as 2^e × M / 2^23 with 2^23 ≤ M < 2^24 (R53). The widened inputs have at most 24 bits. -/
def normal24 (m : Nat) (e : Int) : Nat × Int :=
  let l := Nat.log2 m
  (m * 2 ^ (23 - l), e + l)

/-- VRCP (R53, R54). -/
def rcp (f : Nat) (x : XVal) : Nat :=
  match x with
  | .nan => roundTo f 0 .nan
  | .inf neg => roundTo f 0 (.fin neg 0 0)
  | .fin neg m e =>
    if m = 0 then roundTo f 0 (.inf neg)
    else
      let (mm, ee) := normal24 m e
      let step := fun (y : Nat) => y * (2 ^ 55 - mm * y) / 2 ^ 54
      let y := step (step (tRcp (fld mm 16 7)))
      roundTo f 0 (.fin neg y (-31 - ee))

/-- VRSQ (R53, R55). -/
def rsq (f : Nat) (x : XVal) : Nat :=
  match x with
  | .nan => roundTo f 0 .nan
  | .inf neg => if neg then roundTo f 0 .nan else roundTo f 0 (.fin false 0 0)
  | .fin neg m e =>
    if m = 0 then roundTo f 0 (.inf neg)
    else if neg then roundTo f 0 .nan
    else
      let (m0, e0) := normal24 m e
      let mm := if e0 % 2 = 0 then m0 else 2 * m0
      let ee := if e0 % 2 = 0 then e0 else e0 - 1
      let step := fun (y : Nat) => y * (3 * 2 ^ 85 - mm * y * y) / 2 ^ 86
      let y := step (step (tRsq (mm / 2 ^ 17 - 64)))
      roundTo f 0 (.fin false y (-31 - ee / 2))

/-- VEXP2 (R53, R56). -/
def exp2 (f : Nat) (x : XVal) : Nat :=
  match x with
  | .nan => roundTo f 0 .nan
  | .inf neg => if neg then roundTo f 0 (.fin false 0 0) else roundTo f 0 (.inf false)
  | .fin neg m e =>
    if m = 0 then roundTo f 0 (.fin false 1 0)
    else
      -- the value in units of 2^−200, exact for every FP32 input
      let u : Int := xunits (-200) neg m e
      if 128 * 2 ^ 200 ≤ u then roundTo f 0 (.inf false)
      else if u < -151 * 2 ^ 200 then roundTo f 0 (.fin false 0 0)
      else
        let n : Int := u / 2 ^ 200
        let fr : Nat := (u % 2 ^ 200).toNat
        let i := fr / 2 ^ 192
        let w := (fr % 2 ^ 192) / 2 ^ 136
        let s := 2 ^ 64 + k1 * w / 2 ^ 64 + k2 * (w * w / 2 ^ 64) / 2 ^ 64 + k3 * (w * w * w / 2 ^ 128) / 2 ^ 64
        roundTo f 0 (.fin false (tExp i * s) (n - 126))

/-- VLOG2 (R53, R57). -/
def log2x (f : Nat) (x : XVal) : Nat :=
  match x with
  | .nan => roundTo f 0 .nan
  | .inf neg => if neg then roundTo f 0 .nan else roundTo f 0 (.inf false)
  | .fin neg m e =>
    if m = 0 then roundTo f 0 (.inf true)
    else if neg then roundTo f 0 .nan
    else
      let (mm, ee) := normal24 m e
      let i := fld mm 15 8
      let d : Int := (32 * mm * iRc i : Nat) - (2 ^ 60 : Int)
      let p2 := d * d / 2 ^ 60
      let p3 := p2 * d / 2 ^ 60
      let p4 := p3 * d / 2 ^ 60
      let n := d - p2 / 2 + p3 / 3 - p4 / 4
      let v := ee * 2 ^ 60 + tLog i + n * gLog / 2 ^ 60
      roundTo f 0 (xOfInt v (-60))

end Sys2Proof.Machine
end

