-- ==== Sys2Proof/Machine/Vector.lean ====
section
/-! DEFINITION. The VEC slot (R136 to R151). An element-wise operation is one function of the elements; its result lands under
the lane mask read at issue (R33, R137). -/

namespace Sys2Proof.Machine

/-- A vector result lands under the operation's lane mask (R33, R137). -/
def State.landV (s : State) (g : Gate) (lat : Nat) (d : Nat) (v : VReg) : State :=
  s.landIn lat .vec (.vreg d (s.laneMask g) v)

/-- The operand b of a VS form (R138): the low w bits of S[c] in every element. -/
def scalarElems (s : State) (w : Nat) (c : SReg) : List Nat :=
  List.replicate (8192 / w) ((s.rs c.toNat).toNat % 2 ^ w)

/-- The elements of a vector register in a format's width (R136). -/
def vecElems (s : State) (f n : Nat) : List Nat := elems (fmtWidth f) (8192 / fmtWidth f) (s.me.rv n).toNat

/-- A register from its elements. -/
def vecOf (f : Nat) (l : List Nat) : VReg := BitVec.ofNat 8192 (packList (fmtWidth f) l)

/-- Form VV: element i of vd from element i of va and of vb. -/
def vecVV (i : Instr) (g : Gate) (lat : Nat) (f : BitVec 4) (d a b : VField) (op : Nat → Nat → Nat → Nat) (s : State) :
    Result :=
  runOp i true g s (fun s => withV i s d (fun d => withV i s a (fun a => withV i s b (fun b =>
    .next (s.landV g lat d (vecOf f.toNat (List.zipWith (op f.toNat) (vecElems s f.toNat a) (vecElems s f.toNat b))))))))

/-- Form VS: the same with a broadcast scalar. -/
def vecVS (i : Instr) (g : Gate) (lat : Nat) (f : BitVec 4) (d a : VField) (c : SReg) (op : Nat → Nat → Nat → Nat)
    (s : State) : Result :=
  runOp i true g s (fun s => withV i s d (fun d => withV i s a (fun a =>
    .next (s.landV g lat d (vecOf f.toNat (List.zipWith (op f.toNat) (vecElems s f.toNat a)
      (scalarElems s (fmtWidth f.toNat) c)))))))

/-- Form V1: element i of vd from element i of va. -/
def vecV1 (i : Instr) (g : Gate) (lat : Nat) (f : BitVec 4) (d a : VField) (op : Nat → Nat → Nat) (s : State) : Result :=
  runOp i true g s (fun s => withV i s d (fun d => withV i s a (fun a =>
    .next (s.landV g lat d (vecOf f.toNat ((vecElems s f.toNat a).map (op f.toNat)))))))

/-- The value of an element of an integer format (R139), and the bits of a result. -/
def valI (f x : Nat) : Int := match intFmt f with | some (sg, w) => intVal sg w x | none => 0
def bitsI (f : Nat) (v : Int) : Nat := wrapInt (fmtWidth f) v

/-- A result limited to the format's range (R141). -/
def satI (f : Nat) (v : Int) : Nat :=
  match intFmt f with
  | some (sg, w) => wrapInt w (clampInt (intLo sg w) (intHi sg w) v)
  | none => 0

/-! The element results of R141. -/

def elAdd (f x y : Nat) : Nat := bitsI f (valI f x + valI f y)
def elSub (f x y : Nat) : Nat := bitsI f (valI f x - valI f y)
def elMul (f x y : Nat) : Nat := bitsI f (valI f x * valI f y)
def elMulh (f x y : Nat) : Nat := bitsI f (valI f x * valI f y / (2 ^ fmtWidth f : Int))
def elMin (f x y : Nat) : Nat := fmtPick f false x y
def elMax (f x y : Nat) : Nat := fmtPick f true x y
def elAnd (_f x y : Nat) : Nat := x &&& y
def elOr (_f x y : Nat) : Nat := x ||| y
def elXor (_f x y : Nat) : Nat := x ^^^ y
def elShl (f x y : Nat) : Nat := x * 2 ^ (y % fmtWidth f) % 2 ^ fmtWidth f
def elShr (f x y : Nat) : Nat := x / 2 ^ (y % fmtWidth f)
def elSar (f x y : Nat) : Nat := bitsI f (signedVal (fmtWidth f) x / (2 ^ (y % fmtWidth f) : Int))
def elAdds (f x y : Nat) : Nat := satI f (valI f x + valI f y)
def elSubs (f x y : Nat) : Nat := satI f (valI f x - valI f y)

/-! The element results of R142. -/

def elAbs (f x : Nat) : Nat := satI f (if valI f x < 0 then -valI f x else valI f x)
def elNeg (f x : Nat) : Nat := satI f (-valI f x)
def elNot (f x : Nat) : Nat := 2 ^ fmtWidth f - 1 - x % 2 ^ fmtWidth f
def elMov (_f x : Nat) : Nat := x

/-! The element results of R145 to R147. -/

def elFadd (rm f x y : Nat) : Nat := roundTo f rm (xadd rm (widen f x) (widen f y))
def elFsub (rm f x y : Nat) : Nat := roundTo f rm (xadd rm (widen f x) (xneg (widen f y)))
def elFmul (rm f x y : Nat) : Nat := roundTo f rm (xmul (widen f x) (widen f y))
def elFma (rm f x y z : Nat) : Nat := roundTo f rm (xadd rm (xmul (widen f x) (widen f y)) (widen f z))

/-- A NaN gives the canonical NaN, any other encoding `g` of it (R146). -/
def elNan (g : Nat → Nat) (f x : Nat) : Nat :=
  match floatFmt f with
  | some p => match floatKey p x with | some _ => g x | none => p.nan
  | none => x
def elFabs (f x : Nat) : Nat := elNan (fun x => x % 2 ^ (fmtWidth f - 1)) f x
def elFneg (f x : Nat) : Nat := elNan (fun x => (x + 2 ^ (fmtWidth f - 1)) % 2 ^ fmtWidth f) f x
def elExp2 (f x : Nat) : Nat := exp2 f (widen f x)
def elLog2 (f x : Nat) : Nat := log2x f (widen f x)
def elRcp (f x : Nat) : Nat := rcp f (widen f x)
def elRsq (f x : Nat) : Nat := rsq f (widen f x)

/-! Integer arithmetic (R141). -/

/-- R141. -/
def execVadd (g : Gate) (f : BitVec 4) (d a b : VField) (s : State) : Result :=
  vecVV (.vadd g f d a b) g 2 f d a b elAdd s

/-- R141. -/
def execVaddVs (g : Gate) (f : BitVec 4) (d a : VField) (c : SReg) (s : State) : Result :=
  vecVS (.vaddVs g f d a c) g 2 f d a c elAdd s

/-- R141. -/
def execVsub (g : Gate) (f : BitVec 4) (d a b : VField) (s : State) : Result :=
  vecVV (.vsub g f d a b) g 2 f d a b elSub s

/-- R141. -/
def execVsubVs (g : Gate) (f : BitVec 4) (d a : VField) (c : SReg) (s : State) : Result :=
  vecVS (.vsubVs g f d a c) g 2 f d a c elSub s

/-- R141. -/
def execVmul (g : Gate) (f : BitVec 4) (d a b : VField) (s : State) : Result :=
  vecVV (.vmul g f d a b) g 2 f d a b elMul s

/-- R141. -/
def execVmulVs (g : Gate) (f : BitVec 4) (d a : VField) (c : SReg) (s : State) : Result :=
  vecVS (.vmulVs g f d a c) g 2 f d a c elMul s

/-- R141. -/
def execVmulh (g : Gate) (f : BitVec 4) (d a b : VField) (s : State) : Result :=
  vecVV (.vmulh g f d a b) g 2 f d a b elMulh s

/-- R141. -/
def execVmulhVs (g : Gate) (f : BitVec 4) (d a : VField) (c : SReg) (s : State) : Result :=
  vecVS (.vmulhVs g f d a c) g 2 f d a c elMulh s

/-- R141. -/
def execVmin (g : Gate) (f : BitVec 4) (d a b : VField) (s : State) : Result :=
  vecVV (.vmin g f d a b) g 2 f d a b elMin s

/-- R141. -/
def execVminVs (g : Gate) (f : BitVec 4) (d a : VField) (c : SReg) (s : State) : Result :=
  vecVS (.vminVs g f d a c) g 2 f d a c elMin s

/-- R141. -/
def execVmax (g : Gate) (f : BitVec 4) (d a b : VField) (s : State) : Result :=
  vecVV (.vmax g f d a b) g 2 f d a b elMax s

/-- R141. -/
def execVmaxVs (g : Gate) (f : BitVec 4) (d a : VField) (c : SReg) (s : State) : Result :=
  vecVS (.vmaxVs g f d a c) g 2 f d a c elMax s

/-- R141. -/
def execVand (g : Gate) (f : BitVec 4) (d a b : VField) (s : State) : Result :=
  vecVV (.vand g f d a b) g 2 f d a b elAnd s

/-- R141. -/
def execVandVs (g : Gate) (f : BitVec 4) (d a : VField) (c : SReg) (s : State) : Result :=
  vecVS (.vandVs g f d a c) g 2 f d a c elAnd s

/-- R141. -/
def execVor (g : Gate) (f : BitVec 4) (d a b : VField) (s : State) : Result :=
  vecVV (.vor g f d a b) g 2 f d a b elOr s

/-- R141. -/
def execVorVs (g : Gate) (f : BitVec 4) (d a : VField) (c : SReg) (s : State) : Result :=
  vecVS (.vorVs g f d a c) g 2 f d a c elOr s

/-- R141. -/
def execVxor (g : Gate) (f : BitVec 4) (d a b : VField) (s : State) : Result :=
  vecVV (.vxor g f d a b) g 2 f d a b elXor s

/-- R141. -/
def execVxorVs (g : Gate) (f : BitVec 4) (d a : VField) (c : SReg) (s : State) : Result :=
  vecVS (.vxorVs g f d a c) g 2 f d a c elXor s

/-- R141. -/
def execVshl (g : Gate) (f : BitVec 4) (d a b : VField) (s : State) : Result :=
  vecVV (.vshl g f d a b) g 2 f d a b elShl s

/-- R141. -/
def execVshlVs (g : Gate) (f : BitVec 4) (d a : VField) (c : SReg) (s : State) : Result :=
  vecVS (.vshlVs g f d a c) g 2 f d a c elShl s

/-- R141. -/
def execVshr (g : Gate) (f : BitVec 4) (d a b : VField) (s : State) : Result :=
  vecVV (.vshr g f d a b) g 2 f d a b elShr s

/-- R141. -/
def execVshrVs (g : Gate) (f : BitVec 4) (d a : VField) (c : SReg) (s : State) : Result :=
  vecVS (.vshrVs g f d a c) g 2 f d a c elShr s

/-- R141. -/
def execVsar (g : Gate) (f : BitVec 4) (d a b : VField) (s : State) : Result :=
  vecVV (.vsar g f d a b) g 2 f d a b elSar s

/-- R141. -/
def execVsarVs (g : Gate) (f : BitVec 4) (d a : VField) (c : SReg) (s : State) : Result :=
  vecVS (.vsarVs g f d a c) g 2 f d a c elSar s

/-- R141. -/
def execVadds (g : Gate) (f : BitVec 4) (d a b : VField) (s : State) : Result :=
  vecVV (.vadds g f d a b) g 2 f d a b elAdds s

/-- R141. -/
def execVaddsVs (g : Gate) (f : BitVec 4) (d a : VField) (c : SReg) (s : State) : Result :=
  vecVS (.vaddsVs g f d a c) g 2 f d a c elAdds s

/-- R141. -/
def execVsubs (g : Gate) (f : BitVec 4) (d a b : VField) (s : State) : Result :=
  vecVV (.vsubs g f d a b) g 2 f d a b elSubs s

/-- R141. -/
def execVsubsVs (g : Gate) (f : BitVec 4) (d a : VField) (c : SReg) (s : State) : Result :=
  vecVS (.vsubsVs g f d a c) g 2 f d a c elSubs s

/-! One operand (R142 to R144). -/

/-- R142. -/
def execVabs (g : Gate) (f : BitVec 4) (d a : VField) (s : State) : Result :=
  vecV1 (.vabs g f d a) g 2 f d a elAbs s

/-- R142. -/
def execVneg (g : Gate) (f : BitVec 4) (d a : VField) (s : State) : Result :=
  vecV1 (.vneg g f d a) g 2 f d a elNeg s

/-- R142. -/
def execVnot (g : Gate) (f : BitVec 4) (d a : VField) (s : State) : Result :=
  vecV1 (.vnot g f d a) g 2 f d a elNot s

/-- R142. -/
def execVmov (g : Gate) (f : BitVec 4) (d a : VField) (s : State) : Result :=
  vecV1 (.vmov g f d a) g 2 f d a elMov s

/-- R143. -/
def execVmovi (g : Gate) (f : BitVec 4) (d : VField) (imm : BitVec 10) (s : State) : Result :=
  runOp (.vmovi g f d imm) true g s (fun s => withV (.vmovi g f d imm) s d (fun d =>
    let w := fmtWidth f.toNat
    .next (s.landV g 2 d (vecOf f.toNat (List.replicate (8192 / w) (wrapInt w imm.toInt))))))

/-- R144. The selector is read at issue. -/
def execVsel (g : Gate) (f : BitVec 4) (d a b : VField) (sel : WReg) (s : State) : Result :=
  let i : Instr := .vsel g f d a b sel
  runOp i true g s (fun s => withV i s d (fun d => withV i s a (fun a => withV i s b (fun b =>
    .next (s.landV g 2 d (mergeGroups (s.me.rw sel.toNat) (s.me.rv b) (s.me.rv a)))))))

/-! Floating arithmetic (R145 to R147). -/

/-- R145. -/
def execVfadd (g : Gate) (f : BitVec 4) (rm : BitVec 2) (d a b : VField) (s : State) : Result :=
  vecVV (.vfadd g f rm d a b) g 4 f d a b (elFadd rm.toNat) s

/-- R145. -/
def execVfaddVs (g : Gate) (f : BitVec 4) (rm : BitVec 2) (d a : VField) (c : SReg) (s : State) : Result :=
  vecVS (.vfaddVs g f rm d a c) g 4 f d a c (elFadd rm.toNat) s

/-- R145. -/
def execVfsub (g : Gate) (f : BitVec 4) (rm : BitVec 2) (d a b : VField) (s : State) : Result :=
  vecVV (.vfsub g f rm d a b) g 4 f d a b (elFsub rm.toNat) s

/-- R145. -/
def execVfsubVs (g : Gate) (f : BitVec 4) (rm : BitVec 2) (d a : VField) (c : SReg) (s : State) : Result :=
  vecVS (.vfsubVs g f rm d a c) g 4 f d a c (elFsub rm.toNat) s

/-- R145. -/
def execVfmul (g : Gate) (f : BitVec 4) (rm : BitVec 2) (d a b : VField) (s : State) : Result :=
  vecVV (.vfmul g f rm d a b) g 4 f d a b (elFmul rm.toNat) s

/-- R145. -/
def execVfmulVs (g : Gate) (f : BitVec 4) (rm : BitVec 2) (d a : VField) (c : SReg) (s : State) : Result :=
  vecVS (.vfmulVs g f rm d a c) g 4 f d a c (elFmul rm.toNat) s

/-- R145. The third operand is a register named directly (R138). -/
def execVfma (g : Gate) (f : BitVec 4) (rm : BitVec 2) (d a b : VField) (c : BitVec 10) (s : State) : Result :=
  let i : Instr := .vfma g f rm d a b c
  runOp i true g s (fun s => withV i s d (fun d => withV i s a (fun a => withV i s b (fun b =>
    let xy := List.zip (vecElems s f.toNat a) (vecElems s f.toNat b)
    let z := vecElems s f.toNat c.toNat
    .next (s.landV g 4 d (vecOf f.toNat (List.zipWith (fun p z => elFma rm.toNat f.toNat p.1 p.2 z) xy z)))))))

/-- R146. -/
def execVfmin (g : Gate) (f : BitVec 4) (d a b : VField) (s : State) : Result :=
  vecVV (.vfmin g f d a b) g 4 f d a b elMin s

/-- R146. -/
def execVfminVs (g : Gate) (f : BitVec 4) (d a : VField) (c : SReg) (s : State) : Result :=
  vecVS (.vfminVs g f d a c) g 4 f d a c elMin s

/-- R146. -/
def execVfmax (g : Gate) (f : BitVec 4) (d a b : VField) (s : State) : Result :=
  vecVV (.vfmax g f d a b) g 4 f d a b elMax s

/-- R146. -/
def execVfmaxVs (g : Gate) (f : BitVec 4) (d a : VField) (c : SReg) (s : State) : Result :=
  vecVS (.vfmaxVs g f d a c) g 4 f d a c elMax s

/-- R146. -/
def execVfabs (g : Gate) (f : BitVec 4) (d a : VField) (s : State) : Result :=
  vecV1 (.vfabs g f d a) g 4 f d a elFabs s

/-- R146. -/
def execVfneg (g : Gate) (f : BitVec 4) (d a : VField) (s : State) : Result :=
  vecV1 (.vfneg g f d a) g 4 f d a elFneg s

/-- R147. -/
def execVexp2 (g : Gate) (f : BitVec 4) (d a : VField) (s : State) : Result :=
  vecV1 (.vexp2 g f d a) g 8 f d a elExp2 s

/-- R147. -/
def execVlog2 (g : Gate) (f : BitVec 4) (d a : VField) (s : State) : Result :=
  vecV1 (.vlog2 g f d a) g 8 f d a elLog2 s

/-- R147. -/
def execVrcp (g : Gate) (f : BitVec 4) (d a : VField) (s : State) : Result :=
  vecV1 (.vrcp g f d a) g 8 f d a elRcp s

/-- R147. -/
def execVrsq (g : Gate) (f : BitVec 4) (d a : VField) (s : State) : Result :=
  vecV1 (.vrsq g f d a) g 8 f d a elRsq s

/-! Compares (R148). -/

/-- A compare result lands in the bits of W[d] that the lane mask selects (R148). -/
def vecCmp (i : Instr) (g : Gate) (cond : Nat) (f : BitVec 4) (d : WReg) (a b : VField) (s : State) : Result :=
  runOp i true g s (fun s => withV i s a (fun a => withV i s b (fun b =>
    let w := fmtWidth f.toNat
    .next (s.landIn 2 .vec (.wreg d.toNat (s.laneMask g)
      (cmpGroups cond f.toNat (elem w (s.me.rv a).toNat) (elem w (s.me.rv b).toNat)))))))

/-- The same with a broadcast scalar. -/
def vecCmpS (i : Instr) (g : Gate) (cond : Nat) (f : BitVec 4) (d : WReg) (a : VField) (c : SReg) (s : State) : Result :=
  runOp i true g s (fun s => withV i s a (fun a =>
    let w := fmtWidth f.toNat
    .next (s.landIn 2 .vec (.wreg d.toNat (s.laneMask g)
      (cmpGroups cond f.toNat (elem w (s.me.rv a).toNat) (fun _ => (s.rs c.toNat).toNat % 2 ^ w))))))

/-- R148. -/
def execVcmpeq (g : Gate) (f : BitVec 4) (d : WReg) (a b : VField) (s : State) : Result :=
  vecCmp (.vcmpeq g f d a b) g 0 f d a b s

/-- R148. -/
def execVcmpeqVs (g : Gate) (f : BitVec 4) (d : WReg) (a : VField) (c : SReg) (s : State) : Result :=
  vecCmpS (.vcmpeqVs g f d a c) g 0 f d a c s

/-- R148. -/
def execVcmpne (g : Gate) (f : BitVec 4) (d : WReg) (a b : VField) (s : State) : Result :=
  vecCmp (.vcmpne g f d a b) g 1 f d a b s

/-- R148. -/
def execVcmpneVs (g : Gate) (f : BitVec 4) (d : WReg) (a : VField) (c : SReg) (s : State) : Result :=
  vecCmpS (.vcmpneVs g f d a c) g 1 f d a c s

/-- R148. -/
def execVcmplt (g : Gate) (f : BitVec 4) (d : WReg) (a b : VField) (s : State) : Result :=
  vecCmp (.vcmplt g f d a b) g 2 f d a b s

/-- R148. -/
def execVcmpltVs (g : Gate) (f : BitVec 4) (d : WReg) (a : VField) (c : SReg) (s : State) : Result :=
  vecCmpS (.vcmpltVs g f d a c) g 2 f d a c s

/-- R148. -/
def execVcmple (g : Gate) (f : BitVec 4) (d : WReg) (a b : VField) (s : State) : Result :=
  vecCmp (.vcmple g f d a b) g 3 f d a b s

/-- R148. -/
def execVcmpleVs (g : Gate) (f : BitVec 4) (d : WReg) (a : VField) (c : SReg) (s : State) : Result :=
  vecCmpS (.vcmpleVs g f d a c) g 3 f d a c s

/-! Reductions and prefix sums (R150, R151). -/

/-- One pairwise level of a reduction (R150). -/
def pairUp {α : Type} (op : α → α → α) : List α → List α
  | a :: b :: rest => op a b :: pairUp op rest
  | l => l

/-- The pairwise reduction of 2^n elements (R150). -/
def reduceTree {α : Type} (op : α → α → α) : Nat → List α → List α
  | 0, l => l
  | n + 1, l => reduceTree op n (pairUp op l)

/-- log2 of the elements of a register. -/
def vecLevels (f : Nat) : Nat := Nat.log2 (8192 / fmtWidth f)

/-- An FP32 sum of two exact values, as an exact value (R150). -/
def addF32 (a b : XVal) : XVal := widen 10 (roundF32 (xadd 0 a b))

/-- `VRSUM` of the elements of a register (R150). -/
def sumElems (f : Nat) (l : List Nat) : Nat :=
  match floatFmt f with
  | some _ => roundTo f 0 ((reduceTree addF32 (vecLevels f) (l.map (widen f))).headD .nan)
  | none => bitsI f ((l.map (valI f)).foldl (· + ·) 0)

/-- `VRMAX` and `VRMIN` (R150). -/
def pickElems (f : Nat) (max : Bool) (l : List Nat) : Nat := (reduceTree (fmtPick f max) (vecLevels f) l).headD 0

/-- One level of the prefix sums (R151). -/
def prefixLevel {α : Type} (op : α → α → α) (n : Nat) (l : List α) : List α :=
  l.take n ++ List.zipWith op l (l.drop n)

/-- The levels of the prefix sums (R151). -/
def prefixTree {α : Type} (op : α → α → α) (levels : Nat) (l : List α) : List α :=
  (List.range levels).foldl (fun acc d => prefixLevel op (2 ^ d) acc) l

/-- `VPSUM` of the elements of a register (R151). -/
def prefixElems (f : Nat) (l : List Nat) : List Nat :=
  match floatFmt f with
  | some _ => (prefixTree addF32 (vecLevels f) (l.map (widen f))).map (roundTo f 0)
  | none => (prefixTree (· + ·) (vecLevels f) (l.map (valI f))).map (bitsI f)

/-- A reduction writes its result into every element the mask enables, at c+6 (R150). -/
def vecReduce (i : Instr) (g : Gate) (f : BitVec 4) (d a : VField) (op : Nat → List Nat → Nat) (s : State) : Result :=
  runOp i true g s (fun s => withV i s d (fun d => withV i s a (fun a =>
    .next (s.landV g 6 d (vecOf f.toNat (List.replicate (8192 / fmtWidth f.toNat) (op f.toNat (vecElems s f.toNat a))))))))

/-- R150. -/
def execVrsum (g : Gate) (f : BitVec 4) (d a : VField) (s : State) : Result :=
  vecReduce (.vrsum g f d a) g f d a sumElems s

/-- R150. -/
def execVrmax (g : Gate) (f : BitVec 4) (d a : VField) (s : State) : Result :=
  vecReduce (.vrmax g f d a) g f d a (fun f l => pickElems f true l) s

/-- R150. -/
def execVrmin (g : Gate) (f : BitVec 4) (d a : VField) (s : State) : Result :=
  vecReduce (.vrmin g f d a) g f d a (fun f l => pickElems f false l) s

/-- R151. -/
def execVpsum (g : Gate) (f : BitVec 4) (d a : VField) (s : State) : Result :=
  let i : Instr := .vpsum g f d a
  runOp i true g s (fun s => withV i s d (fun d => withV i s a (fun a =>
    .next (s.landV g 8 d (vecOf f.toNat (prefixElems f.toNat (vecElems s f.toNat a)))))))

/-! Mask operations (R149). -/

/-- A mask result lands in the bits of W[d] that the lane mask enables (R149). -/
def maskOp (i : Instr) (g : Gate) (d a b : WReg) (f : BitVec 256 → BitVec 256 → BitVec 256) (s : State) : Result :=
  runOp i true g s (fun s =>
    .next (s.landIn 2 .vec (.wreg d.toNat (s.laneMask g) (f (s.me.rw a.toNat) (s.me.rw b.toNat)))))

/-- R149. -/
def execWand (g : Gate) (d a b : WReg) (s : State) : Result :=
  maskOp (.wand g d a b) g d a b (fun a b => a &&& b) s

/-- R149. -/
def execWor (g : Gate) (d a b : WReg) (s : State) : Result :=
  maskOp (.wor g d a b) g d a b (fun a b => a ||| b) s

/-- R149. -/
def execWxor (g : Gate) (d a b : WReg) (s : State) : Result :=
  maskOp (.wxor g d a b) g d a b (fun a b => a ^^^ b) s

/-- R149. -/
def execWandn (g : Gate) (d a b : WReg) (s : State) : Result :=
  maskOp (.wandn g d a b) g d a b (fun a b => a &&& ~~~b) s

/-- R149. -/
def execWnot (g : Gate) (d a : WReg) (s : State) : Result :=
  maskOp (.wnot g d a) g d a a (fun a _ => ~~~a) s

end Sys2Proof.Machine
end

