-- ==== Sys2Proof/Machine/Permute.lean ====
section
/-! DEFINITION. The PRM slot (R152 to R160): conversions, scaling and quantising, the accesses to scale registers, and the
permutes. A PRM operation is enabled as a whole by its predicate and writes every bit of its destination (R137). -/

namespace Sys2Proof.Machine

/-- A PRM result lands in the whole register (R137). -/
def State.landP (s : State) (lat : Nat) (d : Nat) (v : VReg) : State :=
  s.landIn lat .prm (.vreg d (BitVec.allOnes 256) v)

/-! Conversions (R153 to R157). -/

/-- Elements `from_` to `from_ + n − 1` of a register converted (R154). -/
def convElems (src tgt rm : Nat) (ieee : Bool) (x : VReg) (from_ n : Nat) : List Nat :=
  (List.range n).map (fun i => convert src tgt rm ieee (elem (fmtWidth src) x.toNat (from_ + i)))

/-- R156. -/
def execPack (g : Gate) (f : BitVec 5) (d a b : VField) (t : BitVec 5) (rm : BitVec 2) (ov : Bool) (s : State) : Result :=
  let i : Instr := .pack g f d a b t rm ov
  runOp i false g s (fun s => withV i s d (fun d => withV i s a (fun a => withV i s b (fun b =>
    let n := 8192 / max (fmtWidth f.toNat) 8
    .next (s.landP 3 d (vecOf t.toNat (convElems f.toNat t.toNat rm.toNat ov (s.me.rv a) 0 n ++
      convElems f.toNat t.toNat rm.toNat ov (s.me.rv b) 0 n)))))))

/-- R157. -/
def execUnpk (g : Gate) (f : BitVec 5) (d a : VField) (t : BitVec 5) (rm : BitVec 2) (ov : Bool) (s : State) : Result :=
  let i : Instr := .unpk g f d a t rm ov
  runOp i false g s (fun s => withV i s d (fun d => withV i s a (fun a =>
    let n := 8192 / max (fmtWidth t.toNat) 8
    .next (s.landP 3 d (vecOf t.toNat (convElems f.toNat t.toNat rm.toNat ov (s.me.rv a) n n))))))

/-- The elements that a conversion of one register covers (R155). -/
def convCount (src tgt : Nat) : Nat := 8192 / max (max (fmtWidth src) (fmtWidth tgt)) 8

/-- R155. -/
def execVcvt (g : Gate) (f : BitVec 5) (d a : VField) (t : BitVec 5) (rm : BitVec 2) (ov : Bool) (s : State) : Result :=
  let i : Instr := .vcvt g f d a t rm ov
  runOp i false g s (fun s => withV i s d (fun d => withV i s a (fun a =>
    .next (s.landP 3 d (vecOf t.toNat
      (convElems f.toNat t.toNat rm.toNat ov (s.me.rv a) 0 (convCount f.toNat t.toNat)))))))

/-! Scaling and quantising (R158, R159). -/

/-- Scale n of a k register (R40). -/
def kScale (k : Word64) (n : Nat) : Nat := elem 8 k.toNat n

/-- The scale of element e (R158): one for each block of an MX source, one for all of any other. -/
def scaleOf (src : Nat) (k : Word64) (i e : Nat) : Nat :=
  if (mxFrac src).isSome then kScale k ((i + e / 32) % 8) else kScale k i

/-- R158. -/
def execScale (g : Gate) (f : BitVec 5) (d a : VField) (k : KReg) (i : BitVec 3) (t : BitVec 5) (rm : BitVec 2)
    (ov : Bool) (s : State) : Result :=
  let ins : Instr := .scale g f d a k i t rm ov
  runOp ins false g s (fun s => withV ins s d (fun d => withV ins s a (fun a =>
    let x := (s.me.rv a).toNat
    let kv := s.me.rk k.toNat
    .next (s.landP 3 d (vecOf t.toNat ((List.range (convCount f.toNat t.toNat)).map (fun e =>
      convertValue t.toNat rm.toNat ov (xmul (widen f.toNat (elem (fmtWidth f.toNat) x e))
        (scaleE8M0 (scaleOf f.toNat kv i.toNat e))))))))))

/-- Emax of a target of `QNT` (R159). -/
def qntEmax (t : Nat) : Int :=
  match t with
  | 13 => 2
  | 6 => 8
  | 7 => 15
  | _ => 0

/-- The exponent of a block's largest magnitude: Floor(log2 amax), none when amax is 0 (R159). -/
def blockExp : List XVal → Option Int
  | [] => none
  | .fin _ m e :: rest =>
    if m = 0 then blockExp rest
    else
      match blockExp rest with
      | some x => some (max x (e + (Nat.log2 m : Int)))
      | none => some (e + (Nat.log2 m : Int))
  | _ :: rest => blockExp rest

/-- One block of `QNT` (R159): its scale and its elements. -/
def qntBlock (t rm : Nat) (ov : Bool) (l : List Nat) : Nat × List Nat :=
  let xs := l.map (widen 10)
  if xs.any (fun x => match x with | .fin _ _ _ => false | _ => true) then (0xFF, l.map (fun _ => 0))
  else
    let x : Int := match blockExp xs with
      | none => 127
      | some e => clampInt 0 254 (e - qntEmax t + 127)
    (x.toNat, xs.map (fun v => convertValue t rm ov (xscale (127 - x) v)))

/-- R159. The scales and the elements are separate results. -/
def execQnt (g : Gate) (f : BitVec 5) (d a : VField) (k : KReg) (i : BitVec 3) (t : BitVec 5) (rm : BitVec 2) (ov : Bool)
    (s : State) : Result :=
  let ins : Instr := .qnt g f d a k i t rm ov
  runOp ins false g s (fun s => withV ins s d (fun d => withV ins s a (fun a =>
    let x := (s.me.rv a).toNat
    let blocks := (List.range 8).map (fun blk =>
      qntBlock t.toNat rm.toNat ov ((List.range 32).map (fun j => elem 32 x (32 * blk + j))))
    let s1 := s.landP 5 d (vecOf t.toNat (blocks.flatMap (fun p => p.2)))
    .next (s1.landIn 5 .prm (.kreg k.toNat (BitVec.ofNat 64 (packList 8 (blocks.map (fun p => p.1)))))))))

/-! Accesses to scale registers (R160). -/

/-- R160. The bytes are read at c+2 and land at c+6. -/
def execLdsc (g : Gate) (k : KReg) (sa : StreamReg) (s : State) : Result :=
  runOp (.ldsc g k sa) false g s (fun s =>
    let a := s.addrOf g sa 8
    .next (s.access codeScale (rangeBanks a 8) a 2 2 (.kload k.toNat)))

/-- R160. The register is read at issue and written at c+3. -/
def execStsc (g : Gate) (k : KReg) (sa : StreamReg) (s : State) : Result :=
  runOp (.stsc g k sa) false g s (fun s =>
    let a := s.addrOf g sa 8
    .next (s.access codeScale (rangeBanks a 8) a 3 3 (.kstore (s.me.rk k.toNat))))

/-! Permutes (R152). -/

/-- A permute: element i of vd is `f i` of the elements of va and vb, landing at c+4 (R152). -/
def permuteOp (ins : Instr) (g : Gate) (f : BitVec 5) (d a b : VField) (el : (Nat → Nat) → (Nat → Nat) → Nat → Nat)
    (s : State) : Result :=
  runOp ins false g s (fun s => withV ins s d (fun d => withV ins s a (fun a => withV ins s b (fun b =>
    let w := fmtWidth f.toNat
    .next (s.landP 4 d (vecOf f.toNat ((List.range (permLen f)).map
      (el (elem w (s.me.rv a).toNat) (elem w (s.me.rv b).toNat)))))))))

/-- R152. -/
def execPerm (g : Gate) (f : BitVec 5) (d a b : VField) (imm : BitVec 9) (s : State) : Result :=
  permuteOp (.perm g f d a b imm) g f d a b (fun x y i => x ((y i + 256 * (imm.toNat % 4)) % permLen f)) s

/-- R152. -/
def execSlide (g : Gate) (f : BitVec 5) (d a b : VField) (imm : BitVec 9) (s : State) : Result :=
  permuteOp (.slide g f d a b imm) g f d a b (fun x y i =>
    if i + imm.toNat < permLen f then x (i + imm.toNat) else y (i + imm.toNat - permLen f)) s

/-- The patterns of `SHUF` (R152). -/
def shufElem (pat len : Nat) (x y : Nat → Nat) (i : Nat) : Nat :=
  let h := len / 2
  match pat with
  | 0 => if i % 2 = 0 then x (i / 2) else y (i / 2)
  | 1 => if i % 2 = 0 then x (h + i / 2) else y (h + i / 2)
  | 2 => if i < h then x (2 * i) else y (2 * (i - h))
  | _ => if i < h then x (2 * i + 1) else y (2 * (i - h) + 1)

/-- R152. -/
def execShuf (g : Gate) (f : BitVec 5) (d a b : VField) (imm : BitVec 9) (s : State) : Result :=
  permuteOp (.shuf g f d a b imm) g f d a b (shufElem imm.toNat (permLen f)) s

/-- R152. -/
def execRot (g : Gate) (f : BitVec 5) (d a : VField) (imm : BitVec 9) (s : State) : Result :=
  permuteOp (.rot g f d a imm) g f d a a (fun x _ i => x ((i + imm.toNat) % permLen f)) s

end Sys2Proof.Machine
end

