-- ==== Sys2Proof/Machine/Dispatch.lean ====
section
/-! DEFINITION. One arm per row of the opcode table, each a call of its meaning. -/

namespace Sys2Proof.Machine

def exec (i : Instr) (s : State) : Host.Outcome State Fault Refusal :=
  match i with
  | .bundleIssue core => Sys2Proof.Machine.execBundleIssue core s
  | .codeLineFetch core => Sys2Proof.Machine.execCodeLineFetch core s
  | .resultLand core => Sys2Proof.Machine.execResultLand core s
  | .bankAccess core id part => Sys2Proof.Machine.execBankAccess core id part s
  | .dynamicBankAccess core id off => Sys2Proof.Machine.execDynamicBankAccess core id off s
  | .nop slot => Sys2Proof.Machine.execNop slot s
  | .br g idx seg => Sys2Proof.Machine.execBr g idx seg s
  | .call g idx seg => Sys2Proof.Machine.execCall g idx seg s
  | .bri g sreg => Sys2Proof.Machine.execBri g sreg s
  | .calli g sreg => Sys2Proof.Machine.execCalli g sreg s
  | .ret g => Sys2Proof.Machine.execRet g s
  | .loop g cnt lte body lvl => Sys2Proof.Machine.execLoop g cnt lte body lvl s
  | .lexit g lvl => Sys2Proof.Machine.execLexit g lvl s
  | .halt g => Sys2Proof.Machine.execHalt g s
  | .trig g imm8 => Sys2Proof.Machine.execTrig g imm8 s
  | .waitd g bar sreg => Sys2Proof.Machine.execWaitd g bar sreg s
  | .waitdDeadline core => Sys2Proof.Machine.execWaitdDeadline core s
  | .waita g bar => Sys2Proof.Machine.execWaita g bar s
  | .waitaRelease core => Sys2Proof.Machine.execWaitaRelease core s
  | .align g sreg => Sys2Proof.Machine.execAlign g sreg s
  | .alignPointReached core => Sys2Proof.Machine.execAlignPointReached core s
  | .trap g imm8 => Sys2Proof.Machine.execTrap g imm8 s
  | .chill g => Sys2Proof.Machine.execChill g s
  | .fret g => Sys2Proof.Machine.execFret g s
  | .add g d a b => Sys2Proof.Machine.execAdd g d a b s
  | .sub g d a b => Sys2Proof.Machine.execSub g d a b s
  | .and g d a b => Sys2Proof.Machine.execAnd g d a b s
  | .or g d a b => Sys2Proof.Machine.execOr g d a b s
  | .xor g d a b => Sys2Proof.Machine.execXor g d a b s
  | .shl g d a b => Sys2Proof.Machine.execShl g d a b s
  | .shr g d a b => Sys2Proof.Machine.execShr g d a b s
  | .sar g d a b => Sys2Proof.Machine.execSar g d a b s
  | .min g d a b => Sys2Proof.Machine.execMin g d a b s
  | .max g d a b => Sys2Proof.Machine.execMax g d a b s
  | .minu g d a b => Sys2Proof.Machine.execMinu g d a b s
  | .maxu g d a b => Sys2Proof.Machine.execMaxu g d a b s
  | .addi g d a imm => Sys2Proof.Machine.execAddi g d a imm s
  | .andi g d a imm => Sys2Proof.Machine.execAndi g d a imm s
  | .ori g d a imm => Sys2Proof.Machine.execOri g d a imm s
  | .xori g d a imm => Sys2Proof.Machine.execXori g d a imm s
  | .shli g d a imm => Sys2Proof.Machine.execShli g d a imm s
  | .shri g d a imm => Sys2Proof.Machine.execShri g d a imm s
  | .sari g d a imm => Sys2Proof.Machine.execSari g d a imm s
  | .cati g d a imm => Sys2Proof.Machine.execCati g d a imm s
  | .mul g d a b => Sys2Proof.Machine.execMul g d a b s
  | .mulh g d a b => Sys2Proof.Machine.execMulh g d a b s
  | .mulhu g d a b => Sys2Proof.Machine.execMulhu g d a b s
  | .div g d a b => Sys2Proof.Machine.execDiv g d a b s
  | .divu g d a b => Sys2Proof.Machine.execDivu g d a b s
  | .rem g d a b => Sys2Proof.Machine.execRem g d a b s
  | .remu g d a b => Sys2Proof.Machine.execRemu g d a b s
  | .xs g a v => Sys2Proof.Machine.execXs g a v s
  | .xv g d v lane => Sys2Proof.Machine.execXv g d v lane s
  | .cmpeq g d a b => Sys2Proof.Machine.execCmpeq g d a b s
  | .cmpne g d a b => Sys2Proof.Machine.execCmpne g d a b s
  | .cmplt g d a b => Sys2Proof.Machine.execCmplt g d a b s
  | .cmpltu g d a b => Sys2Proof.Machine.execCmpltu g d a b s
  | .cmple g d a b => Sys2Proof.Machine.execCmple g d a b s
  | .cmpleu g d a b => Sys2Proof.Machine.execCmpleu g d a b s
  | .cmpeqi g d a imm => Sys2Proof.Machine.execCmpeqi g d a imm s
  | .cmpnei g d a imm => Sys2Proof.Machine.execCmpnei g d a imm s
  | .cmplti g d a imm => Sys2Proof.Machine.execCmplti g d a imm s
  | .cmpltui g d a imm => Sys2Proof.Machine.execCmpltui g d a imm s
  | .cmplei g d a imm => Sys2Proof.Machine.execCmplei g d a imm s
  | .cmpleui g d a imm => Sys2Proof.Machine.execCmpleui g d a imm s
  | .qand g d a b => Sys2Proof.Machine.execQand g d a b s
  | .qor g d a b => Sys2Proof.Machine.execQor g d a b s
  | .qxor g d a b => Sys2Proof.Machine.execQxor g d a b s
  | .qandn g d a b => Sys2Proof.Machine.execQandn g d a b s
  | .aset g d a fsel => Sys2Proof.Machine.execAset g d a fsel s
  | .srd g d n => Sys2Proof.Machine.execSrd g d n s
  | .swr g n a => Sys2Proof.Machine.execSwr g n a s
  | .gcrdHeat g d => Sys2Proof.Machine.execGcrdHeat g d s
  | .gcrdGcount g d => Sys2Proof.Machine.execGcrdGcount g d s
  | .lxrd g d n => Sys2Proof.Machine.execLxrd g d n s
  | .fsrd g d n => Sys2Proof.Machine.execFsrd g d n s
  | .fswr g n a => Sys2Proof.Machine.execFswr g n a s
  | .holdWrite core v => Sys2Proof.Machine.execHoldWrite core v s
  | .heatStopRequest part => Sys2Proof.Machine.execHeatStopRequest part s
  | .heatResume part delta => Sys2Proof.Machine.execHeatResume part delta s
  | .heatRestart part delta => Sys2Proof.Machine.execHeatRestart part delta s
  | .heatEnd part => Sys2Proof.Machine.execHeatEnd part s
  | .patrolStartScrub part => Sys2Proof.Machine.execPatrolStartScrub part s
  | .patrolRotate part => Sys2Proof.Machine.execPatrolRotate part s
  | .patrolStop part => Sys2Proof.Machine.execPatrolStop part s
  | .timerArm q => Sys2Proof.Machine.execTimerArm q s
  | .timerDisarm q => Sys2Proof.Machine.execTimerDisarm q s
  | .vadd g fmt d a b => Sys2Proof.Machine.execVadd g fmt d a b s
  | .vaddVs g fmt d a c => Sys2Proof.Machine.execVaddVs g fmt d a c s
  | .vsub g fmt d a b => Sys2Proof.Machine.execVsub g fmt d a b s
  | .vsubVs g fmt d a c => Sys2Proof.Machine.execVsubVs g fmt d a c s
  | .vmul g fmt d a b => Sys2Proof.Machine.execVmul g fmt d a b s
  | .vmulVs g fmt d a c => Sys2Proof.Machine.execVmulVs g fmt d a c s
  | .vmulh g fmt d a b => Sys2Proof.Machine.execVmulh g fmt d a b s
  | .vmulhVs g fmt d a c => Sys2Proof.Machine.execVmulhVs g fmt d a c s
  | .vmin g fmt d a b => Sys2Proof.Machine.execVmin g fmt d a b s
  | .vminVs g fmt d a c => Sys2Proof.Machine.execVminVs g fmt d a c s
  | .vmax g fmt d a b => Sys2Proof.Machine.execVmax g fmt d a b s
  | .vmaxVs g fmt d a c => Sys2Proof.Machine.execVmaxVs g fmt d a c s
  | .vand g fmt d a b => Sys2Proof.Machine.execVand g fmt d a b s
  | .vandVs g fmt d a c => Sys2Proof.Machine.execVandVs g fmt d a c s
  | .vor g fmt d a b => Sys2Proof.Machine.execVor g fmt d a b s
  | .vorVs g fmt d a c => Sys2Proof.Machine.execVorVs g fmt d a c s
  | .vxor g fmt d a b => Sys2Proof.Machine.execVxor g fmt d a b s
  | .vxorVs g fmt d a c => Sys2Proof.Machine.execVxorVs g fmt d a c s
  | .vshl g fmt d a b => Sys2Proof.Machine.execVshl g fmt d a b s
  | .vshlVs g fmt d a c => Sys2Proof.Machine.execVshlVs g fmt d a c s
  | .vshr g fmt d a b => Sys2Proof.Machine.execVshr g fmt d a b s
  | .vshrVs g fmt d a c => Sys2Proof.Machine.execVshrVs g fmt d a c s
  | .vsar g fmt d a b => Sys2Proof.Machine.execVsar g fmt d a b s
  | .vsarVs g fmt d a c => Sys2Proof.Machine.execVsarVs g fmt d a c s
  | .vadds g fmt d a b => Sys2Proof.Machine.execVadds g fmt d a b s
  | .vaddsVs g fmt d a c => Sys2Proof.Machine.execVaddsVs g fmt d a c s
  | .vsubs g fmt d a b => Sys2Proof.Machine.execVsubs g fmt d a b s
  | .vsubsVs g fmt d a c => Sys2Proof.Machine.execVsubsVs g fmt d a c s
  | .vabs g fmt d a => Sys2Proof.Machine.execVabs g fmt d a s
  | .vneg g fmt d a => Sys2Proof.Machine.execVneg g fmt d a s
  | .vnot g fmt d a => Sys2Proof.Machine.execVnot g fmt d a s
  | .vmov g fmt d a => Sys2Proof.Machine.execVmov g fmt d a s
  | .vmovi g fmt d imm => Sys2Proof.Machine.execVmovi g fmt d imm s
  | .vsel g fmt d a b sel => Sys2Proof.Machine.execVsel g fmt d a b sel s
  | .vfadd g fmt rm d a b => Sys2Proof.Machine.execVfadd g fmt rm d a b s
  | .vfaddVs g fmt rm d a c => Sys2Proof.Machine.execVfaddVs g fmt rm d a c s
  | .vfsub g fmt rm d a b => Sys2Proof.Machine.execVfsub g fmt rm d a b s
  | .vfsubVs g fmt rm d a c => Sys2Proof.Machine.execVfsubVs g fmt rm d a c s
  | .vfmul g fmt rm d a b => Sys2Proof.Machine.execVfmul g fmt rm d a b s
  | .vfmulVs g fmt rm d a c => Sys2Proof.Machine.execVfmulVs g fmt rm d a c s
  | .vfma g fmt rm d a b c => Sys2Proof.Machine.execVfma g fmt rm d a b c s
  | .vfmin g fmt d a b => Sys2Proof.Machine.execVfmin g fmt d a b s
  | .vfminVs g fmt d a c => Sys2Proof.Machine.execVfminVs g fmt d a c s
  | .vfmax g fmt d a b => Sys2Proof.Machine.execVfmax g fmt d a b s
  | .vfmaxVs g fmt d a c => Sys2Proof.Machine.execVfmaxVs g fmt d a c s
  | .vfabs g fmt d a => Sys2Proof.Machine.execVfabs g fmt d a s
  | .vfneg g fmt d a => Sys2Proof.Machine.execVfneg g fmt d a s
  | .vexp2 g fmt d a => Sys2Proof.Machine.execVexp2 g fmt d a s
  | .vlog2 g fmt d a => Sys2Proof.Machine.execVlog2 g fmt d a s
  | .vrcp g fmt d a => Sys2Proof.Machine.execVrcp g fmt d a s
  | .vrsq g fmt d a => Sys2Proof.Machine.execVrsq g fmt d a s
  | .vcmpeq g fmt d a b => Sys2Proof.Machine.execVcmpeq g fmt d a b s
  | .vcmpeqVs g fmt d a c => Sys2Proof.Machine.execVcmpeqVs g fmt d a c s
  | .vcmpne g fmt d a b => Sys2Proof.Machine.execVcmpne g fmt d a b s
  | .vcmpneVs g fmt d a c => Sys2Proof.Machine.execVcmpneVs g fmt d a c s
  | .vcmplt g fmt d a b => Sys2Proof.Machine.execVcmplt g fmt d a b s
  | .vcmpltVs g fmt d a c => Sys2Proof.Machine.execVcmpltVs g fmt d a c s
  | .vcmple g fmt d a b => Sys2Proof.Machine.execVcmple g fmt d a b s
  | .vcmpleVs g fmt d a c => Sys2Proof.Machine.execVcmpleVs g fmt d a c s
  | .vrsum g fmt d a => Sys2Proof.Machine.execVrsum g fmt d a s
  | .vrmax g fmt d a => Sys2Proof.Machine.execVrmax g fmt d a s
  | .vrmin g fmt d a => Sys2Proof.Machine.execVrmin g fmt d a s
  | .vpsum g fmt d a => Sys2Proof.Machine.execVpsum g fmt d a s
  | .wand g d a b => Sys2Proof.Machine.execWand g d a b s
  | .wor g d a b => Sys2Proof.Machine.execWor g d a b s
  | .wxor g d a b => Sys2Proof.Machine.execWxor g d a b s
  | .wnot g d a => Sys2Proof.Machine.execWnot g d a s
  | .wandn g d a b => Sys2Proof.Machine.execWandn g d a b s
  | .pack g fmt d a b tfmt rm ov => Sys2Proof.Machine.execPack g fmt d a b tfmt rm ov s
  | .unpk g fmt d a tfmt rm ov => Sys2Proof.Machine.execUnpk g fmt d a tfmt rm ov s
  | .vcvt g fmt d a tfmt rm ov => Sys2Proof.Machine.execVcvt g fmt d a tfmt rm ov s
  | .scale g fmt d a k idx tfmt rm ov => Sys2Proof.Machine.execScale g fmt d a k idx tfmt rm ov s
  | .qnt g fmt d a k idx tfmt rm ov => Sys2Proof.Machine.execQnt g fmt d a k idx tfmt rm ov s
  | .ldsc g k a => Sys2Proof.Machine.execLdsc g k a s
  | .stsc g k a => Sys2Proof.Machine.execStsc g k a s
  | .perm g fmt d a b imm => Sys2Proof.Machine.execPerm g fmt d a b imm s
  | .slide g fmt d a b imm => Sys2Proof.Machine.execSlide g fmt d a b imm s
  | .shuf g fmt d a b imm => Sys2Proof.Machine.execShuf g fmt d a b imm s
  | .rot g fmt d a imm => Sys2Proof.Machine.execRot g fmt d a imm s
  | .mma g tile sa sb fmt ka kb => Sys2Proof.Machine.execMma g tile sa sb fmt ka kb s
  | .mmaz g tile sa sb fmt ka kb => Sys2Proof.Machine.execMmaz g tile sa sb fmt ka kb s
  | .mmaa g tile sa sb fmt ka kb => Sys2Proof.Machine.execMmaa g tile sa sb fmt ka kb s
  | .mmaaz g tile sa sb fmt ka kb => Sys2Proof.Machine.execMmaaz g tile sa sb fmt ka kb s
  | .mgain g tile rg v => Sys2Proof.Machine.execMgain g tile rg v s
  | .mrd g tile rg v => Sys2Proof.Machine.execMrd g tile rg v s
  | .mwr g tile rg v => Sys2Proof.Machine.execMwr g tile rg v s
  | .mzero g tile => Sys2Proof.Machine.execMzero g tile s
  | .mclrp g tile => Sys2Proof.Machine.execMclrp g tile s
  | .ascan g tile cy => Sys2Proof.Machine.execAscan g tile cy s
  | .msvc g cy v => Sys2Proof.Machine.execMsvc g cy v s
  | .mldc g cy v => Sys2Proof.Machine.execMldc g cy v s
  | .vld g v sa => Sys2Proof.Machine.execVld g v sa s
  | .vst g v sa => Sys2Proof.Machine.execVst g v sa s
  | .sld g sreg sa => Sys2Proof.Machine.execSld g sreg sa s
  | .sst g sreg sa => Sys2Proof.Machine.execSst g sreg sa s
  | .vgth g fmt v sa idx => Sys2Proof.Machine.execVgth g fmt v sa idx s
  | .vsct g fmt v sa idx => Sys2Proof.Machine.execVsct g fmt v sa idx s
  | .vstn g v sa core => Sys2Proof.Machine.execVstn g v sa core s
  | .vstnArrival core id part => Sys2Proof.Machine.execVstnArrival core id part s
  | .atom g fmt sreg sa op => Sys2Proof.Machine.execAtom g fmt sreg sa op s
  | .loadQueuePush core id => Sys2Proof.Machine.execLoadQueuePush core id s
  | .red g fmt sreg sa op => Sys2Proof.Machine.execRed g fmt sreg sa op s
  | .lqpop g sreg => Sys2Proof.Machine.execLqpop g sreg s
  | .copy g sa => Sys2Proof.Machine.execCopy g sa s
  | .copyTile core id tile part => Sys2Proof.Machine.execCopyTile core id tile part s
  | .pour g sa => Sys2Proof.Machine.execPour g sa s
  | .take g sa => Sys2Proof.Machine.execTake g sa s
  | .cred g sa => Sys2Proof.Machine.execCred g sa s
  | .caxpy g sa => Sys2Proof.Machine.execCaxpy g sa s
  | .cfill g sa => Sys2Proof.Machine.execCfill g sa s
  | .put g sa => Sys2Proof.Machine.execPut g sa s
  | .get g sa => Sys2Proof.Machine.execGet g sa s
  | .cfence g sa scope => Sys2Proof.Machine.execCfence g sa scope s
  | .cfenceRelease core => Sys2Proof.Machine.execCfenceRelease core s
  | .fence g scope => Sys2Proof.Machine.execFence g scope s
  | .fenceRelease core fw => Sys2Proof.Machine.execFenceRelease core fw s
  | .bpost g sreg bar => Sys2Proof.Machine.execBpost g sreg bar s
  | .qrd g sa => Sys2Proof.Machine.execQrd g sa s
  | .kscan g sa => Sys2Proof.Machine.execKscan g sa s
  | .kclr g sa => Sys2Proof.Machine.execKclr g sa s
  | .japp g sa => Sys2Proof.Machine.execJapp g sa s
  | .firmwareAccessComplete core => Sys2Proof.Machine.execFirmwareAccessComplete core s
  | .firmwareBundleIssue core => Sys2Proof.Machine.execFirmwareBundleIssue core s
  | .firmwareCauseTaken core => Sys2Proof.Machine.execFirmwareCauseTaken core s
  | .completionBitWrite part group iter => Sys2Proof.Machine.execCompletionBitWrite part group iter s
  | .pourRequest core id => Sys2Proof.Machine.execPourRequest core id s
  | .pourArrival core id off len => Sys2Proof.Machine.execPourArrival core id off len s
  | .blockExpansion core id k => Sys2Proof.Machine.execBlockExpansion core id k s
  | .blockRemoval core id k => Sys2Proof.Machine.execBlockRemoval core id k s
  | .expansionPiece core id piece part => Sys2Proof.Machine.execExpansionPiece core id piece part s
  | .codebookDelivery core id => Sys2Proof.Machine.execCodebookDelivery core id s
  | .crucibleSend core id part => Sys2Proof.Machine.execCrucibleSend core id part s
  | .crucibleArrival core id => Sys2Proof.Machine.execCrucibleArrival core id s
  | .crucibleExecute ch bank => Sys2Proof.Machine.execCrucibleExecute ch bank s
  | .hostAtomicExecute ch bank => Sys2Proof.Machine.execHostAtomicExecute ch bank s
  | .dynamicRequestIssue core id => Sys2Proof.Machine.execDynamicRequestIssue core id s
  | .dynamicRequestPerform core id off => Sys2Proof.Machine.execDynamicRequestPerform core id off s
  | .act ch entry => Sys2Proof.Machine.execAct ch entry s
  | .rd ch entry => Sys2Proof.Machine.execRd ch entry s
  | .wr ch entry => Sys2Proof.Machine.execWr ch entry s
  | .pre ch entry => Sys2Proof.Machine.execPre ch entry s
  | .refpb ch entry => Sys2Proof.Machine.execRefpb ch entry s
  | .wopen ch entry => Sys2Proof.Machine.execWopen ch entry s
  | .svc ch entry => Sys2Proof.Machine.execSvc ch entry s
  | .rowGroupStale ch bank group => Sys2Proof.Machine.execRowGroupStale ch bank group s
  | .patrolLine part line => Sys2Proof.Machine.execPatrolLine part line s
  | .logAppend id => Sys2Proof.Machine.execLogAppend id s
  | .heatArm part => Sys2Proof.Machine.execHeatArm part s
  | .launchCheck part => Sys2Proof.Machine.execLaunchCheck part s
  | .taskStart core => Sys2Proof.Machine.execTaskStart core s
  | .heatCompletion part => Sys2Proof.Machine.execHeatCompletion part s
  | .timerRelease q => Sys2Proof.Machine.execTimerRelease q s
  | .stopCycle part => Sys2Proof.Machine.execStopCycle part s
  | .cutReduction part => Sys2Proof.Machine.execCutReduction part s
  | .quiescence part => Sys2Proof.Machine.execQuiescence part s
  | .invalComplete part => Sys2Proof.Machine.execInvalComplete part s
  | .traceWrite die => Sys2Proof.Machine.execTraceWrite die s
  | .logSubmit core v => Sys2Proof.Machine.execLogSubmit core v s
  | .doorbell src w => Sys2Proof.Machine.execDoorbell src w s
  | .mailboxWrite src off data => Sys2Proof.Machine.execMailboxWrite src off data s
  | .mailboxRead src off len => Sys2Proof.Machine.execMailboxRead src off len s
  | .hostAtomicop src off op size x cmp => Sys2Proof.Machine.execHostAtomicop src off op size x cmp s
  | .functionLevelReset fn => Sys2Proof.Machine.execFunctionLevelReset fn s
  | .linkDown link => Sys2Proof.Machine.execLinkDown link s
  | .linkTrain link => Sys2Proof.Machine.execLinkTrain link s
  | .errlogRead fn => Sys2Proof.Machine.execErrlogRead fn s
  | .attreq fn nonce => Sys2Proof.Machine.execAttreq fn nonce s
  | .pmodeWrite v => Sys2Proof.Machine.execPmodeWrite v s
  | .keySlotLoad part k v => Sys2Proof.Machine.execKeySlotLoad part k v s
  | .registerWrite byFirmware reg v => Sys2Proof.Machine.execRegisterWrite byFirmware reg v s
  | .unitMapOut unit n => Sys2Proof.Machine.execUnitMapOut unit n s
  | .timeSync dt0 g0 f => Sys2Proof.Machine.execTimeSync dt0 g0 f s
  | .peerGetRequest peer addr len => Sys2Proof.Machine.execPeerGetRequest peer addr len s
  | .remoteArrival core bar space addr data => Sys2Proof.Machine.execRemoteArrival core bar space addr data s
  | .parkedRequestReplay core tag => Sys2Proof.Machine.execParkedRequestReplay core tag s
  | .parkedRequestAbandon core tag => Sys2Proof.Machine.execParkedRequestAbandon core tag s
  | .inval part v => Sys2Proof.Machine.execInval part v s
  | .reevaluationPort q => Sys2Proof.Machine.execReevaluationPort q s
  | .controllerRunRefresh ch => Sys2Proof.Machine.execControllerRunRefresh ch s
  | .journalHeldAppend => Sys2Proof.Machine.execJournalHeldAppend s
  | .attestationQuote => Sys2Proof.Machine.execAttestationQuote s
  | .reset => Sys2Proof.Machine.execReset s
  | .inletWarning => Sys2Proof.Machine.execInletWarning s
  | .inletShutdown => Sys2Proof.Machine.execInletShutdown s
  | .inletRecover => Sys2Proof.Machine.execInletRecover s
  | .powerLoss => Sys2Proof.Machine.execPowerLoss s

end Sys2Proof.Machine
end

