-- ==== Sys2Proof/Machine/Fetch.lean ====
section
/-! DEFINITION. What a step does around an instruction: the next event taken from the agenda, the slot operations of a bundle
that commits, and what follows them; and the placing of a bundle where the next step issues it (log entries 1 and 10). -/

namespace Sys2Proof.Machine

/-- The slot operations of a committing bundle run one after another; a stop of one is the stop of the step. -/
def runSlots : List Instr → State → Result
  | [], s => .next s
  | i :: rest, s =>
    match exec i s with
    | .next t => runSlots rest t
    | .fault f => .fault f
    | .refused r => .refused r

/-- What follows the slot operations of a bundle: its context goes on to its next position. -/
def finishIssue (s : State) : State :=
  match s.issuing with
  | none => s
  | some c => if s.cur.fw then State.finishFw { s with issuing := none } c else State.finishCompute { s with issuing := none } c

/-- The slot operations that an event left to run, and what follows them. -/
def finishStep (s : State) : Result :=
  match runSlots s.slots { s with slots := [] } with
  | .next t => .next (finishIssue t)
  | .fault f => .fault f
  | .refused r => .refused r

/-- The machine at an event: GCOUNT is the event's cycle and the event has left the agenda. -/
def State.takeEvent (s : State) (e : Event) (rest : List Event) : State :=
  { s with gcount := max s.gcount e.at_, agenda := rest }

/-- One step: the first event of the agenda happens; with none, a cycle goes by. -/
def stepMachine (s : State) : Result :=
  match s.agenda with
  | [] => .next { s with gcount := s.gcount + 1 }
  | e :: rest =>
    match exec e.instr (s.takeEvent e rest) with
    | .next t => finishStep t
    | .fault f => .fault f
    | .refused r => .refused r

/-- An event that comes before every other. -/
def State.atHead (s : State) (i : Instr) : State := { s with agenda := { at_ := s.gcount, instr := i } :: s.agenda }

/-- The sequencer at position 0 of its first half, due now, with nothing that holds it back. -/
def Seq.ready (q : Seq) (now : Nat) : Seq :=
  { q with dom := .static, half := false, pos := 0, due := now, branch := none, bad := none, hold := .none, memHold := .none,
           skip := 0 }

/-- A bundle in the first half of core 0's loop buffer, where its compute context issues next. -/
def placeCompute (s : State) (b : Bundle) : State :=
  let k := s.core 0
  let h : Half := { k.half0 with valid := true, lastSeg := true, bundles := [b], rec_ := none, busy := false }
  (s.setCore 0 { k with seq := k.seq.ready s.gcount, half0 := h }).atHead (.bundleIssue 0)

/-- A bundle at position 0 of core 0's firmware instruction memory, where its firmware context issues next. -/
def placeFirmware (s : State) (b : Bundle) : State :=
  let k := s.core 0
  let f : FwCtx := { k.fw with imem := k.fw.imem.writeBytes 0 (bytesOf 48 b.toNat), badI := k.fw.badI.filter (fun n => decide (n ≠ 0)),
                               pos := 0, away := none, due := s.gcount, branch := none, trapped := none, resume := none, mode := .running,
                               fshare := max 1 k.fw.fshare, issuedIn := 0, mem := none }
  let q : Seq := { k.seq with lastIssue := if k.seq.lastIssue = some s.gcount then none else k.seq.lastIssue }
  (State.setCore { s with mgmt := { s.mgmt with inReset := false } } 0 { k with fw := f, seq := q }).atHead (.firmwareBundleIssue 0)

/-- A bundle placed where the next step issues it: in the compute context when it is legal there, else in the firmware
context (R75). -/
def placeBundle (s : State) (b : Bundle) : State :=
  if (decodeBundle false b).isSome then placeCompute s b else placeFirmware s b

end Sys2Proof.Machine
end

