-- ==== Sys2Proof/Machine/Step.lean ====
section
/-! DEFINITION. The step of the machine, and the state in which the next step runs a given instruction word. -/

namespace Sys2Proof.Machine

/-- One step. -/
def step (s : State) : Host.Outcome State Fault Refusal := stepMachine s

/-- `s` with the bundle whose bits are `w` where the next step issues it (log entry 10). -/
def State.withFetchWord (s : State) (nbits w : Nat) : State := placeBundle s (tableBundle nbits w)

end Sys2Proof.Machine
end

