-- ==== Sys2Proof/Safety.lean ====
section
/-! DEFINITION. What claims call a safe run: a run that neither faults nor is refused, and the registers of the management
function in the form the spec gives them (R341); and the words claims about one instruction are written in: the next state
it answers, the results and accesses it leaves under way, and that nothing else changes. -/

namespace Sys2Proof.Safety

/-- n steps of the machine, none once a step faults or is refused. -/
def runs : Nat → Machine.State → Option Machine.State
  | 0, s => some s
  | n + 1, s =>
    match Machine.step s with
    | .next t => runs n t
    | .fault _ => none
    | .refused _ => none

/-- A run of n steps is safe. -/
def Safe (n : Nat) (s : Machine.State) : Prop := (runs n s).isSome = true

/-- The registers of the management function hold nothing in the bits the spec does not give them (R315, R341): PMODE is a
legal mode, LINKB one bit, and every TTBASE and VMAP entry only its own fields. -/
def MgmtLegal (s : Machine.State) : Prop :=
  s.mgmt.pmode.toNat ≤ 1 ∧ s.mgmt.linkb.toNat ≤ 1 ∧
    (∀ p v, (p, v) ∈ s.mgmt.ttbase → v &&& 0xFFFFFFFF00 = v) ∧
    (∀ f v, (f, v) ∈ s.mgmt.vmap → v &&& 0x0FFFFFFFFFFF0003 = v)

/-! What one instruction leaves behind. -/

/-- The instruction answers a next state, of which `P` holds. -/
def Answers (i : Instr) (s : Machine.State) (P : Machine.State → Prop) : Prop :=
  ∃ t, Machine.exec i s = .next t ∧ P t

/-- A slot operation that is well formed and enabled (R32): `vec` for the VEC slot, which its stage alone enables. -/
def Enabled (i : Instr) (vec : Bool) (g : Gate) (s : Machine.State) : Prop := i.wf = true ∧ s.enabled vec g = true

/-- The same in a compute context. -/
def EnabledCompute (i : Instr) (vec : Bool) (g : Gate) (s : Machine.State) : Prop :=
  Enabled i vec g s ∧ s.cur.fw = false

/-- Of the whole state only core `c` and the agenda differ. -/
def OnlyCore (s t : Machine.State) (c : Nat) : Prop :=
  { t with cores := s.cores, agenda := s.agenda } = s ∧ ∀ d, d ≠ c → t.core d = s.core d

/-- The agenda of `t` holds what that of `s` holds, and the events of a list. -/
def Adds (s t : Machine.State) (l : List Machine.Event) : Prop := ∀ x, x ∈ t.agenda ↔ x ∈ s.agenda ∨ x ∈ l

/-- The update `e` of the running operation, on its way for `lat` cycles. -/
def onItsWay (s : Machine.State) (lat : Nat) (slot : Slot) (gufl : Bool) (e : Machine.Eff) : Machine.Pending :=
  { at_ := s.gcount + lat, slot := slot, issued := s.gcount, fw := s.cur.fw, gufl := gufl, eff := e }

/-- All that an operation with results does at its issue: its updates are on their way, to land `lat` cycles on; every
register, flag and byte of memory is as it was (R18, R26). -/
structure Lands (s t : Machine.State) (lat : Nat) (slot : Slot) (l : List Machine.Eff) (gufl : Bool := false) : Prop where
  core : t.core s.cur.core = { s.core s.cur.core with
    pend := (s.core s.cur.core).pend ++ l.map (onItsWay s lat slot gufl) }
  events : Adds s t [{ at_ := s.gcount + lat, instr := .resultLand s.cur.core }]
  rest : OnlyCore s t s.cur.core

/-- The access an operation opens: its requester code, banks, address, and first and last cycle from now (R22, R23). -/
def opened (s : Machine.State) (code : Nat) (banks : BitVec 16) (addr first last : Nat) (op : Machine.BankOp) :
    Machine.Access :=
  { id := (s.core s.cur.core).nextId, code := code, issue := s.gcount, src := s.cur.core, banks := banks, addr := addr,
    first := s.gcount + first, last := s.gcount + last, conflictAt := none, pos := s.cur.pos, seg := s.cur.seg, op := op }

/-- All that a plain access does at its issue: it is to take its banks at `first` and to perform at `last`, and every
register, flag and byte of memory is as it was (R18, R22). -/
structure Opens (s t : Machine.State) (code : Nat) (banks : BitVec 16) (addr first last : Nat) (op : Machine.BankOp) :
    Prop where
  core : t.core s.cur.core = { s.core s.cur.core with
    acc := (s.core s.cur.core).acc ++ [opened s code banks addr first last op], nextId := (s.core s.cur.core).nextId + 1 }
  events : Adds s t [{ at_ := s.gcount + first, instr := .bankAccess s.cur.core (s.core s.cur.core).nextId .occupy },
    { at_ := s.gcount + last, instr := .bankAccess s.cur.core (s.core s.cur.core).nextId .perform }]
  rest : OnlyCore s t s.cur.core

/-- No barrier of the core has an update of an earlier cycle still to apply (R200). -/
def Quiet (s : Machine.State) (c : Nat) : Prop :=
  ∀ b ∈ (s.core c).bar, ¬(b.2.at_ < s.gcount ∧ (b.2.delta ≠ 0 ∨ b.2.post = true))

/-- Of the results of core `c` under way, `p` alone is due, and no barrier waits. -/
def DueAlone (s : Machine.State) (c : Nat) (p : Machine.Pending) : Prop :=
  Quiet s c ∧ (s.core c).pend.filter (fun x => decide (x.at_ ≤ s.gcount)) = [p]

/-- The results due have left the list, and of all else core `c` is `k` and the rest of the state is as it was. -/
def Landed (s t : Machine.State) (c : Nat) (k : Machine.Core) : Prop :=
  t.core c = { k with pend := (s.core c).pend.filter (fun x => decide (s.gcount < x.at_)) } ∧ OnlyCore s t c ∧
    t.agenda = s.agenda

/-! Exact values. -/

/-- `n` is the integer to which mode `rm` rounds `x` (R35): nearest with ties to even, toward zero, up, down. -/
def Rounds (rm : Nat) (x : ℚ) (n : Int) : Prop :=
  match rm with
  | 0 => |2 * (x - n)| ≤ 1 ∧ (|2 * (x - n)| = 1 → n % 2 = 0)
  | 1 => (0 ≤ x → (n : ℚ) ≤ x ∧ x < n + 1) ∧ (x < 0 → (n : ℚ) - 1 < x ∧ x ≤ n)
  | 2 => (n : ℚ) - 1 < x ∧ x ≤ n
  | _ => (n : ℚ) ≤ x ∧ x < n + 1

/-- The number (−1)^neg · m · 2^e. -/
def numOf (neg : Bool) (m : Nat) (e : Int) : ℚ := (if neg then -1 else 1) * m * 2 ^ e

/-! Results of one register. -/

/-- S[d] takes `v` in `lat` cycles (R26). -/
def ScalarResult (i : Instr) (s : Machine.State) (lat : Nat) (d : SReg) (v : Word64) : Prop :=
  Answers i s (fun t => Lands s t lat .sca [.sreg d.toNat v])

/-- Q[d] takes `v` in the next cycle (R26). -/
def PredResult (i : Instr) (s : Machine.State) (d : QReg) (v : Bool) : Prop :=
  Answers i s (fun t => Lands s t 1 .sca [.qreg d.toNat v])

/-- The register a vector name stands for now (R74). -/
def Names (s : Machine.State) (f : VField) (n : Nat) : Prop := (s.core s.cur.core).vname f = some n

/-- Element j of width w of a vector register of the running core (R136). -/
def lane (s : Machine.State) (w n j : Nat) : Nat := Machine.elem w ((s.core s.cur.core).rv n).toNat j

/-- Element j of the broadcast operand of the scalar forms (R138). -/
def scalarLane (s : Machine.State) (w : Nat) (c : SReg) (_j : Nat) : Nat := (s.rs c.toNat).toNat % 2 ^ w

/-- Element j of V[d] takes `el j` in `lat` cycles, under the lane mask, for every element of the width (R33, R136, R137). -/
def VecResult (i : Instr) (s : Machine.State) (g : Gate) (lat d w : Nat) (el : Nat → Nat) : Prop :=
  Answers i s (fun t => ∃ r : VReg, Lands s t lat .vec [.vreg d (s.laneMask g) r] ∧
    ∀ j, j < 8192 / w → Machine.elem w r.toNat j = el j)

/-- The same of a whole register, from a slot without lane mask, for the elements of a width (R137). -/
def WholeResult (i : Instr) (s : Machine.State) (lat : Nat) (slot : Slot) (d w n : Nat) (el : Nat → Nat) : Prop :=
  Answers i s (fun t => ∃ r : VReg, Lands s t lat slot [.vreg d (BitVec.allOnes 256) r] ∧
    (∀ j, j < n → Machine.elem w r.toNat j = el j) ∧ r.toNat < 2 ^ (w * n))

/-- Bit k of W[d] takes `el k` in two cycles where the lane mask is 1 (R148, R149). -/
def MaskResult (i : Instr) (s : Machine.State) (g : Gate) (d : WReg) (el : Nat → Bool) : Prop :=
  Answers i s (fun t => ∃ r : BitVec 256, Lands s t 2 .vec [.wreg d.toNat (s.laneMask g) r] ∧
    ∀ k, k < 256 → r.getLsbD k = el k)

/-! The stop points of a pre-emption. -/

/-- The next bundle of a core, due at cycle `due`, is its stop point for the cut of a heat's stop request, and no pipelined loop
has to drain before it (R248). -/
def StopPoint (h : Machine.Heat) (k : Machine.Core) (due : Nat) : Prop :=
  k.faultAt = none ∧ k.pipelined = false ∧ (∃ r, h.stopReq = some r ∧ r + 96 ≤ due) ∧
    ∃ b x, k.bundleAt = some b ∧ decodeHeader b = some x ∧ k.stopsAt h.cutNext x = true

/-- The sequencer of a core that has stopped at its next bundle, which would have issued at cycle `due` (R248, R250). -/
def stoppedSeq (q : Machine.Seq) (due : Nat) : Machine.Seq :=
  { q with dom := .stopped, stopLine := some (q.pos, 0), stopAt := due }

/-! The events of the rest of the machine. -/

/-- The agenda of `t` holds what that of `s` holds, the events of a list, and besides at most that the firmware context of
core `c` takes a cause (R326). -/
def AddsOrWakes (s t : Machine.State) (c : Nat) (l : List Machine.Event) : Prop :=
  (∀ x, x ∈ s.agenda ∨ x ∈ l → x ∈ t.agenda) ∧
    ∀ x, x ∈ t.agenda → x ∈ s.agenda ∨ x ∈ l ∨ x.instr = .firmwareCauseTaken c

/-- Of the whole state only the heat of partition `p` and the agenda differ. -/
def OnlyHeat (s t : Machine.State) (p : Nat) : Prop :=
  { t with heats := s.heats, agenda := s.agenda } = s ∧ ∀ q, q ≠ p → t.heat q = s.heat q

/-- Of the whole state only channel `ch` and the agenda differ. -/
def OnlyChan (s t : Machine.State) (ch : Nat) : Prop :=
  { t with chans := s.chans, agenda := s.agenda } = s ∧ ∀ d, d ≠ ch → t.chan d = s.chan d

/-- A number that an operation chose freely has been drawn, and one event lies ahead at a cycle the spec leaves open. -/
def Sometime (s t : Machine.State) (least : Nat) (i : Instr) : Prop :=
  ∃ n, s.gcount + least ≤ n ∧ Adds s t [{ at_ := n, instr := i }] ∧ t.choice = s.choice + 1

end Sys2Proof.Safety
end

