-- ==== Sys2Proof/Certificates/Slice0/Obligations.lean ====
section
/-! DEFINITION. The statements for the provers. -/

open Sys2Proof Sys2Proof.Machine Sys2Proof.Safety

/-! The SCA slot. -/

/-- R122: the register-register family.

R124, R125: multiplies, quotients and remainders, with the special cases of R124.

R123: the immediate family. -/
def Obligations.ScalarArithmetic : Prop :=
  (∀ (s : State) (g : Gate) (d a b : SReg), g.ok = true → s.enabled false g = true →
    let x := s.rs a.toNat
    let y := s.rs b.toNat
    let n := y.toNat % 64
    ScalarResult (.add g d a b) s 1 d (BitVec.ofNat 64 (x.toNat + y.toNat)) ∧
    ScalarResult (.sub g d a b) s 1 d (BitVec.ofInt 64 (x.toNat - y.toNat)) ∧
    ScalarResult (.and g d a b) s 1 d (x &&& y) ∧
    ScalarResult (.or g d a b) s 1 d (x ||| y) ∧
    ScalarResult (.xor g d a b) s 1 d (x ^^^ y) ∧
    ScalarResult (.shl g d a b) s 1 d (BitVec.ofNat 64 (x.toNat * 2 ^ n)) ∧
    ScalarResult (.shr g d a b) s 1 d (BitVec.ofNat 64 (x.toNat / 2 ^ n)) ∧
    ScalarResult (.sar g d a b) s 1 d (BitVec.ofInt 64 (x.toInt / 2 ^ n)) ∧
    ScalarResult (.min g d a b) s 1 d (BitVec.ofInt 64 (min x.toInt y.toInt)) ∧
    ScalarResult (.max g d a b) s 1 d (BitVec.ofInt 64 (max x.toInt y.toInt)) ∧
    ScalarResult (.minu g d a b) s 1 d (BitVec.ofNat 64 (min x.toNat y.toNat)) ∧
    ScalarResult (.maxu g d a b) s 1 d (BitVec.ofNat 64 (max x.toNat y.toNat))) ∧
  (∀ (s : State) (g : Gate) (d a b : SReg), g.ok = true → s.enabled false g = true →
    let x := s.rs a.toNat
    let y := s.rs b.toNat
    ScalarResult (.mul g d a b) s 3 d (BitVec.ofNat 64 (x.toNat * y.toNat)) ∧
    ScalarResult (.mulh g d a b) s 3 d (BitVec.ofInt 64 (x.toInt * y.toInt / 2 ^ 64)) ∧
    ScalarResult (.mulhu g d a b) s 3 d (BitVec.ofNat 64 (x.toNat * y.toNat / 2 ^ 64)) ∧
    ScalarResult (.div g d a b) s 20 d (if y = 0 then BitVec.ofNat 64 (2 ^ 64 - 1) else BitVec.ofInt 64 (x.toInt.tdiv y.toInt)) ∧
    ScalarResult (.divu g d a b) s 20 d (if y = 0 then BitVec.ofNat 64 (2 ^ 64 - 1) else BitVec.ofNat 64 (x.toNat / y.toNat)) ∧
    ScalarResult (.rem g d a b) s 20 d (if y = 0 then x else BitVec.ofInt 64 (x.toInt.tmod y.toInt)) ∧
    ScalarResult (.remu g d a b) s 20 d (if y = 0 then x else BitVec.ofNat 64 (x.toNat % y.toNat))) ∧
  (∀ (s : State) (g : Gate) (d a : SReg) (imm : BitVec 13), g.ok = true → s.enabled false g = true →
    let x := s.rs a.toNat
    let n := imm.toNat
    ScalarResult (.addi g d a imm) s 1 d (BitVec.ofInt 64 (x.toInt + imm.toInt)) ∧
    ScalarResult (.andi g d a imm) s 1 d (x &&& BitVec.ofInt 64 imm.toInt) ∧
    ScalarResult (.ori g d a imm) s 1 d (x ||| BitVec.ofInt 64 imm.toInt) ∧
    ScalarResult (.xori g d a imm) s 1 d (x ^^^ BitVec.ofInt 64 imm.toInt) ∧
    ScalarResult (.cati g d a imm) s 1 d (BitVec.ofNat 64 (x.toNat * 2 ^ 13 + n)) ∧
    (n < 64 →
      ScalarResult (.shli g d a imm) s 1 d (BitVec.ofNat 64 (x.toNat * 2 ^ n)) ∧
      ScalarResult (.shri g d a imm) s 1 d (BitVec.ofNat 64 (x.toNat / 2 ^ n)) ∧
      ScalarResult (.sari g d a imm) s 1 d (BitVec.ofInt 64 (x.toInt / 2 ^ n))))

/-- R126, R127: the compares of two registers, those with an immediate, and the predicate operations. That the immediate of an
equality compare is sign-extended is the model's reading (log entry 14). -/
def Obligations.ScalarComparesAndPredicates : Prop :=
  ∀ (s : State) (g : Gate) (d qa qb : QReg) (a b : SReg) (imm : BitVec 13), g.ok = true → s.enabled false g = true →
    let x := s.rs a.toNat
    let y := s.rs b.toNat
    let p := s.rq qa.toNat
    let q := s.rq qb.toNat
    PredResult (.cmpeq g d a b) s d (decide (x.toInt = y.toInt)) ∧
    PredResult (.cmpne g d a b) s d (decide (x.toInt ≠ y.toInt)) ∧
    PredResult (.cmplt g d a b) s d (decide (x.toInt < y.toInt)) ∧
    PredResult (.cmpltu g d a b) s d (decide (x.toNat < y.toNat)) ∧
    PredResult (.cmple g d a b) s d (decide (x.toInt ≤ y.toInt)) ∧
    PredResult (.cmpleu g d a b) s d (decide (x.toNat ≤ y.toNat)) ∧
    PredResult (.cmpeqi g d a imm) s d (decide (x.toInt = imm.toInt)) ∧
    PredResult (.cmpnei g d a imm) s d (decide (x.toInt ≠ imm.toInt)) ∧
    PredResult (.cmplti g d a imm) s d (decide (x.toInt < imm.toInt)) ∧
    PredResult (.cmpltui g d a imm) s d (decide (x.toNat < imm.toNat)) ∧
    PredResult (.cmplei g d a imm) s d (decide (x.toInt ≤ imm.toInt)) ∧
    PredResult (.cmpleui g d a imm) s d (decide (x.toNat ≤ imm.toNat)) ∧
    PredResult (.qand g d qa qb) s d (p && q) ∧
    PredResult (.qor g d qa qb) s d (p || q) ∧
    PredResult (.qxor g d qa qb) s d (p != q) ∧
    PredResult (.qandn g d qa qb) s d (p && !q)

/-- R128 to R133: the copies between register files, the write of a stream field, the system registers, and the cycle and
index reads of a compute context. -/
def Obligations.ScalarMovesAndReads : Prop :=
  ∀ (s : State) (g : Gate) (d a : SReg) (v : VField) (n : Nat) (l : BitVec 8) (sa : StreamReg) (fsel : BitVec 3)
    (reg : BitVec 13), g.ok = true → s.enabled false g = true → s.cur.fw = false → Names s v n →
    let c := s.cur.core
    let k := s.core c
    WholeResult (.xs g a v) s 3 .sca n 32 256 (fun _ => (s.rs a.toNat).toNat % 2 ^ 32) ∧
    ScalarResult (.xv g d v l) s 3 d (BitVec.ofNat 64 (lane s 32 n l.toNat)) ∧
    (fsel.toNat ≤ 5 → Answers (.aset g sa a fsel) s (fun t => Lands s t 1 .sca [.stream sa.toNat fsel.toNat (s.rs a.toNat)])) ∧
    (reg.toNat ≤ 5 → ScalarResult (.srd g d reg) s 1 d
      (if reg.toNat = 0 then k.sstat else if reg.toNat = 1 then k.csp else if reg.toNat = 2 then k.csbase
       else if reg.toNat = 3 then k.slimit else if reg.toNat = 4 then BitVec.ofNat 64 c
       else BitVec.ofNat 64 ((s.heat (s.partOf c)).heatId % 2 ^ 32))) ∧
    (reg.toNat ≤ 3 → Answers (.swr g reg a) s (fun t => Lands s t 1 .sca [.sysreg reg.toNat (s.rs a.toNat)])) ∧
    ScalarResult (.gcrdHeat g d) s 1 d (BitVec.ofInt 64 ((s.gcount : Int) - (s.heat (s.partOf c)).origin)) ∧
    ScalarResult (.gcrdGcount g d) s 1 d (BitVec.ofNat 64 s.gcount) ∧
    (reg.toNat ≤ 5 → ScalarResult (.lxrd g d reg) s 1 d (BitVec.ofNat 64 (k.loopIdx reg.toNat (g.stage.toNat - 1))))

/-! The VEC slot. -/

/-- R141: the integer family, VV and VS form of each, element by element. -/
def Obligations.VectorIntegerArithmetic : Prop :=
  ∀ (s : State) (g : Gate) (f : BitVec 4) (d a b : VField) (c : SReg) (dn an bn : Nat), g.ok = true →
    f.toNat < 6 → s.enabled true g = true → Names s d dn → Names s a an → Names s b bn →
    let w := fmtWidth f.toNat
    let val := fun (x : Nat) => valI f.toNat x
    let lo : Int := if f.toNat < 3 then -(2 ^ (w - 1)) else 0
    let hi : Int := if f.toNat < 3 then 2 ^ (w - 1) - 1 else 2 ^ w - 1
    let both := fun (i j : Instr) (op : Nat → Nat → Nat) =>
      VecResult i s g 2 dn w (fun k => op (lane s w an k) (lane s w bn k)) ∧
      VecResult j s g 2 dn w (fun k => op (lane s w an k) (scalarLane s w c k))
    both (.vadd g f d a b) (.vaddVs g f d a c) (fun x y => ((val x + val y) % 2 ^ w).toNat) ∧
    both (.vsub g f d a b) (.vsubVs g f d a c) (fun x y => ((val x - val y) % 2 ^ w).toNat) ∧
    both (.vmul g f d a b) (.vmulVs g f d a c) (fun x y => (val x * val y % 2 ^ w).toNat) ∧
    both (.vmulh g f d a b) (.vmulhVs g f d a c) (fun x y => (val x * val y / 2 ^ w % 2 ^ w).toNat) ∧
    both (.vmin g f d a b) (.vminVs g f d a c) (fun x y => if val x ≤ val y then x else y) ∧
    both (.vmax g f d a b) (.vmaxVs g f d a c) (fun x y => if val y ≤ val x then x else y) ∧
    both (.vand g f d a b) (.vandVs g f d a c) (fun x y => x &&& y) ∧
    both (.vor g f d a b) (.vorVs g f d a c) (fun x y => x ||| y) ∧
    both (.vxor g f d a b) (.vxorVs g f d a c) (fun x y => x ^^^ y) ∧
    both (.vshl g f d a b) (.vshlVs g f d a c) (fun x y => x * 2 ^ (y % w) % 2 ^ w) ∧
    both (.vshr g f d a b) (.vshrVs g f d a c) (fun x y => x / 2 ^ (y % w)) ∧
    both (.vsar g f d a b) (.vsarVs g f d a c) (fun x y => (signedVal w x / 2 ^ (y % w) % 2 ^ w).toNat) ∧
    both (.vadds g f d a b) (.vaddsVs g f d a c) (fun x y => (max lo (min hi (val x + val y)) % 2 ^ w).toNat) ∧
    both (.vsubs g f d a b) (.vsubsVs g f d a c) (fun x y => (max lo (min hi (val x - val y)) % 2 ^ w).toNat)

/-- R142 to R144: the one-operand instructions, the immediate and the selection.

R146, R147: the floating instructions that do not round, and the transcendentals of R53 to R57.

R53 to R57: the transcendentals of a lane format, their special inputs by the table of R53 and every other input by its
algorithm. The table entries of `VRCP`, `VRSQ` and `VEXP2` and IRc are the nearest integers to the values that define them;
K1, K2, K3, G and TLog are the model's constants for theirs. -/
def Obligations.VectorSelection : Prop :=
  (∀ (s : State) (g : Gate) (f : BitVec 4) (d a b : VField) (imm : BitVec 10) (sel : WReg) (dn an bn : Nat), g.ok = true →
    s.enabled true g = true → Names s d dn → Names s a an → Names s b bn →
    let w := fmtWidth f.toNat
    let x := fun (k : Nat) => lane s w an k
    (f.toNat < 3 →
      VecResult (.vabs g f d a) s g 2 dn w (fun k =>
        if signedVal w (x k) = -(2 ^ (w - 1)) then 2 ^ (w - 1) - 1 else (signedVal w (x k)).natAbs) ∧
      VecResult (.vneg g f d a) s g 2 dn w (fun k =>
        if signedVal w (x k) = -(2 ^ (w - 1)) then 2 ^ (w - 1) - 1 else (-signedVal w (x k) % 2 ^ w).toNat)) ∧
    (f.toNat < 6 →
      VecResult (.vnot g f d a) s g 2 dn w (fun k => 2 ^ w - 1 - x k) ∧
      VecResult (.vmovi g f d imm) s g 2 dn w (fun _ => (imm.toInt % 2 ^ w).toNat)) ∧
    (f.toNat ≤ 11 →
      VecResult (.vmov g f d a) s g 2 dn w x ∧
      VecResult (.vsel g f d a b sel) s g 2 dn 32 (fun k =>
        if ((s.core s.cur.core).rw sel.toNat).getLsbD k then lane s 32 an k else lane s 32 bn k))) ∧
  (∀ (s : State) (g : Gate) (f : BitVec 4) (d a b : VField) (c : SReg) (dn an bn : Nat) (p : FloatFmt),
    g.ok = true → 8 ≤ f.toNat → f.toNat ≤ 10 → floatFmt f.toNat = some p → s.enabled true g = true →
    Names s d dn → Names s a an → Names s b bn →
    let w := fmtWidth f.toNat
    let both := fun (i j : Instr) (op : Nat → Nat → Nat) =>
      VecResult i s g 4 dn w (fun k => op (lane s w an k) (lane s w bn k)) ∧
      VecResult j s g 4 dn w (fun k => op (lane s w an k) (scalarLane s w c k))
    let one := fun (i : Instr) (lat : Nat) (op : Nat → Nat) => VecResult i s g lat dn w (fun k => op (lane s w an k))
    let isNan := fun (x : Nat) => widen f.toNat x = .nan
    both (.vfmin g f d a b) (.vfminVs g f d a c) (fun x y =>
      match floatKey p x, floatKey p y with | some i, some j => if i ≤ j then x else y | _, _ => p.nan) ∧
    both (.vfmax g f d a b) (.vfmaxVs g f d a c) (fun x y =>
      match floatKey p x, floatKey p y with | some i, some j => if j ≤ i then x else y | _, _ => p.nan) ∧
    one (.vfabs g f d a) 4 (fun x => if isNan x then p.nan else x % 2 ^ (w - 1)) ∧
    one (.vfneg g f d a) 4 (fun x => if isNan x then p.nan else (x + 2 ^ (w - 1)) % 2 ^ w) ∧
    one (.vexp2 g f d a) 8 (fun x => exp2 f.toNat (widen f.toNat x) % 2 ^ w) ∧
    one (.vlog2 g f d a) 8 (fun x => log2x f.toNat (widen f.toNat x) % 2 ^ w) ∧
    one (.vrcp g f d a) 8 (fun x => rcp f.toNat (widen f.toNat x) % 2 ^ w) ∧
    one (.vrsq g f d a) 8 (fun x => rsq f.toNat (widen f.toNat x) % 2 ^ w)) ∧
  (∀ (f : Nat) (neg : Bool) (m : Nat) (e : Int), 8 ≤ f → f ≤ 10 → m ≠ 0 → (∃ x, widen f x = .fin neg m e) →
    let out := fun (v : XVal) => roundTo f 0 v
    let zero := fun (n : Bool) => XVal.fin n 0 0
    let nearest := fun (t num den : Nat) => 2 * (t * den) ≤ 2 * num + den ∧ 2 * num ≤ 2 * (t * den) + den
    let x := numOf neg m e
    rcp f .nan = out .nan ∧ rsq f .nan = out .nan ∧ exp2 f .nan = out .nan ∧ log2x f .nan = out .nan ∧
    (∀ n q, rcp f (.fin n 0 q) = out (.inf n) ∧ rsq f (.fin n 0 q) = out (.inf n) ∧
      exp2 f (.fin n 0 q) = out (.fin false 1 0) ∧ log2x f (.fin n 0 q) = out (.inf true) ∧
      rcp f (.inf n) = out (zero n)) ∧
    rsq f (.inf false) = out (zero false) ∧ rsq f (.inf true) = out .nan ∧ exp2 f (.inf false) = out (.inf false) ∧
    exp2 f (.inf true) = out (zero false) ∧ log2x f (.inf false) = out (.inf false) ∧ log2x f (.inf true) = out .nan ∧
    (neg = true → rsq f (.fin neg m e) = out .nan ∧ log2x f (.fin neg m e) = out .nan) ∧
    (∀ i, i < 128 → nearest (tRcp i) (2 ^ 39) (257 + 2 * i)) ∧
    (∀ i, i < 192 → (2 * tRsq i - 1) ^ 2 * (129 + 2 * i) ≤ 2 ^ 71 ∧ 2 ^ 71 ≤ (2 * tRsq i + 1) ^ 2 * (129 + 2 * i)) ∧
    (∀ i, i < 256 → (2 * tExp i - 1) ^ 256 ≤ 2 ^ (63 * 256 + i) ∧ 2 ^ (63 * 256 + i) ≤ (2 * tExp i + 1) ^ 256 ∧
      nearest (iRc i) (2 ^ 40) (256 + i)) ∧
    (∃ (M : Nat) (E : Int), 2 ^ 23 ≤ M ∧ M < 2 ^ 24 ∧ (m : ℚ) * 2 ^ e = M * 2 ^ (E - 23) ∧
      (let step := fun (y : Nat) => y * (2 ^ 55 - M * y) / 2 ^ 54
       rcp f (.fin neg m e) = out (.fin neg (step (step (tRcp (fld M 16 7)))) (-31 - E))) ∧
      (neg = false →
        let M1 := if E % 2 = 0 then M else 2 * M
        let E1 := if E % 2 = 0 then E else E - 1
        let step := fun (y : Nat) => y * (3 * 2 ^ 85 - M1 * y * y) / 2 ^ 86
        rsq f (.fin neg m e) = out (.fin false (step (step (tRsq (M1 / 2 ^ 17 - 64)))) (-31 - E1 / 2))) ∧
      (neg = false →
        let i := fld M 15 8
        let D : Int := 32 * M * iRc i - 2 ^ 60
        let P2 := D * D / 2 ^ 60
        let P3 := P2 * D / 2 ^ 60
        let P4 := P3 * D / 2 ^ 60
        let N := D - P2 / 2 + P3 / 3 - P4 / 4
        let V : Int := E * 2 ^ 60 + tLog i + N * gLog / 2 ^ 60
        log2x f (.fin neg m e) = out (.fin (decide (V < 0)) V.natAbs (-60)))) ∧
    (128 ≤ x → exp2 f (.fin neg m e) = out (.inf false)) ∧ (x < -151 → exp2 f (.fin neg m e) = out (zero false)) ∧
    (-151 ≤ x → x < 128 →
      let n := ⌊x⌋
      let i := ⌊(x - n) * 256⌋.toNat
      let W := ⌊(x - n - i / 256) * 2 ^ 64⌋.toNat
      let S := 2 ^ 64 + k1 * W / 2 ^ 64 + k2 * (W * W / 2 ^ 64) / 2 ^ 64 + k3 * (W * W * W / 2 ^ 128) / 2 ^ 64
      exp2 f (.fin neg m e) = out (.fin false (tExp i * S) (n - 126))))

/-- R145: `VFADD`, `VFSUB`, `VFMUL` and `VFMA`; each element is the exact result rounded once in the opcode's mode. -/
def Obligations.VectorFloatArithmetic : Prop :=
  ∀ (s : State) (g : Gate) (f : BitVec 4) (rm : BitVec 2) (d a b : VField) (z : BitVec 10) (c : SReg) (dn an bn : Nat),
    g.ok = true → 8 ≤ f.toNat → f.toNat ≤ 10 → s.enabled true g = true → Names s d dn → Names s a an → Names s b bn →
    let w := fmtWidth f.toNat
    let val := fun (x : Nat) => widen f.toNat x
    let round := fun (v : XVal) => roundTo f.toNat rm.toNat v
    let both := fun (i j : Instr) (op : Nat → Nat → Nat) =>
      VecResult i s g 4 dn w (fun k => op (lane s w an k) (lane s w bn k)) ∧
      VecResult j s g 4 dn w (fun k => op (lane s w an k) (scalarLane s w c k))
    both (.vfadd g f rm d a b) (.vfaddVs g f rm d a c) (fun x y => round (xadd rm.toNat (val x) (val y))) ∧
    both (.vfsub g f rm d a b) (.vfsubVs g f rm d a c) (fun x y => round (xadd rm.toNat (val x) (xneg (val y)))) ∧
    both (.vfmul g f rm d a b) (.vfmulVs g f rm d a c) (fun x y => round (xmul (val x) (val y))) ∧
    VecResult (.vfma g f rm d a b z) s g 4 dn w (fun k =>
      round (xadd rm.toNat (xmul (val (lane s w an k)) (val (lane s w bn k))) (val (lane s w z.toNat k))))

/-- R148: bit k of a compare is 1 when the condition holds for every element of group k; with a NaN only NE holds.

R149: the mask operations, bit by bit. -/
def Obligations.VectorComparesAndMasks : Prop :=
  (∀ (s : State) (g : Gate) (f : BitVec 4) (d : WReg) (a b : VField) (c : SReg) (an bn : Nat), g.ok = true →
    clsNum f = true → s.enabled true g = true → Names s a an → Names s b bn →
    let w := fmtWidth f.toNat
    let ord := fun (x : Nat) =>
      match floatFmt f.toNat with | some p => floatOrd p x | none => some (valI f.toNat x)
    let on := fun (test : Int → Int → Bool) (x y : Nat) =>
      match ord x, ord y with | some i, some j => test i j | _, _ => false
    let both := fun (i j : Instr) (op : Nat → Nat → Bool) =>
      MaskResult i s g d (fun k => (List.range (32 / w)).all (fun n =>
        op (lane s w an (32 / w * k + n)) (lane s w bn (32 / w * k + n)))) ∧
      MaskResult j s g d (fun k => (List.range (32 / w)).all (fun n =>
        op (lane s w an (32 / w * k + n)) (scalarLane s w c (32 / w * k + n))))
    both (.vcmpeq g f d a b) (.vcmpeqVs g f d a c) (on (fun i j => decide (i = j))) ∧
    both (.vcmpne g f d a b) (.vcmpneVs g f d a c) (fun x y => !on (fun i j => decide (i = j)) x y) ∧
    both (.vcmplt g f d a b) (.vcmpltVs g f d a c) (on (fun i j => decide (i < j))) ∧
    both (.vcmple g f d a b) (.vcmpleVs g f d a c) (on (fun i j => decide (i ≤ j)))) ∧
  (∀ (s : State) (g : Gate) (d a b : WReg), g.ok = true → s.enabled true g = true →
    let x := fun (k : Nat) => ((s.core s.cur.core).rw a.toNat).getLsbD k
    let y := fun (k : Nat) => ((s.core s.cur.core).rw b.toNat).getLsbD k
    MaskResult (.wand g d a b) s g d (fun k => x k && y k) ∧
    MaskResult (.wor g d a b) s g d (fun k => x k || y k) ∧
    MaskResult (.wxor g d a b) s g d (fun k => x k != y k) ∧
    MaskResult (.wnot g d a) s g d (fun k => !x k) ∧
    MaskResult (.wandn g d a b) s g d (fun k => x k && !y k))

/-- R150, R151: the reductions put one value into every element, from the fixed pairwise tree over all of them, and the prefix
sums one value into each, from the fixed levels; floating sums round to FP32 at every level and to the format at the end.
Over integers a sum is exact, modulo 2^w, and a maximum or minimum is an element that no other exceeds or falls below. -/
def Obligations.VectorReductions : Prop :=
  ∀ (s : State) (g : Gate) (f : BitVec 4) (d a : VField) (dn an : Nat), g.ok = true → clsNum f = true →
    s.enabled true g = true → Names s d dn → Names s a an →
    let w := fmtWidth f.toNat
    let len := 8192 / w
    let x := fun (k : Nat) => lane s w an k
    let l := (List.range len).map x
    let plus := fun (a b : XVal) => widen 10 (roundTo 10 0 (xadd 0 a b))
    let picked := fun (max : Bool) (res : Nat) => ∃ T : Nat → Nat → Nat, (∀ i, i < len → T 0 i = x i) ∧
      (∀ d i, T (d + 1) i = fmtPick f.toNat max (T d (2 * i)) (T d (2 * i + 1))) ∧ res = T (Nat.log2 len) 0 % 2 ^ w
    ∃ (sum hi lo : Nat) (pre : Nat → Nat),
      VecResult (.vrsum g f d a) s g 6 dn w (fun _ => sum) ∧
      VecResult (.vrmax g f d a) s g 6 dn w (fun _ => hi) ∧
      VecResult (.vrmin g f d a) s g 6 dn w (fun _ => lo) ∧
      VecResult (.vpsum g f d a) s g 8 dn w pre ∧
      (8 ≤ f.toNat → picked true hi ∧ picked false lo ∧
        (∃ T : Nat → Nat → XVal, (∀ i, i < len → T 0 i = widen f.toNat (x i)) ∧
          (∀ d i, T (d + 1) i = plus (T d (2 * i)) (T d (2 * i + 1))) ∧
          sum = roundTo f.toNat 0 (T (Nat.log2 len) 0) % 2 ^ w) ∧
        (∃ P : Nat → Nat → XVal, (∀ i, i < len → P 0 i = widen f.toNat (x i)) ∧
          (∀ d i, P (d + 1) i = if 2 ^ d ≤ i then plus (P d (i - 2 ^ d)) (P d i) else P d i) ∧
          ∀ i, i < len → pre i = roundTo f.toNat 0 (P (Nat.log2 len) i) % 2 ^ w)) ∧
      (f.toNat < 6 → sum = ((l.map (valI f.toNat)).sum % 2 ^ w).toNat ∧
        (∀ i, i < len → pre i = (((l.take (i + 1)).map (valI f.toNat)).sum % 2 ^ w).toNat) ∧
        hi ∈ l ∧ lo ∈ l ∧ ∀ x ∈ l, valI f.toNat lo ≤ valI f.toNat x ∧ valI f.toNat x ≤ valI f.toNat hi)

/-! The PRM slot. -/

/-- R153 to R157: the conversions fill the low elements of the destination and leave zeros above them.

R49 to R52, R154: the values of the conversions. A finite value into a floating format is rounded to the target's precision,
with unbounded exponent and subnormals kept, and one beyond the largest finite value has overflowed; into an integer format
it is rounded and limited to the range; into an MX format it goes as its multiple of 2^f; into E8M0 by its exponent. An integer
source goes into an integer or an MX target with its low bits under `ieee`. Which pairs of R49 keep an infinity under `sat` is
the model's reading (log entry 11).

R158: a scale multiplies each element before it is converted, one scale for each block of an MX source and one for all
of any other.

R159: quantising: the scales of the eight blocks and the scaled elements, two results of one cycle. A block that holds a
NaN or an infinity has scale 0xFF and zeros. -/
def Obligations.Conversions : Prop :=
  (∀ (s : State) (g : Gate) (f t : BitVec 5) (rm : BitVec 2) (ov : Bool) (d a b : VField) (dn an bn : Nat), g.ok = true →
    f.toNat ≤ 16 → t.toNat ≤ 16 → s.enabled false g = true → Names s d dn → Names s a an → Names s b bn →
    let ws := fmtWidth f.toNat
    let wt := fmtWidth t.toNat
    let conv := fun (x : Nat) => convert f.toNat t.toNat rm.toNat ov x % 2 ^ wt
    WholeResult (.vcvt g f d a t rm ov) s 3 .prm dn wt (8192 / max (max ws wt) 8) (fun k => conv (lane s ws an k)) ∧
    (let n := 8192 / max ws 8;
      wt < ws → 2 * n * wt ≤ 8192 → WholeResult (.pack g f d a b t rm ov) s 3 .prm dn wt (2 * n)
        (fun k => if k < n then conv (lane s ws an k) else conv (lane s ws bn (k - n)))) ∧
    (let n := 8192 / max wt 8;
      ws < wt → 2 * n * ws ≤ 8192 → WholeResult (.unpk g f d a t rm ov) s 3 .prm dn wt n (fun k => conv (lane s ws an (n + k))))) ∧
  (∀ (f t rm : Nat) (ov neg : Bool) (x m : Nat) (e : Int), f ≤ 16 → t ≤ 16 → rm < 4 →
    let conv := fun (v : XVal) => convertValue t rm ov v
    let limited := fun (sg : Bool) (w : Nat) (n : Int) =>
      (max (if sg then -(2 ^ (w - 1)) else 0) (min (if sg then 2 ^ (w - 1) - 1 else 2 ^ w - 1) n) % 2 ^ w).toNat
    let toInt := fun (sg : Bool) (w : Nat) (k : Int) =>
      conv .nan = 0 ∧ conv (.inf true) = limited sg w (-(2 ^ 64)) ∧ conv (.inf false) = limited sg w (2 ^ 64) ∧
      ∃ n : Int, Rounds rm (numOf neg m (e + k)) n ∧ conv (.fin neg m e) = limited sg w n
    (∀ p, floatFmt t = some p →
      let most : ℚ := if t = 13 then 6 else if t = 6 then 448 else if t = 7 then 57344
        else if t = 8 then (2 ^ 8 - 1) * 2 ^ 120 else if t = 9 then 65504 else (2 ^ 24 - 1) * 2 ^ 104
      let largest := fun (n : Bool) (y : Nat) => ∃ m1 e1, widen t y = .fin n m1 e1 ∧ (m1 : ℚ) * 2 ^ e1 = most
      let overflow := fun (n : Bool) (y : Nat) =>
        (ov = false ∨ t = 13 → largest n y) ∧ (ov = true → t = 6 → y = 0x7F) ∧
        (ov = true → 7 ≤ t → t ≤ 10 → rm = 0 ∨ (rm = 2 ∧ n = false) ∨ (rm = 3 ∧ n = true) → widen t y = .inf n) ∧
        (ov = true → 7 ≤ t → t ≤ 10 → rm = 1 ∨ (rm = 2 ∧ n = true) ∨ (rm = 3 ∧ n = false) → largest n y)
      conv .nan = (if t = 13 then 0 else if t = 6 then 0x7F else if t = 7 then 0x7E else if t = 8 then 0x7FC0
        else if t = 9 then 0x7E00 else 0x7FC00000) ∧
      (∀ n, (ov = false ∨ t = 13 → largest n (conv (.inf n))) ∧ (ov = true → t = 6 → conv (.inf n) = 0x7F) ∧
        (ov = true → 7 ≤ t → t ≤ 10 → widen t (conv (.inf n)) = .inf n)) ∧
      (m = 0 → ∃ e1, widen t (conv (.fin neg m e)) = .fin neg 0 e1) ∧
      (m ≠ 0 → ∃ (q n : Int),
        1 - p.bias - p.mbits ≤ q ∧ (m : ℚ) * 2 ^ e < 2 ^ (q + p.mbits + 1) ∧
        (q = 1 - p.bias - p.mbits ∨ 2 ^ (q + p.mbits) ≤ (m : ℚ) * 2 ^ e) ∧ Rounds rm (numOf neg m e / 2 ^ q) n ∧
        (|(n : ℚ)| * 2 ^ q ≤ most → ∃ m1 e1, widen t (conv (.fin neg m e)) = .fin neg m1 e1 ∧
          (m1 : ℚ) * 2 ^ e1 = |(n : ℚ)| * 2 ^ q) ∧
        (most < |(n : ℚ)| * 2 ^ q → overflow neg (conv (.fin neg m e))))) ∧
    (∀ sg w, intFmt t = some (sg, w) → toInt sg w 0) ∧
    (∀ k, mxFrac t = some k → toInt true (fmtWidth t) k) ∧
    (t = 11 → conv .nan = 255 ∧ (∀ n, conv (.inf n) = 255) ∧ (m = 0 → conv (.fin neg m e) = 0) ∧
      (m ≠ 0 → ∃ k : Int, (2 : ℚ) ^ k ≤ m * 2 ^ e ∧ (m : ℚ) * 2 ^ e < 2 ^ (k + 1) ∧
        conv (.fin neg m e) = (max 0 (min 254 (k + 127))).toNat)) ∧
    (intFmt f = none → convert f t rm ov x =
      convertValue t rm (ov || decide (t = 10) || (decide (f = 7) && (decide (t = 8) || decide (t = 9)))) (widen f x)) ∧
    (∀ sg w, intFmt f = some (sg, w) →
      (intFmt t = none → mxFrac t = none → convert f t rm ov x = conv (widen f x)) ∧
      ∀ tg k, intFmt t = some tg ∨ (mxFrac t ≠ none ∧ tg = (true, fmtWidth t)) →
        k = (if t = 14 then 2 else if t = 15 then 4 else if t = 16 then 6 else 0) →
        let n := intVal sg w x * 2 ^ k
        convert f t rm ov x = if ov then (n % 2 ^ tg.2).toNat else limited tg.1 tg.2 n)) ∧
  (∀ (s : State) (g : Gate) (f t : BitVec 5) (rm : BitVec 2) (ov : Bool) (d a : VField) (kr : KReg) (i : BitVec 3)
    (dn an : Nat), g.ok = true → f.toNat ≤ 16 → t.toNat ≤ 16 → s.enabled false g = true → Names s d dn → Names s a an →
    let ws := fmtWidth f.toNat
    let wt := fmtWidth t.toNat
    let scale := fun (e : Nat) =>
      elem 8 ((s.core s.cur.core).rk kr.toNat).toNat (if 14 ≤ f.toNat ∧ f.toNat ≤ 16 then (i.toNat + e / 32) % 8 else i.toNat)
    WholeResult (.scale g f d a kr i t rm ov) s 3 .prm dn wt (8192 / max (max ws wt) 8) (fun e =>
      convertValue t.toNat rm.toNat ov (xmul (widen f.toNat (lane s ws an e)) (scaleE8M0 (scale e))) % 2 ^ wt)) ∧
  (∀ (s : State) (g : Gate) (t : BitVec 5) (rm : BitVec 2) (ov : Bool) (d a : VField) (kr : KReg) (dn an : Nat),
    g.ok = true → qntTarget t = true → s.enabled false g = true → Names s d dn → Names s a an →
    let wt := fmtWidth t.toNat
    let block := fun (n : Nat) => (List.range 32).map (fun j => lane s 32 an (32 * n + j))
    Answers (.qnt g 10 d a kr 0 t rm ov) s (fun u => ∃ (r : VReg) (sc : Word64),
      Lands s u 5 .prm [.vreg dn (BitVec.allOnes 256) r, .kreg kr.toNat sc] ∧ r.toNat < 2 ^ (wt * 256) ∧
      ∀ n, n < 8 →
        ((∃ x ∈ block n, ∀ m e q, widen 10 x ≠ .fin m e q) →
          elem 8 sc.toNat n = 0xFF ∧ ∀ j, j < 32 → elem wt r.toNat (32 * n + j) = 0) ∧
        ((∀ x ∈ block n, ∃ m e q, widen 10 x = .fin m e q) →
          let x : Int := match blockExp ((block n).map (widen 10)) with
            | none => 127 | some e => max 0 (min 254 (e - qntEmax t.toNat + 127))
          elem 8 sc.toNat n = x.toNat ∧ ∀ j, j < 32 → elem wt r.toNat (32 * n + j) =
            convertValue t.toNat rm.toNat ov (xscale (127 - x) (widen 10 (lane s 32 an (32 * n + j)))) % 2 ^ wt)))

/-- R152: the permutes move elements bit for bit. -/
def Obligations.Permutes : Prop :=
  ∀ (s : State) (g : Gate) (f : BitVec 5) (d a b : VField) (imm : BitVec 9) (dn an bn : Nat), g.ok = true →
    clsPerm f = true → s.enabled false g = true → Names s d dn → Names s a an → Names s b bn →
    let w := fmtWidth f.toNat
    let len := 8192 / w
    let n := imm.toNat
    let x := fun (k : Nat) => lane s w an k
    let y := fun (k : Nat) => lane s w bn k
    (n ≤ 3 → WholeResult (.perm g f d a b imm) s 4 .prm dn w len (fun i => x ((y i + 256 * n) % len))) ∧
    (n ≤ min len 511 → WholeResult (.slide g f d a b imm) s 4 .prm dn w len (fun i =>
      if i + n < len then x (i + n) else y (i + n - len))) ∧
    (n = 0 → WholeResult (.shuf g f d a b imm) s 4 .prm dn w len (fun i =>
      if i % 2 = 0 then x (i / 2) else y ((i - 1) / 2))) ∧
    (n = 1 → WholeResult (.shuf g f d a b imm) s 4 .prm dn w len (fun i =>
      if i % 2 = 0 then x (len / 2 + i / 2) else y (len / 2 + (i - 1) / 2))) ∧
    (n = 2 → WholeResult (.shuf g f d a b imm) s 4 .prm dn w len (fun i =>
      if i < len / 2 then x (2 * i) else y (2 * (i - len / 2)))) ∧
    (n = 3 → WholeResult (.shuf g f d a b imm) s 4 .prm dn w len (fun i =>
      if i < len / 2 then x (2 * i + 1) else y (2 * (i - len / 2) + 1))) ∧
    (n ≤ min (len - 1) 511 → WholeResult (.rot g f d a imm) s 4 .prm dn w len (fun i => x ((i + n) % len)))

/-! The MAT slot. -/

/-- R163 to R166: a step at its issue reads its two addresses and its scales, is to read its operands two cycles on and to
land in ten; `MMAA` and `MMAAZ` write the tile above the one they name.

R47, R164, R166, R264: an operand of a step is read as it stands at c+2, with the poison of its granule; the step is then
poisoned if either operand is. -/
def Obligations.MatrixStepIssue : Prop :=
  (∀ (s : State) (g : Gate) (t : TileReg) (sa sb : StreamReg) (f : BitVec 5) (ka kb : KReg), g.ok = true →
    clsMat f = true → scalesOk f ka kb = true → s.enabled false g = true → s.cur.fw = false →
    let c := s.cur.core
    let k := s.core c
    let st := g.stage.toNat - 1
    let aAddr := k.streamAddr sa.toNat st / stepAlignA f.toNat * stepAlignA f.toNat
    let bAddr := k.streamAddr sb.toNat st / (stepAlignA f.toNat / 2) * (stepAlignA f.toNat / 2)
    let n := k.loopIdx (fld (k.ra sa.toNat).toNat 105 3) st
    let scales := fun (kr per rows : Nat) =>
      if stepScaled f.toNat kr then (List.range rows).flatMap (fun i => (List.range (stepK f.toNat)).map (fun o =>
        some (BitVec.ofNat 8 (elem 8 (k.rk (kr + per * ((stepK f.toNat * n % 64 + o) / 32 % 2) + i / 8)).toNat (i % 8)))))
      else []
    let run : StepRun := { fmt := f.toNat, scaleA := scales ka.toNat 8 64, scaleB := scales kb.toNat 4 32, a := none,
                           b := none, poison := false, pos := s.cur.pos, seg := s.cur.seg }
    let acc := fun (m code addr : Nat) (op : BankOp) =>
      ({ id := k.nextId + m, code := code, issue := s.gcount, src := c, banks := groupBanks (groupOf addr), addr := addr,
         first := s.gcount + 2, last := s.gcount + 2, conflictAt := none, pos := s.cur.pos, seg := s.cur.seg, op := op } : Access)
    let issue := fun (i : Instr) (dst : Nat) (zeroing : Bool) =>
      Answers i s (fun u =>
        u.core c = { k with
          steps := sset none k.steps k.nextId (some run), nextId := k.nextId + 3,
          acc := k.acc ++ [acc 1 1 aAddr (.stepA k.nextId)] ++ [acc 2 2 bAddr (.stepB k.nextId)],
          pend := k.pend ++ [onItsWay s 10 .mat false (.step dst k.nextId zeroing)] } ∧
        Adds s u [{ at_ := s.gcount + 2, instr := .bankAccess c (k.nextId + 1) .occupy },
          { at_ := s.gcount + 2, instr := .bankAccess c (k.nextId + 1) .perform },
          { at_ := s.gcount + 2, instr := .bankAccess c (k.nextId + 2) .occupy },
          { at_ := s.gcount + 2, instr := .bankAccess c (k.nextId + 2) .perform },
          { at_ := s.gcount + 10, instr := .resultLand c }] ∧
        OnlyCore s u c)
    issue (.mma g t sa sb f ka kb) t.toNat false ∧
    issue (.mmaz g t sa sb f ka kb) t.toNat true ∧
    (t.toNat % 2 = 0 → 2 ≤ f.toNat →
      issue (.mmaa g t sa sb f ka kb) (t.toNat + 1) false ∧ issue (.mmaaz g t sa sb f ka kb) (t.toNat + 1) true)) ∧
  (∀ (s : State) (c id n : Nat) (a : Access) (r : StepRun), (s.core c).accOf id = some a → a.conflictAt = none →
    (∀ x, x ∈ (s.core c).badSpad → a.readsByte (s.core c) x = false) → sget none (s.core c).steps n = some r →
    let k := s.core c
    let bytes := fun (len : Nat) => natOf ((List.range len).map (fun i => k.spad.read (a.addr + i)))
    let poison := fun (len : Nat) => k.poison.any (fun q => decide (q * 1024 < a.addr + len ∧ a.addr < (q + 1) * 1024))
    let takes := fun (r1 : StepRun) => Answers (.bankAccess c id .perform) s (fun t =>
      t.core c = { k with acc := k.acc.filter (fun y => decide (y.id ≠ id)), steps := sset none k.steps n (some r1) } ∧
      OnlyCore s t c ∧ t.agenda = s.agenda)
    let lenA := 64 * stepK r.fmt * fmtWidth r.fmt / 8
    let lenB := 32 * stepK r.fmt * fmtWidth r.fmt / 8
    (a.op = .stepA n → takes { r with a := some (BitVec.ofNat 8192 (bytes lenA)), poison := r.poison || poison lenA }) ∧
    (a.op = .stepB n → takes { r with b := some (BitVec.ofNat 8192 (bytes lenB)), poison := r.poison || poison lenB }))

/-- R61, R168 to R172: the row-group moves, the whole-tile writes, the scan and the carry moves. `MRD` of a row group
without poison emits no event.

R59 to R62: the values of a scan. In each column the six levels compose every row with the one 2^d rows before it, and the
carry comes last; a composition rounds its gain once, or flushes it to a zero of its sign when the exact product is not 0 and
below 2^−126, and rounds its offset once; the poison is that of any map composed. The last row is the new carry, and the scan
flushed when one of its compositions did.

R170, R252: an `MRD` of a poisoned row group moves its bits unchanged and emits the poison-read event: entry EVCOUNT
mod 12 of the core's event ring, EVCOUNT one more, and the wake cause of events pending. -/
def Obligations.MatrixMoves : Prop :=
  (∀ (s : State) (g : Gate) (t : TileReg) (rg cy : BitVec 3) (v : VField) (n : Nat), g.ok = true →
    s.enabled false g = true → Names s v n →
    let k := s.core s.cur.core
    let tile := k.rm t.toNat
    Answers (.mwr g t rg v) s (fun u => Lands s u 4 .mat [.rows t.toNat rg.toNat (k.rv n)]) ∧
    (t.toNat % 2 = 0 → Answers (.mgain g t rg v) s (fun u => Lands s u 4 .mat [.rows t.toNat rg.toNat (k.rv n)])) ∧
    (BitVec.extractLsb' (256 * rg.toNat) 256 tile.poison = 0 →
      WholeResult (.mrd g t rg v) s 4 .mat n 32 256 (fun j => elem 32 tile.bits.toNat (256 * rg.toNat + j))) ∧
    Answers (.mzero g t) s (fun u => Lands s u 4 .mat [.tileSet t.toNat { bits := 0, poison := 0 }]) ∧
    Answers (.mclrp g t) s (fun u => Lands s u 4 .mat [.tileClear t.toNat]) ∧
    (t.toNat % 2 = 0 → Answers (.ascan g t cy) s (fun u =>
      let r := scanPair tile (k.rm (t.toNat + 1)) (k.ry cy.toNat)
      Lands s u 14 .mat [.tileSet t.toNat r.1, .tileSet (t.toNat + 1) r.2.1, .carry cy.toNat r.2.2.1] r.2.2.2)) ∧
    WholeResult (.msvc g cy v) s 4 .mat n 32 96 (fun j =>
      if j < 32 then fld (k.ry cy.toNat).toNat (65 * j) 32
      else if j < 64 then fld (k.ry cy.toNat).toNat (65 * (j - 32) + 32) 32
      else fld (k.ry cy.toNat).toNat (65 * (j - 64) + 64) 1) ∧
    Answers (.mldc g cy v) s (fun u => ∃ y : BitVec 2080, Lands s u 4 .mat [.carry cy.toNat y] ∧ ∀ j, j < 32 →
      fld y.toNat (65 * j) 32 = lane s 32 n j ∧ fld y.toNat (65 * j + 32) 32 = lane s 32 n (32 + j) ∧
      fld y.toNat (65 * j + 64) 1 = lane s 32 n (64 + j) % 2)) ∧
  (∀ (gain off : Tile) (y : BitVec 2080),
    let r := scanPair gain off y
    let cell := fun (t : Tile) (i j : Nat) => elem 32 t.bits.toNat (32 * i + j)
    let product := fun (a b : Nat × Nat × Bool) => xmul (widen 10 a.1) (widen 10 b.1)
    let flushes := fun (a b : Nat × Nat × Bool) (neg : Bool) =>
      ∃ m e, product a b = .fin neg m e ∧ m ≠ 0 ∧ (m : ℚ) * 2 ^ e < 2 ^ (-126 : Int)
    let composed := fun (a b x : Nat × Nat × Bool) =>
      (flushes a b true → x.1 = 0x80000000) ∧ (flushes a b false → x.1 = 0) ∧
      (¬flushes a b true → ¬flushes a b false → x.1 = roundTo 10 0 (product a b)) ∧
      x.2.1 = roundTo 10 0 (xadd 0 (xmul (widen 10 a.1) (widen 10 b.2.1)) (widen 10 a.2.1)) ∧ x.2.2 = (a.2.2 || b.2.2)
    let carry := fun (w : BitVec 2080) (j : Nat) =>
      (fld w.toNat (65 * j) 32, fld w.toNat (65 * j + 32) 32, w.getLsbD (65 * j + 64))
    ∃ P : Nat → Nat → Nat → Nat × Nat × Bool,
      (∀ i j, i < 64 → j < 32 → P j 0 i =
        (cell gain i j, cell off i j, gain.poison.getLsbD (32 * i + j) || off.poison.getLsbD (32 * i + j))) ∧
      (∀ i j d, i < 64 → j < 32 → d < 6 → (2 ^ d ≤ i → composed (P j d i) (P j d (i - 2 ^ d)) (P j (d + 1) i)) ∧
        (i < 2 ^ d → P j (d + 1) i = P j d i)) ∧
      (∀ i j, i < 64 → j < 32 → composed (P j 6 i) (carry y j)
          (cell r.1 i j, cell r.2.1 i j, r.1.poison.getLsbD (32 * i + j)) ∧
        r.2.1.poison.getLsbD (32 * i + j) = r.1.poison.getLsbD (32 * i + j)) ∧
      (∀ j, j < 32 → carry r.2.2.1 j = (cell r.1 63 j, cell r.2.1 63 j, r.1.poison.getLsbD (32 * 63 + j))) ∧
      (r.2.2.2 = true ↔ ∃ i j neg, i < 64 ∧ j < 32 ∧
        (flushes (P j 6 i) (carry y j) neg ∨ ∃ d, d < 6 ∧ 2 ^ d ≤ i ∧ flushes (P j d i) (P j d (i - 2 ^ d)) neg))) ∧
  (∀ (s : State) (g : Gate) (t : TileReg) (rg : BitVec 3) (v : VField) (n : Nat), g.ok = true → s.enabled false g = true →
    Names s v n → BitVec.extractLsb' (256 * rg.toNat) 256 ((s.core s.cur.core).rm t.toNat).poison ≠ 0 →
    let c := s.cur.core
    let tile := (s.core c).rm t.toNat
    let count := (s.core c).fw.dmem.readNat 0x7F40 8
    let entry := cycle64 (s.heatCycle c) + 1 * 2 ^ 64 + (t.toNat + rg.toNat * 32) % 256 * 2 ^ 72 + c * 2 ^ 128 +
      (BitVec.extractLsb' (256 * rg.toNat) 256 tile.poison).toNat % 2 ^ 256 * 2 ^ 256
    Answers (.mrd g t rg v) s (fun u =>
      (∃ r : VReg, (u.core c).pend = (s.core c).pend ++ [onItsWay s 4 .mat false (.vreg n (BitVec.allOnes 256) r)] ∧
        ∀ j, j < 256 → elem 32 r.toNat j = elem 32 tile.bits.toNat (256 * rg.toNat + j)) ∧
      (u.core c).fw.dmem = ((s.core c).fw.dmem.writeBytes (0x7C00 + 64 * (count % 12)) (bytesOf 64 entry)).writeBytes
        0x7F40 (bytesOf 8 (count + 1)) ∧
      (u.core c).fw.fpend = (s.core c).fw.fpend ||| 0b0000100#7 ∧
      (u.core c).m = (s.core c).m ∧ (u.core c).v = (s.core c).v ∧ (u.core c).sstat = (s.core c).sstat ∧
      (u.core c).seq = (s.core c).seq ∧ (u.core c).spad = (s.core c).spad ∧ u.heats = s.heats ∧ u.hbm = s.hbm ∧
      ∀ x, x ≠ c → u.core x = s.core x))

/-! The MEM slot and the banks. -/

/-- R20, R21, R110, R251: the address of a stream for a stage: its group's base, and BASE plus the loop offsets modulo EXT,
modulo the group's size; EXT 0 means a whole group. The index of a level is that of source iteration j − s of a pipelined
loop, of j of a plain one, and the index kept of a level that does not run; a selector of 6 or 7 gives 0. In a loop that was
resumed at iteration j0 the enable e_s reads 1 when s < S and j0 + s ≤ j ≤ s + N − 1. -/
def Obligations.StreamAddressesAndIndices : Prop :=
  ∀ (k : Core) (n st lvl : Nat) (l : LoopRec) (rest : List LoopRec), lvl ≤ 5 →
    let a := (k.ra n).toNat
    let group := 0x180000
    let ext : Nat := if fld a 84 21 = 0 then group else fld a 84 21
    let term := fun (str lv : Nat) => signedVal 21 (fld a str 21) * (k.loopIdx (fld a lv 3) st : Int)
    let off := (term 21 105 + term 42 108 + term 63 111) % (ext : Int)
    k.streamAddr n st = group * fld a 114 2 + (fld a 0 21 + off.toNat) % group ∧
    0 ≤ off ∧ off < ext ∧ k.streamAddr n st < 0x600000 ∧
    k.streamAddr n st / group = fld a 114 2 ∧
    (∀ x, x < 0x600000 → bankOf x = 4 * (x / 0x180000) + x % 0x180000 / 256 % 4 ∧ bankOf x < 16) ∧
    (k.seq.loops.find? (fun r => decide (r.lvl = lvl)) = some l → 1 ≤ l.s →
      ((k.loopIdx lvl st : Nat) : Int) =
        ((l.ibase : Int) + (if 1 < l.s then (l.j : Int) - st else l.j) * l.istep) % 2 ^ 64) ∧
    (k.seq.loops.find? (fun r => decide (r.lvl = lvl)) = none → k.loopIdx lvl st = sget 0 k.seq.idx lvl) ∧
    k.loopIdx 6 st = 0 ∧ k.loopIdx 7 st = 0 ∧
    (k.seq.loops = l :: rest → k.enable st = decide (st < l.s ∧ l.j0 + st ≤ l.j ∧ (l.j : Int) ≤ (st : Int) + l.n - 1))

/-- R25: the cores of a die sit on an 8 × 8 mesh, core n at column n mod 8 and row n div 8, and the hop count from core n to
core m is the sum of the distances of their columns and of their rows. The same formula applies across dies d and e, with
the local numbers, and a core is no hop from itself. -/
def Obligations.MeshHops : Prop :=
  ∀ (d e n m : Nat), n < 64 → m < 64 →
    hops (64 * d + n) (64 * e + m) = ((n % 8 : Int) - (m % 8 : Int)).natAbs + ((n / 8 : Int) - (m / 8 : Int)).natAbs ∧
    hops (64 * d + n) (64 * d + n) = 0

/-- R160, R177, R178, R182, R195, R202: the accesses of a compute context open at their issue with the address, banks and
cycles of their rules, and with the values read then. An engine command reads its record of 128 bytes at c+2.

R182, R187, R189, R190, R193, R197, R242: the record of an engine command, read at c+2, passes its five checks in their
order or raises the trap of the first that fails, with the record's address; a command that passes them starts what its kind
starts, at START with the total shift. Once work no longer begins, it does nothing. A `POUR` at the very removal cycle of the
earlier pour's last block counts as meeting a busy intake (the model's choice, log entry 67). -/
def Obligations.AccessIssue : Prop :=
  (∀ (s : State) (g : Gate) (v idx : VField) (f : BitVec 5) (r : SReg) (kr : KReg) (sa : StreamReg) (n x : Nat),
    g.ok = true → s.enabled false g = true → s.cur.fw = false → Names s v n → Names s idx x →
    let k := s.core s.cur.core
    let base := k.streamAddr sa.toNat (g.stage.toNat - 1)
    let at_ := fun (align : Nat) => base / align * align
    let opens := fun (i : Instr) (code len addr first last : Nat) (op : BankOp) =>
      Answers i s (fun t => Opens s t code (rangeBanks addr len) addr first last op)
    opens (.vld g v sa) 0 1024 (at_ 1024) 2 2 (.vload n) ∧
    opens (.vst g v sa) 0 1024 (at_ 1024) 3 3 (.vstore (k.rv n)) ∧
    opens (.sld g r sa) 0 8 (at_ 8) 2 2 (.sload r.toNat) ∧
    opens (.sst g r sa) 0 8 (at_ 8) 2 2 (.sstore (k.rs r.toNat)) ∧
    opens (.ldsc g kr sa) 3 8 (at_ 8) 2 2 (.kload kr.toNat) ∧
    opens (.stsc g kr sa) 3 8 (at_ 8) 3 3 (.kstore (k.rk kr.toNat)) ∧
    (clsGather f = true →
      Answers (.vgth g f v sa idx) s (fun t => Opens s t 0 (groupBanks (groupOf (at_ 16384))) (at_ 16384) 2 17
        (.gather n (fmtWidth f.toNat) (k.rv x))) ∧
      Answers (.vsct g f v sa idx) s (fun t => Opens s t 0 (groupBanks (groupOf (at_ 16384))) (at_ 16384) 2 17
        (.scatter (k.rv n) (fmtWidth f.toNat) (k.rv x)))) ∧
    opens (.copy g sa) 0 128 (at_ 128) 2 2 (.command 0x10) ∧
    opens (.pour g sa) 0 128 (at_ 128) 2 2 (.command 0x11) ∧
    opens (.take g sa) 0 128 (at_ 128) 2 2 (.command 0x12) ∧
    opens (.cred g sa) 0 128 (at_ 128) 2 2 (.command 0x13) ∧
    opens (.caxpy g sa) 0 128 (at_ 128) 2 2 (.command 0x14) ∧
    opens (.cfill g sa) 0 128 (at_ 128) 2 2 (.command 0x15) ∧
    opens (.put g sa) 0 128 (at_ 128) 2 2 (.command 0x16) ∧
    opens (.get g sa) 0 128 (at_ 128) 2 2 (.command 0x17)) ∧
  (∀ (s : State) (c id kind : Nat) (a : Access), (s.core c).accOf id = some a → a.conflictAt = none → a.op = .command kind →
    (∀ x, x ∈ (s.core c).badSpad → a.readsByte (s.core c) x = false) →
    (∀ y, y ∈ (s.core c).runs → y.id ≠ (s.core c).nextId) →
    let g := s.gcount
    let k := s.core c
    let h := s.heat (s.partOf c)
    let r := natOf ((List.range 128).map (fun i => k.spad.read (a.addr + i)))
    let start : Int := signedVal 64 r + h.sigma
    let T := ((h.origin : Int) + start).toNat
    let gone := k.acc.filter (fun y => decide (y.id ≠ id))
    let here := Instr.bankAccess c id .perform
    let heatId := if h.phase = .none ∨ h.phase = .ended then 0 else h.heatId
    let late : Prop := start < (a.issue : Int) - h.origin + 16
    let traps := fun (cls cause : Nat) => exec here s =
      .next ((s.raiseTrap c ⟨cls, cause, 0, some (a.pos, a.seg), a.addr⟩).modCore c (fun k => k.closeAccess id))
    let starts := fun (k1 : Core) (l : List Event) => Answers here s (fun t => t.core c = k1 ∧ Adds s t l ∧ OnlyCore s t c)
    let bar : Option Nat := if fld r 79 1 = 1 then some (fld r 72 5) else none
    let legal : Prop := s.commandLegal c kind r = true
    let passes : Prop := s.flows c = true ∧ ¬late ∧ legal
    let inPour := fun (y : PourRun) => y.intake = fld r 136 1 ∧ y.closed = false ∧ y.start ≤ T ∧
      ∃ p, sget none k.pours y.desc = some p ∧ T ≤ y.removal p (p.nblk - 1)
    let count := fun (d : Nat) => fld r (96 * d + 320) 16
    let tiles := (count 0 + 15) / 16 * ((count 1 + 63) / 64) * count 2 * count 3 * count 4 * count 5 * count 6
    (s.flows c = false → starts { k with acc := gone } []) ∧
    (s.flows c = true → late → traps 5 1) ∧
    (s.flows c = true → ¬late → ¬legal → traps 5 2) ∧
    (kind = 0x10 ∨ kind = 0x11 ∨ kind = 0x12 ∨ kind = 0x13 ∨ kind = 0x14 ∨ kind = 0x15 ∨ kind = 0x16 ∨ kind = 0x17 →
      fld r 64 8 ≠ kind ∨ fld r 77 2 ≠ 0 ∨ fld r 80 48 ≠ 0 → ¬legal) ∧
    (passes → kind = 0x10 → (∃ y, y ∈ k.copies ∧ y.start ≤ T ∧ T < y.start + 16 * y.tiles) → traps 5 3) ∧
    (passes → kind = 0x10 → (∀ y, y ∈ k.copies → T < y.start ∨ y.start + 16 * y.tiles ≤ T) →
      (copyOverlaps r = true → traps 10 0) ∧
      (copyOverlaps r = false → tiles = 0 → starts { k with acc := gone } []) ∧
      (copyOverlaps r = false → tiles ≠ 0 →
        let x : CopyRun := ⟨k.nextId, BitVec.ofNat 1024 r, a.issue, T, tiles, a.pos, a.seg, []⟩
        starts { k with acc := gone, copies := k.copies ++ [x], nextId := k.nextId + 1 }
          [⟨max T g, .copyTile c k.nextId 0 .occupy⟩])) ∧
    (passes → kind = 0x11 → (∃ y, y ∈ k.runs ∧ inPour y) → traps 5 3) ∧
    (passes → kind = 0x11 → (∀ y, y ∈ k.runs → ¬inPour y) →
      ∃ p, sget none k.pours (fld r 128 8) = some p ∧ Answers here s (fun t => ∃ x : PourRun,
        let s1 := s.slotsMeet c p (fld r 160 32)
        t.core c = { s1.core c with acc := gone, runs := k.runs ++ [x], nextId := k.nextId + 1 } ∧ OnlyCore s1 t c ∧
        (∀ e, e ∈ s1.agenda → e ∈ t.agenda) ∧ ⟨max (T + p.get 256 32) g, .blockRemoval c k.nextId (fld r 160 32)⟩ ∈ t.agenda ∧
        (wordSpace p.src ≠ 1 → ⟨max T g, .pourRequest c k.nextId⟩ ∈ t.agenda) ∧
        x.id = k.nextId ∧ x.intake = fld r 136 1 ∧ x.desc = fld r 128 8 ∧ x.start = T ∧ x.block = fld r 160 32 ∧
        x.next = fld r 160 32 ∧ x.asked = p.toff (fld r 160 32) ∧ x.bar = bar ∧ x.got = [] ∧ x.takes = [] ∧
        x.closed = false ∧ x.issue = a.issue ∧ x.pos = a.pos ∧ x.seg = a.seg)) ∧
    (passes → kind = 0x12 → k.takeRun r T = none → traps 5 4) ∧
    (∀ x, passes → kind = 0x12 → k.takeRun r T = some x →
      x ∈ k.runs ∧ x.intake = fld r 136 1 ∧ x.desc = fld r 128 8 ∧ x.closed = false ∧ x.next ≤ fld r 160 32 ∧
      (∃ p, sget none k.pours x.desc = some p ∧ x.removal p (fld r 160 32) = T) ∧
      starts { k with acc := gone, runs := k.runs.map (fun y => if y.id = x.id then
        { y with takes := y.takes ++ [⟨fld r 160 32, fld r 192 60, a.issue, a.pos, a.seg⟩] } else y) } []) ∧
    (passes → kind = 0x13 ∨ kind = 0x14 ∨ kind = 0x15 →
      ∃ x : CrucCmd, starts { k with acc := gone, cruc := k.cruc ++ [x], nextId := k.nextId + 1 }
        [⟨max T g, .crucibleSend c k.nextId .occupy⟩, ⟨max T g, .crucibleSend c k.nextId .perform⟩] ∧
      x.id = k.nextId ∧ x.kind = kind ∧ x.core = c ∧ x.rec_ = BitVec.ofNat 1024 r ∧ x.issue = a.issue ∧ x.start = T ∧
      h.pinned (fld r 128 60) = some x.pa ∧ x.sent = false ∧ x.fin = none ∧ x.pos = a.pos ∧ x.seg = a.seg) ∧
    (passes → kind = 0x16 ∨ kind = 0x17 →
      let x : DynCmd := ⟨k.nextId, decide (kind = 0x17), false, BitVec.ofNat 1024 r, a.issue, T, 0, [],
        decide (fld r 288 32 ≠ 0), false, heatId, a.pos, a.seg⟩
      starts { k with acc := gone, dyn := k.dyn ++ [x], nextId := k.nextId + 1 }
        [⟨max T g, .dynamicRequestIssue c k.nextId⟩]))

/-- R29, R30, R180: an `ATOM` or `RED` owns its word's bank from c+2 to c+4, reading at c+2 and writing at c+4; an `ATOM`
counts against the load queue and pushes its old value at c+7. One that finds 64 entries counted raises the overflow
trap.

R29, R180: an `ATOM` reads its word in the read part, which also holds for `RED`, and what it has read reaches the tail of
the load queue three cycles after its last cycle; an access that met a conflict in its first two cycles pushes nothing. No
byte read has an ECC error here.

R180: the values a read-modify-write puts in its word.

R31, R181: `LQPOP` removes the head of the load queue and writes it two cycles on; on an empty queue it raises the
underflow trap. -/
def Obligations.ReadModifyWrites : Prop :=
  (∀ (s : State) (g : Gate) (f : BitVec 5) (r : SReg) (sa : StreamReg) (op : BitVec 3), g.ok = true → clsAtom f = true →
    s.enabled false g = true → s.cur.fw = false →
    let c := s.cur.core
    let k := s.core c
    let addr := k.streamAddr sa.toNat (g.stage.toNat - 1) / 4 * 4
    let acc := fun (isAtom : Bool) =>
      opened s 4 (rangeBanks addr 4) addr 2 4 (.atom isAtom f.toNat op.toNat ((k.rs r.toNat).setWidth 32) none)
    let ev := fun (n : Nat) (p : AccPart) => ({ at_ := s.gcount + n, instr := .bankAccess c k.nextId p } : Event)
    (atomOpOk false f op = true → Answers (.red g f r sa op) s (fun t =>
      t.core c = { k with acc := k.acc ++ [acc false], nextId := k.nextId + 1 } ∧
      Adds s t [ev 2 .occupy, ev 2 .read, ev 4 .perform] ∧ OnlyCore s t c)) ∧
    (atomOpOk true f op = true → k.lq.length + k.lqOut < 64 → Answers (.atom g f r sa op) s (fun t =>
      t.core c = { k with acc := k.acc ++ [acc true], nextId := k.nextId + 1, lqOut := k.lqOut + 1 } ∧
      Adds s t [ev 2 .occupy, ev 2 .read, ev 4 .perform,
        { at_ := s.gcount + 7, instr := .loadQueuePush c k.nextId }] ∧ OnlyCore s t c)) ∧
    (atomOpOk true f op = true → 64 ≤ k.lq.length + k.lqOut →
      let why : TrapInfo := ⟨11, 0, 2 ^ 5, some (s.cur.pos, s.cur.seg), k.lq.length + k.lqOut⟩
      exec (.atom g f r sa op) s = .next (s.issueTrap c why))) ∧
  (∀ (s : State) (c id f op : Nat) (isAtom : Bool) (x : BitVec 32) (old : Option (BitVec 32)) (a : Access),
    (s.core c).accOf id = some a → a.op = .atom isAtom f op x old →
    let k := s.core c
    let word := natOf ((List.range 4).map (fun i => k.spad.read (a.addr + i)))
    (a.conflictAt = none → (∀ x, x ∈ k.badSpad → ¬(a.addr ≤ x ∧ x < a.addr + 4)) → Answers (.bankAccess c id .read) s (fun t =>
      (t.core c).accOf id = some { a with op := .atom isAtom f op x (some (BitVec.ofNat 32 word)) } ∧
      { t.core c with acc := k.acc } = k ∧ OnlyCore s t c ∧ t.agenda = s.agenda)) ∧
    (isAtom = true → Answers (.loadQueuePush c id) s (fun t =>
      let queue := match old, a.conflictAt with
        | some o, none => k.lq ++ [o.setWidth 64]
        | some o, some n => if n ≤ a.first + 1 then k.lq else k.lq ++ [o.setWidth 64]
        | none, _ => k.lq
      t.core c = { k with acc := k.acc.filter (fun y => decide (y.id ≠ id)), lqOut := k.lqOut - 1, lq := queue } ∧
      OnlyCore s t c ∧ t.agenda = s.agenda))) ∧
  (∀ (f old x : Nat), old < 2 ^ 32 → x < 2 ^ 32 →
    (f = 2 ∨ f = 5 →
      atomOp f 0 old x = (old + x) % 2 ^ 32 ∧ atomOp f 3 old x = old &&& x ∧ atomOp f 4 old x = old ||| x ∧
      atomOp f 5 old x = old ^^^ x) ∧
    (f = 2 → (atomOp f 1 old x = if signedVal 32 old ≤ signedVal 32 x then old else x) ∧
      (atomOp f 2 old x = if signedVal 32 x ≤ signedVal 32 old then old else x)) ∧
    (f = 5 → atomOp f 1 old x = min old x ∧ atomOp f 2 old x = max old x) ∧
    (f = 10 → atomOp f 0 old x = roundTo 10 0 (xadd 0 (widen 10 old) (widen 10 x))) ∧
    atomOp f 6 old x = x) ∧
  (∀ (s : State) (g : Gate) (r : SReg), g.ok = true → s.enabled false g = true → s.cur.fw = false →
    let c := s.cur.core
    let k := s.core c
    (∀ x rest, k.lq = x :: rest → Answers (.lqpop g r) s (fun t =>
      t.core c = { k with lq := rest, pend := k.pend ++ [onItsWay s 2 .mem false (.sreg r.toNat x)] } ∧
      Adds s t [{ at_ := s.gcount + 2, instr := .resultLand c }] ∧ OnlyCore s t c)) ∧
    (k.lq = [] → exec (.lqpop g r) s = .next (s.issueTrap c ⟨12, 0, 2 ^ 5, some (s.cur.pos, s.cur.seg), 0⟩)))

/-- R25, R26, R179: a `VSTN` opens a store of the target core that takes its bank and performs 12 + 2h cycles on within a die
and 52 + 2h across dies.

R195, R200, R202: a fence holds its context back from the next bundle on, a `CFENCE` of scope `bank` or `chan` after
reading its address word, and a post takes effect a cycle after its issue. -/
def Obligations.RemoteStoresAndFences : Prop :=
  (∀ (s : State) (g : Gate) (v : VField) (sa : StreamReg) (target : BitVec 8) (n : Nat), g.ok = true →
    s.enabled false g = true → Names s v n →
    let c := s.cur.core
    let t := target.toNat
    let k := s.core t
    let gap := fun (a b : Nat) => (Int.natAbs ((a : Int) - b))
    let h := gap (c % 64 % 8) (t % 64 % 8) + gap (c % 64 / 8) (t % 64 / 8)
    let when_ := s.gcount + ((if c / 64 = t / 64 then 12 else 52) + 2 * h)
    let addr := (s.core c).streamAddr sa.toNat (g.stage.toNat - 1) / 1024 * 1024
    Answers (.vstn g v sa target) s (fun u =>
      u.core t = { k with nextId := k.nextId + 1, acc := k.acc ++
        [{ id := k.nextId, code := 5, issue := s.gcount, src := c, banks := rangeBanks addr 1024, addr := addr,
           first := when_, last := when_, conflictAt := none, pos := s.cur.pos, seg := s.cur.seg,
           op := .vstn ((s.core c).rv n) }] } ∧
      Adds s u [{ at_ := when_, instr := .vstnArrival t k.nextId .occupy },
        { at_ := when_, instr := .vstnArrival t k.nextId .perform }] ∧ OnlyCore s u t)) ∧
  (∀ (s : State) (g : Gate) (sa : StreamReg) (r : SReg) (b : BarReg) (scope : BitVec 2), g.ok = true →
    s.enabled false g = true → s.cur.fw = false →
    let c := s.cur.core
    let k := s.core c
    let addr := k.streamAddr sa.toNat (g.stage.toNat - 1) / 8 * 8
    Answers (.bpost g r b) s (fun t => Lands s t 1 .mem [.post b.toNat ((k.rs r.toNat).toNat % 2 ^ 40)]) ∧
    (scope.toNat ≤ 1 → Answers (.fence g scope) s (fun t =>
      t.core c = { k with seq := { k.seq with memHold := .fence s.gcount (decide (scope.toNat = 1)) } } ∧
      Adds s t [{ at_ := s.gcount + 1, instr := .fenceRelease c false }] ∧ OnlyCore s t c)) ∧
    (scope.toNat ≤ 1 → Answers (.cfence g sa scope) s (fun t =>
      t.core c = { k with acc := k.acc ++ [opened s 0 (rangeBanks addr 8) addr 2 2 (.fenceWord scope.toNat)],
                          nextId := k.nextId + 1, seq := { k.seq with memHold := .cfence s.gcount scope.toNat none } } ∧
      Adds s t [{ at_ := s.gcount + 2, instr := .bankAccess c k.nextId .occupy },
        { at_ := s.gcount + 2, instr := .bankAccess c k.nextId .perform },
        { at_ := s.gcount + 3, instr := .cfenceRelease c }] ∧ OnlyCore s t c)) ∧
    (scope.toNat = 2 → sa.toNat = 0 → Answers (.cfence g sa scope) s (fun t =>
      t.core c = { k with seq := { k.seq with memHold := .cfence s.gcount 2 none } } ∧
      Adds s t [{ at_ := s.gcount + 3, instr := .cfenceRelease c }] ∧ OnlyCore s t c)))

/-- R176, R202, R203: the MEM operations of a firmware context. The context waits for its access, whose operands it has read;
the access completes one cycle on or later, and a fence's wait is looked at one cycle on. -/
def Obligations.FirmwareMemoryIssue : Prop :=
  ∀ (s : State) (g : Gate) (r : SReg) (sa : StreamReg) (scope : BitVec 2), g.ok = true → s.enabled false g = true →
    s.cur.fw = true → scope.toNat ≤ 1 →
    let c := s.cur.core
    let k := s.core c
    let waits := fun (i : Instr) (addr value : Word64) (t : State) =>
      let m : FwMem := { instr := i, pos := k.fw.pos, addr := addr, value := value, issued := s.gcount }
      t.core c = { k with fw := { k.fw with mode := .waiting, mem := some m } } ∧ ∀ d, d ≠ c → t.core d = s.core d
    let completes := fun (i : Instr) (value : Word64) => Answers i s (fun t => waits i (k.fw.rs sa.toNat) value t ∧
      (∃ n, s.gcount + 1 ≤ n ∧ Adds s t [{ at_ := n, instr := .firmwareAccessComplete c }]) ∧
      { t with cores := s.cores, agenda := s.agenda, choice := s.choice } = s)
    completes (.sld g r sa) 0 ∧ completes (.sst g r sa) (k.fw.rs r.toNat) ∧ completes (.qrd g sa) 0 ∧
    completes (.kscan g sa) 0 ∧ completes (.kclr g sa) 0 ∧ completes (.japp g sa) 0 ∧
    Answers (.fence g scope) s (fun t => waits (.fence g scope) 0 0 t ∧
      Adds s t [{ at_ := s.gcount + 1, instr := .fenceRelease c true }] ∧ OnlyCore s t c)

/-- R26, R160, R177, R178: a load reads its bytes as they stand in its last cycle and its result lands in its cycle; memory
and the registers are as they were, and the access is over. No byte that it reads has an ECC error here.

R182, R239: the bytes that an access reads; one of them with an uncorrectable error raises the ECC trap of cause 2 with
the byte's offset, and the access performs.

R23: an access that has met a conflict reads and writes nothing and lands no result, in every cycle of its own; only an
`ATOM` stays until its moment at the load queue.

R23, R160, R177 to R180: a store writes exactly its bytes in its last cycle and changes nothing else; it leaves no error in
them (log entry 63). -/
def Obligations.AccessPerform : Prop :=
  (∀ (s : State) (c id : Nat) (a : Access), (s.core c).accOf id = some a → a.conflictAt = none → s.gcount ≤ a.last →
    (∀ x, x ∈ (s.core c).badSpad → a.readsByte (s.core c) x = false) →
    let k := s.core c
    let word := fun (n : Nat) => natOf ((List.range n).map (fun i => k.spad.read (a.addr + i)))
    let comes := fun (lat : Nat) (slot : Slot) (e : Eff → Prop) => Answers (.bankAccess c id .perform) s (fun t => ∃ x, e x ∧
      let p : Pending := { at_ := a.last + lat, slot := slot, issued := a.issue, fw := false, gufl := false, eff := x }
      t.core c = { k with acc := k.acc.filter (fun y => decide (y.id ≠ id)), pend := k.pend ++ [p] } ∧
      Adds s t [{ at_ := a.last + lat, instr := .resultLand c }] ∧ OnlyCore s t c)
    (∀ d, a.op = .vload d → comes 4 .mem (fun x => x = .vreg d (BitVec.allOnes 256) (BitVec.ofNat 8192 (word 1024)))) ∧
    (∀ d, a.op = .sload d → comes 3 .mem (fun x => x = .sreg d (BitVec.ofNat 64 (word 8)))) ∧
    (∀ d, a.op = .kload d → comes 4 .prm (fun x => x = .kreg d (BitVec.ofNat 64 (word 8)))) ∧
    (∀ d w idx, a.op = .gather d w idx → (w = 16 ∨ w = 32) → comes 3 .mem (fun x => ∃ v : VReg,
      x = .vreg d (BitVec.allOnes 256) v ∧ ∀ j, j < 8192 / w → ∀ n, n < w / 8 →
        elem 8 v.toNat (w / 8 * j + n) =
          (k.spad.read (a.addr + elem w idx.toNat j % (131072 / w) * (w / 8) + n)).toNat))) ∧
  (∀ (s : State) (c id : Nat) (a : Access), (s.core c).accOf id = some a →
    let k := s.core c
    let reads := fun (n : Nat) => ∀ x, a.readsByte k x = decide (a.addr ≤ x ∧ x < a.addr + n)
    let trapped := fun (x : Nat) => s.raiseTrap c ⟨8, 2, 0, some (a.pos, a.seg), x⟩
    (∀ d, a.op = .vload d → reads 1024) ∧ (∀ d, a.op = .sload d ∨ a.op = .kload d ∨ a.op = .fenceWord d → reads 8) ∧
    (∀ n, a.op = .command n → reads 128) ∧ (a.op = .callLoad → reads 16) ∧
    (∀ isAtom f op v o, a.op = .atom isAtom f op v o → reads 4) ∧
    (∀ n r, a.op = .stepA n → sget none k.steps n = some r → reads (64 * stepK r.fmt * fmtWidth r.fmt / 8)) ∧
    (∀ n r, a.op = .stepB n → sget none k.steps n = some r → reads (32 * stepK r.fmt * fmtWidth r.fmt / 8)) ∧
    (∀ v, a.op = .vstore v → ∀ x, a.readsByte k x = false) ∧
    (∀ d w idx, a.op = .gather d w idx → (w = 16 ∨ w = 32) → ∀ x, a.readsByte k x = true ↔ ∃ j n, j < 8192 / w ∧ n < w / 8 ∧
      x = a.addr + elem w idx.toNat j % (131072 / w) * (w / 8) + n) ∧
    (∀ x, a.conflictAt = none → k.badSpad.find? (a.readsByte k) = some x →
      (∀ isAtom f op v o, a.op ≠ .atom isAtom f op v o) →
      exec (.bankAccess c id .perform) s =
        .next (((trapped x).performAccess c a).modCore c (fun k => k.closeAccess id))) ∧
    (∀ x isAtom f op v o, a.conflictAt = none → k.badSpad.find? (a.readsByte k) = some x → a.op = .atom isAtom f op v o →
      exec (.bankAccess c id .read) s = .next ((trapped x).atomRead c id))) ∧
  (∀ (s : State) (c id n : Nat) (a : Access), (s.core c).accOf id = some a → a.conflictAt = some n →
    let k := s.core c
    let gone := k.acc.filter (fun y => decide (y.id ≠ id))
    let ends := fun (i : Instr) => Answers i s (fun t =>
      t.core c = { k with acc := gone } ∧ OnlyCore s t c ∧ t.agenda = s.agenda)
    exec (.bankAccess c id .read) s = .next s ∧ ends (.vstnArrival c id .perform) ∧
    ((∀ f op x o, a.op ≠ .atom true f op x o) → ends (.bankAccess c id .perform)) ∧
    (∀ f op x o, a.op = .atom true f op x o → exec (.bankAccess c id .perform) s = .next s)) ∧
  (∀ (s : State) (c id : Nat) (a : Access), (s.core c).accOf id = some a → a.conflictAt = none →
    let k := s.core c
    let gone := k.acc.filter (fun y => decide (y.id ≠ id))
    let puts := fun (i : Instr) (left : List Access) (n : Nat) (byte : Nat → Nat) => Answers i s (fun t =>
      { t.core c with spad := k.spad, badSpad := k.badSpad } = { k with acc := left } ∧
      (∀ x, x ∈ (t.core c).badSpad ↔ x ∈ k.badSpad ∧ ¬(a.addr ≤ x ∧ x < a.addr + n)) ∧
      (∀ x, ((t.core c).spad.read x).toNat =
        if a.addr ≤ x ∧ x < a.addr + n then byte (x - a.addr) else (k.spad.read x).toNat) ∧
      OnlyCore s t c ∧ t.agenda = s.agenda)
    let here := Instr.bankAccess c id .perform
    let stores := fun (i : Instr) => puts i gone
    (∀ v, a.op = .vstore v → stores here 1024 (elem 8 v.toNat)) ∧
    (∀ v, a.op = .sstore v → stores here 8 (elem 8 v.toNat)) ∧
    (∀ v, a.op = .kstore v → stores here 8 (elem 8 v.toNat)) ∧
    (∀ v, a.op = .vstn v → stores (.vstnArrival c id .perform) 1024 (elem 8 v.toNat)) ∧
    (∀ f op x o, a.op = .atom false f op x (some o) →
      stores here 4 (elem 8 (atomOp f op o.toNat x.toNat))) ∧
    (∀ f op x o, a.op = .atom true f op x (some o) →
      puts here k.acc 4 (elem 8 (atomOp f op o.toNat x.toNat))) ∧
    (∀ v w idx, a.op = .scatter v w idx → (w = 16 ∨ w = 32) → Answers here s (fun t =>
      let at_ := fun (j : Nat) => a.addr + elem w idx.toNat j % (131072 / w) * (w / 8)
      { t.core c with spad := k.spad, badSpad := k.badSpad } = { k with acc := gone } ∧ OnlyCore s t c ∧ t.agenda = s.agenda ∧
      (∀ x, x ∈ (t.core c).badSpad ↔ x ∈ k.badSpad ∧ ∀ j n, j < 8192 / w → n < w / 8 → x ≠ at_ j + n) ∧
      (∀ j n, j < 8192 / w → n < w / 8 → (∀ m, j < m → m < 8192 / w → at_ m ≠ at_ j) →
        ((t.core c).spad.read (at_ j + n)).toNat = elem 8 (elem w v.toNat j) n) ∧
      (∀ x, (∀ j n, j < 8192 / w → n < w / 8 → x ≠ at_ j + n) → (t.core c).spad.read x = k.spad.read x))) ∧
    (∀ hdr idx, a.op = .callStore hdr idx → stores here 16 (fun n =>
      if n < 8 then elem 8 hdr n else if n < 10 then elem 8 idx (n - 8) else 0)))

/-- R23, R174, R188: a part that takes banks no other active access shares changes nothing, and neither do the source of a tile
of a copy and the destination of the tile before it. Of two active accesses alone that share a bank both are void from this
cycle on, whatever their codes, and the bank-conflict trap is raised with the record of R174: the lowest shared bank and the
two requesters in the order of their codes, issue cycles and source cores. Of several, every one that shares a bank with
another is void. What a void access does is in `AccessPerform`. -/
def Obligations.BankConflicts : Prop :=
  ∀ (s : State) (c id : Nat) (x : Access), (s.core c).accOf id = some x →
    let g := s.gcount
    let k := s.core c
    let active := k.acc.filter (fun x => decide (x.first ≤ g) && decide (g ≤ x.last))
    let pair := fun (a b : Access) => ∃ i n, a.op = .copySrc i (n + 1) ∧ b.op = .copyDst i n
    let clash := fun (a b : Access) => a.id ≠ b.id ∧ a.banks &&& b.banks ≠ 0 ∧ ¬pair a b ∧ ¬pair b a
    let before := fun (a b : Access) =>
      a.code < b.code ∨ (a.code = b.code ∧ (a.issue < b.issue ∨ (a.issue = b.issue ∧ a.src < b.src)))
    let fresh := fun (a : Access) => a.first = g ∧ a.conflictAt = none
    let both := fun (P : Instr → Prop) => P (.bankAccess c id .occupy) ∧ P (.vstnArrival c id .occupy)
    ((∀ a ∈ active, ∀ b ∈ active, ¬clash a b) → both (fun i => exec i s = .next s)) ∧
    (∀ a b n, (active = [a, b] ∧ ¬before b a) ∨ (active = [b, a] ∧ before a b) → clash a b → fresh a ∨ fresh b → n < 16 →
      a.banks.getLsbD n = true → b.banks.getLsbD n = true →
      (∀ m, m < n → (a.banks.getLsbD m && b.banks.getLsbD m) = false) →
      let s1 := s.setCore c { k with acc := k.acc.map (fun y =>
        if (y.id = a.id ∨ y.id = b.id) ∧ y.conflictAt = none then { y with conflictAt := some g } else y) }
      let rel := fun (x : Nat) => cycle64 ((x : Int) - (s.heat (s.partOf c)).origin)
      let detail := rel g + rel a.issue * 2 ^ 64 + rel b.issue * 2 ^ 128 + n * 2 ^ 192 + a.code % 16 * 2 ^ 196 +
        b.code % 16 * 2 ^ 200 + a.src % 256 * 2 ^ 204 + b.src % 256 * 2 ^ 212
      let bundle : Option (Nat × Nat) := if a.code = 5 ∧ b.code = 5 then none
        else if a.src = c then some (a.pos, a.seg) else if b.src = c then some (b.pos, b.seg) else none
      both (fun i => exec i s = .next (s1.raiseTrap c ⟨4, 0, 0, bundle, detail⟩))) ∧
    (∀ a, a ∈ active → fresh a → (∃ b, b ∈ active ∧ clash a b) → both (fun i => Answers i s (fun t =>
      (t.core c).spad = k.spad ∧ ∃ f : Access → Access, (t.core c).acc = k.acc.map f ∧ ∀ y,
        let hit := (∃ z, z ∈ active ∧ z.id = y.id ∧ ∃ b, b ∈ active ∧ clash z b) ∧ y.conflictAt = none
        (hit → f y = { y with conflictAt := some g }) ∧ (¬hit → f y = y))))

/-! The CTL slot. -/

/-- R72, R101, R102, R105: the branches of a compute context. A target names the segment after the last one as one that does not
exist. A taken branch pends with a count of 3, its own bundle and the two delay bundles; a call stores its return record at
c+2 and moves CSP at c+1, and a return reads its record at c+2. A call or return beyond the stack raises the call-stack trap
and does nothing else.

R105, R243: the record a return reads gives its pending branch the segment and index it names. Where that branch was still
without a target, the one a restart mark has shadowed since gets it too, so that a restart goes to the record's target. None of
the record's bytes has an ECC error here. -/
def Obligations.Branches : Prop :=
  (∀ (s : State) (g : Gate) (idx : BitVec 10) (seg : Bool) (r : SReg) (sl : Slot), g.ok = true → s.enabled false g = true →
    s.cur.fw = false →
    let c := s.cur.core
    let k := s.core c
    let half := k.half k.seq.half
    let tgt := fun (next : Bool) (n : Nat) (raw : Word64) =>
      ({ hdr := if next then (if half.lastSeg then 0 else half.next) else half.hdr, idx := n, raw := raw,
         away := next && half.lastSeg } : Target)
    let v := k.rs r.toNat
    let near := tgt seg idx.toNat (idx.setWidth 64)
    let far := tgt (v.getLsbD 10) (v.toNat % 2 ^ 10) v
    let to_ := fun (k : Core) (x : Target) => ({ k with seq := { k.seq with branch := some (x, 3) } } : Core)
    let jump := fun (i : Instr) (x : Target) => Answers i s (fun t =>
      t.core c = to_ k x ∧ OnlyCore s t c ∧ t.agenda = s.agenda)
    let stacked := fun (i : Instr) (x : Target) (csp : Word64) (addr : Nat) (op : BankOp) => Answers i s (fun t =>
      t.core c = to_ { k with acc := k.acc ++ [opened s 0 (rangeBanks addr 16) addr 2 2 op], nextId := k.nextId + 1,
                              pend := k.pend ++ [onItsWay s 1 .ctl false (.sysreg 1 csp)] } x ∧
      Adds s t [{ at_ := s.gcount + 2, instr := .bankAccess c k.nextId .occupy },
        { at_ := s.gcount + 2, instr := .bankAccess c k.nextId .perform },
        { at_ := s.gcount + 1, instr := .resultLand c }] ∧ OnlyCore s t c)
    let ret := k.seq.pos + 3
    let covered := match half.rec_ with | some x => decide (x.pos ≤ ret) | none => false
    let record : Nat × Nat :=
      if ret < half.bundles.length ∨ covered = true then (half.hdr, ret)
      else (if half.lastSeg then 0 else half.next, ret - half.bundles.length)
    let push := fun (i : Instr) (x : Target) =>
      stacked i x (k.csp + 16) (k.csp.toNat % 0x600000) (.callStore record.1 record.2)
    let limit := fun (i : Instr) (bound : Word64) => exec i s = .next (s.issueTrap c
      ⟨13, 0, 2 ^ 0, some (s.cur.pos, s.cur.seg), k.csp.toNat + bound.toNat * 2 ^ 64⟩)
    exec (.nop sl) s = .next s ∧
    jump (.br g idx seg) near ∧
    jump (.bri g r) far ∧
    (k.csp.toNat + 16 ≤ k.slimit.toNat → push (.call g idx seg) near ∧ push (.calli g r) far) ∧
    (k.slimit.toNat < k.csp.toNat + 16 → limit (.call g idx seg) k.slimit ∧ limit (.calli g r) k.slimit) ∧
    (k.csbase.toNat + 16 ≤ k.csp.toNat →
      stacked (.ret g) { hdr := 0, idx := 0, raw := 0, away := false } (k.csp - 16) ((k.csp.toNat - 16) % 0x600000) .callLoad) ∧
    (k.csp.toNat < k.csbase.toNat + 16 → limit (.ret g) k.csbase)) ∧
  (∀ (s : State) (c id : Nat) (a : Access) (t : Target) (n : Nat), (s.core c).accOf id = some a → a.conflictAt = none →
    a.op = .callLoad → (s.core c).seq.branch = some (t, n) → (∀ x, x ∈ (s.core c).badSpad → ¬(a.addr ≤ x ∧ x < a.addr + 16)) →
    let k := s.core c
    let bytes := fun (lo len : Nat) => natOf ((List.range len).map (fun i => k.spad.read (a.addr + lo + i)))
    let named : Target := { hdr := bytes 0 8, idx := bytes 8 2, raw := 0, away := false }
    let without : Target := { hdr := 0, idx := 0, raw := 0, away := false }
    let gives := fun (sh : Option Shadow) => Answers (.bankAccess c id .perform) s (fun u =>
      u.core c = { k with acc := k.acc.filter (fun y => decide (y.id ≠ id)),
                          seq := { k.seq with branch := some (named, n) }, shadow := sh } ∧
      OnlyCore s u c ∧ u.agenda = s.agenda)
    (t ≠ without ∨ k.shadow = none → gives k.shadow) ∧
    (∀ x, t = without → k.shadow = some x →
      (∀ m, x.seq.branch = some (without, m) → gives (some { x with seq := { x.seq with branch := some (named, m) } })) ∧
      ((∀ m, x.seq.branch ≠ some (without, m)) → gives k.shadow)))

/-- R106, R108, R113, R114: a `LOOP` reads its count and pushes a record of its table entry at iteration 0, or with a count of
0 skips its body; a `LEXIT` lowers the count of its level to j + 1; a `HALT` ends the context's issue. -/
def Obligations.LoopsAndHalt : Prop :=
  ∀ (s : State) (g : Gate) (cnt : SReg) (lte : BitVec 8) (body : BitVec 10) (lvl : BitVec 3), g.ok = true →
    s.enabled false g = true → s.cur.fw = false → lvl.toNat ≤ 5 →
    let c := s.cur.core
    let k := s.core c
    let e := ((sget none k.loopTab lte.toNat).getD 0).toNat
    let n := if cnt.toNat = 0 then fld e 0 32 else (k.rs cnt.toNat).toNat % 2 ^ 32
    let seq := fun (i : Instr) (q : Seq) => Answers i s (fun t =>
      t.core c = { k with seq := q } ∧ OnlyCore s t c ∧ t.agenda = s.agenda)
    (n = 0 → seq (.loop g cnt lte body lvl) { k.seq with skip := body.toNat + 1 }) ∧
    (n ≠ 0 → ∃ l : LoopRec, seq (.loop g cnt lte body lvl) { k.seq with loops := l :: k.seq.loops } ∧
      l.lvl = lvl.toNat ∧ l.n = n ∧ l.j = 0 ∧ l.start = k.seq.pos + 1 ∧ l.body = body.toNat + 1 ∧ l.s = fld e 32 4 ∧
      l.kind = fld e 38 2 ∧ l.cutstr = fld e 40 12 ∧ l.ibase = fld e 64 32 ∧ l.istep = fld e 96 32 ∧ l.entry = lte.toNat) ∧
    (∃ ls : List LoopRec, seq (.lexit g lvl) { k.seq with loops := ls } ∧ ls.length = k.seq.loops.length ∧
      ∀ j (h : j < ls.length) (h' : j < k.seq.loops.length),
        ls[j].n = (if k.seq.loops[j].lvl = lvl.toNat then min k.seq.loops[j].n (k.seq.loops[j].j + 1) else k.seq.loops[j].n) ∧
        { ls[j] with n := k.seq.loops[j].n, orig := k.seq.loops[j].orig } = k.seq.loops[j]) ∧
    seq (.halt g) { k.seq with dom := .halted }

/-- R109: the stage enables are those of the innermost active loop. In its kernel iteration j, with N its count as it now stands
(as reduced by `LEXIT`), e_s reads 1 when s < S and s ≤ j ≤ s + N − 1, and 0 otherwise; with no loop active e0 reads 1 and
e1 to e7 read 0. When an inner loop ends, the enables are those of the loop around it in its current iteration. (A loop that
a resume started at a later iteration is R251's, and stands in StreamAddressesAndIndices.) -/
def Obligations.StageEnables : Prop :=
  ∀ (k : Core) (st : Nat) (l : LoopRec) (rest : List LoopRec), l.j0 = 0 →
    let law := fun (l : LoopRec) => decide (st < l.s ∧ st ≤ l.j ∧ (l.j : Int) ≤ (st : Int) + l.n - 1)
    (k.seq.loops = [] → k.enable st = decide (st = 0)) ∧
    (k.seq.loops = l :: rest → k.enable st = law l) ∧
    (∀ (inner : LoopRec) (next : Nat) (idx : Sparse Nat), inner.start + inner.body ≤ next → inner.n + inner.s - 1 ≤ inner.j + 1 →
      next < l.start + l.body → k.seq.loops = (closeLoops next (inner :: l :: rest) idx).2.1 → k.enable st = law l)

/-- R115, R220: an enabled `TRIG` of an entry that has not fired marks it and sends its token to its queue a cycle on; of one
that has fired, or that the table does not hold, nothing.

R117 to R119: the waits read their time as a signed heat cycle with the total shift, hold the next bundle back and are
looked at in their cycle; from the cycle after a `WAITA` its core is in the dynamic domain; `WAITD` and `ALIGN` of a time
that is not in the future raise the timing trap and hold nothing.

R116, R238, R241: the software trap of a compute context commits its bundle: class 14 with its code, and the core issues
nothing after this cycle. -/
def Obligations.TriggersWaitsAndTraps : Prop :=
  (∀ (s : State) (g : Gate) (n : BitVec 8), g.ok = true → s.enabled false g = true →
    let c := s.cur.core
    let p := s.partOf c
    (∀ q tok, sget none (s.heat p).triggers n.toNat = some ⟨q, tok, false⟩ → Answers (.trig g n) s (fun t =>
      t.heat p = { s.heat p with triggers := sset none (s.heat p).triggers n.toNat (some ⟨q, tok, true⟩) } ∧
      (∀ r, r ≠ p → t.heat r = s.heat r) ∧
      t.core c = { s.core c with pend := (s.core c).pend ++ [onItsWay s 1 .ctl false (.token q tok)] } ∧
      Adds s t [{ at_ := s.gcount + 1, instr := .resultLand c }] ∧ ∀ d, d ≠ c → t.core d = s.core d)) ∧
    (∀ q tok, sget none (s.heat p).triggers n.toNat = some ⟨q, tok, true⟩ → exec (.trig g n) s = .next s) ∧
    (sget none (s.heat p).triggers n.toNat = none → exec (.trig g n) s = .next s)) ∧
  (∀ (s : State) (g : Gate) (b : BarReg) (r : SReg), g.ok = true → s.enabled false g = true → s.cur.fw = false →
    let c := s.cur.core
    let k := s.core c
    let h := s.heat (s.partOf c)
    let time : Int := (k.rs r.toNat).toInt + h.sigma
    let when_ := ((h.origin : Int) + time).toNat
    let watch : Option Nat := if (k.rb b.toNat).settled.posted then some s.gcount else none
    let holds := fun (i : Instr) (q : Seq) (l : List Event) => Answers i s (fun t =>
      t.core c = { k with seq := q } ∧ Adds s t l ∧ OnlyCore s t c)
    let late := fun (i : Instr) (cause detail : Nat) =>
      exec i s = .next (s.issueTrap c ⟨5, cause, 2 ^ 0, some (s.cur.pos, s.cur.seg), detail⟩)
    ((s.gcount : Int) - h.origin < time →
      holds (.waitd g b r) { k.seq with hold := .waitd b.toNat watch when_ s.cur.pos s.cur.seg }
        [{ at_ := when_, instr := .waitdDeadline c }] ∧
      holds (.align g r) { k.seq with hold := .align when_ } [{ at_ := when_, instr := .alignPointReached c }]) ∧
    (time ≤ (s.gcount : Int) - h.origin →
      late (.waitd g b r) 5 (cycle64 time + b.toNat * 2 ^ 64) ∧ late (.align g r) 6 (cycle64 time)) ∧
    holds (.waita g b) { k.seq with hold := .waita b.toNat watch, dom := .dynamic,
                                    dynSince := some (k.seq.dynSince.getD (s.gcount + 1)) }
      (if watch.isNone then [{ at_ := s.gcount + 1, instr := .waitaRelease c }] else [])) ∧
  (∀ (s : State) (g : Gate) (n : BitVec 8), g.ok = true → s.enabled false g = true → s.cur.fw = false →
    let c := s.cur.core
    exec (.trap g n) s = .next (s.raiseTrap c ⟨14, n.toNat, 0, some (s.cur.pos, s.cur.seg), 0⟩))

/-- R121, R135, R324, R326: the control operations of a firmware context: branches and calls within its own instruction
memory, `CHILL` into retention with FEPC at the next bundle and FIN clear, `FRET` back to FEPC with FIN clear, and `TRAP`, a
fault of the context. That a call's return position is kept by the context itself is the model's choice (log entry 13).

R132, R325: the reads and writes of the firmware system registers, and the cycle read of a firmware context. -/
def Obligations.FirmwareControl : Prop :=
  (∀ (s : State) (g : Gate) (idx : BitVec 10) (r : SReg) (n : BitVec 8), g.ok = true → s.enabled false g = true →
    s.cur.fw = true →
    let c := s.cur.core
    let k := s.core c
    let f := k.fw
    let v := f.rs r.toNat
    let near : Target := { hdr := 0, idx := idx.toNat, raw := idx.setWidth 64, away := false }
    let far : Target := { hdr := 0, idx := v.toNat % 2 ^ 10, raw := v, away := false }
    let does := fun (i : Instr) (x : FwCtx) => Answers i s (fun t =>
      t.core c = { k with fw := x } ∧ OnlyCore s t c ∧ t.agenda = s.agenda)
    does (.br g idx false) { f with branch := some (near, 3) } ∧
    does (.bri g r) { f with branch := some (far, 3) } ∧
    does (.call g idx false) { f with branch := some (near, 3), calls := (f.pos + 3) :: f.calls } ∧
    does (.calli g r) { f with branch := some (far, 3), calls := (f.pos + 3) :: f.calls } ∧
    (∀ p rest, f.calls = p :: rest →
      does (.ret g) { f with branch := some ({ hdr := 0, idx := p, raw := BitVec.ofNat 64 p, away := false }, 3), calls := rest }) ∧
    does (.chill g) { f with fcause := f.fcause &&& ~~~0x100, fepc := BitVec.ofNat 64 (f.pos + 1), mode := .chilled } ∧
    does (.fret g) { f with fcause := f.fcause &&& ~~~0x100, resume := some f.fepc.toNat } ∧
    does (.trap g n) { f with trapped := some n.toNat }) ∧
  (∀ (s : State) (g : Gate) (d a : SReg) (n : BitVec 13), g.ok = true → s.enabled false g = true → s.cur.fw = true →
    let c := s.cur.core
    let f := (s.core c).fw
    let p := s.partOf c
    let h := s.heat p
    let pctl := sget patrolReset s.patrol p
    let value : Word64 := match n.toNat with
      | 0 => f.fvec
      | 1 => f.fepc
      | 2 => f.fcause
      | 3 => f.fpend.setWidth 64
      | 4 => f.fenable.setWidth 64
      | 5 => BitVec.ofNat 64 f.fshare
      | 6 => f.fxaddr
      | 7 => BitVec.ofNat 64 s.fe.sched
      | 8 => if s.fe.hold then 1 else 0
      | 9 => s.fe.jbase
      | 10 => BitVec.ofNat 64 s.fe.jtail
      | 11 => s.fe.jlow
      | 13 => BitVec.ofNat 64 (pctl.state.toNat * 4 + pctl.cur.toNat * 16 + pctl.next.toNat * 64 + pctl.passes.toNat * 256)
      | _ => 0
    (n.toNat ≤ 15 → ScalarResult (.fsrd g d n) s 1 d value) ∧
    (n.toNat ≤ 15 → n.toNat ≠ 2 → n.toNat ≠ 6 → n.toNat ≠ 10 →
      Answers (.fswr g n a) s (fun t => Lands s t 1 .sca [.fwreg n.toNat (f.rs a.toNat)])) ∧
    (h.phase = .armed ∨ h.phase = .running ∨ h.phase = .stopping →
      ScalarResult (.gcrdHeat g d) s 1 d (BitVec.ofInt 64 ((s.gcount : Int) - h.origin))) ∧
    (h.phase ≠ .armed → h.phase ≠ .running → h.phase ≠ .stopping →
      ScalarResult (.gcrdHeat g d) s 1 d 0x8000000000000000))

/-! Landing (R26, R27) and the register files (R17). -/

/-- R17, R32: s0 reads as zero, q0 as true and w0 as ones, and a write of one of them changes nothing; any other write is
read back from its register, leaves every other register of its file, and changes nothing else of the core. -/
def Obligations.RegisterFiles : Prop :=
  ∀ (k : Core) (n m : Nat) (v : Word64) (q : Bool) (x : VReg) (w : BitVec 256) (t : Tile) (a : BitVec 128) (y : BitVec 2080),
    k.rs 0 = 0 ∧ k.rq 0 = true ∧ k.rw 0 = BitVec.allOnes 256 ∧ k.ws 0 v = k ∧ k.wq 0 q = k ∧ k.ww 0 w = k ∧
    (n ≠ 0 → (k.ws n v).rs n = v ∧ (k.ww n w).rw n = w ∧ (n < 16 → (k.wq n q).rq n = q)) ∧
    (k.wv n x).rv n = x ∧ (k.wk n v).rk n = v ∧ (k.wm n t).rm n = t ∧ (k.wa n a).ra n = a ∧ (k.wy n y).ry n = y ∧
    (m ≠ n → (k.ws n v).rs m = k.rs m ∧ (k.ww n w).rw m = k.rw m ∧ (n < 16 → m < 16 → (k.wq n q).rq m = k.rq m) ∧
      (k.wv n x).rv m = k.rv m ∧ (k.wk n v).rk m = k.rk m ∧ (k.wm n t).rm m = k.rm m ∧ (k.wa n a).ra m = k.ra m ∧
      (k.wy n y).ry m = k.ry m) ∧
    { k.ws n v with s := k.s } = k ∧ { k.wq n q with q := k.q } = k ∧ { k.ww n w with w := k.w } = k ∧
    { k.wv n x with v := k.v } = k ∧ { k.wk n v with k := k.k } = k ∧ { k.wm n t with m := k.m } = k ∧
    { k.wa n a with a := k.a } = k ∧ { k.wy n y with y := k.y } = k

/-- R26, R27, R33, R130: a result of a compute context that lands alone takes its register, lanes outside its mask keep their
values, and nothing else changes but that a flushing scan's result sets GUFL. A register written holds no ECC error any more
(the model's choice, log entry 63).

R325: a scalar or predicate result of a firmware context lands in the context's own registers. -/
def Obligations.RegisterLanding : Prop :=
  (∀ (s : State) (c n : Nat) (p : Pending), DueAlone s c p → p.fw = false →
    let k := s.core c
    let flagged := fun (x : Core) => if p.gufl then x.setFlag 2 else x
    let lands := fun (t : State) (file : Nat) (x : Core) =>
      Landed s t c { flagged x with badReg := k.badReg.filter (fun r => decide (r ≠ (file, n))) }
    let becomes := fun (file : Nat) (x : Core) => Answers (.resultLand c) s (fun t => lands t file x)
    (∀ v, p.eff = .sreg n v → becomes 0 (k.ws n v)) ∧
    (∀ v, p.eff = .qreg n v → becomes 1 (k.wq n v)) ∧
    (∀ v, p.eff = .kreg n v → becomes 3 (k.wk n v)) ∧
    (∀ v, p.eff = .carry n v → becomes 6 (k.wy n v)) ∧
    (∀ mask v, p.eff = .vreg n mask v → Answers (.resultLand c) s (fun t => ∃ r : VReg, lands t 2 (k.wv n r) ∧
      ∀ j, j < 256 → elem 32 r.toNat j = if mask.getLsbD j then elem 32 v.toNat j else elem 32 (k.rv n).toNat j)) ∧
    (∀ mask v, p.eff = .wreg n mask v → Answers (.resultLand c) s (fun t => ∃ r : BitVec 256, lands t 4 (k.ww n r) ∧
      ∀ j, j < 256 → r.getLsbD j = if mask.getLsbD j then v.getLsbD j else (k.rw n).getLsbD j)) ∧
    (∀ fsel v, p.eff = .stream n fsel v → fsel ≤ 5 → Answers (.resultLand c) s (fun t => ∃ r : BitVec 128,
      Landed s t c (flagged (k.wa n r)) ∧
      let lo := if fsel = 5 then 105 else 21 * fsel
      let len := if fsel = 5 then 11 else 21
      fld r.toNat lo len = v.toNat % 2 ^ len ∧
      ∀ j, j < 128 → (j < lo ∨ lo + len ≤ j) → r.getLsbD j = (k.ra n).getLsbD j))) ∧
  (∀ (s : State) (c n : Nat) (p : Pending), DueAlone s c p → p.fw = true → p.gufl = false →
    let k := s.core c
    (∀ v, p.eff = .sreg n v → Answers (.resultLand c) s (fun t => Landed s t c { k with fw := k.fw.ws n v })) ∧
    (∀ v, p.eff = .qreg n v → Answers (.resultLand c) s (fun t => Landed s t c { k with fw := k.fw.wq n v })))

/-- R23, R44, R65, R166, R168, R169: what lands in a tile: a row group leaves the other rows and clears its own poison; `MZERO`
and `ASCAN` take the whole tile, `MCLRP` its poison alone; a step adds the rounded exact sum to each element as it stands
then, or replaces it, and an integer sum that leaves the range of its accumulator sets IOVF. A step one of whose reads met a
conflict changes no element and no flag. A tile written holds no ECC error any more (the model's choice, log entry 63); a step
that adds to one that has an error traps.

R151, R159, R171: the results of one operation land together, each in a register of its own: the elements and the scales of
a `QNT`, and the two tiles and the carry of an `ASCAN`, with GUFL where a composition flushed.

R28, R104, R131: what `SWR` writes when it lands: a 1 clears a flag of SSTAT, and the stack registers hold address bits
22:4 alone. -/
def Obligations.TileAndSystemLanding : Prop :=
  (∀ (s : State) (c n : Nat) (p : Pending), DueAlone s c p → p.fw = false →
    let k := s.core c
    let old := k.rm n
    let clean := k.badReg.filter (fun r => decide (r ≠ (5, n)))
    let flagged := fun (x : Core) => if p.gufl then x.setFlag 2 else x
    let lands := fun (t : State) (x : Core) => Landed s t c { flagged x with badReg := clean }
    (∀ rg v, p.eff = .rows n rg v → rg < 8 → Answers (.resultLand c) s (fun t => ∃ r : Tile, lands t (k.wm n r) ∧
      ∀ j, j < 2048 →
        elem 32 r.bits.toNat j = (if j / 256 = rg then elem 32 v.toNat (j % 256) else elem 32 old.bits.toNat j) ∧
        r.poison.getLsbD j = (old.poison.getLsbD j && decide (j / 256 ≠ rg)))) ∧
    (∀ x, p.eff = .tileSet n x → Answers (.resultLand c) s (fun t => lands t (k.wm n x))) ∧
    (p.eff = .tileClear n → Answers (.resultLand c) s (fun t => lands t (k.wm n { bits := old.bits, poison := 0 }))) ∧
    (∀ id zeroing r, p.eff = .step n id zeroing → sget none k.steps id = some r → r.a = none ∨ r.b = none →
      Answers (.resultLand c) s (fun t => Landed s t c { k with steps := sset none k.steps id none })) ∧
    (∀ id r, p.eff = .step n id false → sget none k.steps id = some r → r.a ≠ none → r.b ≠ none → (5, n) ∈ k.badReg →
      Answers (.resultLand c) s (fun t => (t.core c).spanTrap = true ∧ (t.core c).seq.stopFrom ≠ none)) ∧
    (∀ id zeroing r a b, p.eff = .step n id zeroing → sget none k.steps id = some r → r.a = some a → r.b = some b →
      p.gufl = false → zeroing = true ∨ (5, n) ∉ k.badReg →
      let sum := fun (i j : Nat) => exactDot ((operandRuns r.fmt 64 a.toNat r.scaleA).getD i [])
        ((operandRuns r.fmt 32 b.toNat r.scaleB).getD j [])
      let acc := fun (i j : Nat) => elem 32 old.bits.toNat (32 * i + j)
      let full := fun (i j : Nat) => (if zeroing then 0 else signedVal 32 (acc i j)) + intOf (sum i j)
      Answers (.resultLand c) s (fun t => ∃ x : Tile,
        (∀ i j, i < 64 → j < 32 →
          elem 32 x.bits.toNat (32 * i + j) =
            (if r.fmt ≤ 1 then (full i j % 2 ^ 32).toNat
             else if zeroing then roundF32 (sum i j) % 2 ^ 32
             else roundF32 (xadd 0 (widen 10 (acc i j)) (widen 10 (roundF32 (sum i j)))) % 2 ^ 32) ∧
          x.poison.getLsbD (32 * i + j) = (r.poison || (!zeroing && old.poison.getLsbD (32 * i + j)))) ∧
        ((r.fmt ≤ 1 ∧ ∃ i j, i < 64 ∧ j < 32 ∧ (full i j < -(2 ^ 31) ∨ 2 ^ 31 - 1 < full i j)) →
          Landed s t c { (k.wm n x).setFlag 1 with steps := sset none k.steps id none, badReg := clean }) ∧
        ((1 < r.fmt ∨ ∀ i j, i < 64 → j < 32 → -(2 ^ 31) ≤ full i j ∧ full i j ≤ 2 ^ 31 - 1) →
          Landed s t c { k.wm n x with steps := sset none k.steps id none, badReg := clean })))) ∧
  (∀ (s : State) (c n m t : Nat) (p q r : Pending) (v : VReg) (x : Word64) (g h : Tile) (y : BitVec 2080), Quiet s c →
    p.fw = false → q.fw = false → r.fw = false →
    let k := s.core c
    let due := k.pend.filter (fun x => decide (x.at_ ≤ s.gcount))
    let clean := fun (l : List (Nat × Nat)) => l.foldl (fun bad z => bad.filter (fun w => decide (w ≠ z))) k.badReg
    (due = [p, q] → p.gufl = false → q.gufl = false → p.eff = .vreg n (BitVec.allOnes 256) v → q.eff = .kreg m x →
      Answers (.resultLand c) s (fun u => Landed s u c { (k.wv n v).wk m x with badReg := clean [(2, n), (3, m)] })) ∧
    (due = [p, q, r] → p.eff = .tileSet t g → q.eff = .tileSet (t + 1) h → r.eff = .carry n y → p.gufl = q.gufl →
      q.gufl = r.gufl →
      let all := ((k.wm t g).wm (t + 1) h).wy n y
      Answers (.resultLand c) s (fun u => Landed s u c
        { (if p.gufl then all.setFlag 2 else all) with badReg := clean [(5, t), (5, t + 1), (6, n)] }))) ∧
  (∀ (s : State) (c : Nat) (p : Pending) (v : Word64), DueAlone s c p → p.fw = false → p.gufl = false →
    let k := s.core c
    let stack : Word64 := v &&& 0x7FFFF0
    (p.eff = .sysreg 0 v → Answers (.resultLand c) s (fun t => Landed s t c { k with sstat := k.sstat &&& ~~~v &&& 0xF })) ∧
    (p.eff = .sysreg 1 v → Answers (.resultLand c) s (fun t => Landed s t c { k with csp := stack })) ∧
    (p.eff = .sysreg 2 v → Answers (.resultLand c) s (fun t => Landed s t c { k with csbase := stack })) ∧
    (p.eff = .sysreg 3 v → Answers (.resultLand c) s (fun t => Landed s t c { k with slimit := stack })))

/-- R27, R28: of two writes of one register that land in one cycle, that of the slot first in the order MEM, PRM, MAT, VEC,
SCA, CTL takes effect, or of one slot the later issued, with its own lane mask and its own flag; the other is discarded in
every lane, sets no flag of its own, and WCONF is set. So for the registers of every file and for a tile. Writes of s0, q0 and
w0 take no part (R17). -/
def Obligations.SimultaneousWrites : Prop :=
  ∀ (s : State) (c n : Nat) (p q : Pending), Quiet s c →
    ((s.core c).pend.filter (fun x => decide (x.at_ ≤ s.gcount)) = [p, q] ∨
      (s.core c).pend.filter (fun x => decide (x.at_ ≤ s.gcount)) = [q, p]) →
    p.fw = false → q.fw = false →
    let k := s.core c
    let order := [Slot.mem, .prm, .mat, .vec, .sca, .ctl]
    let flagged := fun (x : Core) => (if p.gufl then x.setFlag 2 else x).setFlag 0
    let lands := fun (t : State) (file : Nat) (x : Core) =>
      Landed s t c { flagged x with badReg := k.badReg.filter (fun r => decide (r ≠ (file, n))) }
    let wins := fun (file : Nat) (x : Core) => Answers (.resultLand c) s (fun t => lands t file x)
    (order.idxOf p.slot < order.idxOf q.slot ∨ (p.slot = q.slot ∧ q.issued < p.issued)) →
    (∀ v w, p.eff = .sreg n v → q.eff = .sreg n w → n ≠ 0 → wins 0 (k.ws n v)) ∧
    (∀ v w, p.eff = .qreg n v → q.eff = .qreg n w → n ≠ 0 → wins 1 (k.wq n v)) ∧
    (∀ v w, p.eff = .kreg n v → q.eff = .kreg n w → wins 3 (k.wk n v)) ∧
    (∀ v w, p.eff = .carry n v → q.eff = .carry n w → wins 6 (k.wy n v)) ∧
    (∀ mask v any w, p.eff = .vreg n mask v → q.eff = .vreg n any w → Answers (.resultLand c) s (fun t => ∃ r : VReg,
      lands t 2 (k.wv n r) ∧
      ∀ j, j < 256 → elem 32 r.toNat j = if mask.getLsbD j then elem 32 v.toNat j else elem 32 (k.rv n).toNat j)) ∧
    (∀ mask v any w, p.eff = .wreg n mask v → q.eff = .wreg n any w → n ≠ 0 → Answers (.resultLand c) s (fun t =>
      ∃ r : BitVec 256, lands t 4 (k.ww n r) ∧
      ∀ j, j < 256 → r.getLsbD j = if mask.getLsbD j then v.getLsbD j else (k.rw n).getLsbD j)) ∧
    (∀ x, p.eff = .tileSet n x →
      (q.eff = .tileClear n ∨ (∃ y, q.eff = .tileSet n y) ∨ (∃ rg v, q.eff = .rows n rg v) → wins 5 (k.wm n x)) ∧
      (∀ id zeroing r, q.eff = .step n id zeroing → sget none k.steps id = some r → r.a ≠ none → r.b ≠ none →
        wins 5 { k.wm n x with steps := sset none k.steps id none })) ∧
    (p.eff = .tileClear n → (∃ y, q.eff = .tileSet n y) ∨ (∃ rg v, q.eff = .rows n rg v) →
      wins 5 (k.wm n { k.rm n with poison := 0 })) ∧
    (p.gufl = false → q.gufl = false → ∀ v w, p.eff = .sreg 0 v → q.eff = .sreg 0 w →
      Answers (.resultLand c) s (fun t => Landed s t c { k with badReg := k.badReg.filter (fun r => decide (r ≠ (0, 0))) }))

/-- R199, R200: a post that takes effect adds its count to the barrier, sets the posted mark and, when the count comes to
zero, completes the phase; the barrier's new state is seen from the next cycle on. -/
def Obligations.BarrierPost : Prop :=
  ∀ (s : State) (c b n : Nat) (p : Pending), DueAlone s c p → p.gufl = false → p.eff = .post b n →
    let old := (s.core c).rb b
    Answers (.resultLand c) s (fun t =>
      let new := (t.core c).rb b
      OnlyCore s t c ∧ Adds s t [{ at_ := s.gcount + 1, instr := .resultLand c }] ∧
      (∀ m, m ≠ b → (t.core c).rb m = (s.core c).rb m) ∧
      new.at_ = s.gcount ∧ new.post = true ∧ new.delta = old.delta + n ∧
      let after := new.settled
      after.count = old.count + BitVec.ofInt 48 (old.delta + n) ∧
      (after.count = 0 → after.phase = !old.phase ∧ after.posted = false ∧ after.doneAt = some s.gcount) ∧
      (after.count ≠ 0 → after.phase = old.phase ∧ after.posted = true ∧ after.doneAt = old.doneAt))

/-! The sequencer, the firmware contexts and traps. -/

/-- R71, R97, R98, R238 to R240: a compute context issues the bundle of its position in its due cycle, and in no other. A legal
bundle without a slot fault commits: its six operations are the next to run, CTL last. A restart mark shadows its sequencer
as the issue leaves it, its streams, carries, barriers and pours (R243; that no stop of the time outlives it is the model's
choice, log entries 12 and 62). An uncorrectable register error that the bundle's reads meet traps and undoes nothing. A
recorded fault raises its trap in place of the bundle, at the position of the problem also where execution enters beyond it
(the model's reading, log entry 61), and an illegal operation the illegal-encoding trap, whose mask names its slot; nothing of
the bundle commits then.

R92, R94, R96, R98, R99, R295: the code prefetch engine reads one line when its bank is served: the bytes up to the line's end
join those of the segment being expanded, zeros with the stale-read event where the line's row group is stale, and while the
segment is not complete another read follows; where the page does not translate, or the line is in uncorrectable error,
expansion ends with the record of a fetch fault, and where its tag fails with the integrity trap. No tag of a page-table entry
read on the way fails here (R299). -/
def Obligations.BundleIssue : Prop :=
  (∀ (s : State) (c : Nat) (b : Bundle),
    let k := s.core c
    let x := k.half k.seq.half
    let ready := k.seq.due = s.gcount ∧ k.issues = true ∧ k.unheld = true ∧ k.barred s.gcount = false
    let sound := k.seq.bad = none ∧ x.rec_ = none ∧ x.bundles[k.seq.pos]? = some b ∧ (s.heat (s.partOf c)).cutK = none
    let legal := fun (sl : Slot) (i : Instr) =>
      decodeSyl sl (syl b sl) = some i ∧ i.legalCompute = true ∧ k.namesOk i = true
    let s1 : State := { s with cur := { core := c, fw := false, pos := k.seq.pos, seg := x.hdr } }
    (¬ready → exec (.bundleIssue c) s = .next s) ∧
    (∀ r, ready → (k.seq.bad = some r ∨ (k.seq.bad = none ∧ x.rec_ = some r ∧ r.pos ≤ k.seq.pos)) →
      let why : TrapInfo := ⟨if r.token then 2 else 3, r.cause, 0, some (r.pos, r.hdr), r.va % 2 ^ 64 + r.off % 2 ^ 16 * 2 ^ 64⟩
      exec (.bundleIssue c) s = .next (s.issueTrap c why)) ∧
    (∀ h i0 i1 i2 i3 i4 i5, ready → sound → decodeHeader b = some h → legal .sca i0 → legal .vec i1 →
      legal .mat i2 → legal .prm i3 → legal .mem i4 → legal .ctl i5 →
      (∀ i, i ∈ [i0, i1, i2, i3, i4, i5] → s1.slotFault c i = none) →
      let ops := [i0, i1, i2, i3, i4, i5]
      let q : Seq := { k.seq with lastIssue := some s.gcount, resumed := false, parted := k.seq.parted || h.part,
                                  lastCut := if h.part then effectiveCut h.cut k.seq.loops else k.seq.lastCut }
      let heat := s.heat (s.partOf c)
      let mark : Shadow :=
        { heat := heat.origin, seq := { q with stopFrom := none, stopLine := none }, a := k.a,
          sched := (s.gcount : Int) - heat.origin - heat.sigma, sigma := heat.sigma, segHdr := x.hdr, y := k.y,
          bar := k.bar.map (fun b => (b.1, b.2.settled)),
          pours := k.runs.filter (fun r => decide (r.start ≤ s.gcount) && !r.closed) }
      let issued : Core := { k with seq := q, shadow := if h.restart then some mark else k.shadow }
      (s1.regError c b = none → Answers (.bundleIssue c) s (fun t =>
        t.slots = ops ∧ t.issuing = some c ∧ t.cur = s1.cur ∧ t.core c = issued ∧ (∀ d, d ≠ c → t.core d = s.core d) ∧
        { t with cores := s.cores, slots := s.slots, issuing := s.issuing, cur := s.cur } = s)) ∧
      (∀ n, s1.regError c b = some n → exec (.bundleIssue c) s =
        .next { (s1.setCore c issued).raiseTrap c ⟨8, 1, 0, some (k.seq.pos, x.hdr), n⟩ with
                  cur := s1.cur, slots := ops, issuing := some c })) ∧
    (∀ h sl, ready → sound → decodeHeader b = some h → (∀ i, ¬legal sl i) → ∃ t : TrapInfo,
      exec (.bundleIssue c) s = .next (s1.issueTrap c t) ∧ t.cls = 1 ∧ t.cause = 0 ∧ t.bundle = some (k.seq.pos, x.hdr) ∧
      t.fmask.testBit (slotBit sl) = true)) ∧
  (∀ (s : State) (c : Nat),
    let k := s.core c
    let other := !k.seq.half
    let x := k.half other
    let va := x.hdr + x.bytes.length
    let e := expandSegment k.dictAt x.hdr x.bytes
    let sound := s.walkMeets (s.partOf c) va = s
    let reads := fun (pa : Nat) => sound ∧ x.busy = true ∧ s.translate (s.partOf c) va false = some pa ∧ s.served pa = true
    let records := fun (cause failing : Nat) => Answers (.codeLineFetch c) s (fun t =>
      let r : ExpRecord := ⟨false, e.bundles.length, cause, x.hdr, e.off, failing⟩
      t.core c = k.setHalf other { x with bundles := e.bundles, busy := false, endOff := e.off, rec_ := some r } ∧
      OnlyCore s t c ∧ t.agenda = s.agenda)
    (x.busy = false → exec (.codeLineFetch c) s = .next s) ∧
    (∀ pa, x.busy = true → s.translate (s.partOf c) va false = some pa → s.served pa = false →
      Answers (.codeLineFetch c) s (fun t => Adds s t [{ at_ := s.gcount + 1, instr := .codeLineFetch c }] ∧
        { t with agenda := s.agenda } = s)) ∧
    (∀ pa, reads pa → s.paStale pa = false → s.tagGood (pa / 64) = true → s.lineBad (pa / 64) = false →
      let y := ({ x with bytes := x.bytes ++ s.hbmLoad pa (64 - va % 64) } : Half).expanded k.dictAt
      Answers (.codeLineFetch c) s (fun t => t.core c = k.setHalf other y ∧ (∀ d, d ≠ c → t.core d = s.core d) ∧
        (y.busy = true → Sometime s t 1 (.codeLineFetch c)) ∧ (y.busy = false → t.agenda = s.agenda) ∧
        { t with cores := s.cores, agenda := s.agenda, choice := s.choice } = s)) ∧
    (∀ pa, reads pa → s.paStale pa = true → pa % 64 = va % 64 →
      let y := ({ x with bytes := x.bytes ++ List.replicate (64 - va % 64) 0 } : Half).expanded k.dictAt
      Answers (.codeLineFetch c) s (fun t => (t.core c).half other = y ∧ t.hbm = s.hbm ∧
        (t.core (64 * (paChannel pa / 96))).fw.fpend.getLsbD 2 = true ∧
        (y.busy = true → ∃ n, s.gcount + 1 ≤ n ∧ ({ at_ := n, instr := .codeLineFetch c } : Event) ∈ t.agenda))) ∧
    (∀ pa, reads pa → s.paStale pa = false → s.tagGood (pa / 64) = false → exec (.codeLineFetch c) s =
      .next ((s.setCore c (k.setHalf other { x with busy := false })).raiseTrap c ⟨9, 2, 0, none, va / 64 * 64⟩)) ∧
    (∀ pa, reads pa → s.paStale pa = false → s.tagGood (pa / 64) = true → s.lineBad (pa / 64) = true →
      records 2 (max (va / 64 * 64) (x.hdr + e.off))) ∧
    (x.busy = true → sound → s.translate (s.partOf c) va false = none → records 1 va))

/-- R117 to R119, R195, R202, R214: a wait ends as its rule says and its core's next bundle is due GAP cycles on, unless
another hold is left, or K stands and that bundle is the core's stop point (R248: the core has then stopped, log entry 22): `WAITD`
at its deadline, or there the timing trap while its phase is incomplete, also in a core that stops at the line it holds
back, `WAITA` once its
phase is complete, `ALIGN` at its point, in the static domain again, a `CFENCE` once every earlier command of its scope has
executed, a `FENCE` once every access before it has performed. A core's first bundle is due GAP cycles after its start. -/
def Obligations.WaitReleases : Prop :=
  ∀ (s : State) (c : Nat),
    let k := s.core c
    let due := s.gcount + k.nextGap
    let h := s.heat (s.partOf c)
    let stops := fun (next : Option Nat) => h.cutK.isSome = true ∧ h.phase = .stopping ∧ ∃ d, next = some d ∧ StopPoint h k d
    let goesOn := fun (i : Instr) (held : Bool) (next : Option Nat) (q : Seq) => Answers i s (fun t =>
      let q1 : Seq := if held then q else { q with due := due }
      (¬stops next → OnlyCore s t c ∧ t.core c = { k with seq := q1 } ∧
        Adds s t (if held then [] else [{ at_ := due, instr := .bundleIssue c }])) ∧
      (stops next → { t with cores := s.cores, heats := s.heats, agenda := s.agenda } = s ∧
        (∀ d, d ≠ c → t.core d = s.core d) ∧ (∀ x, x ∈ s.agenda → x ∈ t.agenda) ∧
        t.core c = { k with seq := stoppedSeq q1 (next.getD 0) }))
    let nextMem : Option Nat := match k.seq.hold with
      | .none => some due
      | .waitd _ _ d _ _ => some (d + k.nextGap)
      | .align p => some (p + k.nextGap)
      | _ => none
    let nextCtl : Option Nat := if k.seq.memHold = Hold.none then some due else none
    let ctl := decide (k.seq.hold ≠ Hold.none)
    let mem := decide (k.seq.memHold ≠ Hold.none)
    (∀ b pos seg, k.issues = true → k.seq.hold = .waitd b none s.gcount pos seg →
      goesOn (.waitdDeadline c) mem nextCtl { k.seq with hold := .none }) ∧
    (∀ b w pos seg, k.issues = true ∨ (k.seq.dom = .stopped ∧ k.seq.stopLine ≠ none ∧ s.gcount ≤ k.seq.stopAt) →
      k.seq.hold = .waitd b (some w) s.gcount pos seg →
      let why : TrapInfo := ⟨5, 5, 0, some (pos, seg), cycle64 (s.heatCycle c) + b * 2 ^ 64⟩
      exec (.waitdDeadline c) s = .next (s.raiseTrap c why)) ∧
    (∀ b, k.issues = true → k.seq.hold = .waita b none → goesOn (.waitaRelease c) mem nextCtl { k.seq with hold := .none }) ∧
    (k.issues = true → k.seq.hold = .align s.gcount →
      goesOn (.alignPointReached c) mem nextCtl { k.seq with hold := .none, dom := .static, dynSince := none }) ∧
    (∀ issue scope word, k.issues = true → k.seq.memHold = .cfence issue scope word → issue + 3 ≤ s.gcount →
      (scope < 2 → word ≠ none) →
      (∀ x, x ∈ k.cruc → x.issue < issue → inScope scope word x.pa = true → ∃ f, x.fin = some f ∧ f < s.gcount) →
      goesOn (.cfenceRelease c) ctl nextMem { k.seq with memHold := .none }) ∧
    (∀ issue sys, k.issues = true → k.seq.memHold = .fence issue sys → k.fenceMet issue sys = true →
      goesOn (.fenceRelease c false) ctl nextMem { k.seq with memHold := .none }) ∧
    (k.task = true → k.started = false → k.seq.dom = .notStarted → k.startAt = s.gcount →
      h.phase = .running → k.half0.busy = false → k.half0.bundles ≠ [] → k.half0.rec_ = none →
      let gap := ((k.half0.bundles[0]?).map gapOf).getD 0
      Answers (.taskStart c) s (fun t =>
        t.core c = { k with started := true, seq := { k.seq with dom := .static, half := false, pos := 0, bad := none,
                                                                 due := s.gcount + gap } } ∧
        Adds s t [{ at_ := s.gcount + gap, instr := .bundleIssue c }] ∧ OnlyCore s t c))

/-- R323 to R326, R350: a firmware context issues its bundle in a cycle in which the compute context issued nothing and its
share is not used up, else it tries again; an illegal bundle, or one with a nonzero header, is a fault of the context, as is a
position beyond its code; their classes and details are those of a compute context's (the model's choice, log entry 27). It
takes the lowest cause that is pending and enabled: FEPC holds its position, FCAUSE the cause and FIN, and issue goes on at
FVEC. -/
def Obligations.FirmwareIssue : Prop :=
  ∀ (s : State) (c : Nat),
    let k := s.core c
    let f := k.fw
    let b := f.bundleAt f.pos
    let legal := fun (sl : Slot) (i : Instr) => decodeSyl sl (syl b sl) = some i ∧ i.legalFirmware = true
    let used := if f.window = s.gcount / 256 then f.issuedIn else 0
    let ready := f.mode = .running ∧ f.due = s.gcount ∧ s.mgmt.inReset = false
    let free := k.seq.lastIssue ≠ some s.gcount ∧ used < f.fshare
    let later := fun (n : Nat) => Answers (.firmwareBundleIssue c) s (fun t => t.core c = { k with fw := { f with due := n } } ∧
      AddsOrWakes s t c [{ at_ := n, instr := .firmwareBundleIssue c }] ∧ OnlyCore s t c)
    let causes := f.fpend &&& (f.fenable ||| 0b0010000#7)
    (¬ready → exec (.firmwareBundleIssue c) s = .next s) ∧
    (ready → k.seq.lastIssue = some s.gcount → later (s.gcount + 1)) ∧
    (ready → k.seq.lastIssue ≠ some s.gcount → f.fshare ≤ used → later ((s.gcount / 256 + 1) * 256)) ∧
    (∀ i0 i1 i2 i3 i4 i5, ready → free → f.away = none → f.pos < 682 → f.badI.contains f.pos = false →
      legal .sca i0 → legal .vec i1 → legal .mat i2 → legal .prm i3 → legal .mem i4 → legal .ctl i5 →
      (fld b.toNat 0 32 ≠ 0 → exec (.firmwareBundleIssue c) s =
        .next (s.fwFault c ⟨1, 0, 0, some (f.pos, 0), fld b.toNat 0 32⟩)) ∧
      (fld b.toNat 0 32 = 0 → Answers (.firmwareBundleIssue c) s (fun t =>
        t.slots = [i0, i1, i2, i3, i4, i5] ∧ t.issuing = some c ∧ t.cur = { core := c, fw := true, pos := f.pos, seg := 0 } ∧
        t.core c = { k with fw := { f with window := s.gcount / 256, issuedIn := used + 1 } } ∧
        (∀ d, d ≠ c → t.core d = s.core d) ∧
        { t with cores := s.cores, slots := s.slots, issuing := s.issuing, cur := s.cur } = s))) ∧
    (∀ sl, ready → free → f.away = none → f.pos < 682 → f.badI.contains f.pos = false → (∀ i, ¬legal sl i) → ∃ w : Nat,
      exec (.firmwareBundleIssue c) s = .next (s.fwFault c ⟨1, 0, 0, some (f.pos, 0), w⟩)) ∧
    (ready → free → f.away = none → f.pos < 682 → f.badI.contains f.pos = true →
      exec (.firmwareBundleIssue c) s = .next (s.fwFault c ⟨8, 5, 0, some (f.pos, 0), 48 * f.pos⟩)) ∧
    (∀ v, ready → free → f.away = some v →
      exec (.firmwareBundleIssue c) s = .next (s.fwFault c ⟨3, 6, 0, some (f.pos, 0), v.toNat⟩)) ∧
    (ready → free → f.away = none → 682 ≤ f.pos →
      exec (.firmwareBundleIssue c) s = .next (s.fwFault c ⟨3, 6, 0, some (f.pos, 0), f.pos % 2 ^ 64⟩)) ∧
    (∀ n, s.mgmt.inReset = false → free → f.fcause.getLsbD 8 = false → f.branch = none → f.mem = none → n < 7 →
      causes.getLsbD n = true → (∀ m, m < n → causes.getLsbD m = false) →
      let taken : FwCtx := { f with fepc := f.away.getD (BitVec.ofNat 64 f.pos), fcause := BitVec.ofNat 64 (n + 0x100),
                                    pos := f.fvec.toNat, away := none, mode := .running, due := s.gcount }
      (f.mode = .running → f.due = s.gcount → Answers (.firmwareCauseTaken c) s (fun t =>
        t.core c = { k with fw := taken } ∧ OnlyCore s t c ∧ t.agenda = s.agenda)) ∧
      (f.mode = .chilled → f.due ≤ s.gcount → Answers (.firmwareCauseTaken c) s (fun t =>
        t.core c = { k with fw := taken } ∧ OnlyCore s t c ∧
        Adds s t [{ at_ := s.gcount, instr := .firmwareBundleIssue c }]))) ∧
    (f.takeable = 0 ∨ f.fin = true → exec (.firmwareCauseTaken c) s = .next s)

/-- R176, R202, R203, R327: a MEM operation of a firmware context on its data memory completes: a load writes the aligned word
(that the low address bits are ignored is the model's choice, log entry 25) to its register, a store the word into memory
below 0x7F48, and the block instructions their answers into their blocks; the next bundle is due in the next cycle. A fence
lets the next bundle issue in the cycle it is looked at. -/
def Obligations.FirmwareAccess : Prop :=
  ∀ (s : State) (c : Nat) (m : FwMem) (g : Gate) (r : SReg) (sa : StreamReg), (s.core c).fw.mem = some m →
    (s.core c).fw.mode = .waiting → m.addr.getLsbD 63 = false → (s.core c).fw.badD = [] →
    let k := s.core c
    let f := k.fw
    let a := m.addr.toNat % 2 ^ 15 / 8 * 8
    let b := m.addr.toNat % 2 ^ 15 / 32 * 32
    let word := fun (d : Memory) (x : Nat) => natOf ((List.range 8).map (fun i => d.read (x + i)))
    let w := fun (i : Nat) => word f.dmem (b + 8 * i)
    let on := fun (f : FwCtx) (n : Nat) => ({ f with mem := none, mode := .running, due := n } : FwCtx)
    let ends := fun (t : State) (n : Nat) (x : FwCtx) => t.core c = { k with fw := on x n } ∧
      (∀ d, d ≠ c → t.core d = s.core d) ∧ AddsOrWakes s t c [{ at_ := n, instr := .firmwareBundleIssue c }]
    let frame := fun (t : State) => { t with cores := s.cores, agenda := s.agenda } = s
    let answers := fun (n v : Nat) (t : State) => ∃ d : Memory, ends t (s.gcount + 1) { f with dmem := d } ∧
      (b < 0x7F40 → word d (b + 8 * n) = v % 2 ^ 64) ∧ ∀ x, (x < b + 8 * n ∨ b + 8 * n + 8 ≤ x) → d.read x = f.dmem.read x
    let done := fun (P : State → Prop) => Answers (.firmwareAccessComplete c) s P
    (m.instr = .sld g r sa → done (fun t => ends t (s.gcount + 1) (f.ws r.toNat (BitVec.ofNat 64 (word f.dmem a))) ∧ frame t)) ∧
    (m.instr = .sst g r sa → done (fun t => frame t ∧ ∃ d : Memory, ends t (s.gcount + 1) { f with dmem := d } ∧
      (a < 0x7F48 → word d a = m.value.toNat) ∧ ∀ x, (x < a ∨ a + 8 ≤ x) → d.read x = f.dmem.read x)) ∧
    (m.instr = .qrd g sa → 2048 ≤ w 0 → done (fun t => answers 2 2 t ∧ frame t)) ∧
    (m.instr = .qrd g sa → w 0 < 2048 → (s.queue (w 0)).head = (s.queue (w 0)).tail →
      done (fun t => answers 2 1 t ∧ frame t)) ∧
    (m.instr = .kscan g sa → (∀ i, i ∈ s.fe.kick → i < w 0) → done (fun t => answers 1 (2 ^ 64 - 1) t ∧ frame t)) ∧
    (∀ l i rest, m.instr = .kscan g sa → s.fe.kick = l ++ i :: rest → (∀ j, j ∈ l → j < w 0) → w 0 ≤ i →
      done (fun t => answers 1 i t ∧ frame t)) ∧
    (m.instr = .kclr g sa → 2048 ≤ w 0 → done (fun t => answers 1 2 t ∧ frame t)) ∧
    (m.instr = .kclr g sa → w 0 < 2048 → done (fun t =>
      answers 1 (if w 0 ∈ s.fe.kick then 1 else 0) t ∧ w 0 ∉ t.fe.kick ∧ (∀ q, q ≠ w 0 → (q ∈ t.fe.kick ↔ q ∈ s.fe.kick)) ∧
      { t with cores := s.cores, agenda := s.agenda, fe := s.fe } = s ∧ { t.fe with kick := s.fe.kick } = s.fe)) ∧
    (m.instr = .japp g sa → (w 1 < 16 ∨ 256 < w 1 ∨ w 1 % 16 ≠ 0) → done (fun t => answers 2 (2 ^ 64 - 1) t ∧ frame t)) ∧
    (∀ scope, m.instr = .fence g scope → Answers (.fenceRelease c true) s (fun t => ends t s.gcount f ∧ frame t))

/-- R238 to R242, R326: taking a trap. While a heat runs, or stops for a cut, the first trap fixes the stop cycle 64 cycles on
and quiescence 512 after it, and gives up a cut, also in the cores that drain for it (that a loop's lowered count stays is
the model's choice, log entry 62); a later trap leaves them. A class-9 trap ends the heat with status 2, in every phase, and
where none is current the one parked last (log entry 34). A core that keeps no record of its span yet writes the record of 64 bytes at 0x7F00 of its firmware data memory and sets the
cause TRAP pending there; a core that has one keeps it. A trap at issue stops its core at once, one of committed work from
the next cycle on. -/
def Obligations.TakingATrap : Prop :=
  ∀ (s : State) (c : Nat) (t : TrapInfo),
    let k := s.core c
    let p := s.partOf c
    let h := s.heat p
    let S := s.gcount + 64
    let u := s.takeTrap c t
    let first := h.phase = .running ∨ (h.phase = .stopping ∧ h.byTrap = false)
    let where_ := t.bundle.getD (0xFFFF, 0)
    let now : Int := (s.gcount : Int) - h.origin
    let status := if t.cls = 9 then some 2 else h.endStatus
    let dynamic := (∃ n, k.seq.dynSince = some n ∧ n ≤ s.gcount) ∧ k.seq.dom ≠ .halted ∧
      ∀ n, k.seq.hold = .align n → s.gcount < n
    let record := fun (stop : Int) (dyn : Nat) => cycle64 now + cycle64 stop * 2 ^ 64 + where_.2 % 2 ^ 64 * 2 ^ 128 +
      where_.1 % 2 ^ 16 * 2 ^ 192 + t.cls % 256 * 2 ^ 208 + t.cause % 256 * 2 ^ 216 + t.fmask % 128 * 2 ^ 224 +
      dyn * 2 ^ 231 + c % 256 * 2 ^ 232 + t.detail % 2 ^ 256 * 2 ^ 256
    (first → u.heat p = { h with phase := .stopping, stopS := some S, quiet := some (S + 512), byTrap := true, trapCores := [c],
                                 stopReq := none, cutK := none, endStatus := status } ∧
      ({ at_ := S, instr := .stopCycle p } : Event) ∈ u.agenda ∧
      ({ at_ := S + 512, instr := .quiescence p } : Event) ∈ u.agenda) ∧
    (h.phase = .stopping → h.byTrap = true → u.heat p =
      { h with trapCores := if h.stopS = some S then h.trapCores ++ [c] else h.trapCores, endStatus := status }) ∧
    (h.phase = .arming ∨ h.phase = .armed ∨ h.phase = .trapped ∨ h.phase = .atCut →
      u.heat p = { h with endStatus := status } ∧
      (t.cls = 9 → ({ at_ := s.gcount, instr := .heatCompletion p } : Event) ∈ u.agenda)) ∧
    (h.phase = .none ∨ h.phase = .ended → u.heat p = h) ∧
    (t.cls ≠ 9 ∨ (h.phase ≠ .none ∧ h.phase ≠ .ended) ∨ (∀ x, x ∈ s.parked → x.1 ≠ p) → u.parked = s.parked) ∧
    (∀ a y b, t.cls = 9 → h.phase = .none ∨ h.phase = .ended → s.parked = a ++ (p, y) :: b → (∀ z, z ∈ a → z.1 ≠ p) →
      (p, y) ∉ b → u.parked = a ++ (p, { y with endStatus := some 2 }) :: b ∧
        ({ at_ := s.gcount, instr := .heatCompletion p } : Event) ∈ u.agenda) ∧
    (∀ stop dyn, (first → stop = (S : Int) - h.origin) → (¬first → ∀ x, h.stopS = some x → stop = (x : Int) - h.origin) →
      (¬first → h.stopS = none → stop = now + 64) → (dynamic → dyn = 1) → (¬dynamic → dyn = 0) → k.spanTrap = false →
      (u.core c).spanTrap = true ∧ (u.core c).fw.fpend = k.fw.fpend ||| 0b0000010#7 ∧
      (∀ i, i < 64 → ((u.core c).fw.dmem.read (0x7F00 + i)).toNat = elem 8 (record stop dyn) i) ∧
      ∀ x, (x < 0x7F00 ∨ 0x7F40 ≤ x) → (u.core c).fw.dmem.read x = k.fw.dmem.read x) ∧
    (k.spanTrap = true → (u.core c).fw = k.fw) ∧
    (∀ d, { u.core d with fw := (s.core d).fw, spanTrap := (s.core d).spanTrap,
                          seq := { (u.core d).seq with stopLine := (s.core d).seq.stopLine } } = s.core d ∧
      (d ≠ c → (u.core d).fw = (s.core d).fw ∧ (u.core d).spanTrap = (s.core d).spanTrap) ∧
      (first → d ∈ h.cores → (s.core d).seq.dom ≠ .stopped → (u.core d).seq.stopLine = none) ∧
      (¬first ∨ d ∉ h.cores ∨ (s.core d).seq.dom = .stopped → (u.core d).seq.stopLine = (s.core d).seq.stopLine)) ∧
    (∀ q, q ≠ p → u.heat q = s.heat q) ∧ (∀ x, x ∈ s.agenda → x ∈ u.agenda) ∧ u.hbm = s.hbm ∧ u.gcount = s.gcount ∧
    (s.issueTrap c t).core c = (u.core c).stopIssue ∧
    ((u.core c).stopIssue.seq.dom = .stopped ∨ (u.core c).stopIssue.seq.dom = .halted) ∧
    (k.seq.stopFrom = none → ((s.raiseTrap c t).core c).seq.stopFrom = some (s.gcount + 1))

/-! The channels and the heats. -/

/-- R283, R285, R287 to R289: the rules under which a channel issues a command: the least distances from the commands before it,
and the states of its bank. The RULE that a breach is reported under is the lowest of those the command breaks, each with the
earlier command it counts from. A command of a running timeline that breaks one in its cycle is not issued: the timeline
violation is raised at core 0 of the die that owns the channel, and the timeline goes on. Rule 14 is read literally, and it
counts from a refresh that a `REFPB` made (log entry 64). -/
def Obligations.TimelineRules : Prop :=
  ∀ (x : Channel) (bank row arg t : Nat),
    let b := x.getBank bank
    let after := fun (o : Option Nat) (d : Nat) => ∀ f, o = some f → f + d ≤ t
    let acts := if bank < 16 then x.acts0 else x.acts1
    let lastRd := if bank < 16 then x.rd0 else x.rd1
    let lastWr := if bank < 16 then x.wr0 else x.wr1
    let inside := fun (b : Bank) => ∃ a l, b.window = some (a, l) ∧ t ≤ l
    let given := fun (b : Bank) => ∃ l, b.lent = some l ∧ t ≤ l
    let free := after b.ref 400 ∧ ¬inside b ∧ ¬given b
    let early := fun (prior o : Option Nat) (d : Nat) => ∃ f, o = some f ∧ prior = some f ∧ t < f + d
    let column := fun (f : Nat) => lastRd = some f ∨ lastWr = some f
    let breaks := fun (op rule : Nat) (prior : Option Nat) => match rule with
      | 1 => op = 2 ∧ early prior b.act 35
      | 2 => op = 3 ∧ early prior b.act 25
      | 3 => op = 4 ∧ early prior b.act 83
      | 4 => op ∈ [1, 5, 6] ∧ early prior b.pre 35
      | 5 => op = 1 ∧ early prior b.act 118
      | 6 => op = 1 ∧ early prior acts[0]? 5
      | 7 => op = 1 ∧ early prior acts[3]? 40
      | 8 => op ∈ [2, 3] ∧ ∃ f, column f ∧ (∀ f', column f' → f' ≤ f) ∧ prior = some f ∧ t < f + 3
      | 9 => op = 4 ∧ early prior b.rd 10
      | 10 => op = 4 ∧ early prior b.wr 40
      | 11 => op = 2 ∧ early prior lastWr 20
      | 12 => op = 3 ∧ early prior lastRd 8
      | 13 => op ∈ [1, 2, 3, 4, 5, 6] ∧ early prior b.ref 400
      | 14 => op = 5 ∧ early prior (sget none x.refAt (8192 * bank + arg % 8192)) 80000000
      | 16 => prior = none ∧ op ∈ [2, 3] ∧ ¬inside b ∧ b.row ≠ some row
      | 17 => prior = none ∧ op ∈ [1, 5, 6] ∧ b.row ≠ none
      | 18 => prior = none ∧ op ∈ [1, 2, 3, 4, 5, 6, 7] ∧ ∃ n, (if op = 7 then n < 32 ∧ arg.testBit n = true else n = bank) ∧
          ((inside (x.getBank n) ∧ op ≠ 2) ∨ given (x.getBank n))
      | 20 => prior = none ∧ op = 3 ∧ x.stale.contains (8192 * bank + row / 8) = true
      | _ => False
    (∀ op rule prior, ruleBroken x op bank row arg t = some (rule, prior) ↔
      breaks op rule prior ∧ ∀ r o, r < rule → ¬breaks op r o) ∧
    (ruleBroken x 1 bank row arg t = none ↔ after b.pre 35 ∧ after b.act 118 ∧ after acts[0]? 5 ∧ after acts[3]? 40 ∧
      b.row = none ∧ free) ∧
    (ruleBroken x 2 bank row arg t = none ↔ after b.act 35 ∧ after lastRd 3 ∧ after lastWr 20 ∧
      (¬inside b → b.row = some row) ∧ after b.ref 400 ∧ ¬given b) ∧
    (ruleBroken x 3 bank row arg t = none ↔ after b.act 25 ∧ after lastRd 8 ∧ after lastWr 3 ∧ b.row = some row ∧
      x.stale.contains (8192 * bank + row / 8) = false ∧ free) ∧
    (ruleBroken x 4 bank row arg t = none ↔ after b.act 83 ∧ after b.rd 10 ∧ after b.wr 40 ∧ free) ∧
    (ruleBroken x 5 bank row arg t = none ↔ after b.pre 35 ∧ b.row = none ∧ free ∧
      after (sget none x.refAt (8192 * bank + arg % 8192)) 80000000) ∧
    (ruleBroken x 6 bank row arg t = none ↔ after b.pre 35 ∧ b.row = none ∧ free) ∧
    (ruleBroken x 7 bank row arg t = none ↔
      ∀ n, n < 32 → arg.testBit n = true → ¬inside (x.getBank n) ∧ ¬given (x.getBank n)) ∧
    (∀ (s : State) (ch i : Nat) (e : BitVec 128) (tl : Timeline) (ins : Instr) (rule : Nat) (prior : Option Nat),
      let h := s.heat (s.chanPart ch)
      s.chan ch = x → s.gcount = t → h.timeline ch = some tl → tl.entries[i]? = some e → fld e.toNat 43 5 = bank →
      fld e.toNat 48 16 = row → fld e.toNat 0 32 = arg → h.origin + fld e.toNat 88 40 + h.sigma = t →
      (h.phase = .running ∨ (h.phase = .stopping ∧ h.quiet ≠ some t)) →
      entryInstr ch i e.toNat = some ins → ruleBroken x (fld e.toNat 84 4) bank row arg t = some (rule, prior) →
      ∃ (s1 : State) (d : Nat), exec ins s = .next (s1.raiseTrap (64 * (ch / 96)) ⟨6, 1, 0, none, d⟩) ∧
        { s1 with agenda := s.agenda } = s ∧ (∀ y, y ∈ s.agenda → y ∈ s1.agenda) ∧
        fld d 0 64 = cycle64 ((t : Int) - h.origin) ∧ fld d 96 32 = i % 2 ^ 32 ∧ fld d 151 9 = ch % 512 ∧ fld d 160 8 = rule ∧
        fld d 168 40 = (match prior with | some f => wrapInt 40 ((f : Int) - h.origin) | none => 0))

/-- R239, R242, R283, R286, R288, R290, R292 to R296, R299: what a channel does when it issues a command of a running timeline
in its cycle without breaking a rule, and the timeline's next command is placed: rows opened and closed; the 64 bytes of a
sound line sent to the core's engine, which has them 40 or 80 cycles later; the bytes the engine sent in time written; a row
group's deadline moved, with zeros first where asked; a bank's window; a slot that lends its banks, and lets a host AtomicOp
that waits for one of them execute (R233). A read of a stale row brings zeros under the STALE flag with an event; one of a
bad line brings its bytes and raises class 9 or 8. At the quiescent cycle of a stop the timeline pauses. -/
def Obligations.ChannelCommands : Prop :=
  ∀ (s : State) (ch i : Nat) (e0 : BitVec 128) (tl : Timeline),
    let e := e0.toNat
    let g := s.gcount
    let h := s.heat (s.chanPart ch)
    let x := s.chan ch
    let b := fld e 43 5
    let row := fld e 48 16
    let c := fld e 72 8
    let arg := fld e 0 32
    let k := x.getBank b
    let lower := decide (b < 16)
    let pa := paOf ch b row (fld e 39 4)
    let near := decide (c / 64 = ch / 96)
    let group := arg % 8192
    let placed := fun (t : State) => (∀ y, y ∈ s.agenda → y ∈ t.agenda) ∧
      ∀ e1 ins, tl.entries[i + 1]? = some e1 → entryInstr ch (i + 1) e1.toNat = some ins →
        ({ at_ := max (h.origin + fld e1.toNat 88 40 + h.sigma) g, instr := ins } : Event) ∈ t.agenda
    let does := fun (op : Nat) (ins : Instr) (P : State → Prop) =>
      fld e 84 4 = op → ruleBroken x op b row arg g = none → Answers ins s (fun t => placed t ∧ P t)
    let frame := fun (t : State) => { t with chans := s.chans, agenda := s.agenda } = s ∧ ∀ d, d ≠ ch → t.chan d = s.chan d
    let due := (s.core c).outq.filter (fun o => decide (o.pa / 64 = pa / 64) && decide (o.at_ + (if near then 24 else 64) ≤ g))
    h.timeline ch = some tl → tl.entries[i]? = some e0 → h.origin + fld e 88 40 + h.sigma = g →
    (h.phase = .stopping → h.quiet = some g → ∀ ins, entryInstr ch i e = some ins → exec ins s = .next s) ∧
    ((h.phase = .running ∨ (h.phase = .stopping ∧ h.quiet ≠ some g)) →
    does 1 (.act ch i) (fun t => frame t ∧
      let y := x.setBank b { k with row := some row, act := some g }
      t.chan ch = if lower then { y with acts0 := (g :: x.acts0).take 4 } else { y with acts1 := (g :: x.acts1).take 4 }) ∧
    does 2 (.rd ch i) (fun t =>
      let y := x.setBank b { k with rd := some g }
      t.chan ch = (if lower then { y with rd0 := some g } else { y with rd1 := some g }) ∧
      let arrives := fun (data : BitVec 512) (stale : Bool) =>
        (t.core c).deliv = (s.core c).deliv ++ [⟨g + (if near then 40 else 80), pa, data, decide (fld e 70 2 = 1), stale⟩]
      let bytes := BitVec.ofNat 512 (natOf ((List.range 64).map (fun j => s.hbm.read (pa + j))))
      (x.stale.contains (8192 * b + row / 8) = false → s.tagGood (pa / 64) = true → s.lineBad (pa / 64) = false →
        arrives bytes false ∧
        { t.core c with deliv := (s.core c).deliv } = s.core c ∧ (∀ d, d ≠ c → t.core d = s.core d) ∧
        { t with chans := s.chans, cores := s.cores, agenda := s.agenda } = s) ∧
      (x.stale.contains (8192 * b + row / 8) = false → (s.tagGood (pa / 64) = false ∨ s.lineBad (pa / 64) = true) →
        ∃ s1 : State, { s1 with chans := s.chans, agenda := s.agenda } = s ∧ arrives bytes false ∧
          let u := s1.raiseTrap c (if s.tagGood (pa / 64) then ⟨8, 3, 0, none, pa⟩ else ⟨9, 1, 0, none, pa⟩)
          t = u.setCore c { u.core c with deliv := (t.core c).deliv }) ∧
      (x.stale.contains (8192 * b + row / 8) = true → arrives 0 true ∧ (t.core c).fw.fpend.getLsbD 2 = true)) ∧
    does 3 (.wr ch i) (fun t =>
      let y := x.setBank b { k with wr := some g }
      t.chan ch = (if lower then { y with wr0 := some g } else { y with wr1 := some g }) ∧
      (∀ o, o ∈ (t.core c).outq ↔ o ∈ (s.core c).outq ∧ o ∉ due) ∧ { t.core c with outq := (s.core c).outq } = s.core c ∧
      (∀ d, d ≠ c → t.core d = s.core d) ∧ (due = [] → t.lines = s.lines ∧ t.hbm = s.hbm) ∧
      { t with chans := s.chans, cores := s.cores, agenda := s.agenda, hbm := s.hbm, lines := s.lines } = s ∧
      (∀ a, (∀ o, o ∈ due → o.pa ≠ a) → t.hbm.read a = s.hbm.read a) ∧
      (∀ l o r, due = l ++ o :: r → (∀ q, q ∈ l ++ r → q.pa ≠ o.pa) →
        t.hbm.read o.pa = (s.hbm.read o.pa &&& ~~~o.mask) ||| o.val)) ∧
    does 4 (.pre ch i) (fun t => frame t ∧ t.chan ch = x.setBank b { k with row := none, pre := some g }) ∧
    does 5 (.refpb ch i) (fun t =>
      let key := 8192 * b + group
      (fld arg 13 1 = 0 → x.stale.contains key = false → frame t ∧
        ({ at_ := g + 80000000, instr := .rowGroupStale ch b group } : Event) ∈ t.agenda ∧
        t.chan ch = { x.setBank b { k with ref := some g } with
          deadline := sset (x.refreshed + 80000000) x.deadline key (g + 80000000), refAt := sset none x.refAt key (some g) }) ∧
      (fld arg 13 1 = 0 → x.stale.contains key = true → frame t ∧ t.chan ch = x.setBank b { k with ref := some g }) ∧
      (fld arg 13 1 = 1 → t.chan ch = { x.setBank b { k with ref := some g } with
          deadline := sset (x.refreshed + 80000000) x.deadline key (g + 80000000), refAt := sset none x.refAt key (some g),
          stale := x.stale.filter (fun q => decide (q ≠ key)) } ∧
        ({ at_ := g + 80000000, instr := .rowGroupStale ch b group } : Event) ∈ t.agenda ∧
        { t with chans := s.chans, agenda := s.agenda, hbm := s.hbm, lines := s.lines } = s ∧
        (∀ n j, n < 8 → j < 1024 → t.hbm.read (paOf ch b (8 * group + n) 0 + j) = 0) ∧
        (∀ a, (∀ n, n < 8 → a < paOf ch b (8 * group + n) 0 ∨ paOf ch b (8 * group + n) 0 + 1024 ≤ a) →
          t.hbm.read a = s.hbm.read a))) ∧
    does 6 (.wopen ch i) (fun t => frame t ∧ (∀ d, d ≠ b → (t.chan ch).getBank d = x.getBank d) ∧
      ∃ n, (t.chan ch).getBank b = { k with window := some (g, g + row - 1), busy := n } ∧
        ∀ y v x, k.queue = y :: v → (s.core y.1).crucOf y.2 = some x → x.arrival ≤ g →
          let z := g + (fld x.rec_.toNat 256 11 + 255) / 256
          z + 1 ≤ g + row → n = z ∧ ({ at_ := z, instr := .crucibleExecute ch b } : Event) ∈ t.agenda) ∧
    does 7 (.svc ch i) (fun t => frame t ∧ (t.chan ch).svc = some (g, row, BitVec.ofNat 32 arg) ∧ ∀ d, d < 32 →
      (t.chan ch).getBank d =
        (if arg.testBit d then { x.getBank d with row := none, lent := some (g + row - 1) } else x.getBank d) ∧
      (arg.testBit d = true → (x.getBank d).atomics ≠ [] →
        ({ at_ := g, instr := .hostAtomicExecute ch d } : Event) ∈ t.agenda)))

/-- R288, R291 to R294, R299 to R301: refresh and the patrol. A controller without a timeline, or past its END, refreshes by
itself. At a deadline that no refresh has moved, the groups inside an elision interval become stale and any other is a
violation of rule 19. The patrol's commands start, rotate and stop it, and it brings one line after another to the version
it is to have. That a channel without a running timeline meets every deadline is log entry 51, and the core at which a
failure that the patrol finds raises its trap is log entry 16. -/
def Obligations.RefreshAndPatrol : Prop :=
  ∀ (s : State) (ch p line : Nat) (tl : Timeline),
    let g := s.gcount
    let h := s.heat (s.chanPart ch)
    let x := s.chan ch
    let due := fun (n : Nat) => n < 262144 ∧ sget (x.refreshed + 80000000) x.deadline n = g ∧ n ∉ x.stale
    let out := fun (n : Nat) => tl.elided (n / 8192) (n % 8192) ((g : Int) - h.origin - h.sigma)
    let turnsStale := fun (t : State) => OnlyChan s t ch ∧ t.agenda = s.agenda ∧ { t.chan ch with stale := x.stale } = x ∧
      ∀ n, n ∈ (t.chan ch).stale ↔ n ∈ x.stale ∨ (due n ∧ out n = true)
    let r := sget patrolReset s.patrol p
    let range := if s.mgmt.pmode = 0 then (0, 12 * 2 ^ 30) else (3 * p * 2 ^ 30, (3 * p + 3) * 2 ^ 30)
    let m := sget lineReset s.lines line
    let pa := 64 * line
    let sets := fun (t : State) (y : Patrol) => sget patrolReset t.patrol p = y ∧
      ∀ q, q ≠ p → sget patrolReset t.patrol q = sget patrolReset s.patrol q
    let idle := h.timeline ch = none ∨ h.phase = .none ∨ h.phase = .ended
    let runs := h.phase = .running ∨ h.phase = .stopping
    let end_ := h.origin + tl.end_ + h.sigma
    let refreshes := Answers (.controllerRunRefresh ch) s (fun t =>
      t.chan ch = { x with refreshed := g, deadline := [] } ∧ OnlyChan s t ch ∧ t.agenda = s.agenda)
    let same := fun (t : State) =>
      { t with patrol := s.patrol, lines := s.lines, agenda := s.agenda, choice := s.choice } = s
    let begins := fun (ins : Instr) (y : Patrol) => Answers ins s (fun t => sets t y ∧ same t ∧ t.lines = s.lines ∧
      Sometime s t 1 (.patrolLine p y.line))
    (idle → refreshes) ∧
    (h.timeline ch = some tl → h.phase ≠ .none → h.phase ≠ .ended →
      (runs → end_ < g → refreshes) ∧ (¬(runs ∧ end_ < g) → exec (.controllerRunRefresh ch) s = .next s)) ∧
    (∀ b n, (idle ∨ ¬runs ∨ g < h.origin ∨ (h.timeline ch = some tl ∧ end_ < g)) → exec (.rowGroupStale ch b n) s = .next s) ∧
    (∀ b n, h.timeline ch = some tl → runs → h.origin ≤ g → g ≤ end_ →
      ((∀ j, due j → out j = true) → Answers (.rowGroupStale ch b n) s turnsStale) ∧
      ((∃ j, due j ∧ out j = false) → ∃ (s1 : State) (d : Nat), turnsStale s1 ∧ fld d 160 8 = 19 ∧
        exec (.rowGroupStale ch b n) s = .next (s1.raiseTrap (64 * (ch / 96)) ⟨6, 1, 0, none, d⟩))) ∧
    (r.state = 0 → begins (.patrolStartScrub p) { r with state := 1, line := range.1, stopping := false }) ∧
    (r.state ≠ 0 → exec (.patrolStartScrub p) s = .next s) ∧
    (r.state = 0 → (sget none s.mgmt.keys (4 * p + (r.cur + 1).toNat)).isSome = true →
      begins (.patrolRotate p) { r with state := 2, next := r.cur + 1, line := range.1, stopping := false }) ∧
    (r.state = 0 → sget none s.mgmt.keys (4 * p + (r.cur + 1).toNat) = none → exec (.patrolRotate p) s = .next s) ∧
    (r.state = 3 → begins (.patrolRotate p) { r with state := 2, stopping := false }) ∧
    (r.state = 1 ∨ r.state = 2 → Answers (.patrolStop p) s (fun t => sets t { r with stopping := true } ∧ same t ∧
      t.agenda = s.agenda ∧ t.lines = s.lines)) ∧
    (r.state = 0 ∨ r.state = 3 → exec (.patrolStop p) s = .next s) ∧
    ((r.state = 1 ∨ r.state = 2) → r.line = line → s.served pa = false → Answers (.patrolLine p line) s (fun t =>
      Adds s t [{ at_ := g + 1, instr := .patrolLine p line }] ∧ { t with agenda := s.agenda } = s)) ∧
    ((r.state = 1 ∨ r.state = 2) → r.line = line → s.served pa = true →
      let goes := fun (m1 : LineMeta) => Answers (.patrolLine p line) s (fun t => same t ∧
        sget lineReset t.lines line = m1 ∧ (∀ j, j ≠ line → sget lineReset t.lines j = sget lineReset s.lines j) ∧
        (let cur := if r.state = 2 then r.next else r.cur
         let ended : Patrol := { r with line := line + 1, state := 0, stopping := false, passes := r.passes + 1, cur := cur }
         range.2 ≤ line + 1 → t.agenda = s.agenda ∧ sets t ended) ∧
        (line + 1 < range.2 → r.stopping = true → t.agenda = s.agenda ∧
          sets t { r with line := line + 1, state := if r.state = 1 then 0 else 3, stopping := false }) ∧
        (line + 1 < range.2 → r.stopping = false → sets t { r with line := line + 1 } ∧
          Sometime s t 1 (.patrolLine p (line + 1))))
      (s.paStale pa = true → goes m) ∧
      (s.paStale pa = false →
      (m.ecc = .uncorrectable → goes { m with poison := true }) ∧
      (m.ecc ≠ .uncorrectable → s.tagGood line = true → m.ver = r.cur → r.state = 1 → goes { m with ecc := .good }) ∧
      (m.ecc ≠ .uncorrectable → s.tagGood line = true → m.ver = r.cur → r.state = 2 →
        goes { m with ver := r.next, key := some (s.keyOf p r.next.toNat), ecc := .good }) ∧
      (m.ecc ≠ .uncorrectable → s.tagGood line = true → m.ver ≠ r.cur → m.ver = r.next → r.state = 2 →
        goes { m with ecc := .good }) ∧
      (m.ecc ≠ .uncorrectable → (s.tagGood line = false ∨ (m.ver ≠ r.cur ∧ (r.state = 1 ∨ m.ver ≠ r.next))) → ∃ s1, sets s1 { r with state := 0, stopping := false } ∧ same s1 ∧
        s1.agenda = s.agenda ∧ s1.lines = s.lines ∧
        exec (.patrolLine p line) s = .next (s1.raiseTrap (64 * (paChannel pa / 96)) ⟨9, 1, 0, none, pa⟩))))

/-- R211 to R214, R218, R219, R239, R247, R319, R320, R326, R333, R334, R338: a heat that is armed at heat cycle −1 runs on, its
cores to start at their START cycles and its timelines at their first commands, but for a core whose first bundle is its stop
point already (R248); one that is not armed then slips, and one whose image cannot be read is rejected. A completion bit is set
by an atomic OR in its cycle, whatever has become of the heat by then. In the first cycle in which all its work is done a heat
completes; one that a class-9 trap ends while it does not run completes with that status, the one parked last too (log entry
34). The end of a heat tells its queue and the scheduler core: the COMPLETE record where there is a journal, then the
completion word, the token, the interrupt, and the PUBLISH record with RUN cleared; a record without room waits, and what
follows it with it. With HOLD set the completion is held, and a completion word in HBM waits for its row's service (log entry
29). -/
def Obligations.HeatRuns : Prop :=
  ∀ (s : State) (p : Nat),
    let g := s.gcount
    let h := s.heat p
    let pkt := h.packet.toNat
    let completion := fun (status : Nat) => (⟨h.queue, h.index, h.packet, status, g, h.heatId, p, h.muted, false⟩ : Completion)
    let word := fun (status : Nat) (i : Nat) => elem 8 (status % 256 + g % 2 ^ 48 * 2 ^ 16) i
    let over_ := s.setHeat p { h with phase := .ended, stopReq := none, cutK := none, stopS := none, quiet := none,
                                      endStatus := none }
    let answered := fun (t : State) (l : List Output) => t.out = s.out ++ l ∧
      ∀ o, o ∈ l → (∃ f, f ∈ s.fe.resets ∧ o = .resetDone f) ∨ (fld pkt 8 1 = 1 ∧ o = .interrupt (h.queue / 64) h.queue)
    let token := fun (t : State) =>
      let q := fld pkt 224 11
      let tok := BitVec.ofNat 32 (fld pkt 192 32)
      (fld pkt 192 32 = 0 → t.fe.evals = s.fe.evals ∧ ∀ r, (t.queue r).met = (s.queue r).met) ∧
      (fld pkt 192 32 ≠ 0 → t.fe.evals = s.fe.evals ++ [⟨q, .rewritten, true, g, none, none⟩] ∧
        (t.queue q).met = (if (s.queue q).met.toNat < tok.toNat then tok else (s.queue q).met) ∧
        ({ at_ := g, instr := .journalHeldAppend } : Event) ∈ t.agenda)
    let journalled := fun (ins : Instr) (status size : Nat) =>
      let w0 := BitVec.ofNat 64 (h.queue % 2 ^ 11 + h.index % 2 ^ 32 * 2 ^ 32)
      let w1 := BitVec.ofNat 64 (status % 256 + g % 2 ^ 48 * 2 ^ 16)
      let part := s.partOf s.scheduler
      let at_ := s.journalBase + s.fe.jtail % size
      let record := bytesOf 4 (0x4A5E + 2 * 2 ^ 16 + 2 * 2 ^ 24) ++ bytesOf 4 g ++ bytesOf 8 s.fe.jseq ++ bytesOf 8 w0.toNat ++
        bytesOf 8 w1.toNat
      let first := fun (t : State) => ∀ pa, s.fe.jtail % size + 32 ≤ size → at_ % 32768 + 32 ≤ 32768 →
        s.translate part at_ true = some pa → s.paStale pa = false → s.paStale (pa + 31) = false →
        ∀ i, i < 32 → t.hbm.read (pa + i) = record.getD i 0
      let s1 := over_.journalPut size (hardwareRecord 2 w0 w1)
      let s2 := s1.completionWord (completion status)
      let s3 := if fld pkt 192 32 = 0 then s2 else s2.deliverToken (fld pkt 224 11) (BitVec.ofNat 32 (fld pkt 192 32))
      let out_ : State := if fld pkt 8 1 = 1 then s3.emit (.interrupt (h.queue / 64) h.queue) else s3
      (over_.journalRoom size 32 = false → Answers ins s (fun t =>
        t.fe.heldRecs = [⟨2, w0, w1, some (completion status)⟩] ∧ (t.core s.scheduler).fw.fpend.getLsbD 6 = true ∧
        t.fe.heldDone = s.fe.heldDone ∧ t.fe.pubs = s.fe.pubs ∧ t.fe.queues = s.fe.queues ∧ t.host = s.host ∧ t.hbm = s.hbm)) ∧
      (over_.journalReady size = true → s.fe.hold = true → Answers ins s (fun t => first t ∧
        t.fe.jtail = (s.fe.jtail % size + 32) % size ∧ t.fe.jseq = (s.fe.jseq + 1) % 2 ^ 64 ∧ t.fe.heldRecs = [] ∧
        t.fe.heldDone = s.fe.heldDone ++ [completion status] ∧ t.fe.queues = s.fe.queues ∧ t.host = s.host)) ∧
      (over_.journalReady size = true → s.fe.hold = false → s.fe.pubs = [] → h.muted = false →
        s1.wordServed (completion status) = true →
        (out_.journalRoom size 32 = false → Answers ins s (fun t =>
          t.fe.heldRecs = [⟨3, w0, 0, some (completion status)⟩] ∧ (t.core s.scheduler).fw.fpend.getLsbD 6 = true ∧
          t.fe.jtail = (s.fe.jtail % size + 32) % size ∧ t.hbm = out_.hbm ∧ t.host = out_.host ∧ token t ∧
          (t.queue h.queue).run = (s.queue h.queue).run)) ∧
        (out_.journalReady size = true → Answers ins s (fun t =>
          t.hbm = (out_.journalPut size (hardwareRecord 3 w0 0)).hbm ∧ t.host = out_.host ∧ t.fe.heldRecs = [] ∧
          t.fe.jtail = ((s.fe.jtail % size + 32) % size + 32) % size ∧ t.fe.jseq = ((s.fe.jseq + 1) % 2 ^ 64 + 1) % 2 ^ 64 ∧
          (t.queue h.queue).run = false ∧ token t ∧ ∃ l, answered t l)))
    let ends := fun (ins : Instr) (status : Nat) =>
      (∀ size, s.journalSize = some size → s.fe.heldRecs = [] → journalled ins status size) ∧
      (s.journalSize = none → s.fe.hold = true → Answers ins s (fun t =>
        t.fe.heldDone = s.fe.heldDone ++ [completion status] ∧ (t.core s.scheduler).fw.fpend.getLsbD 5 = true ∧
        (∀ q, q ≠ p → t.heat q = s.heat q) ∧ t.hbm = s.hbm ∧ t.host = s.host ∧ (t.heat p).phase = .ended)) ∧
      (s.journalSize = none → s.fe.hold = false → s.fe.pubs = [] → h.muted = true → Answers ins s (fun t =>
        t.host = s.host ∧ t.hbm = s.hbm ∧ t.fe.queues = s.fe.queues ∧ (t.heat p).phase = .ended)) ∧
      (s.journalSize = none → s.fe.hold = false → h.muted = false →
        (s.fe.pubs ≠ [] ∨ over_.wordServed (completion status) = false) → Answers ins s (fun t =>
          t.fe.pubs = s.fe.pubs ++ [completion status] ∧ t.host = s.host ∧ t.hbm = s.hbm ∧ t.fe.queues = s.fe.queues ∧
          (t.heat p).phase = .ended)) ∧
      (s.journalSize = none → s.fe.hold = false → h.muted = false → s.fe.pubs = [] →
        over_.wordServed (completion status) = true → Answers ins s (fun t => token t ∧
        (t.queue h.queue).run = false ∧ (t.core s.scheduler).fw.fpend.getLsbD 5 = true ∧ (t.heat p).phase = .ended ∧
        (∃ l, answered t l ∧ (fld pkt 8 1 = 1 → Output.interrupt (h.queue / 64) h.queue ∈ l)) ∧
        (fld pkt 128 64 ≠ 0 → fld pkt 188 4 = 4 →
          ∀ i, i < 8 → (t.host.read (fld pkt 128 60 + i)).toNat = word status i) ∧
        (∀ pa, fld pkt 188 4 = 1 → fld pkt 128 60 % 8 = 0 → s.translate (s.ringPart h.queue) (fld pkt 128 60) true = some pa →
          s.paStale pa = false → ∀ i, i < 8 → (t.hbm.read (pa + i)).toNat = word status i)))
    let idle := fun (c : Nat) =>
      let k := s.core c
      (∀ x, x ∈ k.pend → x.fw = true) ∧ k.acc = [] ∧ k.lqOut = 0 ∧ k.copies = [] ∧ k.pieces = [] ∧
      (∀ r, r ∈ k.runs → r.closed = true) ∧ (∀ x, x ∈ k.cruc → x.fin ≠ none) ∧
      ∀ x, x ∈ k.dyn → x.remote = true ∨ (fld x.rec_.toNat 256 32 ≤ x.next ∧ ∀ q, q ∈ x.reqs → q.st = .done)
    let done := (∀ c, c ∈ h.cores → idle c) ∧ (∀ c, c ∈ s.partCores p → (s.core c).acc = []) ∧
      (∀ w, w ∈ s.bits → ¬(w.part = p ∧ w.heat = h.origin)) ∧
      ∀ tl, tl ∈ h.timelines → h.origin + tl.end_ + h.sigma ≤ g
    (h.phase = .armed → h.origin = g + 1 → Answers (.launchCheck p) s (fun t =>
      (h.stopReq = none ∨ h.cutK = none →
        t.heat p = { h with phase := if h.stopReq.isSome then .stopping else .running } ∧ OnlyHeat s t p) ∧
      (h.stopReq.isSome = true → h.cutK.isSome = true → h.cores.Nodup → (∀ c, c ∈ h.cores → s.partOf c = p) →
        (t.heat p).phase = .stopping ∧ ∀ c, c ∈ h.cores → (s.core c).seq.dom = .notStarted → (s.core c).task = true →
          let k := s.core c
          let due := k.startAt + k.nextGap
          (StopPoint h k due → t.core c = { k with seq := stoppedSeq k.seq due }) ∧ (¬StopPoint h k due → t.core c = k)) ∧
      (∀ x, x ∈ s.agenda → x ∈ t.agenda) ∧
      (∀ c, c ∈ h.cores → ({ at_ := max (s.core c).startAt g, instr := .taskStart c } : Event) ∈ t.agenda) ∧
      ∀ ch tl e ins, h.timeline ch = some tl → tl.entries[0]? = some e → entryInstr ch 0 e.toNat = some ins →
        ({ at_ := max (h.origin + fld e.toNat 88 40 + h.sigma) g, instr := ins } : Event) ∈ t.agenda)) ∧
    (h.phase = .arming → h.origin ≤ g + 1 → ends (.launchCheck p) 1) ∧
    (h.phase = .running → (∀ c, c ∈ h.cores → (s.core c).seq.dom = .halted) →
      (done → ends (.heatCompletion p) 0) ∧
      (¬done → Answers (.heatCompletion p) s (fun t =>
        Adds s t [{ at_ := g + 1, instr := .heatCompletion p }] ∧ { t with agenda := s.agenda } = s))) ∧
    (h.phase = .running → (∃ c, c ∈ h.cores ∧ (s.core c).seq.dom ≠ .halted) → exec (.heatCompletion p) s = .next s) ∧
    (h.phase = .arming ∨ h.phase = .armed ∨ h.phase = .trapped ∨ h.phase = .atCut →
      (∀ st, h.endStatus = some st → ends (.heatCompletion p) st) ∧
      (h.endStatus = none → exec (.heatCompletion p) s = .next s)) ∧
    (h.phase = .none ∨ h.phase = .ended →
      ((∀ y, y ∈ s.parked → y.1 = p → y.2.endStatus = none) → exec (.heatCompletion p) s = .next s) ∧
      (∀ l x r st, s.parked = l ++ (p, x) :: r → (∀ y, y ∈ l → y.1 = p → y.2.endStatus = none) → x.endStatus = some st →
        Answers (.heatCompletion p) s (fun t => (t.core s.scheduler).fw.fpend.getLsbD 5 = true ∧
          (∀ y, y ∈ t.parked ↔ y ∈ s.parked ∧ y ≠ (p, x)) ∧ (s.journalSize = none → s.fe.hold = true →
            t.fe.heldDone = s.fe.heldDone ++ [⟨x.queue, x.index, x.packet, st, g, x.heatId, p, x.muted, false⟩])))) ∧
    (∀ l w r, s.bits = l ++ w :: r → w.part = p → w.at_ ≤ g →
      (∀ y, y ∈ l → ¬(y.part = p ∧ y.group = w.group ∧ y.iter = w.iter ∧ y.at_ ≤ g)) →
      let here := Instr.completionBitWrite p w.group w.iter
      let sets := fun (t : State) (pa : Nat) => t.bits = l ++ r ∧
        t.hbm.read pa = s.hbm.read pa ||| BitVec.ofNat 8 (2 ^ (w.iter % 8)) ∧ ∀ a, a ≠ pa → t.hbm.read a = s.hbm.read a
      (w.pa = none → exec here s = .next { s with bits := l ++ r }) ∧
      (∀ pa, w.pa = some pa → s.paStale pa = false → s.hbmFault pa 1 = none →
        Answers here s (fun t => sets t pa ∧ { t with bits := s.bits, hbm := s.hbm, lines := s.lines } = s)) ∧
      (∀ pa e, w.pa = some pa → s.paStale pa = false → s.hbmFault pa 1 = some e →
        Answers here s (fun t => sets t pa ∧ (t.core (64 * (paChannel pa / 96))).spanTrap = true))) ∧
    (∀ gr iter, (∀ w, w ∈ s.bits → ¬(w.part = p ∧ w.group = gr ∧ w.iter = iter ∧ w.at_ ≤ g)) →
      exec (.completionBitWrite p gr iter) s = .next s) ∧
    (h.phase = .arming → h.image = [] → s.translate (s.ringPart h.queue) (fld pkt 64 64) false = none →
      (∀ l, s.tagGood l = true) → ends (.heatArm p) 3)

/-- R208, R212, R213, R216: a heat whose image passes every check, and whose regions are placed and pinned, is armed: it holds
what its image gives it, and each of its cores has its launch state and its start. The image is read row by row as its rows
are served (log entry 29); where the loader puts its regions is log entry 35, and which of two records of one number it takes
log entry 70. One whose pages do not translate, or that fails a check, is rejected. No tag of a line of HBM fails here: a
class-9 trap would end the heat (R239). -/
def Obligations.Arming : Prop :=
  ∀ (s s1 : State) (p : Nat) (b : List Byte),
    let h := s.heat p
    let mods := s1.flashModules
    let regions := fun (space : Nat) => (heatRegions b).filter (fun e => decide (regSpace e = space))
    let pick := fun (r : Nat) => mods.getD (Config.flashPick (s1.choice + r) % mods.length) 0
    let page := s1.firstPage p (pagesTaken (regions 1))
    let place := placeHbm page (regions 1) ++ placeFlash pick (regions 2) s1.flash.tail
    let s2 : State := { s1 with choice := s1.choice + 256 }
    let reads := fun (r : ImageRead) =>
      s.readImage (s.ringPart h.queue) (fld h.packet.toNat 64 64) maxRows h.image = (s1, b, r)
    let passes := fun (pins : Sparse Nat) => s2.imageOk p b place pins = true ∧ s2.saveOk h b = true ∧
      (regions 2 = [] ∨ mods ≠ []) ∧ flashFits pick (regions 2) s1.flash.tail = true ∧
      page + pagesTaken (regions 1) ≤ 2 ^ 44 ∧ (∀ x, x ∈ placedGroups b place → bitmapOk b place x = true)
    h.phase = .arming →
    (reads .waits → Answers (.heatArm p) s (fun t => t.heat p = { s1.heat p with image := b } ∧ OnlyHeat s1 t p ∧
      Adds s1 t [{ at_ := s.gcount + 1, instr := .heatArm p }])) ∧
    (reads .done → s2.pinPages p (hbmPages b place) = none → exec (.heatArm p) s = .next (s2.endHeat p 3)) ∧
    (∀ pins, reads .done → s2.pinPages p (hbmPages b place) = some pins → ¬passes pins →
      exec (.heatArm p) s = .next ((s2.nameFault p b place).endHeat p 3)) ∧
    (∀ pins, reads .done → s2.pinPages p (hbmPages b place) = some pins → passes pins → (∀ l, s1.tagGood l = true) →
    Answers (.heatArm p) s (fun t =>
      t.heat p = { h with phase := .armed, image := b, heatId := imgHeatId b, cores := imgCores b, pins := pins,
                          triggers := tableOfPairs (imgTriggers b), groups := placedGroups b place,
                          timelines := imgTimelines b, place := place, endStatus := (s1.heat p).endStatus } ∧
      (∀ c, c ∈ s1.partCores p → c ∉ imgCores b → (t.core c).task = false) ∧
      (∀ q, q ≠ p → t.heat q = s1.heat q) ∧
      ∀ c, c ∈ imgCores b → (t.core c).task = true ∧ (t.core c).startAt = h.origin + taskStart ((secOf b 1 c).getD []) ∧
        (t.core c).s = [] ∧ (t.core c).q = 0 ∧ (t.core c).v = [] ∧ (t.core c).k = [] ∧ (t.core c).w = [] ∧ (t.core c).m = [] ∧
        (t.core c).y = [] ∧ (t.core c).bar = [] ∧ (t.core c).lq = [] ∧ (t.core c).sstat = 0 ∧
        (t.core c).seq.dom = .notStarted))

/-- R241, R242, R247, R248, R250, R313, R326, R328, R329, R350: how a heat stops. A stop request lets 96 cycles pass before the cut
K, the greatest that a core reports, reaches every core; before the origin K is 0, and a heat without a save area ignores the
request. A core whose next bundle is then its stop point has stopped (log entry 22). Q is the latest of the cores' last cycles
plus 512. At the stop cycle no core issues any more. At quiescence the engines and the crucible queues are empty, but for the
pieces of a `TAKE` after a trap, and the scheduler learns of it; after a trap the heat stands for a restart, or ends, with
status 2 where the firmware context that would handle it is dead (R350), at a cut with what the cut saves, whose save area is
written in service slots (log entry 29). The end by firmware, with status 5, goes through a stop of the same kind while the heat
runs, and ends a heat that has not begun or stands stopped at once, the one parked last where none is current (log entry 34). A
core that issued nothing counts for Q with the cycle r + 96 in which the cut reaches it (R313, log entry 22), and a stop
abandons a pre-emption (log entry 62). -/
def Obligations.HeatStops : Prop :=
  ∀ (s : State) (p : Nat),
    let g := s.gcount
    let h := s.heat p
    let S := g + 64
    let live := fun (c : Nat) => c ∈ h.cores ∧ (s.core c).seq.dom ≠ .halted
    let report := fun (c : Nat) => if (s.core c).seq.parted then (s.core c).seq.lastCut + 1 else 0
    let asleep := fun (c : Nat) => (s.core c).seq.dom = .stopped ∨ (s.core c).seq.dom = .halted
    let waits := h.phase = .arming ∨ h.phase = .armed
    let last := fun (r c : Nat) => (s.core c).seq.lastIssue.getD (r + 96)
    let only := fun (t : State) (l : List Event) => OnlyHeat s t p ∧ Adds s t l
    let trapped := fun (t : State) (l : List Event) => Adds s t l ∧ (∀ q, q ≠ p → t.heat q = s.heat q) ∧
      { t with heats := s.heats, cores := s.cores, agenda := s.agenda } = s ∧
      ∀ c, ((c ∉ h.cores ∨ (s.core c).seq.dom = .stopped) → t.core c = s.core c) ∧
        (c ∈ h.cores → (s.core c).seq.dom ≠ .stopped →
          t.core c = { s.core c with seq := { (s.core c).seq with stopLine := none } })
    let ended := fun (t : State) (x : Heat) (status : Nat) => (t.core s.scheduler).fw.fpend.getLsbD 5 = true ∧
      (s.journalSize = none → s.fe.hold = true →
        t.fe.heldDone = s.fe.heldDone ++ [⟨x.queue, x.index, x.packet, status, g, x.heatId, p, x.muted, false⟩])
    let twoEvents : List Event := [{ at_ := S, instr := .stopCycle p }, { at_ := S + 512, instr := .quiescence p }]
    (∀ K, h.phase = .running → fld h.packet.toNat 448 64 ≠ 0 → (∀ c, live c → report c ≤ K) →
      (∃ c, live c ∧ report c = K) → Answers (.heatStopRequest p) s (fun t =>
        t.heat p = { h with phase := .stopping, byTrap := false, stopReq := some g, cutNext := K, quiet := none, stopS := none } ∧
        only t [{ at_ := g + 96, instr := .cutReduction p }])) ∧
    (waits → h.stopReq = none → fld h.packet.toNat 448 64 ≠ 0 → Answers (.heatStopRequest p) s (fun t =>
      t.heat p = { h with byTrap := false, stopReq := some g, cutNext := 0, quiet := none, stopS := none } ∧
      only t [{ at_ := g + 96, instr := .cutReduction p }])) ∧
    (fld h.packet.toNat 448 64 = 0 ∨ (h.phase = .running ∧ ∀ c, ¬live c) ∨ (waits ∧ h.stopReq ≠ none) ∨
      (h.phase ≠ .running ∧ ¬waits) → exec (.heatStopRequest p) s = .next s) ∧
    (∀ r, h.stopReq = some r → (h.phase = .stopping ∨ waits) → h.byTrap = false → g = r + 96 → h.cutK = none → h.quiet = none →
      h.cores ≠ [] → (∀ c, c ∈ h.cores → s.partOf c = p) →
      (waits ∨ ((∃ c, c ∈ h.cores ∧ ¬asleep c) ∧ ∀ c d, c ∈ h.cores → (s.core c).nextDue = some d → ¬StopPoint h (s.core c) d) →
        Answers (.cutReduction p) s (fun t => t.heat p = { h with cutK := some h.cutNext } ∧ only t [])) ∧
      (h.phase = .stopping → h.cores.Nodup → Answers (.cutReduction p) s (fun t => (t.heat p).cutK = some h.cutNext ∧
        (∀ x, x ∈ s.agenda → x ∈ t.agenda) ∧ (∀ q, q ≠ p → t.heat q = s.heat q) ∧ (∀ c, c ∉ h.cores → t.core c = s.core c) ∧
        (∀ c, c ∈ h.cores → (∀ d, (s.core c).nextDue = some d → StopPoint h (s.core c) d →
            t.core c = { s.core c with seq := stoppedSeq (s.core c).seq d }) ∧
          ((∀ d, (s.core c).nextDue = some d → ¬StopPoint h (s.core c) d) → t.core c = s.core c)) ∧
        ∀ L, (∀ c, c ∈ h.cores → asleep c ∨ ∃ d, (s.core c).nextDue = some d ∧ StopPoint h (s.core c) d) →
          (∀ c, c ∈ h.cores → last r c ≤ L) → (∃ c, c ∈ h.cores ∧ last r c = L) →
          (t.heat p).quiet = some (max (L + 512) g) ∧
          ({ at_ := max (L + 512) g, instr := .quiescence p } : Event) ∈ t.agenda)) ∧
      (∀ L, h.phase = .stopping → (∀ c, c ∈ h.cores → asleep c) → (∀ c, c ∈ h.cores → last r c ≤ L) →
        (∃ c, c ∈ h.cores ∧ last r c = L) → Answers (.cutReduction p) s (fun t =>
        t.heat p = { h with cutK := some h.cutNext, quiet := some (max (L + 512) g) } ∧
        only t [{ at_ := max (L + 512) g, instr := .quiescence p }]))) ∧
    (h.phase = .stopping → h.byTrap = true → h.stopS = some g → Answers (.stopCycle p) s (fun t =>
      { t with cores := s.cores } = s ∧ (∀ c, c ∉ h.cores → t.core c = s.core c) ∧ ∀ c, c ∈ h.cores →
        t.core c = { s.core c with seq := { (s.core c).seq with
          dom := if (s.core c).seq.dom = .halted then .halted else .stopped } })) ∧
    (h.phase = .stopping → h.quiet = some g → h.endStatus = none → (h.byTrap = true → s.fe.deadFw = []) →
      Answers (.quiescence p) s (fun t => (t.core s.scheduler).fw.fpend.getLsbD 5 = true ∧
        (∀ q, q ≠ p → t.heat q = s.heat q) ∧
        (h.byTrap = true ∨ fld h.packet.toNat 508 4 ≠ 1 → t.hbm = s.hbm ∧ t.lines = s.lines) ∧
        (∀ c, c ∈ h.cores → (t.core c).copies = [] ∧ (h.byTrap = false → (t.core c).pieces = []) ∧
          (h.byTrap = true → (t.core c).pieces = (s.core c).pieces) ∧ (t.core c).runs = [] ∧ (t.core c).cruc = [] ∧
          (t.core c).outq = [] ∧ (t.core c).acc = []) ∧
        (∀ tl b, tl ∈ h.timelines → ((t.chan tl.ch).getBank b).queue = []) ∧
        (h.byTrap = true → t.heat p = { h with phase := .trapped }) ∧
        (h.byTrap = false → fld h.packet.toNat 508 4 = 1 → s.fe.saves = [] →
          let va := fld h.packet.toNat 448 60
          let n := saveSize h.image
          0 < n → (s.clearQueues h).servedVA (s.ringPart h.queue) va (min n (1024 - va % 1024)) = false →
          t.fe.saves = [⟨s.ringPart h.queue, va, n⟩]) ∧
        (h.byTrap = false → (t.heat p).phase = .atCut ∧ ∀ c, c ∈ h.cores → ∃ x, x ∈ (t.heat p).saved ∧ x.core = c ∧
          x.s = (s.core c).s ∧ x.k = (s.core c).k ∧ x.q = (s.core c).q ∧ x.w = (s.core c).w ∧ x.y = (s.core c).y ∧
          x.a = (s.core c).a ∧ x.csp = (s.core c).csp ∧ x.sstat = (s.core c).sstat ∧ x.bitsDue = (s.core c).bitsDue ∧
          (∀ pl n, (s.core c).stopEntry = some pl → (pl.livev.getLsbD n = true → sget 0 x.v n = (s.core c).rv n) ∧
            (pl.livem.getLsbD n = true → sget tileReset x.m n = (s.core c).rm n)) ∧
          ∀ y a, y ∈ (s.core c).regions → y.preserve = true → y.space = 0 → y.addr ≤ a → a < y.addr + y.size →
            x.spad.read a = (s.core c).spad.read a))) ∧
    (∀ st, h.phase = .stopping → h.quiet = some g → h.endStatus = some st → Answers (.quiescence p) s (fun t =>
      (t.heat p).phase = .ended ∧ ended t h st)) ∧
    (∀ c, h.phase = .stopping → h.quiet = some g → h.endStatus = none → h.byTrap = true → h.trapCores = [c] →
      c ∈ s.fe.deadFw → Answers (.quiescence p) s (fun t => (t.heat p).phase = .ended ∧ ended t h 2)) ∧
    (h.phase = .running → h.origin ≤ g → Answers (.heatEnd p) s (fun t => trapped t twoEvents ∧
      t.heat p = { h with phase := .stopping, stopS := some S, quiet := some (S + 512), byTrap := true, trapCores := [],
                          stopReq := none, cutK := none, endStatus := some 5 })) ∧
    (h.phase = .stopping → h.byTrap = true → Answers (.heatEnd p) s (fun t => only t [] ∧
      t.heat p = { h with endStatus := some (h.endStatus.getD 5) })) ∧
    (h.phase = .stopping → h.byTrap = false → h.origin ≤ g → Answers (.heatEnd p) s (fun t => trapped t twoEvents ∧
      t.heat p = { h with stopS := some S, quiet := some (S + 512), byTrap := true, trapCores := [], stopReq := none,
                          cutK := none, endStatus := some 5 })) ∧
    (waits ∨ h.phase = .trapped ∨ h.phase = .atCut ∨
      (g < h.origin ∧ (h.phase = .running ∨ (h.phase = .stopping ∧ h.byTrap = false))) → Answers (.heatEnd p) s (fun t =>
      (t.heat p).phase = .ended ∧ ended t h 5)) ∧
    (h.phase = .none ∨ h.phase = .ended →
      ((∀ y, y ∈ s.parked → y.1 ≠ p) → exec (.heatEnd p) s = .next s) ∧
      (∀ l x r, s.parked = l ++ (p, x) :: r → (∀ y, y ∈ l → y.1 ≠ p) → Answers (.heatEnd p) s (fun t =>
        ended t x 5 ∧ ∀ y, y ∈ t.parked ↔ y ∈ s.parked ∧ y ≠ (p, x))))

/-- R204, R205, R245, R251, R314: how a stopped heat goes on. A trapped heat is restarted from its marks, and a heat at a cut is
resumed from what the cut saved, with the shift Δ when its earliest bundle then lies at least 1024 cycles after quiescence and
the present; with a smaller shift nothing happens. Every core's bundle is due at its schedule cycle plus the total shift. A heat
that another one followed in its partition, which is over, goes on too: the one parked last, and only from shadows of its own
marks, which hold its origin (log entry 34). A restart keeps the registers s, q, v and the flags, and drops the records of faults
(R204, R205); the streams come back from the shadow (log entry 12); CSP keeps its value, and completion bits and the branch
pending at a stop are kept through a resume (log entry 62). Every span of trap records is over. No line that is read on the way
fails its integrity tag or is in error here. -/
def Obligations.HeatGoesOn : Prop :=
  ∀ (s : State) (p delta : Nat) (h : Heat) (m : Int),
    let g := s.gcount
    let enough := max ((h.quiet.getD 0 : Nat) : Int) g - h.origin + 1024 ≤ m + h.sigma + delta
    let due := fun (n : Int) => ((h.origin : Int) + n + h.sigma + delta).toNat
    let base : Heat := { h with phase := .running, sigma := h.sigma + delta, stopS := none, quiet := none, byTrap := false,
                                trapCores := [], stopReq := none, cutK := none }
    let over_ := (s.heat p).phase = .none ∨ (s.heat p).phase = .ended
    let stands := s.heat p = h ∨ (over_ ∧ ∃ l r, s.parked = l ++ (p, h) :: r ∧ ∀ y, y ∈ l → ¬(y.1 = p ∧ y.2.phase = h.phase))
    let marked := fun (c : Nat) (x : Shadow) => c ∈ h.cores ∧ (s.core c).shadow = some x ∧ x.heat = h.origin
    stands →
    (h.phase = .trapped → (∃ c x, marked c x ∧ x.sched = m) → (∀ c x, marked c x → m ≤ x.sched) →
      (¬enough → exec (.heatRestart p delta) s = .next s) ∧
      (enough → (∀ l, s.tagGood l = true ∧ s.lineBad l = false) → Answers (.heatRestart p delta) s (fun t => t.heat p = base ∧ (∀ q, q ≠ p → t.heat q = s.heat q) ∧
        (∀ c, c ∈ s.partCores p → (t.core c).spanTrap = false) ∧
        (∀ c x, marked c x → (t.core c).seq.due = due x.sched ∧ (t.core c).seq.pos = x.seq.pos ∧
          (t.core c).seq.dom = x.seq.dom ∧ (t.core c).seq.loops = x.seq.loops ∧ (t.core c).seq.branch = x.seq.branch ∧ (t.core c).seq.stopFrom = x.seq.stopFrom ∧
          (t.core c).y = x.y ∧ (t.core c).a = x.a ∧ (t.core c).s = (s.core c).s ∧ (t.core c).q = (s.core c).q ∧
          (t.core c).v = (s.core c).v ∧ (t.core c).sstat = (s.core c).sstat ∧ (t.core c).csp = (s.core c).csp) ∧
        ∀ c, c ∈ h.cores → (∀ x, ¬marked c x) → (t.core c).seq = { (s.core c).seq with bad := none } ∧
          (t.core c).half0.rec_ = none ∧ (t.core c).half1.rec_ = none))) ∧
    (h.phase = .trapped → (∀ c x, ¬marked c x) → exec (.heatRestart p delta) s = .next s) ∧
    (s.heat p = h → h.phase ≠ .trapped → h.phase ≠ .none → h.phase ≠ .ended → exec (.heatRestart p delta) s = .next s) ∧
    (over_ → (∀ y, y ∈ s.parked → ¬(y.1 = p ∧ y.2.phase = .trapped)) → exec (.heatRestart p delta) s = .next s) ∧
    (h.phase = .atCut → (h.saved.map (fun x => x.core)).Nodup → (∃ x, x ∈ h.saved ∧ x.halted = false ∧ x.sched = m) →
      (∀ x, x ∈ h.saved → x.halted = false → m ≤ x.sched) →
      (¬enough → exec (.heatResume p delta) s = .next s) ∧
      (enough → (∀ l, s.tagGood l = true ∧ s.lineBad l = false) → Answers (.heatResume p delta) s (fun t =>
        t.heat p = { base with saved := [] } ∧ (∀ q, q ≠ p → t.heat q = s.heat q) ∧
        ∀ x, x ∈ h.saved → (t.core x.core).s = x.s ∧ (t.core x.core).k = x.k ∧ (t.core x.core).q = x.q ∧
          (t.core x.core).w = x.w ∧ (t.core x.core).y = x.y ∧ (t.core x.core).a = x.a ∧ (t.core x.core).csp = x.csp ∧
          (t.core x.core).bitsDue = x.bitsDue ∧ (t.core x.core).seq.branch = x.seq.branch ∧
          (x.halted = true → (t.core x.core).seq.dom = .halted) ∧
          (x.halted = false → (t.core x.core).seq.due = due x.sched ∧ (t.core x.core).seq.dom = .static)))) ∧
    (s.heat p = h → h.phase ≠ .atCut → h.phase ≠ .none → h.phase ≠ .ended → exec (.heatResume p delta) s = .next s) ∧
    (over_ → (∀ y, y ∈ s.parked → ¬(y.1 = p ∧ y.2.phase = .atCut)) → exec (.heatResume p delta) s = .next s)

/-! The engines of a core. -/

/-- R22, R182, R186 to R188, R239, R242: a tile of a copy. It takes the banks of its valid source bytes for 16 cycles, is read
as they are taken, or 80 cycles later from HBM, takes the banks of its destination for the last 16 cycles, and performs 31
or 95 cycles after its first: the bits of its destination elements take their values and every other bit is as it was. A
tile whose access met a conflict, or whose heat is quiescent, writes nothing. A source byte in ECC error raises class 8, and
a byte written has no error any more (log entry 63).

R185, R186: the value of a position of a copy: zero where its source index is not valid; the source element's bits in a bit
copy; otherwise the source value times the scale, rounded to the destination format in the copy's mode. -/
def Obligations.CopyEngine : Prop :=
  (∀ (s : State) (c id tile : Nat) (x : CopyRun), (s.core c).copyOf id = some x →
    let k := s.core c
    let g := s.gcount
    let r := x.rec_.toNat
    let P := copyPerform x tile
    let fromSpad := wordSpace (copySrc r) = 0
    let toSpad := wordSpace (copyDst r) = 0
    let takes := fun (ins : Instr) (op : BankOp) (bytes : List Nat) (l : List Event) => ∀ banks : BitVec 16,
      (∀ n, n < 16 → (banks.getLsbD n = true ↔ ∃ y, y ∈ bytes ∧ bankOf y = n)) →
      Answers ins s (fun t => OnlyCore s t c ∧ Adds s t (⟨g, .bankAccess c k.nextId .occupy⟩ :: l) ∧
        let a : Access := ⟨k.nextId, 6, x.issue, c, banks, 0, g, g + 15, none, x.pos, x.seg, op⟩
        t.core c = { k with acc := k.acc ++ [a], nextId := k.nextId + 1 })
    let next : List Event := if tile + 1 < x.tiles then [⟨g + 16, .copyTile c id (tile + 1) .occupy⟩] else []
    let rest : List Event := (if toSpad then [⟨max (P - 15) g, .copyTile c id tile .reserve⟩] else []) ++
      [⟨max P g, .copyTile c id tile .perform⟩]
    let l := sget [] x.read tile
    let others := fun (k : Core) => k.acc.filter (fun a => decide (a.op ≠ .copySrc id tile) && decide (a.op ≠ .copyDst id tile))
    let h := s.heat (s.partOf c)
    let void := (h.phase = .stopping ∧ h.quiet = some g) ∨
      ∃ a, a ∈ k.acc ∧ (a.op = .copySrc id tile ∨ a.op = .copyDst id tile) ∧ a.conflictAt ≠ none
    let readTile := fun (t : State) => (t.core c).copyOf id = some { x with read := sset [] x.read tile (s.tileBytes c r tile) }
    let leaves := fun (t : State) => { t with cores := s.cores } = s ∧ (∀ d, d ≠ c → t.core d = s.core d) ∧
      (t.core c).acc = others k ∧ (tile + 1 = x.tiles → (t.core c).copyOf id = none) ∧
      { t.core c with acc := k.acc, copies := k.copies, spad := k.spad, badSpad := k.badSpad, outq := k.outq } = k
    (s.begins c x.start = true → fromSpad → takes (.copyTile c id tile .occupy) (.copySrc id tile) (tileSource r tile)
      (next ++ [⟨g, .copyTile c id tile .read⟩] ++ rest)) ∧
    (s.begins c x.start = true → ¬fromSpad → Answers (.copyTile c id tile .occupy) s (fun t =>
      Adds s t (next ++ [⟨g + 80, .copyTile c id tile .read⟩] ++ rest) ∧ { t with agenda := s.agenda } = s)) ∧
    (s.begins c x.start = false → Answers (.copyTile c id tile .occupy) s (fun t => OnlyCore s t c ∧ t.agenda = s.agenda ∧
      t.core c = { k with copies := k.copies.filter (fun y => decide (y.id ≠ id)) })) ∧
    ((fromSpad → ∀ y, y ∈ k.badSpad → y ∉ tileSource r tile) → Answers (.copyTile c id tile .read) s (fun t =>
      OnlyCore s t c ∧ t.agenda = s.agenda ∧ readTile t ∧ { t.core c with copies := k.copies } = k)) ∧
    (∀ y u v, fromSpad → k.badSpad = u ++ y :: v → (∀ z, z ∈ u → z ∉ tileSource r tile) → y ∈ tileSource r tile →
      Answers (.copyTile c id tile .read) s (fun t => readTile t ∧
        let e := s.raiseTrap c ⟨8, 2, 0, some (x.pos, x.seg), y⟩
        { t with cores := e.cores } = e ∧ (∀ d, d ≠ c → t.core d = e.core d) ∧ { t.core c with copies := k.copies } = e.core c)) ∧
    takes (.copyTile c id tile .reserve) (.copyDst id tile) (tileDest r tile) [] ∧
    ((∀ a b, a ∈ k.acc → b ∈ k.acc → a.op = b.op → a = b) →
      (void → Answers (.copyTile c id tile .perform) s (fun t => leaves t ∧ (t.core c).spad = k.spad ∧
        (t.core c).badSpad = k.badSpad ∧ (t.core c).outq = k.outq)) ∧
      (¬void → toSpad → Answers (.copyTile c id tile .perform) s (fun t => leaves t ∧ (t.core c).outq = k.outq ∧
        (∀ a, (∀ y, y ∈ l → y.1 ≠ a) → (t.core c).spad.read a = k.spad.read a) ∧
        (∀ u y v, l = u ++ y :: v → (∀ z, z ∈ u ++ v → z.1 ≠ y.1) →
          (t.core c).spad.read y.1 = (k.spad.read y.1 &&& ~~~y.2.1) ||| y.2.2) ∧
        ∀ y, y ∈ (t.core c).badSpad ↔ y ∈ k.badSpad ∧ ∀ z, z ∈ l → z.1 ≠ y)) ∧
      (¬void → ¬toSpad → Answers (.copyTile c id tile .perform) s (fun t => leaves t ∧ (t.core c).spad = k.spad ∧
        (t.core c).badSpad = k.badSpad ∧
        (t.core c).outq = k.outq ++ l.filterMap (fun y => ((s.heat (s.partOf c)).pinned y.1).map (fun pa =>
          (⟨g, pa, y.2.1, y.2.2⟩ : OutByte))))))) ∧
  (∀ (s : State) (c r : Nat) (t : List Nat),
    let valid := ∀ d n, t[d]? = some n → n < fld r (96 * d + 336) 16
    let sfmt := fld r 256 5
    let dfmt := fld r 261 5
    let scale := fld r 269 8
    let w := fmtWidth sfmt
    let base := fld r 128 60
    let pos := fun (i : Nat) => signedVal 32 (fld r (96 * i + 352) 32)
    let first : Int := 8 * (base : Int) + w * (t.zipIdx.map (fun p => (p.1 : Int) * pos p.2)).sum
    let byte := fun (a : Nat) => (s.core c).spad.read a
    let bits := fun (lo n : Nat) => natOf ((List.range ((lo + n - 1) / 8 + 1 - lo / 8)).map (fun i => byte (lo / 8 + i))) /
      2 ^ (lo % 8) % 2 ^ n
    (¬valid → s.copyResult c r t = 0) ∧
    (valid → fld r 188 4 = 0 → 0 ≤ first → sfmt = dfmt → scale = 0x7F →
      s.copyResult c r t = bits first.toNat w) ∧
    (valid → fld r 188 4 = 0 → 0 ≤ first → (sfmt ≠ dfmt ∨ scale ≠ 0x7F) → s.copyResult c r t =
      convertValue dfmt (fld r 266 2) (decide (fld r 268 1 = 1)) (xmul (widen sfmt (bits first.toNat w)) (scaleE8M0 scale))))

/-- R200, R242, R253, R254, R258, R259, R262, R265, R267, R273, R279, R305: the intake of a pour. It asks for the last bytes of
a stream only when they have room, those of the pooled memory device through its extents (log entry 39), where a request parks
when they do not lead to it (R306, log entry 30), to be sent again or given up, and a fence that waits for one that parked
(R202, log entry 69) looks again once it is over; what arrives is kept from the next block to be removed on, and counts at the
pour's barrier unless it counted before a restart (log entry 66; how many bytes one request asks for is log entry 31): only a
stream outside HBM names a barrier (R189); an expander above the tundish takes the blocks in stream order. From the stop on
nothing of this happens. -/
def Obligations.PourArrivals : Prop :=
  ∀ (s : State) (c id : Nat) (r : PourRun) (p : PourDesc), (s.core c).pour id = some (r, p) → r.id = id →
    let k := s.core c
    let g := s.gcount
    let flows := s.begins c r.start = true ∧ s.flows c = true
    let becomes := fun (t : State) (x : PourRun) => (t.core c).runOf id = some x ∧ (∀ d, d ≠ c → t.core d = s.core d) ∧
      (∀ j, j ≠ id → (t.core c).runOf j = k.runOf j)
    let n := min p.chunk (p.total - r.asked)
    let only := fun (t : State) => { t.core c with runs := k.runs } = k ∧
      { t with cores := s.cores, agenda := s.agenda, choice := s.choice } = s
    let space := fld p.src 60 4
    let lo := p.streamEnd r.asked
    let leads := s.extentAddr (s.partOf c) (fld p.src 0 60 + lo) (p.streamEnd p.total - lo)
    let req : PourReq := ⟨r.asked, n, lo, p.streamEnd p.total - lo, leads, k.freeTag, leads.isNone⟩
    let parked := fun (e : PourReq) => e.at_ = none ∧ k.parkedAt e.tag = none ∧ k.pourParked e.tag = some (r, e)
    let fresh := fun (a b : Nat) => b - a - (r.counted.map (fun x => min x.2 b - max x.1 a)).sum
    let counts := fun (t : State) (lo hi : Nat) => ∀ b, r.bar = some b →
      let old := k.rb b
      let now := if old.at_ < g ∧ (old.delta ≠ 0 ∨ old.post = true) then old.settled else old
      (t.core c).rb b = { now with at_ := g, delta := now.delta - (fresh lo hi : Int) } ∧
      ∀ a, a ≠ b → (t.core c).rb a = k.rb a
    let onTime := fun (off : Nat) => r.reqs.map (fun q => if q.off = off then { q with late := false } else q)
    (¬flows → exec (.pourRequest c id) s = .next s ∧ (∀ off len, exec (.pourArrival c id off len) s = .next s) ∧
      (∀ j, exec (.blockExpansion c id j) s = .next s) ∧ (∀ j, exec (.blockRemoval c id j) s = .next s)) ∧
    (s.flows c = false → exec (.codebookDelivery c id) s = .next s) ∧
    (flows → p.isStatic = false → (n = 0 ∨ p.cap < r.fullness p + r.flying + n) → exec (.pourRequest c id) s = .next s) ∧
    (flows → p.isStatic = false → 0 < n → r.asked + n = p.total → r.fullness p + r.flying + n ≤ p.cap →
      (space ≠ 3 → Answers (.pourRequest c id) s (fun t => becomes t { r with asked := p.total, flying := r.flying + n } ∧
        Sometime s t 1 (.pourArrival c id r.asked n) ∧ only t)) ∧
      (space = 3 → req.at_ ≠ none → Answers (.pourRequest c id) s (fun t =>
        becomes t { r with asked := p.total, flying := r.flying + n, reqs := r.reqs ++ [req] } ∧
        Sometime s t 1 (.pourArrival c id r.asked n) ∧ only t)) ∧
      (space = 3 → req.at_ = none → Answers (.pourRequest c id) s (fun t =>
        becomes t { r with asked := p.total, flying := r.flying + n, reqs := r.reqs ++ [req] } ∧
        (t.core c).fw.fpend.getLsbD 2 = true ∧ ∀ e, e ∈ t.agenda → e.instr = .pourArrival c id r.asked n → e ∈ s.agenda))) ∧
    (∀ e, parked e →
      (∀ a, s.extentAddr (s.partOf c) (fld p.src 0 60 + p.streamEnd e.off) (p.streamEnd (e.off + e.len) - p.streamEnd e.off) =
          some a → Answers (.parkedRequestReplay c e.tag) s (fun t => Sometime s t 1 (.pourArrival c id e.off e.len) ∧ only t ∧
        ∃ y, becomes t { r with reqs := r.reqs.filter (fun z => decide (z ≠ e)) ++ [y] } ∧ y.at_ = some a ∧ y.off = e.off ∧
          y.len = e.len ∧ y.late = true)) ∧
      ∃ s1 : State, only s1 ∧ becomes s1 { r with reqs := r.reqs.filter (fun z => decide (z ≠ e)) } ∧
        Adds s s1 [⟨g + 1, .fenceRelease c false⟩] ∧
        exec (.parkedRequestAbandon c e.tag) s =
          .next (s1.raiseTrap c ⟨7, 1, 0, none, (fld p.src 0 60 + e.src) % 2 ^ 64 + e.tag * 2 ^ 64⟩)) ∧
    (∀ off len, flows → r.waitsFor p off = true → Answers (.pourArrival c id off len) s (fun t =>
      Adds s t [⟨g + 1, .pourArrival c id off len⟩] ∧ { t with agenda := s.agenda } = s)) ∧
    (∀ off len, flows → p.isStatic = false → p.point = 3 → Answers (.pourArrival c id off len) s (fun t =>
      let lo := min (off + len) (max off (p.toff r.next))
      becomes t { r with entered := r.entered.writeBytes lo (s.streamBytes c r p (p.soff 0 + lo) (off + len - lo)),
                         got := r.got ++ [(off, off + len)], flying := r.flying - len, reqs := onTime off } ∧
      (r.bar = none → { t.core c with runs := k.runs } = k) ∧ counts t off (off + len) ∧
      ((∃ q, q ∈ r.reqs ∧ q.late = true ∧ q.off = off) → ({ at_ := g + 1, instr := .fenceRelease c false } : Event) ∈ t.agenda) ∧
      (∀ x, x ∈ s.agenda → x ∈ t.agenda) ∧ ({ at_ := g, instr := .pourRequest c id } : Event) ∈ t.agenda)) ∧
    (∀ off len, flows → p.isStatic = true → r.bar = none → r.waitsFor p off = false → Answers (.pourArrival c id off len) s (fun t =>
      let lo := min (off + len) (max off (p.toff r.next))
      (∃ m, becomes t { r with entered := r.entered.writeBytes lo (s.tundishBytes c r p lo (off + len)),
                               got := r.got ++ [(off, off + len)], arrivals := m }) ∧
      { t.core c with runs := k.runs } = k ∧ (∀ x, x ∈ s.agenda → x ∈ t.agenda) ∧
      t.hbm = s.hbm ∧ (t.core c).spad = k.spad)) ∧
    (∀ j, flows → p.point < 3 → r.nextExp = j → j < p.nblk →
      let bs := s.streamBytes c r p (p.soff j) (p.clen j)
      let reason := p.reason j bs
      Answers (.blockExpansion c id j) s (fun t => OnlyCore s t c ∧ t.agenda = s.agenda ∧
        { t.core c with runs := k.runs } = k ∧ ∃ x, (t.core c).runOf id = some x ∧ x.nextExp = j + 1 ∧
          (∀ i, i ≠ j → sget none x.expanded i = sget none r.expanded i) ∧ x.entered = r.entered ∧ x.got = r.got ∧
          (p.method j < 3 → reason ≠ 0 →
            sget none x.expanded j = some ⟨List.replicate (p.xsize j) 0, reason, 0, 0⟩ ∧ x.books = r.books ∧
            x.tables = r.tables) ∧
          (p.method j = 0 → reason = 0 → ∃ out, sget none x.expanded j = some ⟨out, 0, 0, (bs.drop 16).length⟩ ∧
            out.length = p.xsize j ∧ ∀ i, i < p.xsize j → out.getD i 0 = (bs.drop 16).getD i 0))) ∧
    (s.flows c = true → Answers (.codebookDelivery c id) s (fun t => becomes t { r with preload := r.preload.drop 1 } ∧
      (1 < r.preload.length → Sometime s t 1 (.codebookDelivery c id)) ∧ (r.preload.length ≤ 1 → t.agenda = s.agenda) ∧
      { t with cores := s.cores, agenda := s.agenda, choice := s.choice } = s))

/-- R242, R263, R264, R267, R268, R270, R271, R280: the removal of a block whose expander stands at the core. A complete and
sound block that a `TAKE` names is expanded into pieces of at most 1 KiB, which perform one a cycle; one that is not taken
is skipped. Where bytes are missing, the block is corrupt, or the slot it needs is still on its way after a restart, the
policy decides: the timing trap, or zeros in poisoned granules with an event. A piece writes exactly its bytes. That the
policy holds for a block no `TAKE` names too is log entry 32.

R22, R263, R264: a piece of an expanded block takes its banks and performs in one cycle: exactly its bytes are written, its
granule's poison is set for a blanked block and cleared by a whole granule of a sound one; a piece whose access met a
conflict writes nothing. Where the size error of the policy `TRAP` is due, nothing is written and the timing trap follows, but
none once work no longer begins (R242). -/
def Obligations.BlockRemovals : Prop :=
  (∀ (s : State) (c id j : Nat) (r : PourRun) (p : PourDesc), (s.core c).pour id = some (r, p) → r.id = id → r.bar = none →
    r.next = j → r.closed = false → s.begins c r.start = true → s.flows c = true → p.point = 3 → p.isStatic = true →
    p.method j < 3 →
    let k := s.core c
    let g := s.gcount
    let bs := r.entered.readBytes (p.toff j) (p.tsize j)
    let complete := p.tsize j ≤ r.present p j
    let sound := p.reason j bs = 0
    let missed := (p.method j = 1 ∨ p.method j = 2) ∧
      ∃ i, i ∈ r.preload ∧ p.method i = p.method j + 2 ∧ p.slot i = p.slot j
    let fails := ¬complete ∨ ¬sound ∨ missed
    let take := r.takes.find? (fun t => decide (t.block = j))
    let gone := fun (t : State) => ∃ x, (t.core c).runOf id = some x ∧ x.next = j + 1 ∧ x.closed = decide (p.nblk ≤ j + 1) ∧
      (∀ a, p.toff (j + 1) ≤ a → x.entered.read a = r.entered.read a) ∧ (∀ u, u ∈ x.takes ↔ u ∈ r.takes ∧ u.block ≠ j) ∧
      x.got = r.got ∧ x.books = r.books ∧ x.tables = r.tables
    let nextOne := fun (t : State) =>
      j + 1 < p.nblk → ({ at_ := max (r.removal p (j + 1)) g, instr := .blockRemoval c id (j + 1) } : Event) ∈ t.agenda
    let removes := fun (P : State → Prop) => Answers (.blockRemoval c id j) s (fun t => gone t ∧ nextOne t ∧
      (t.core c).spad = k.spad ∧ (∀ d, d ≠ c → t.core d = s.core d) ∧ P t)
    let pieces := fun (t : State) (u : Take) (out : List Byte) (poison : Bool) =>
      let np := (out.length + 1023) / 1024
      let first := g + p.allow + 1 - np
      0 < np → np ≤ p.allow + 1 → ∃ x, (t.core c).pieces = k.pieces ++ [x] ∧ x.dst = u.dst ∧ x.bytes = out ∧ x.np = np ∧
        x.poison = poison ∧ x.trap = false ∧ ∀ i, i < np →
          ({ at_ := first + i, instr := .expansionPiece c x.id i .occupy } : Event) ∈ t.agenda ∧
          ({ at_ := first + i, instr := .expansionPiece c x.id i .perform } : Event) ∈ t.agenda
    let trapped := fun (cause : Nat) (b : Option (Nat × Nat)) => ∃ s1 : State, gone s1 ∧ (s1.core c).spad = k.spad ∧
      exec (.blockRemoval c id j) s = .next (s1.raiseTrap c ⟨5, cause, 0, b, j + r.intake * 2 ^ 64⟩)
    (¬fails → take = none → removes (fun t => (t.core c).pieces = k.pieces)) ∧
    (∀ u, ¬fails → take = some u → p.method j = 0 → removes (fun t => ∃ out,
      out.length = p.xsize j ∧ (∀ i, i < p.xsize j → out.getD i 0 = (bs.drop 16).getD i 0) ∧ pieces t u out false)) ∧
    ((¬complete ∨ ¬sound) → p.trapPolicy = true → trapped 7 (take.map (fun u => (u.pos, u.seg)))) ∧
    (complete → sound → missed → p.trapPolicy = true → trapped 8 (take.map (fun u => (u.pos, u.seg)))) ∧
    (fails → p.trapPolicy = false → take = none → removes (fun t => (t.core c).pieces = k.pieces)) ∧
    (∀ u, fails → p.trapPolicy = false → take = some u → removes (fun t =>
      (t.core c).fw.fpend.getLsbD 2 = true ∧ pieces t u (List.replicate (p.xsize j) 0) true))) ∧
  (∀ (s : State) (c id n : Nat) (x : PieceRun), (s.core c).pieces.find? (fun y => decide (y.id = id)) = some x →
    let k := s.core c
    let g := s.gcount
    let bs := (x.bytes.drop (1024 * n)).take 1024
    let a := x.dst + 1024 * n
    let left := fun (t : State) => OnlyCore s t c ∧ t.agenda = s.agenda ∧
      (t.core c).acc = k.acc.filter (fun y => decide (y.op ≠ .piece id n)) ∧
      (t.core c).pieces = (if n + 1 < x.np then k.pieces else k.pieces.filter (fun y => decide (y.id ≠ id))) ∧
      { t.core c with acc := k.acc, pieces := k.pieces, spad := k.spad, badSpad := k.badSpad, poison := k.poison } = k
    let void := ∃ y, y ∈ k.acc ∧ y.op = .piece id n ∧ y.conflictAt ≠ none
    Answers (.expansionPiece c id n .occupy) s (fun t => OnlyCore s t c ∧ Adds s t [⟨g, .bankAccess c k.nextId .occupy⟩] ∧
        let op : Access := ⟨k.nextId, 6, x.issue, c, rangeBanks a bs.length, a, g, g, none, x.pos, x.seg, .piece id n⟩
        t.core c = { k with acc := k.acc ++ [op], nextId := k.nextId + 1 }) ∧
    (x.trap = true → s.flows c = true → Answers (.expansionPiece c id n .perform) s (fun t => (t.core c).spanTrap = true ∧
      (t.core c).spad = k.spad ∧ (t.core c).pieces = k.pieces.filter (fun y => decide (y.id ≠ id)))) ∧
    (x.trap = true → s.flows c = false → Answers (.expansionPiece c id n .perform) s (fun t => OnlyCore s t c ∧
      t.agenda = s.agenda ∧ t.core c = { k with pieces := k.pieces.filter (fun y => decide (y.id ≠ id)) })) ∧
    (x.trap = false → (x.err = 0 ∨ n + 1 < x.np) → (∀ y z, y ∈ k.acc → z ∈ k.acc → y.op = z.op → y = z) →
      (void → Answers (.expansionPiece c id n .perform) s (fun t => left t ∧ (t.core c).spad = k.spad ∧
        (t.core c).badSpad = k.badSpad ∧ (t.core c).poison = k.poison)) ∧
      (¬void → Answers (.expansionPiece c id n .perform) s (fun t => left t ∧
        (∀ i, i < bs.length → (t.core c).spad.read (a + i) = bs.getD i 0) ∧
        (∀ y, (y < a ∨ a + bs.length ≤ y) → (t.core c).spad.read y = k.spad.read y) ∧
        (∀ y, y ∈ (t.core c).badSpad ↔ y ∈ k.badSpad ∧ (y < a ∨ a + bs.length ≤ y)) ∧
        (x.poison = true → ∀ y, y ∈ (t.core c).poison ↔ y = a / 1024 ∨ y ∈ k.poison) ∧
        (x.poison = false → bs.length = 1024 → ∀ y, y ∈ (t.core c).poison ↔ y ≠ a / 1024 ∧ y ∈ k.poison) ∧
        (x.poison = false → bs.length ≠ 1024 → (t.core c).poison = k.poison)))))

/-- R192, R193, R195, R239, R242, R289, R296, R298, R299: a crucible command. At its start its data is read and it is sent, to
reach its bank 24 or 64 cycles later; it joins the bank's queue of at most 16 commands behind those that come before it by
arrival, START, core and issue, and the queue-overflow trap follows on a full one; in a window it takes effect in its last
cycle: its extent takes the new elements, and no other byte changes, and the next command starts in the next cycle. In a
window that does not end before Q it does nothing. Data or an extent in error raises class 8 or 9. -/
def Obligations.CrucibleCommands : Prop :=
  ∀ (s : State) (c id : Nat) (x : CrucCmd), (s.core c).crucOf id = some x →
    let k := s.core c
    let g := s.gcount
    let r := x.rec_.toNat
    let n := fld r 256 11
    let data := fld r 192 60
    let ch := paChannel x.pa
    let b := paBank x.pa
    let bank := s.bank ch b
    let arrives := g + (if c / 64 = ch / 96 then 24 else 64)
    let void := ∃ y, y ∈ k.acc ∧ y.op = .crucData id ∧ y.conflictAt ≠ none
    let late := ∃ S, s.workStop c = some S ∧ S < g
    let f := if x.kind = 0x15 then 10 else fld r 270 5
    let w := fmtWidth f
    let old := fun (j : Nat) => elem w (natOf ((List.range n).map (fun i => s.hbm.read (x.pa + i)))) j
    let new := fun (j : Nat) =>
      let y := old j
      let v := elem w (natOf x.data) j
      let param := fld r 288 32
      if x.kind = 0x15 then param
      else if x.kind = 0x14 then roundTo f 0 (xadd 0 (xmul (widen 10 param) (widen f v)) (widen f y))
      else if fld r 267 3 = 0 then (if f = 2 then (y + v) % 2 ^ 32 else roundTo f 0 (xadd 0 (widen f y) (widen f v)))
      else if fld r 267 3 = 1 then fmtPick f true y v else fmtPick f false y v
    let before := fun (y : CrucCmd) => y.arrival < x.arrival ∨ (y.arrival = x.arrival ∧ (y.start < x.start ∨
      (y.start = x.start ∧ (y.core < x.core ∨ (y.core = x.core ∧ y.issue < x.issue)))))
    let spoilt := fun (y : Nat) => y ∈ k.badSpad ∧ data ≤ y ∧ y < data + n
    let badLine := s.paStale x.pa = false ∧
      ∃ i, x.pa < 64 * i + 64 ∧ 64 * i < x.pa + n ∧ (s.tagGood i = false ∨ s.lineBad i = true)
    let sent := fun (t : State) => ({ at_ := arrives, instr := .crucibleArrival c id } : Event) ∈ t.agenda ∧
      (t.core c).spad = k.spad ∧
      ∃ bytes, (t.core c).crucOf id = some { x with data := bytes, sent := true, arrival := arrives } ∧
        (x.kind = 0x15 → bytes = []) ∧ (x.kind ≠ 0x15 → bytes = (List.range n).map (fun i => k.spad.read (data + i)))
    (s.begins c x.start = false → Answers (.crucibleSend c id .occupy) s (fun t => OnlyCore s t c ∧ t.agenda = s.agenda ∧
      t.core c = { k with cruc := k.cruc.filter (fun y => decide (y.id ≠ id)) })) ∧
    (s.begins c x.start = true → x.kind = 0x15 → exec (.crucibleSend c id .occupy) s = .next s) ∧
    (s.begins c x.start = true → x.kind ≠ 0x15 →
      Answers (.crucibleSend c id .occupy) s (fun t => OnlyCore s t c ∧ Adds s t [⟨g, .bankAccess c k.nextId .occupy⟩] ∧
        let op : Access := ⟨k.nextId, 6, x.issue, c, rangeBanks data n, data, g, g, none, x.pos, x.seg, .crucData id⟩
        t.core c = { k with acc := k.acc ++ [op], nextId := k.nextId + 1 })) ∧
    ((∀ y z, y ∈ k.acc → z ∈ k.acc → y.op = z.op → y = z) →
      (void → Answers (.crucibleSend c id .perform) s (fun t => OnlyCore s t c ∧ t.agenda = s.agenda ∧
        (t.core c).crucOf id = none)) ∧
      (¬void → (x.kind = 0x15 ∨ ∀ y, ¬spoilt y) → Answers (.crucibleSend c id .perform) s (fun t => OnlyCore s t c ∧
        Adds s t [{ at_ := arrives, instr := .crucibleArrival c id }] ∧ sent t)) ∧
      (¬void → x.kind ≠ 0x15 → (∃ y, spoilt y) → Answers (.crucibleSend c id .perform) s (fun t =>
        (t.core c).spanTrap = true ∧ sent t))) ∧
    (late → Answers (.crucibleArrival c id) s (fun t => OnlyCore s t c ∧ (t.core c).crucOf id = none ∧
      t.agenda = s.agenda)) ∧
    (¬late → bank.queue.length < 16 → Answers (.crucibleArrival c id) s (fun t => OnlyChan s t ch ∧ t.agenda = s.agenda ∧
      (∀ d, d ≠ b → t.bank ch d = s.bank ch d) ∧ ∃ u v, bank.queue = u ++ v ∧
        t.bank ch b = { bank with queue := u ++ (x.core, x.id) :: v } ∧
        (∀ e y, e ∈ u → (s.core e.1).crucOf e.2 = some y → before y) ∧
        (∀ e w, v = e :: w → ∃ y, (s.core e.1).crucOf e.2 = some y ∧ ¬before y))) ∧
    (¬late → 16 ≤ bank.queue.length → ∃ (s1 : State) (d : Nat), OnlyCore s s1 c ∧ (s1.core c).crucOf id = none ∧
      s1.agenda = s.agenda ∧ exec (.crucibleArrival c id) s = .next (s1.raiseTrap (64 * (ch / 96)) ⟨6, 2, 0, none, d⟩) ∧
      fld d 0 64 = cycle64 (s.heatCycle c) ∧ fld d 151 9 = ch % 512 ∧ fld d 96 32 = b ∧ fld d 160 8 = 32) ∧
    (∀ first last rest, bank.window = some (first, last) → bank.queue = (c, id) :: rest → bank.busy = g → x.core = c →
      x.id = id → x.kind ∈ [0x13, 0x14, 0x15] → x.arrival ≤ first → g ≤ last → w ∈ [16, 32] → n % 4 = 0 → 0 < n →
      (x.kind ≠ 0x15 → x.data.length = n) →
      let runs := ∀ q, (s.heat (if s.mgmt.pmode = 0 then 0 else ch / 96)).quiet = some q → last < q
      let leaves := fun (t : State) =>
        (t.bank ch b).queue = rest ∧ (t.bank ch b).window = bank.window ∧
        (∀ d, d ≠ b → t.bank ch d = s.bank ch d) ∧ (∀ d, d ≠ ch → t.chan d = s.chan d) ∧
        (t.core c).crucOf id = some { x with fin := some last } ∧
        (∃ e, e ∈ t.agenda ∧ e.instr = .cfenceRelease c ∧ e.at_ = last + 1) ∧
        ∀ e v y, rest = e :: v → e ≠ (c, id) → (s.core e.1).crucOf e.2 = some y → y.fin = none → y.arrival ≤ first →
          let z := g + 1 + (fld y.rec_.toNat 256 11 + 255) / 256
          z ≤ last → (t.bank ch b).busy = z ∧ ({ at_ := z, instr := .crucibleExecute ch b } : Event) ∈ t.agenda
      let writes := fun (t : State) => (∀ a, (a < x.pa ∨ x.pa + n ≤ a) → t.hbm.read a = s.hbm.read a) ∧
        (∀ j i, j < 8 * n / w → i < w / 8 → (t.hbm.read (x.pa + w / 8 * j + i)).toNat = elem 8 (new j % 2 ^ w) i)
      let others := fun (t : State) => { t.core c with cruc := k.cruc } = k ∧ ∀ d, d ≠ c → t.core d = s.core d
      (runs → ¬badLine → Answers (.crucibleExecute ch b) s (fun t => writes t ∧ leaves t ∧ others t)) ∧
      (runs → badLine → Answers (.crucibleExecute ch b) s (fun t => writes t ∧ leaves t ∧ (t.core c).spanTrap = true)) ∧
      (¬runs → Answers (.crucibleExecute ch b) s (fun t => t.hbm = s.hbm ∧ t.lines = s.lines ∧ leaves t ∧ others t)))

/-- R24, R184, R196, R197, R200, R229, R239, R253, R304, R305, R362: the requests of a `PUT` or `GET` between a scratchpad or HBM
and a tier, the host or a peer. The next request goes out when fewer than 2048 of the core's own are outstanding: at most to the
next 4 KiB of the far address; the far side serves it, or accepts its bytes, at a time of its own; one scratchpad bank's part
performs in a cycle in which no static access holds the bank, and counts at the barrier. A request whose address does not
translate at either end parks (log entry 30); it is sent again, with the parts that are left, or given up with the trap of
class 7. An address of the pooled memory device leads through the extent that its bits 43:40 choose (log entry 39). Of a request
that reads tables or PEERTAB the statement speaks where the tag of no HBM line fails; R299 has the other case.

R197, R200, R229, R253, R291, R295, R299: a part of a request in HBM, of a core's own command or of what a peer sends. It
waits for a cycle in which its bank is served and performs there, in the row to which the page tables lead: bytes of a `GET`
or of a peer's `PUT` are written and no other byte of HBM changes, the source of a `PUT` is read, and both count at the barrier.
A page that no longer translates parks the core's request (log entry 30), and a peer's bytes perform nowhere (log entry 20). No
tag of a line fails here, the row group is not stale, and a `PUT` reads no line in error.

R197, R200, R229, R235: what a peer sends and asks for. The bytes of its `PUT`, at a device virtual address of this device,
become a request of the named core, one part to a row of HBM, which performs as Obligations.HbmParts says, through the page
tables of the core's partition (log entry 20); its `GET` becomes one at core 0 of a partition (log entry 20), one part to a
row, whose bytes go back once the last part has been read in a service slot. Bytes for the scratchpad itself, which no address
word gives, are the model's own form: one part to a bank, and nothing beyond the scratchpad (log entry 74). -/
def Obligations.DynamicRequests : Prop :=
  (∀ (s : State) (c id : Nat) (x : DynCmd), (s.core c).dynOf id = some x → x.id = id → x.remote = false →
    let k := s.core c
    let g := s.gcount
    let r := x.rec_.toNat
    let len := fld r 256 32
    let peer := fld r 320 16
    let farWord := if x.get then fld r 128 64 else fld r 192 64
    let far := fld farWord 0 60
    let farSpace := fld farWord 60 4
    let near := if x.get then fld r 192 60 else fld r 128 60
    let nearSpace := if x.get then fld r 252 4 else fld r 188 4
    let ends := (farSpace ∈ [3, 4, 5] ∨ (x.get = true ∧ farSpace = 2)) ∧ nearSpace ≤ 1
    let clean := farSpace = 5 ∨ nearSpace = 1 → ∀ l, s.tagGood l = true
    let becomes := fun (t : State) (y : DynCmd) => (t.core c).dynOf id = some y ∧
      (∀ j, j ≠ id → (t.core c).dynOf j = k.dynOf j) ∧ (∀ d, d ≠ c → t.core d = s.core d)
    let only := fun (t : State) =>
      { t with cores := s.cores, agenda := s.agenda, choice := s.choice, trace := s.trace, cache := s.cache } = s ∧
      (nearSpace = 0 → t.cache = s.cache) ∧ { t.core c with dyn := k.dyn } = k
    let event := fun (t : State) (least : Nat) (i : Instr) => ∃ e, e ∈ t.agenda ∧ e.instr = i ∧ g + least ≤ e.at_
    let unit_ := if nearSpace = 1 then 1024 else 256
    let part := fun (off : Nat) => if nearSpace = 1 then Instr.dynamicRequestPerform c id off else .dynamicBankAccess c id off
    let begins := fun (q : Req) (off : Nat) => q.off ≤ off ∧ off < q.off + q.len ∧ (off = q.off ∨ (near + off) % unit_ = 0)
    let leads := fun (off m : Nat) => s.farAddr (s.partOf c) peer (farWord + off) m
    let nearFault := fun (off m : Nat) =>
      if nearSpace = 1 then (s.dynRange (c / 64) (s.partOf c) x.get 3 (near + off) m).2.1 else none
    let fits := far + len ≤ 2 ^ 60 ∧ near + len ≤ (if nearSpace = 1 then 2 ^ 60 else 0x600000)
    let mem := fun (t : State) => match farSpace with | 2 => t.flash.mem | 3 => t.cxl | 4 => t.host | _ => t.peer
    let counts := fun (t : State) (m : Nat) =>
      let b := fld r 72 5
      let old := k.rb b
      let now := if old.at_ < g ∧ (old.delta ≠ 0 ∨ old.post = true) then old.settled else old
      (t.core c).rb b = { now with at_ := g, delta := now.delta - (m : Int) } ∧ ∀ a, a ≠ b → (t.core c).rb a = k.rb a
    let n := min (4096 - (far + x.next) % 4096) (len - x.next)
    let issue := Instr.dynamicRequestIssue c id
    let outstanding := ((k.dyn.filter (fun y => !y.remote)).map (fun y =>
      (y.reqs.filter (fun q => decide (q.st ≠ .done))).length)).sum
    let asks := s.begins c x.start = true ∧ s.flows c = true ∧ x.next < len ∧ outstanding < 2048 ∧ ends ∧ clean ∧ fits ∧
      ∀ q, q ∈ x.reqs → q.off ≠ x.next ∧ q.off + q.len ≤ x.next
    let sends := fun (t : State) (l : List Nat) (fa : Nat) (st : ReqState) =>
      becomes t { x with next := x.next + n, began := true, reqs := x.reqs ++
        [⟨x.next, n, l, fa, st, List.replicate n 0⟩] } ∧ (∀ e, e ∈ s.agenda → e ∈ t.agenda) ∧
      (x.next + n < len → event t 1 issue)
    let parks := fun (t : State) (va : Nat) => sends t [] 0 (.parked k.freeTag va) ∧ (t.core c).fw.fpend.getLsbD 2 = true ∧
      (t.core c).spad = k.spad ∧ t.hbm = s.hbm ∧ t.host = s.host
    (s.begins c x.start = false ∨ s.flows c = false → Answers issue s (fun t => only t ∧ t.agenda = s.agenda ∧
      becomes t { x with next := len, stepOpen := x.began && x.stepOpen })) ∧
    (s.begins c x.start = true → s.flows c = true → (len ≤ x.next ∨ 2048 ≤ outstanding) → Answers issue s (fun t =>
      only t ∧ t.agenda = s.agenda ∧ becomes t { x with began := true })) ∧
    (asks →
      (∀ fa, leads x.next n = some fa → nearFault x.next n = none → x.get = false → Answers issue s (fun t => only t ∧
        ∃ l, sends t l fa .sent ∧ (∀ off, off ∈ l ↔ begins ⟨x.next, n, l, fa, .sent, []⟩ off) ∧
          ∀ off, off ∈ l → event t 0 (part off))) ∧
      (∀ fa, leads x.next n = some fa → nearFault x.next n = none → x.get = true → Answers issue s (fun t => only t ∧
        sends t [] fa .sent ∧ event t 1 (.dynamicRequestPerform c id x.next))) ∧
      (leads x.next n = none → Answers issue s (fun t => parks t (far + x.next))) ∧
      (∀ fa va, leads x.next n = some fa → nearFault x.next n = some va → Answers issue s (fun t => parks t va))) ∧
    (∀ q, x.reqAt q.off = some q → ends → x.get = true → q.st = .sent → q.todo = [] → 0 < q.len →
      Answers (.dynamicRequestPerform c id q.off) s (fun t => only t ∧ ∃ y q', becomes t y ∧ y.reqAt q.off = some q' ∧
        q'.data = (List.range q.len).map (fun i => (mem s).read (q.farAt + i)) ∧ q'.st = .sent ∧ q'.len = q.len ∧
        (∀ off, off ∈ q'.todo ↔ begins q off) ∧ ∀ off, off ∈ q'.todo → event t 0 (part off))) ∧
    (∀ q, x.reqAt q.off = some q → ends → x.get = false → q.st = .local_ → q.todo = [] → far + q.off < 2 ^ 60 →
      Answers (.dynamicRequestPerform c id q.off) s (fun t =>
        (∀ i, i < q.data.length → (mem t).read (q.farAt + i) = q.data.getD i 0) ∧
        (∀ a, (a < q.farAt ∨ q.farAt + q.data.length ≤ a) → (mem t).read a = (mem s).read a) ∧
        (farSpace ≠ 3 → t.cxl = s.cxl) ∧ (farSpace ≠ 4 → t.host = s.host) ∧ (farSpace ≠ 5 → t.peer = s.peer ∧ t.out = s.out) ∧
        (farSpace = 5 → t.out = s.out ++ [.peerBytes peer (fld r 336 8) (fld r 344 8) (far + q.off) q.data]) ∧
        t.flash = s.flash ∧ { t.core c with dyn := k.dyn } = k ∧ (∀ d, d ≠ c → t.core d = s.core d) ∧ t.hbm = s.hbm)) ∧
    (∀ q off, x.reqAt off = some q → nearSpace = 0 → q.st = .sent → off ∈ q.todo →
      let m := min (256 - (near + off) % 256) (q.off + q.len - off)
      let busy := ∃ a, a ∈ k.acc ∧ a.first ≤ g ∧ g ≤ a.last ∧ a.banks.getLsbD (bankOf (near + off)) = true
      (busy → Answers (.dynamicBankAccess c id off) s (fun t => Adds s t [{ at_ := g + 1, instr := .dynamicBankAccess c id off }] ∧
        { t with agenda := s.agenda } = s)) ∧
      (¬busy → x.get = true → q.data.length = q.len → Answers (.dynamicBankAccess c id off) s (fun t =>
        (∀ i, i < m → (t.core c).spad.read (near + off + i) = q.data.getD (off - q.off + i) 0) ∧
        (∀ a, (a < near + off ∨ near + off + m ≤ a) → (t.core c).spad.read a = k.spad.read a) ∧
        (∀ a, a ∈ (t.core c).badSpad ↔ a ∈ k.badSpad ∧ (a < near + off ∨ near + off + m ≤ a)) ∧
        (fld r 79 1 = 0 → { t.core c with dyn := k.dyn, spad := k.spad, badSpad := k.badSpad } = k) ∧
        (fld r 79 1 = 1 → counts t m) ∧ (∀ d, d ≠ c → t.core d = s.core d) ∧ t.host = s.host ∧ t.hbm = s.hbm)) ∧
      (¬busy → x.get = false → q.data.length = q.len → (∀ a, a ∈ k.badSpad → a < near + off ∨ near + off + m ≤ a) →
        Answers (.dynamicBankAccess c id off) s (fun t => (fld r 79 1 = 0 → { t.core c with dyn := k.dyn } = k) ∧
          (fld r 79 1 = 1 → counts t m) ∧ (t.core c).spad = k.spad ∧ (∀ d, d ≠ c → t.core d = s.core d) ∧ t.host = s.host ∧
          t.hbm = s.hbm ∧ ∃ y q', becomes t y ∧ y.reqAt off = some q' ∧ q'.off = q.off ∧ q'.len = q.len ∧
            (∀ i, i < m → q'.data.getD (off - q.off + i) 0 = k.spad.read (near + off + i)) ∧
            (∀ i, (i < off - q.off ∨ off - q.off + m ≤ i) → q'.data.getD i 0 = q.data.getD i 0) ∧
            ((∃ o, o ∈ q.todo ∧ o ≠ off) → q'.st = .sent) ∧
            ((∀ o, o ∈ q.todo → o = off) → q'.st = .local_ ∧ q'.todo = [] ∧ event t 1 (.dynamicRequestPerform c id q.off))))) ∧
    (∀ part a m d, s.extentAddr part a m = some d ↔
      let e := (sget 0 s.mgmt.extents (16 * part + fld a 40 4)).toNat
      s.mgmt.priv.getLsbD part = true ∧ s.mgmt.linkbActive = true ∧ fld a 44 16 = 0 ∧ fld e 0 1 = 1 ∧
        fld a 0 40 + m ≤ fld e 44 20 * 2 ^ 21 ∧ d = fld e 21 23 * 2 ^ 21 + fld a 0 40) ∧
    (∀ tag, k.parkedAt tag = none → (∀ y q, y ∈ k.runs → q ∈ y.reqs → q.tag = tag → q.at_ ≠ none) → exec (.parkedRequestReplay c tag) s = .next s ∧
      exec (.parkedRequestAbandon c tag) s = .next s) ∧
    (∀ tag off va q, k.parkedAt tag = some (id, off, va) → x.reqAt off = some q → q.off = off → ends → clean → fits →
      q.off + q.len ≤ len → (∀ q', q' ∈ x.reqs → q'.off = off → q' = q) →
      (∀ fa, leads off q.len = some fa → nearFault off q.len = none → Answers (.parkedRequestReplay c tag) s (fun t => only t ∧
        (∃ y q', becomes t y ∧ y.reqAt off = some q' ∧ q'.st = .sent ∧ q'.farAt = fa ∧ q'.data = q.data) ∧
        (x.get = true → q.todo = [] → event t 1 (.dynamicRequestPerform c id off)) ∧
        (x.get = false → q.todo = [] → ∀ o, begins q o → event t 1 (part o)) ∧
        ∀ o, o ∈ q.todo → event t 1 (part o))) ∧
      (leads off q.len = none → Answers (.parkedRequestReplay c tag) s (fun t => (t.core c).fw.fpend.getLsbD 2 = true ∧
        ∃ y q' tag', becomes t y ∧ y.reqAt off = some q' ∧ q'.st = .parked tag' (far + off)))) ∧
    (∀ tag off va, k.parkedAt tag = some (id, off, va) → ∃ s1 : State, { s1.core c with dyn := k.dyn } = k ∧
      exec (.parkedRequestAbandon c tag) s = .next (s1.raiseTrap c ⟨7, 1, 0, none, va % 2 ^ 64 + tag * 2 ^ 64⟩))) ∧
  (∀ (s s1 : State) (c id off : Nat) (x : DynCmd) (q : Req) (pa : Option Nat), (s.core c).dynOf id = some x → x.id = id →
    x.reqAt off = some q → q.st = .sent → off ∈ q.todo → q.data.length = q.len → (∀ l, s.tagGood l = true) →
    let k := s.core c
    let g := s.gcount
    let r := x.rec_.toNat
    let near := if x.get then fld r 192 60 else fld r 128 60
    let m := min (1024 - (near + off) % 1024) (q.off + q.len - off)
    let here := Instr.dynamicRequestPerform c id off
    let becomes := fun (t : State) (y : DynCmd) => (t.core c).dynOf id = some y ∧ (∀ j, j ≠ id → (t.core c).dynOf j = k.dynOf j)
    let counts := fun (t : State) =>
      let b := fld r 72 5
      let old := k.rb b
      let now := if old.at_ < g ∧ (old.delta ≠ 0 ∨ old.post = true) then old.settled else old
      (t.core c).rb b = { now with at_ := g, delta := now.delta - (m : Int) } ∧ ∀ a, a ≠ b → (t.core c).rb a = k.rb a
    let frame := fun (t : State) => (fld r 79 1 = 0 → { t.core c with dyn := k.dyn } = k) ∧ (fld r 79 1 = 1 → counts t) ∧
      (t.core c).spad = k.spad ∧ (∀ d, d ≠ c → t.core d = s.core d) ∧ t.host = s.host
    (if x.get then fld r 252 4 else fld r 188 4) = 1 →
    s.dynTranslate (c / 64) (s.partOf c) (near + off) x.get = (s1, pa) →
    (∀ p, pa = some p → s.served p = false → Answers here s (fun t => Adds s1 t [⟨g + 1, here⟩] ∧ { t with agenda := s1.agenda } = s1)) ∧
    (∀ p, pa = some p → s.served p = true → s.paStale p = false → p % 1024 + m ≤ 1024 →
      (x.get = true → Answers here s (fun t => frame t ∧
        (∀ i, i < m → t.hbm.read (p + i) = q.data.getD (off - q.off + i) 0) ∧
        (∀ a, (a < p ∨ p + m ≤ a) → t.hbm.read a = s.hbm.read a) ∧
        (∀ l, l < p / 64 ∨ p + m ≤ 64 * l → sget lineReset t.lines l = sget lineReset s.lines l))) ∧
      (x.get = false → x.remote = false → s.hbmFault p m = none → Answers here s (fun t => frame t ∧ t.hbm = s.hbm ∧
        ∃ y q', becomes t y ∧ y.reqAt off = some q' ∧ q'.off = q.off ∧ q'.len = q.len ∧
          (∀ i, i < m → q'.data.getD (off - q.off + i) 0 = s.hbm.read (p + i)) ∧
          (∀ i, (i < off - q.off ∨ off - q.off + m ≤ i) → q'.data.getD i 0 = q.data.getD i 0) ∧
          ((∃ o, o ∈ q.todo ∧ o ≠ off) → q'.st = .sent) ∧
          ((∀ o, o ∈ q.todo → o = off) → q'.st = .local_ ∧ q'.todo = [] ∧
            ∃ e, e ∈ t.agenda ∧ e.instr = .dynamicRequestPerform c id q.off ∧ g < e.at_)))) ∧
    (pa = none → x.remote = false → Answers here s (fun t => t.hbm = s.hbm ∧ (t.core c).spad = k.spad ∧
      (t.core c).fw.fpend.getLsbD 2 = true ∧ ∃ y q' tag, becomes t y ∧ y.reqAt off = some q' ∧ q'.st = .parked tag (near + off))) ∧
    (pa = none → x.remote = true → Answers here s (fun t => t.hbm = s.hbm ∧ { t.core c with dyn := k.dyn } = k ∧
      (∀ d, d ≠ c → t.core d = s.core d) ∧ t.out = s.out))) ∧
  (∀ (s : State) (core addr peer len : Nat) (bar : Option BarReg) (data : List Byte),
    let k := s.core core
    let part := if s.mgmt.pmode = 0 then 0 else Config.peerPart addr % 4
    let request := fun (t : State) (space unit_ : Nat) (i : Nat → Nat → Instr) =>
      (∀ d, d ≠ core → t.core d = s.core d) ∧ { t with cores := s.cores, agenda := s.agenda } = s ∧
      { t.core core with dyn := k.dyn, nextId := k.nextId } = k ∧ ∃ (x : DynCmd) (q : Req),
        (t.core core).dyn = k.dyn ++ [x] ∧ x.reqs = [q] ∧ x.get = true ∧ x.remote = true ∧ q.data = data ∧ q.st = .sent ∧
        q.off = 0 ∧ q.len = data.length ∧ fld x.rec_.toNat 192 60 = addr ∧ fld x.rec_.toNat 252 4 = space ∧
        fld x.rec_.toNat 79 1 = (if bar.isSome then 1 else 0) ∧ (∀ b, bar = some b → fld x.rec_.toNat 72 5 = b.toNat) ∧
        (∀ off, off ∈ q.todo → ({ at_ := s.gcount, instr := i x.id off } : Event) ∈ t.agenda) ∧
        (∀ off, off ∈ q.todo ↔ off < data.length ∧ (off = 0 ∨ (addr + off) % unit_ = 0))
    (0 < data.length → addr < 2 ^ 60 → (∀ y, y ∈ k.dyn → y.id ≠ k.nextId) →
      Answers (.remoteArrival core bar 1 addr data) s (fun t => request t 1 1024 (.dynamicRequestPerform core))) ∧
    (data.length = 0 → exec (.remoteArrival core bar 1 addr data) s = .next s) ∧
    (0 < data.length → addr + data.length ≤ 0x600000 → (∀ y, y ∈ k.dyn → y.id ≠ k.nextId) →
      Answers (.remoteArrival core bar 0 addr data) s (fun t => request t 0 256 (.dynamicBankAccess core))) ∧
    (data.length = 0 ∨ 0x600000 < addr + data.length → exec (.remoteArrival core bar 0 addr data) s = .next s) ∧
    (len = 0 → exec (.peerGetRequest peer addr len) s = .next s) ∧
    (0 < len → (∀ y, y ∈ (s.core (64 * part)).dyn → y.id ≠ (s.core (64 * part)).nextId) →
      Answers (.peerGetRequest peer addr len) s (fun t => (∀ d, d ≠ 64 * part → t.core d = s.core d) ∧
        { t with cores := s.cores, agenda := s.agenda } = s ∧ ∃ (x : DynCmd) (q : Req),
        (t.core (64 * part)).dyn = (s.core (64 * part)).dyn ++ [x] ∧ x.reqs = [q] ∧ x.get = false ∧ x.remote = true ∧
        q.st = .sent ∧ q.off = 0 ∧ q.len = len ∧ q.data.length = len ∧ fld x.rec_.toNat 128 60 = addr % 2 ^ 60 ∧
        fld x.rec_.toNat 188 4 = 1 ∧ fld x.rec_.toNat 320 16 = peer % 2 ^ 16 ∧
        (∀ off, off ∈ q.todo → ({ at_ := s.gcount, instr := .dynamicRequestPerform (64 * part) x.id off } : Event) ∈ t.agenda) ∧
        (∀ off, off ∈ q.todo ↔ off < len ∧ (off = 0 ∨ (addr + off) % 1024 = 0)))) ∧
    (∀ (x : DynCmd) (q : Req) (off pa : Nat) (s1 : State), k.dynOf x.id = some x → x.remote = true → x.get = false →
      x.reqs = [q] → q.off = 0 → q.st = .sent → off < q.len → fld x.rec_.toNat 188 4 = 1 → fld x.rec_.toNat 79 1 = 0 →
      let va := fld x.rec_.toNat 128 60 + off
      let n := min (1024 - va % 1024) (q.len - off)
      s.dynTranslate (core / 64) (s.partOf core) va false = (s1, some pa) → q.data.length = q.len →
      (off ∈ q.todo → s1.served pa = false → Answers (.dynamicRequestPerform core x.id off) s (fun t =>
        Adds s1 t [⟨s.gcount + 1, .dynamicRequestPerform core x.id off⟩] ∧ { t with agenda := s1.agenda } = s1)) ∧
      (q.todo = [off] → s1.served pa = true → s1.paStale pa = false → (∀ l, s1.tagGood l = true) → pa % 1024 + n ≤ 1024 →
        Answers (.dynamicRequestPerform core x.id off) s (fun t => t.hbm = s.hbm ∧ ∃ bs, bs.length = q.len ∧
          t.out = s.out ++ [.peerBytes (fld x.rec_.toNat 320 16) 0 0 (fld x.rec_.toNat 128 60) bs] ∧
          (∀ i, i < n → bs.getD (off + i) 0 = s.hbm.read (pa + i)) ∧
          ∀ i, i < off → bs.getD i 0 = q.data.getD i 0))))

/-! The front end, the host side and the module. -/

/-- R316, R319, R321, R322, R339, R340, R345, R353, R365: the doorbell filter. An aligned 32-bit write of a doorbell enters its
tail; any other write of the window is discarded and logged, and after a failed boot nothing answers. A tail written to a
disabled queue, or too far ahead of HEAD, sets ERR and kicks; otherwise TAIL takes it, and where packets wait the head
packet is read within 48 cycles and its wait for a service slot. It is launched when it may be and the measured draw is not
above the cap, HEAD moving past it, or the queue is kicked. A kick through a doorbell wakes the scheduler core, one through
a re-evaluation port does not. A token that lands raises MET and has the queue evaluated as if its tail had been written
again, behind the evaluations of the queue that came before it. A packet that may be launched waits for the service slot in which
its image's header is read, too. No evaluation starts while completions that a fall of HOLD let go are still to be published
(R354). Where in the 48 cycles the read falls is log entry 19, its wait for service log entry 29; that firmware's accesses of
a cycle come first is log entry 60, and that the draw is a sample at each launch test is log entry 59. No tag of a line of HBM
fails at a launch here (R299). -/
def Obligations.Doorbells : Prop :=
  ∀ (s : State) (q : Nat) (d : BitVec 32) (src : HostFn) (w : W2Write), q < 2048 → s.fe.evals = [] →
    let g := s.gcount
    let x := s.queue q
    let enabled := 4 ≤ x.log2n.toNat ∧ x.log2n.toNat ≤ 16
    let far := 2 ^ x.log2n.toNat < (d - x.head).toNat
    let rings := src.fn < 32 ∧ s.bootFailed = false ∧ w.off = 8 * (q % 64) ∧ src.fn = q / 64 ∧ w.data = bytesOf 4 d.toNat
    let later_ : State := s.atOnce g .journalHeldAppend
    let ready := s.releasing = false
    let kicked := fun (u t : State) (y : Queue) (wake : Bool) => t.queue q = y ∧ (∀ r, r ≠ q → t.queue r = u.queue r) ∧
      (∀ r, r ∈ t.fe.kick ↔ r = q ∨ r ∈ s.fe.kick) ∧ (wake = true → (t.core s.scheduler).fw.fpend.getLsbD 0 = true) ∧
      (wake = false → t.cores = u.cores)
    let reads := fun (ins : Instr) (u : State) (wake : Bool) =>
      let y := u.queue q
      (u.packetServed q = false → Answers ins s (fun t => t.fe.evals = [⟨q, .read, wake, g + 1, none, none⟩] ∧
        t.heats = u.heats ∧ t.queue q = y ∧ ({ at_ := g + 1, instr := .journalHeldAppend } : Event) ∈ t.agenda)) ∧
      (∀ s2 pkt, u.packetServed q = true → u.packetAt q y.head.toNat = (s2, some pkt) → s2.launchable q pkt 1 = true →
        s2.headerServed q pkt = false → Answers ins s (fun t =>
          t.fe.evals = [⟨q, .read, wake, g + 1, none, some (y.head, pkt)⟩] ∧ t.heats = s2.heats ∧ t.queue q = y ∧
          ({ at_ := g + 1, instr := .journalHeldAppend } : Event) ∈ t.agenda)) ∧
      (∀ s2 pkt, u.packetServed q = true → u.packetAt q y.head.toNat = (s2, pkt) →
        (∀ n, pkt = some n → s2.launchable q n 1 = false) →
        Answers ins s (fun t => kicked s2 t y wake ∧ t.heats = s2.heats ∧ t.fe.evals = [])) ∧
      (∀ s2 pkt, u.packetServed q = true → u.packetAt q y.head.toNat = (s2, some pkt) → s2.launchable q pkt 1 = true →
        s2.headerServed q pkt = true → (∀ l, s2.tagGood l = true) → Answers ins s (fun t =>
          if Config.drawAboveCap s2.choice = true then kicked s2 t y wake ∧ t.heats = s2.heats
          else t.queue q = { y with head := y.head + 1 } ∧ (∀ r, r ≠ q → t.queue r = s2.queue r) ∧
            (y.head + 1 ≠ y.tail → q ∈ t.fe.kick ∧ (wake = true → (t.core s.scheduler).fw.fpend.getLsbD 0 = true)) ∧
            (∀ p, p ≠ y.part.toNat → t.heat p = s2.heat p) ∧
            let h := t.heat y.part.toNat
            h.phase = .arming ∧ h.queue = q ∧ h.index = y.head.toNat ∧ h.packet = BitVec.ofNat 512 pkt ∧ h.hasPacket = true ∧
            h.origin = g + h.lead ∧ ∃ e, e ∈ t.agenda ∧ e.instr = .heatArm y.part.toNat))
    (32 ≤ src.fn ∨ s.bootFailed = true → exec (.doorbell src w) s = .next s) ∧
    (src.fn < 32 → s.bootFailed = false → ¬(w.off < 0x200 ∧ w.off % 8 = 0 ∧ w.data.length = 4) →
      exec (.doorbell src w) s = .next { s with mgmt := { s.mgmt with
        errlog := sset 0 s.mgmt.errlog src.fn (sget 0 s.mgmt.errlog src.fn ||| 2) } }) ∧
    (rings → ready → (¬enabled ∨ far) → Answers (.doorbell src w) s (fun t => kicked s t { x with err := true } true ∧ t.fe.evals = [] ∧
      { t with cores := s.cores, fe := s.fe, agenda := s.agenda } = s)) ∧
    (rings → s.releasing = true → Answers (.doorbell src w) s (fun t => t.fe.queues = s.fe.queues ∧
      t.fe.evals = [⟨q, .written d, true, g, some src.link, none⟩] ∧
      ({ at_ := g + 1, instr := .journalHeldAppend } : Event) ∈ t.agenda)) ∧
    (rings → ready → enabled → ¬far → x.head = d → exec (.doorbell src w) s = .next (later_.setQueue q { x with tail := d })) ∧
    (rings → ready → enabled → ¬far → x.head ≠ d →
      let n := Config.delay s.choice % 49
      let u : State := { later_.setQueue q { x with tail := d } with choice := s.choice + 1 }
      (n ≠ 0 → Answers (.doorbell src w) s (fun t => t.fe.evals = [⟨q, .read, true, g + n, none, none⟩] ∧ t.fe.kick = s.fe.kick ∧
        t.queue q = { x with tail := d } ∧ (∀ r, r ≠ q → t.queue r = s.queue r) ∧
        ({ at_ := g + n, instr := .journalHeldAppend } : Event) ∈ t.agenda ∧
        { t with fe := s.fe, agenda := s.agenda, choice := s.choice } = s)) ∧
      (n = 0 → reads (.doorbell src w) u true)) ∧
    (ready → x.head = x.tail → exec (.reevaluationPort q) s = .next later_) ∧
    (ready → x.head ≠ x.tail → reads (.reevaluationPort q) later_ false) ∧
    (∀ c p tok, DueAlone s c p → p.eff = .token q tok → p.fw = false → p.gufl = false → Answers (.resultLand c) s (fun t =>
      t.queue q = { x with met := if x.met.toNat < tok.toNat then tok else x.met } ∧ (∀ r, r ≠ q → t.queue r = s.queue r) ∧
      t.fe.evals = [⟨q, .rewritten, true, g, none, none⟩] ∧
      ({ at_ := g, instr := .journalHeldAppend } : Event) ∈ t.agenda)) ∧
    (∀ (v : State) wake link e, { v with fe := { v.fe with evals := [] } } = s → s.fe.pubs = [] → s.fe.saves = [] → s.mail = [] →
      s.fe.heldRecs = [] →
      let old := (x.tail - x.head).toNat
      let n := Config.delay s.choice % 49
      (v.fe.evals = [⟨q, .rewritten, wake, g, link, none⟩] →
        (¬enabled ∨ 2 ^ x.log2n.toNat < old → Answers .journalHeldAppend v (fun t => kicked s t { x with err := true } wake ∧
          t.fe.evals = [])) ∧
        (enabled → old ≤ 2 ^ x.log2n.toNat → x.head = x.tail → Answers .journalHeldAppend v (fun t => t.fe.evals = [] ∧
          ∀ r, t.queue r = s.queue r)) ∧
        (enabled → old ≤ 2 ^ x.log2n.toNat → x.head ≠ x.tail → n ≠ 0 → Answers .journalHeldAppend v (fun t =>
          t.fe.evals = [⟨q, .read, wake, g + n, none, none⟩] ∧ (∀ r, t.queue r = s.queue r) ∧ t.fe.kick = s.fe.kick))) ∧
      (∀ due got tail, g < due → e = (⟨q, tail, true, g, none, none⟩ : FeEval) →
        v.fe.evals = [⟨q, .read, wake, due, link, got⟩, e] → Answers .journalHeldAppend v (fun t => t.fe.evals = v.fe.evals ∧
          (∀ r, t.queue r = s.queue r) ∧ ({ at_ := due, instr := .journalHeldAppend } : Event) ∈ t.agenda))) ∧
    (∀ (v : State) wake due link, { v with fe := { v.fe with evals := [] } } = s →
      v.fe.evals = [⟨q, .read, wake, due, link, none⟩] → due ≤ g → s.fe.pubs = [] → s.fe.saves = [] → s.mail = [] → x.head ≠ x.tail →
      s.packetServed q = true → ∀ s2 n, s.packetAt q x.head.toNat = (s2, n) → (∀ k, n = some k → s2.launchable q k 1 = false) →
      s.fe.heldRecs = [] → Answers .journalHeldAppend v (fun t => kicked s2 t x wake ∧ t.heats = s2.heats ∧ t.fe.evals = []))

/-- R330, R331, R333, R334: the timer wheel, HOLD, the waiting journal records and the log requests. Arming takes the first
multiple of 1024 at or after the head packet's TIME and the present; at TNEXT a run still open counts a skip and another becomes
1; the release then launches, or kicks when it may not, and the timer goes on by PERIOD, or ends, once its head packet and the
header of an image it launches have been read in service slots (log entry 29). No release starts while completions that a fall
of HOLD let go are still to be published (R354). Only the scheduler and the standby write HOLD. A record that waits is appended
once it has room, its page is mapped and its row served (log entries 29 and 37). The management function's log requests are
log entry 65, the block of a context that a log request names log entry 36, and what a release does whose head packet cannot be
armed or read log entry 40. No tag of a line of HBM fails at a launch here (R299).

R302, R303, R331, R364: the log engine. It reads a request's source a line at a time, each in a service slot, through the
table of its partition; once all is read the pages follow the pages of their module, with a directory record that names
them, and word 3 of the request's block takes its sequence number. An invalid request appends nothing and its word 3 takes
all ones. Kinds 4 and 6 are the management function's, whose blocks stand in HBM, at a device address of its home partition, and
are read and answered in service slots (log entry 65). That the engine reads in lines of 64 bytes, at times of its own, is log
entry 36, that it keeps the log's rate but for its waits log entry 19, and its wait for a slot log entry 29. -/
def Obligations.TimersAndLogs : Prop :=
  (∀ (s s1 : State) (q pkt core : Nat) (v : Word64),
    let x := s.queue q
    let g := s.gcount
    let others := fun (t : State) => ∀ r, r ≠ q → t.queue r = s.queue r
    let enabled := 4 ≤ x.log2n.toNat ∧ x.log2n.toNat ≤ 16
    let period := fld pkt 320 32
    let goesOn := fun (t : State) (y : Queue) => others t ∧
      (period = 0 → t.queue q = { y with tarm := false }) ∧
      (period ≠ 0 → t.queue q = { y with tnext := x.tnext + BitVec.ofNat 64 period } ∧
        (g ≤ x.tnext.toNat + period → x.tnext.toNat + period < 2 ^ 64 →
          ∃ e, e ∈ t.agenda ∧ e.instr = .timerRelease q ∧ e.at_ = x.tnext.toNat + period))
    let waits := fun (ins : Instr) => Answers ins s (fun t => (∀ e, e ∈ t.agenda ↔ e ∈ s.agenda ∨ e = ⟨g + 1, ins⟩) ∧
      { t with agenda := s.agenda } = s)
    let may := core = s.scheduler ∨ core = 128
    let stillWaits := fun (t : State) => ({ at_ := g + 1, instr := .timerRelease q } : Event) ∈ t.agenda
    let tested : Queue := if x.run then { x with skips := x.skips + 1 } else { x with run := true }
    (enabled → x.head ≠ x.tail → s.packetServed q = false → waits (.timerArm q)) ∧
    (x.tarm = true → x.tnext.toNat = g → s.fe.releases = [] → s.releasing = true → Answers (.timerRelease q) s (fun t =>
      t.fe = { s.fe with releases := [⟨q, x.tnext, none, none⟩] } ∧ stillWaits t ∧ t.heats = s.heats)) ∧
    (x.tarm = true → x.tnext.toNat = g → s.fe.releases = [] → s.releasing = false → s.packetServed q = false →
      Answers (.timerRelease q) s (fun t => others t ∧ t.queue q = tested ∧ t.heats = s.heats ∧ t.fe.kick = s.fe.kick ∧
        t.fe.releases = [⟨q, x.tnext, some (!x.run), none⟩] ∧ stillWaits t)) ∧
    (∀ l, s.fe.releases = [⟨q, x.tnext, some l, none⟩] → s.releasing = false → s.packetServed q = false →
      Answers (.timerRelease q) s (fun t => t.fe = s.fe ∧ stillWaits t ∧ t.heats = s.heats)) ∧
    (s.packetAt q x.head.toNat = (s1, some pkt) → s.packetServed q = true → enabled → x.head ≠ x.tail → fld pkt 0 8 = 2 →
      Answers (.timerArm q) s (fun t => others t ∧ t.cores = s1.cores ∧ ∃ n, n % 1024 = 0 ∧ fld pkt 256 64 ≤ n ∧ g ≤ n ∧
        n < max (fld pkt 256 64) g + 1024 ∧ t.queue q = { x with tarm := true, tnext := BitVec.ofNat 64 n } ∧
        (n < 2 ^ 64 → ∃ e, e ∈ t.agenda ∧ e.instr = .timerRelease q ∧ e.at_ = n))) ∧
    (¬enabled ∨ x.head = x.tail → exec (.timerArm q) s = .next s) ∧
    Answers (.timerDisarm q) s (fun t => others t ∧ t.queue q = { x with tarm := false } ∧ { t with fe := s.fe } = s ∧
      { t.fe with queues := s.fe.queues } = s.fe) ∧
    (s.fe.releases = [] → (x.tarm = false ∨ x.tnext.toNat ≠ g) → exec (.timerRelease q) s = .next s) ∧
    (x.tarm = true → x.tnext.toNat = g → s.fe.releases = [] → s.releasing = false → s.packetServed q = true →
      s.packetAt q x.head.toNat = (s1, some pkt) →
      (x.run = true → Answers (.timerRelease q) s (fun t => goesOn t { x with skips := x.skips + 1 } ∧
        t.heats = s1.heats ∧ t.fe.kick = s.fe.kick)) ∧
      (x.run = false → s1.launchable q pkt 2 = true → s1.headerServed q pkt = false → Answers (.timerRelease q) s (fun t =>
        others t ∧ t.queue q = { x with run := true } ∧ t.heats = s1.heats ∧
        t.fe.releases = [⟨q, x.tnext, some true, some (x.head, pkt)⟩] ∧ stillWaits t)) ∧
      (x.run = false → s1.launchable q pkt 2 = true → s1.headerServed q pkt = true → (∀ l, s1.tagGood l = true) →
        Config.drawAboveCap s1.choice = false → Answers (.timerRelease q) s (fun t =>
          goesOn t { x with run := true, head := if period = 0 then x.head + 1 else x.head } ∧
          let h := t.heat x.part.toNat
          h.phase = .arming ∧ h.queue = q ∧ h.index = x.head.toNat ∧ h.packet = BitVec.ofNat 512 pkt ∧
          h.origin = g + h.lead)) ∧
      (x.run = false → x.res = false → Answers (.timerRelease q) s (fun t => goesOn t { x with run := true } ∧
        t.heats = s1.heats ∧ q ∈ t.fe.kick ∧ (t.core s.scheduler).fw.fpend.getLsbD 0 = true))) ∧
    (¬may → exec (.holdWrite core v) s = .next s) ∧
    (may → v.getLsbD 0 = true → Answers (.holdWrite core v) s (fun t =>
      { t with fe := s.fe } = s ∧ t.fe = { s.fe with hold := true })) ∧
    (may → v.getLsbD 0 = false → s.fe.hold = false → exec (.holdWrite core v) s = .next s) ∧
    (may → v.getLsbD 0 = false → s.fe.hold = true → s.fe.heldDone = [] → s.fe.pubs = [] → Answers (.holdWrite core v) s (fun t =>
      { t with fe := s.fe } = s ∧ t.fe = { s.fe with hold := false })) ∧
    (may → v.getLsbD 0 = false → s.fe.hold = true → s.fe.pubs ≠ [] → Answers (.holdWrite core v) s (fun t =>
      { t with fe := s.fe, agenda := s.agenda } = s ∧ ({ at_ := g, instr := .journalHeldAppend } : Event) ∈ t.agenda ∧
      t.fe = { s.fe with hold := false, heldDone := [],
                         pubs := (s.fe.pubs ++ s.fe.heldDone).map (fun d => { d with released := true }) })) ∧
    (s.fe.evals = [] → s.fe.pubs = [] → s.fe.saves = [] → s.mail = [] →
      (s.fe.heldRecs = [] → exec .journalHeldAppend s = .next s) ∧
      (∀ r rest size, s.fe.heldRecs = r :: rest → s.journalSize = some size →
        (s.journalRoom size 32 = false → Answers .journalHeldAppend s (fun t =>
          (t.core s.scheduler).fw.fpend.getLsbD 6 = true ∧ t.fe = s.fe ∧ { t with cores := s.cores, agenda := s.agenda } = s)) ∧
        (s.journalRoom size 32 = true → s.journalFault size 32 ≠ none → exec .journalHeldAppend s = .next s) ∧
        (s.journalRoom size 32 = true → s.journalFault size 32 = none → s.journalServed size 32 = false →
          Answers .journalHeldAppend s (fun t => Adds s t [{ at_ := g + 1, instr := .journalHeldAppend }] ∧
            { t with agenda := s.agenda } = s)) ∧
        (s.journalReady size = true → (r.typ = 1 ∨ (r.typ = 2 ∧ r.completion ≠ none ∧ s.fe.hold = true)) →
          Answers .journalHeldAppend s (fun t => 
            t.fe = { s.fe with heldRecs := rest, jseq := (s.fe.jseq + 1) % 2 ^ 64, jtail := (s.fe.jtail % size + 32) % size,
                               heldDone := if r.typ = 1 then s.fe.heldDone else s.fe.heldDone ++ r.completion.toList } ∧
            (∀ e, e ∈ s.agenda → e ∈ t.agenda) ∧ t.cores = s.cores ∧
            (rest ≠ [] → ({ at_ := g, instr := .journalHeldAppend } : Event) ∈ t.agenda))))) ∧
    (let a := v.toNat % 2 ^ 15
     let w := fun (i : Nat) => natOf ((List.range 8).map (fun j => (s.core core).fw.dmem.read (a + 8 * i + j)))
     let enters := fun (t : State) (r : LogReq) => t.logq = s.logq ++ [r] ∧ t.nextLog = s.nextLog + 1 ∧
       Adds s t [⟨g + 1, .logAppend s.nextLog⟩] ∧ { t with logq := s.logq, nextLog := s.nextLog, agenda := s.agenda } = s
     (core < 256 → (∀ y, y ∈ (s.core core).fw.badD → y < a ∨ a + 32 ≤ y) → Answers (.logSubmit core v) s (fun t =>
       enters t ⟨s.nextLog, core, a, w 0, w 1, w 2, w 3, s.partOf core, g, false, []⟩)) ∧
     (256 ≤ core → Answers (.logSubmit core v) s (fun t =>
       enters t ⟨s.nextLog, core, v.toNat, 0, 0, 0, 0, s.homeOf 32, g, true, []⟩))) ∧
    (∀ u l y, core < 256 → (s.core core).fw.badD = u ++ y :: l → (∀ z, z ∈ u → z < v.toNat % 2 ^ 15 ∨ v.toNat % 2 ^ 15 + 32 ≤ z) →
      v.toNat % 2 ^ 15 ≤ y → y < v.toNat % 2 ^ 15 + 32 →
      exec (.logSubmit core v) s = .next (s.fwFault core ⟨8, 5, 0, none, y + 2 ^ 64⟩))) ∧
  (∀ (s s2 : State) (id : Nat) (r : LogReq) (bs : List Byte), s.logq.find? (fun x => decide (x.id = id)) = some r → r.id = id →
    let tail := sget 0 s.flash.tail r.module
    let seq := sget 0 s.flash.seq r.module
    let first := r.module * 2 ^ 41 + tail
    let pages := 4096 * r.pages
    let n := (r.got.map List.length).sum
    let m := min (64 - (r.src + n) % 64) (pages - n)
    let block := (r.block + 24) % 2 ^ 15
    let gone := fun (t : State) => t.logq = s.logq.filter (fun x => decide (x.id ≠ id))
    let answers := fun (t : State) (v : Nat) => gone t ∧
      (r.core < 256 → t.hbm = s.hbm ∧ (block + 8 ≤ 2 ^ 15 →
        ∀ i, i < 8 → ((t.core r.core).fw.dmem.read (block + i)).toNat = elem 8 v i)) ∧
      (∀ pa, 256 ≤ r.core → (r.block + 24) % 32768 + 8 ≤ 32768 → s.translate r.part (r.block + 24) true = some pa →
        s.paStale pa = false → s.paStale (pa + 7) = false → ∀ i, i < 8 → (t.hbm.read (pa + i)).toNat = elem 8 v i)
    let again := Answers (.logAppend id) s (fun t =>
      Adds s t [{ at_ := s.gcount + 1, instr := .logAppend id }] ∧ { t with agenda := s.agenda } = s)
    let reachable := r.core < 256 ∨ s.servedVA r.part (r.block + 24) 8 = true
    let word := fun (i : Nat) => natOf ((bs.drop (8 * i)).take 8)
    let valid := ((1 ≤ r.kind ∧ r.kind ≤ 3) ∨ (256 ≤ r.core ∧ (r.kind = 4 ∨ r.kind = 6))) ∧ 0 < r.pages ∧ r.pages < 2 ^ 32 ∧
      s.moduleTakes r.module pages = true
    (r.unread = true → s.servedVA r.part r.block 32 = false → again) ∧
    (r.unread = true → s.servedVA r.part r.block 32 = true → s.readVA r.part r.block 32 = (s2, some bs) →
      Answers (.logAppend id) s (fun t => Adds s2 t [⟨s2.gcount, .logAppend id⟩] ∧ { t with logq := s2.logq, agenda := s2.agenda } = s2 ∧
        t.logq = s2.logq.map (fun x => if x.id = id then
          { x with kind := word 0, src := word 1, pages := word 2, module := word 3, unread := false } else x))) ∧
    (r.unread = true → s.servedVA r.part r.block 32 = true → s.readVA r.part r.block 32 = (s2, none) →
      Answers (.logAppend id) s (fun t => gone t ∧ { t with logq := s2.logq } = s2)) ∧
    (r.unread = false →
    (¬valid → ¬reachable → again) ∧
    (¬valid → reachable → Answers (.logAppend id) s (fun t => answers t (2 ^ 64 - 1) ∧ t.flash = s.flash)) ∧
    (valid → n < pages → s.servedVA r.part (r.src + n) m = false → again) ∧
    (valid → n = pages → ¬reachable → again) ∧
    (valid → n < pages → s.servedVA r.part (r.src + n) m = true → s.readVA r.part (r.src + n) m = (s2, some bs) →
      Answers (.logAppend id) s (fun t => (∃ k, s.gcount ≤ k ∧ k ≤ max s.gcount (r.since + 1 + (n + bs.length) / 672) ∧
          Adds s2 t [⟨k, .logAppend id⟩]) ∧ t.flash = s.flash ∧ t.hbm = s.hbm ∧
        t.logq = s.logq.map (fun x => if x.id = id then { x with got := bs :: x.got } else x))) ∧
    (valid → n < pages → s.servedVA r.part (r.src + n) m = true → s.readVA r.part (r.src + n) m = (s2, none) → reachable →
      Answers (.logAppend id) s (fun t => answers t (2 ^ 64 - 1) ∧ t.flash = s.flash)) ∧
    (valid → n = pages → reachable → bs = r.got.reverse.flatten → Answers (.logAppend id) s (fun t => answers t seq ∧
        (∀ i, i < bs.length → t.flash.mem.read (first + i) = bs.getD i 0) ∧
        (∀ a, (a < first ∨ first + bs.length ≤ a) → t.flash.mem.read a = s.flash.mem.read a) ∧
        sget 0 t.flash.tail r.module = tail + bs.length ∧ sget 0 t.flash.seq r.module = seq + 1 ∧
        ∃ d : BitVec 512, t.flash.dir = s.flash.dir ++ [⟨r.module, d⟩] ∧ fld d.toNat 0 16 = 0x2F4A ∧
          fld d.toNat 16 8 = r.kind ∧ fld d.toNat 64 64 = seq % 2 ^ 64 ∧ fld d.toNat 128 64 = first % 2 ^ 64 ∧
          fld d.toNat 192 32 = r.pages ∧ fld d.toNat 224 32 = crc32c bs % 2 ^ 32 ∧ fld d.toNat 256 64 = s.gcount % 2 ^ 64))))

/-- R315, R316, R340 to R344, R357, R358, R363: the device's registers. A write takes the fields its register has, from the side
that may write it, and is discarded otherwise: PMODE while a heat is armed or running (log entry 41), a key slot in use. INVAL
reads as written until every die has finished with every address written, and then no cached translation that one of them names
is left. The extents of the pooled memory device are log entry 39. A read of ERRLOG clears it, and a virtual function gets none once
boot has failed (R345). No journal record waits here for
a page to be mapped (log entry 37). -/
def Obligations.Registers : Prop :=
  ∀ (s : State) (byFw : Bool) (n j v : Nat) (w : Word64) (u : UnitKind), s.fe.heldRecs = [] →
    let m := s.mgmt
    let tr := s.trace
    let b : Word64 := BitVec.ofNat 64 v
    let takes := fun (r : RegName) (t : State) => exec (.registerWrite byFw r v) s = .next t
    let discards := fun (r : RegName) => exec (.registerWrite byFw r v) s = .next s
    let live := ∃ p, p < 4 ∧ ((s.heat p).phase = .arming ∨ (s.heat p).phase = .armed ∨ (s.heat p).phase = .running ∨
      (s.heat p).phase = .stopping)
    let pat := sget patrolReset s.patrol n
    let inUse := pat.state ≠ 0 ∧ (pat.cur.toNat = j ∨ pat.next.toNat = j)
    takes .reqsig { s with mgmt := { m with reqsig := b } } ∧
    takes (.ttbase n) { s with mgmt := { m with ttbase := sset 0 m.ttbase n (b &&& 0xFFFFFFFF00) } } ∧
    takes (.vmap n) { s with mgmt := { m with vmap := sset 0 m.vmap n (b &&& 0x0FFFFFFFFFFF0003) } } ∧
    (byFw = false →
      takes .priv { s with mgmt := { m with priv := b } } ∧ takes .linkb { s with mgmt := { m with linkb := b &&& 1 } } ∧
      takes .keybuf { s with mgmt := { m with keybuf := BitVec.ofNat 512 v } } ∧
      takes .tsrc { s with trace := { tr with tsrc := b } } ∧ takes .peerid { s with trace := { tr with peerid := b } } ∧
      takes .peertab { s with trace := { tr with peertab := b } } ∧
      takes (.trbase n) { s with trace := { tr with base := sset 0 tr.base n (b &&& 0xFFFC000001) } } ∧
      takes (.trtail n) { s with trace := { tr with tail := sset 0 tr.tail n (v % 2 ^ 26) } } ∧
      takes (.trmask n) { s with trace := { tr with mask := sset (BitVec.allOnes 32) tr.mask n (BitVec.ofNat 32 v) } } ∧
      takes (.trust n j) { s with mgmt := { m with trust := sset 0 m.trust (4 * n + j) (BitVec.ofNat 544 v) } } ∧
      discards (.queueWord n j) ∧ discards (.extent n j)) ∧
    (byFw = true →
      discards .priv ∧ discards .linkb ∧ discards .keybuf ∧ discards .tsrc ∧ discards .peerid ∧ discards .peertab ∧
      discards (.trbase n) ∧ discards (.trtail n) ∧ discards (.trmask n) ∧ discards (.trust n j) ∧
      (n < 2048 → Answers (.registerWrite true (.queueWord n 1) v) s (fun t =>
        t.queue n = { s.queue n with head := BitVec.ofNat 32 v } ∧ (∀ q, q ≠ n → t.queue q = s.queue q))) ∧
      (n < 2048 → Answers (.registerWrite true (.queueWord n 2) v) s (fun t =>
        (t.queue n).tail = (s.queue n).tail ∧ (t.queue n).met = BitVec.ofNat 32 v ∧
        (t.queue n).err = ((s.queue n).err && !v.testBit 45) ∧ (t.queue n).run = v.testBit 46 ∧
        (∀ q, q ≠ n → t.queue q = s.queue q)))) ∧
    (¬live → exec (.pmodeWrite w) s = .next { s with mgmt := { m with pmode := w &&& 1 } }) ∧
    (live → exec (.pmodeWrite w) s = .next s) ∧
    (w.getLsbD 0 = true → ¬inUse → exec (.keySlotLoad n j w) s =
      .next { s with mgmt := { m with keys := sset none m.keys (4 * n + j) (some m.keybuf) } }) ∧
    (w.getLsbD 0 = false ∨ inUse → exec (.keySlotLoad n j w) s = .next s) ∧
    Answers (.inval n w) s (fun t => Sometime s t 1 (.invalComplete n) ∧ t.cache = s.cache ∧
      t.mgmt = { m with inval := sset 0 m.inval n w, invalQ := sset [] m.invalQ n (sget [] m.invalQ n ++ [w]) }) ∧
    (sget [] m.invalQ n = [] → exec (.invalComplete n) s = .next s) ∧
    (∀ a rest, sget [] m.invalQ n = a :: rest → Answers (.invalComplete n) s (fun t =>
      { t.mgmt with inval := m.inval } = { m with invalQ := sset [] m.invalQ n rest } ∧
      sget 0 t.mgmt.inval n = (if rest = [] then 0 else sget 0 m.inval n) ∧
      (∀ p, p ≠ n → sget 0 t.mgmt.inval p = sget 0 m.inval p) ∧ { t with mgmt := m, cache := s.cache } = s ∧
      ∀ e, e ∈ t.cache ↔ e ∈ s.cache ∧ ¬(e.1 % 4 = n ∧ (a = BitVec.allOnes 64 ∨
        e.2.1 * 65536 / 2 ^ fld e.2.2 1 6 = a.toNat % 2 ^ 60 / 2 ^ fld e.2.2 1 6)))) ∧
    Answers (.unitMapOut u n) s (fun t => (∀ z, z ∈ t.mgmt.absentNext ↔ z ∈ m.absentNext ∨ z = (u, n)) ∧
      { t.mgmt with absentNext := m.absentNext } = m ∧ { t with mgmt := m } = s) ∧
    (32 ≤ n ∨ s.bootFailed = false → exec (.errlogRead n) s = .next { s with
      mgmt := { m with errlog := sset 0 m.errlog n 0 }, out := s.out ++ [.register n (sget 0 m.errlog n).toNat] }) ∧
    (n < 32 → s.bootFailed = true → exec (.errlogRead n) s = .next { s with out := s.out ++ [.unsupported n] })

/-- R232, R233, R337, R338, R340, R345, R347: what the host does. A mailbox access is applied once its rows are served (log
entry 29), those of one function in the order of their delivery: a write within one row of memory to its bytes and to no
other, a read returns them; a translation fault sets bit 0 of ERRLOG, and a read of it completes with Unsupported Request;
after a failed boot the management function alone is served. An AtomicOp waits for its bank, within 64 cycles where no
timeline runs and of END otherwise, or for a window that opens now, and changes its word in one step; one that may not be
sets bit 2; one that a lending slot finds as it opens executes in it, whatever window went before. A function's reset disables its queues, leaves every other's, and is answered once every heat that it ends has
ended. A link that goes down takes the accesses it delivered, and the completions owed over it, with it (log entry 48). -/
def Obligations.HostAccess : Prop :=
  ∀ (s : State) (src : HostFn) (off ch b : Nat) (data : List Byte) (link : LinkName) (op : AtomicKind)
    (size x cmp pa : Nat), s.mail = [] → paChannel pa = ch → paBank pa = b → s.paStale pa = false →
    let fn := src.fn
    let g := s.gcount
    let n := data.length
    let open_ := s.bootFailed = false ∨ 32 ≤ fn
    let clean := ∀ l, s.tagGood l = true
    let errs := fun (t : State) (k : Nat) => t.mgmt.errlog = sset 0 s.mgmt.errlog fn (sget 0 s.mgmt.errlog fn ||| BitVec.ofNat 3 (2 ^ k)) ∧
      { t with mgmt := s.mgmt, out := s.out } = s ∧ { t.mgmt with errlog := s.mgmt.errlog } = s.mgmt
    let within := fun (t : State) (l : Nat) (byte : Nat → Nat) =>
      (∀ i, i < l → (t.hbm.read (pa + i)).toNat = byte i) ∧
      (∀ a, (a < pa ∨ pa + l ≤ a) → t.hbm.read a = s.hbm.read a)
    let word := fun (l : Nat) => natOf ((List.range l).map (fun i => s.hbm.read (pa + i)))
    let waits := fun (ins : Instr) (o : MailOp) => Answers ins s (fun t => t.mail = [⟨src, o⟩] ∧
      Adds s t [{ at_ := g + 1, instr := .journalHeldAppend }] ∧ { t with mail := [], agenda := s.agenda } = s)
    let atom := fun (apply : Nat) (l : Option LinkName) (free : Bool) => (⟨fn, op, size, pa, x, cmp, apply, l, free⟩ : HostAtomic)
    (open_ → 0 < n → pa % 1024 + n ≤ 1024 → s.windowAccess fn off n true = some [(pa, n)] →
      (s.servedAll [(pa, n)] = false → waits (.mailboxWrite src off data) (.write off data)) ∧
      (s.servedAll [(pa, n)] = true → clean → Answers (.mailboxWrite src off data) s (fun t =>
        within t n (fun i => (data.getD i 0).toNat) ∧ { t with hbm := s.hbm, lines := s.lines } = s))) ∧
    (open_ → clean → s.windowAccess fn off n true = none →
      Answers (.mailboxWrite src off data) s (fun t => errs t 0 ∧ t.out = s.out)) ∧
    (open_ → 0 < n → pa % 1024 + n ≤ 1024 → s.windowAccess fn off n false = some [(pa, n)] →
      (s.servedAll [(pa, n)] = false → waits (.mailboxRead src off n) (.read off n)) ∧
      (s.servedAll [(pa, n)] = true → clean → Answers (.mailboxRead src off n) s (fun t =>
        { t with out := s.out } = s ∧ t.out = s.out ++ [.readDone fn ((List.range n).map (fun i => s.hbm.read (pa + i)))]))) ∧
    (open_ → clean → s.windowAccess fn off n false = none →
      Answers (.mailboxRead src off n) s (fun t => errs t 0 ∧ t.out = s.out ++ [.unsupported fn])) ∧
    (¬open_ → exec (.mailboxWrite src off data) s = .next s ∧
      exec (.mailboxRead src off n) s = .next { s with out := s.out ++ [.unsupported fn] } ∧
      exec (.hostAtomicop src off op size x cmp) s = .next { s with out := s.out ++ [.unsupported fn] }) ∧
    (∀ (v : State) m, { v with mail := [] } = s → v.mail = [m] → m.src.fn = fn → s.servedAll (s.mailRanges m) = false →
      Answers (.mailboxWrite src off data) v (fun t => t.mail = [m, ⟨src, .write off data⟩] ∧ t.hbm = s.hbm ∧ t.out = s.out ∧
        ({ at_ := g + 1, instr := .journalHeldAppend } : Event) ∈ t.agenda)) ∧
    (open_ → s.atomicTarget fn off op size = none →
      Answers (.hostAtomicop src off op size x cmp) s (fun t => errs t 2 ∧ t.out = s.out ++ [.unsupported fn])) ∧
    (open_ → s.atomicTarget fn off op size = some pa → (s.bank ch b).window = none → (s.chan ch).svc = none →
      let base := if s.timelineBusy ch then s.timelineEnd ch + 1 else g
      Answers (.hostAtomicop src off op size x cmp) s (fun t => OnlyChan { s with choice := s.choice + 1 } t ch ∧
        t.bank ch b = { s.bank ch b with
          atomics := (s.bank ch b).atomics ++ [atom g (some src.link) (!s.timelineBusy ch)] } ∧
        ∃ k, k < 64 ∧ Adds s t [{ at_ := base + k, instr := .hostAtomicExecute ch b }])) ∧
    (∀ w a, open_ → s.atomicTarget fn off op size = some pa → (s.chan ch).svc = some (g, w, a) → (s.bank ch b).lentNow g = true →
      (∀ first last, (s.bank ch b).window = some (first, last) → last < g) → Answers (.hostAtomicop src off op size x cmp) s (fun t =>
        ({ at_ := g, instr := .hostAtomicExecute ch b } : Event) ∈ t.agenda)) ∧
    (∀ last, open_ → s.atomicTarget fn off op size = some pa → (s.bank ch b).window = some (g, last) → g + 1 ≤ last →
      (s.bank ch b).busy < g → (s.bank ch b).queue = [] → (s.bank ch b).atomics = [] →
      Answers (.hostAtomicop src off op size x cmp) s (fun t => (t.bank ch b).busy = g + 1 ∧
        ({ at_ := g + 1, instr := .hostAtomicExecute ch b } : Event) ∈ t.agenda)) ∧
    (∀ apply l free, (s.bank ch b).atomics = [atom apply l free] → (s.bank ch b).window = none →
      let lent := (s.bank ch b).lentNow g
      (free = true ∨ s.timelineBusy ch = false ∨ (lent = true ∧ s.windowComes ch b apply = false) →
        (∀ i, s.tagGood i = true) → (size = 4 ∨ size = 8) → pa % size = 0 → op ≠ .other →
        let old := word size
        let new := match op with
          | .fetchAdd => (old + x) % 2 ^ (8 * size)
          | .swap => x % 2 ^ (8 * size)
          | _ => if old = cmp % 2 ^ (8 * size) then x % 2 ^ (8 * size) else old
        Answers (.hostAtomicExecute ch b) s (fun t => within t size (elem 8 new) ∧ (t.bank ch b).atomics = [] ∧
          t.out = s.out ++ (if l = none then [] else [.atomicDone fn old]) ∧ t.cores = s.cores ∧ t.agenda = s.agenda)) ∧
      (free = false → s.timelineBusy ch = true → lent = false → Answers (.hostAtomicExecute ch b) s (fun t =>
        Adds s t [{ at_ := s.timelineEnd ch + 1, instr := .hostAtomicExecute ch b }] ∧ { t with agenda := s.agenda } = s))) ∧
    (fn < 32 → s.fe.resets = [] → (∀ y, y ∈ s.parked → y.2.queue / 64 ≠ fn) →
      ((∀ p, p < 4 → (s.heat p).queue / 64 ≠ fn) → Answers (.functionLevelReset fn) s (fun t =>
        t.heats = s.heats ∧ t.cores = s.cores ∧ t.hbm = s.hbm ∧ t.out = s.out ++ [.resetDone fn] ∧ t.fe.resets = [] ∧
        (∀ i, i < 64 → t.queue (64 * fn + i) = { s.queue (64 * fn + i) with
          res := false, tarm := false, run := false, err := false, log2n := 0, head := 0, tail := 0, met := 0 }) ∧
        (∀ q, q / 64 ≠ fn → t.queue q = s.queue q) ∧ (∀ q, q ∈ t.fe.kick ↔ q ∈ s.fe.kick ∧ q / 64 ≠ fn) ∧
        (∀ e, e ∈ t.fe.evals ↔ e ∈ s.fe.evals ∧ e.queue / 64 ≠ fn) ∧
        (∀ r, r ∈ t.fe.releases ↔ r ∈ s.fe.releases ∧ r.queue / 64 ≠ fn) ∧
        sget 0 t.mgmt.errlog fn = 0 ∧ (∀ y, y ∈ t.attest.waiting ↔ y ∈ s.attest.waiting ∧ y.1 ≠ fn))) ∧
      (∀ p, p < 4 → (s.heat p).queue / 64 = fn → (s.heat p).hasPacket = true → (s.heat p).phase = .running →
        (s.heat p).origin ≤ g → (∀ q, q < 4 → q ≠ p → (s.heat q).queue / 64 ≠ fn) →
        Answers (.functionLevelReset fn) s (fun t => (t.heat p).phase = .stopping ∧ (t.heat p).muted = true ∧
          (t.heat p).endStatus = some 5 ∧ (t.heat p).stopS = some (g + 64) ∧ t.fe.resets = [fn] ∧ t.out = s.out))) ∧
    exec (.linkTrain .a) s = .next { s with mgmt := { s.mgmt with linkA := 1 } } ∧
    exec (.linkTrain .b) s = .next { s with mgmt := { s.mgmt with linkB := if s.mgmt.linkbActive then 2 else 1 } } ∧
    (∀ v : State, { v with mail := [] } = s → (if link = .a then s.mgmt.linkB else s.mgmt.linkA) ≠ 0 →
      Answers (.linkDown link) v (fun t => { t with mgmt := s.mgmt, mail := [], chans := s.chans, fe := s.fe } = s ∧
      { t.fe with evals := s.fe.evals } = s.fe ∧ (∀ m, m ∈ t.mail ↔ m ∈ v.mail ∧ m.src.link ≠ link) ∧
      (∀ e, e ∈ t.fe.evals ↔ e ∈ s.fe.evals ∧ e.link ≠ some link) ∧
      (∀ c d, t.bank c d = { s.bank c d with atomics := (s.bank c d).atomics.map (fun a =>
        if a.link = some link then { a with link := none } else a) }) ∧
      t.mgmt = if link = .a then { s.mgmt with linkA := 0 } else { s.mgmt with linkB := 0 }))

/-- R347: attestation. A nonce waits, and ATTREQ reads 0; the first request takes the key's next index, which is recorded in
protected state before it is used; then ATTREQ reads 1 and the quote is the body's bytes and the signature, which begins with the
index (R346; its byte order is log entry 47), followed by what ATTREQ reads; the management function's stand in its own window (log entry 46). Once 2^20 indices are used up a request is
refused, ATTREQ reads 2, and the management function is told. After a failed boot a virtual function's nonce goes nowhere
(R345). -/
def Obligations.Attestation : Prop :=
  ∀ (s : State) (fn : Nat) (nonce : BitVec 256) (rest : List (Nat × BitVec 256)),
    let a := s.attest
    let frame := fun (t : State) => { t with attest := a, agenda := s.agenda, choice := s.choice } = s
    let soon := fun (t : State) (l : List (Nat × BitVec 256)) =>
      (l ≠ [] → Sometime s t 1 .attestationQuote) ∧ (l = [] → t.agenda = s.agenda)
    (32 ≤ fn ∨ s.bootFailed = false → Answers (.attreq fn nonce) s (fun t => frame t ∧
      t.attest = { a with waiting := a.waiting ++ [(fn, nonce)], status := sset 0 a.status fn 0 } ∧
      (a.waiting = [] → Sometime s t 1 .attestationQuote) ∧ (a.waiting ≠ [] → t.agenda = s.agenda))) ∧
    (fn < 32 → s.bootFailed = true → exec (.attreq fn nonce) s = .next s) ∧
    (a.waiting = [] → exec .attestationQuote s = .next s) ∧
    (a.waiting = (fn, nonce) :: rest → a.taken = none → 2 ^ 20 ≤ a.index → Answers .attestationQuote s (fun t =>
      t.attest = { a with waiting := rest, status := sset 0 a.status fn 2 } ∧ t.out = s.out ++ [.notice 3 fn] ∧
      soon t rest)) ∧
    (∀ m, a.waiting = (fn, nonce) :: rest → a.taken = none → a.index < 2 ^ 20 → s.protectModule = some m →
      Answers .attestationQuote s (fun t => t.attest = { a with index := a.index + 1, taken := some a.index } ∧
        Sometime s t 1 .attestationQuote ∧ t.flash.dir.length = s.flash.dir.length + 1 ∧
        sget 0 t.flash.tail m = sget 0 s.flash.tail m + 4096 ∧
        natOf ((List.range 8).map (fun i => t.flash.mem.read (m * 2 ^ 41 + sget 0 s.flash.tail m + i))) = a.index + 1)) ∧
    (∀ i, a.waiting = (fn, nonce) :: rest → a.taken = some i → Answers .attestationQuote s (fun t => frame t ∧ soon t rest ∧
      let body := bytesOf 32 Config.deviceIdentity.toNat ++ bytesOf 64 (imageDigest s.fwImage).toNat ++
        bytesOf 64 (s.heatDigest fn).toNat ++ bytesOf 4 fn ++ zeros 4 ++ bytesOf 32 nonce.toNat
      let sig := (bytesOf 4 i).reverse ++ exactly 2816 (Config.xmssSign i (Config.shake256 body))
      (body ++ sig).length = 3020 ∧ natOf (sig.take 4).reverse = i % 2 ^ 32 ∧
      t.attest = { a with waiting := rest, taken := none, status := sset 0 a.status fn 1,
                          quotes := sset [] a.quotes fn (body ++ sig) })) ∧
    (let q := sget [] a.quotes fn
     let reads := fun (word : Nat → Nat) => word 0x400 = sget 0 a.status fn ∧ ∀ off, off < 3024 → word (0x1000 + off) =
       natOf (((q ++ zeros (3020 - q.length) ++ bytesOf 4 (sget 0 a.status fn)).drop off).take 8)
     (fn < 32 → reads (s.viRead fn)) ∧ (fn = 32 → reads s.mgmtRead))

/-- R337, R341, R345, R347, R348, R357, R358, R360, R361: the module. Reset restarts GCOUNT and every register, and keeps HBM
and what lies outside (log entries 6, 7 and 45); without a firmware image BOOTSTAT reads 0x81 and nothing runs but the
links, with one that verifies every present core's context starts at bundle 0. Power loss keeps the flash modules alone (log
entry 45). The inlet's first threshold is told, at the second the cores are held in reset until it falls (log entry 44). A
trace record takes its ring's next 32 bytes in a service slot (log entries 29 and 43); where the ring is full the oldest records
are dropped, and a gap record that counts them goes before it, in a slot of its own. A time exchange sets the time (log
entry 42). -/
def Obligations.ModuleEvents : Prop :=
  ∀ (s : State) (die dt0 g0 : Nat) (f : Int) (e : Nat × Nat × BitVec 256),
    let m := s.mgmt
    let image := if s.mgmt.absentNext.contains (.flash, 0) then none else newestFirmware s.flash
    let fresh := fun (t : State) => t.gcount = 0 ∧ t.heats = [] ∧ t.chans = [] ∧ t.fe = feReset ∧ t.trace = traceReset ∧
      t.patrol = [] ∧ t.mgmt.pmode = 0 ∧ t.mgmt.linkb = m.linkb ∧ t.mgmt.linkbActive = m.linkb.getLsbD 0 ∧
      t.mgmt.absent = m.absentNext ∧ t.hbm = s.hbm ∧ t.lines = s.lines ∧ t.flash = s.flash ∧ t.host = s.host ∧ t.out = s.out
    let up := fun (t : State) => t.agenda = [] ∧ t.mgmt.linkA = 1 ∧ t.mgmt.linkB = if m.linkb.getLsbD 0 then 2 else 1
    let ring := sget 0 s.trace.base die
    let head := sget 0 s.trace.head die
    let tail := sget 0 s.trace.tail die
    let slot := fld ring.toNat 26 14 * 2 ^ 26 + head
    let next := fld ring.toNat 26 14 * 2 ^ 26 + (head + 32) % 2 ^ 26
    let taken : State := { s with trace := { s.trace with queue := s.trace.queue.erase e } }
    (image = none → Answers .reset s (fun t => fresh t ∧ t.mgmt.bootstat = 0x81 ∧ t.cores = [] ∧ up t)) ∧
    (∀ d, image = some d →
      let bytes := s.flash.mem.readBytes (fld d.bits.toNat 128 64) (4096 * fld d.bits.toNat 192 32)
      Answers .reset s (fun t => fresh t ∧
        if Config.firmwareVersion bytes < Config.rollbackCount then t.mgmt.bootstat = 0x82 ∧ up t
        else if Config.firmwareVerifies bytes = false then t.mgmt.bootstat = 0x83 ∧ up t
        else t.mgmt.bootstat = 5 ∧ t.fwImage = bytes ∧ ∀ c, c < 256 → (UnitKind.core, c) ∉ m.absentNext →
          (t.core c).fw.mode = .running ∧ (t.core c).fw.pos = 0 ∧ (t.core c).fw.fshare = 256 ∧ (t.core c).fw.s = [] ∧
          ({ at_ := 1, instr := .firmwareBundleIssue c } : Event) ∈ t.agenda)) ∧
    Answers .powerLoss s (fun t => t.flash = s.flash ∧ t.host = s.host ∧ t.hbm = [] ∧ t.cores = [] ∧ t.heats = [] ∧
      t.agenda = [] ∧ t.fe = feReset ∧ t.mgmt = { mgmtReset with absent := m.absent, absentNext := m.absentNext } ∧
      t.attest.waiting = []) ∧
    exec .inletWarning s = .next { s with mgmt := { m with inletWarn := true }, out := s.out ++ [.notice 4 0] } ∧
    ((∀ p, p < 4 → (s.heat p).phase = .none ∨ (s.heat p).phase = .ended) → (∀ x, x ∈ s.parked → 4 ≤ x.1) →
      exec .inletShutdown s = .next { s with mgmt := { m with inletWarn := true, inReset := true } }) ∧
    (m.inReset = false → exec .inletRecover s = .next { s with mgmt := { m with inletWarn := false, inReset := false } }) ∧
    (m.inReset = true → Answers .inletRecover s (fun t => t.mgmt = { m with inletWarn := false, inReset := false } ∧
      ∀ c, c < 256 → ((s.core c).fw.mode = .running ∨ (s.core c).fw.mode = .waiting ∨ (s.core c).fw.mode = .chilled) →
        (t.core c).fw.mode = .running ∧ (t.core c).fw.pos = 0 ∧ (t.core c).fw.imem = (s.core c).fw.imem ∧
        ({ at_ := s.gcount + 1, instr := .firmwareBundleIssue c } : Event) ∈ t.agenda)) ∧
    (s.trace.queue.find? (fun x => decide (x.1 = die)) = some e →
      (ring.getLsbD 0 = false → exec (.traceWrite die) s = .next taken) ∧
      (ring.getLsbD 0 = true → s.traceServed die = false → Answers (.traceWrite die) s (fun t =>
        Adds s t [{ at_ := s.gcount + 1, instr := .traceWrite die }] ∧ { t with agenda := s.agenda } = s)) ∧
      (ring.getLsbD 0 = true → s.traceServed die = true → sget 0 s.trace.pendDrop die = 0 → head < 2 ^ 26 → head % 32 = 0 → tail < 2 ^ 26 →
        tail % 32 = 0 → (head + 32) % 2 ^ 26 ≠ tail → s.paStale slot = false → Answers (.traceWrite die) s (fun t =>
          (∀ i, i < 32 → (t.hbm.read (slot + i)).toNat = elem 8 e.2.2.toNat i) ∧
          (∀ a, (a < slot ∨ slot + 32 ≤ a) → t.hbm.read a = s.hbm.read a) ∧
          sget 0 t.trace.head die = (head + 32) % 2 ^ 26 ∧ sget 0 t.trace.tail die = tail ∧
          t.trace.queue = s.trace.queue.erase e ∧ { t with hbm := s.hbm, lines := s.lines, trace := s.trace } = s)) ∧
      (∀ d, ring.getLsbD 0 = true → s.traceServed die = true → head < 2 ^ 26 → head % 32 = 0 → tail < 2 ^ 26 → tail % 32 = 0 →
        s.paStale slot = false → s.paStale next = false →
        ((sget 0 s.trace.pendDrop die = 0 ∧ (head + 32) % 2 ^ 26 = tail ∧ d = 2) ∨
          (0 < d ∧ sget 0 s.trace.pendDrop die = d ∧ (head + 32) % 2 ^ 26 ≠ tail ∧ (head + 64) % 2 ^ 26 ≠ tail)) →
        let dropped := if sget 0 s.trace.pendDrop die = 0 then 2 else 0
        let gap := fld e.2.2.toNat 0 64 + 19 * 2 ^ 80 + fld e.2.2.toNat 88 8 * 2 ^ 88 + d % 2 ^ 64 * 2 ^ 160
        Answers (.traceWrite die) s (fun t => (∀ i, i < 32 → (t.hbm.read (slot + i)).toNat = elem 8 gap i) ∧
          sget 0 t.trace.tail die = (tail + 32 * dropped) % 2 ^ 26 ∧ sget 0 t.trace.pendDrop die = 0 ∧
          sget 0 t.trace.drop die = (sget 0 s.trace.drop die + dropped) % 2 ^ 64 ∧
          (s.served next = true → (∀ i, i < 32 → (t.hbm.read (next + i)).toNat = elem 8 e.2.2.toNat i) ∧
            sget 0 t.trace.head die = (head + 64) % 2 ^ 26 ∧ t.trace.queue = s.trace.queue.erase e) ∧
          (s.served next = false → sget 0 t.trace.head die = (head + 32) % 2 ^ 26 ∧ t.trace.queue = s.trace.queue ∧
            ({ at_ := s.gcount + 1, instr := .traceWrite die } : Event) ∈ t.agenda)))) ∧
    ((s.trace.tsrc.toNat = 0 ∨ 19 < s.trace.tsrc.toNat) → exec (.timeSync dt0 g0 f) s = .next s) ∧
    (1 ≤ s.trace.tsrc.toNat → s.trace.tsrc.toNat ≤ 19 → Answers (.timeSync dt0 g0 f) s (fun t =>
      t.trace.dt0 = dt0 ∧ t.trace.g0 = g0 ∧ t.trace.f = max (-500000) (min 500000 f) ∧ t.cores = s.cores ∧ t.hbm = s.hbm))

/-! The machine as a whole. -/

/-- R19, R62, R300, R312, R316, R325, R332, R333, R358: the machine at reset, as the spec gives it: the streams, the carries,
the banks, the queue records, PCTL, FSHARE, the front end's schedule and journal, PEERID and the trace masks. The reset
sequence of R345 is the one event ahead, no heat stands in any partition, no context runs, and every memory lists nothing
and is in its canonical form. The values the spec does not give are the model's choice: the registers and fields of a core
and of its firmware context (log entries 2 and 4), GCOUNT (log entry 6), the management and trace registers (log entry 7),
the lines of HBM that nobody wrote (log entry 5), and that every memory reads 0 where nobody wrote (log entry 3). -/
def Obligations.ResetState : Prop :=
  let s := State.reset
  let m := s.mgmt
  let tr := s.trace
  s.gcount = 0 ∧ s.agenda = [{ at_ := 0, instr := .reset }] ∧ s.slots = [] ∧ s.issuing = none ∧ s.out = [] ∧
  s.parked = [] ∧ s.bits = [] ∧ s.logq = [] ∧ s.mail = [] ∧ s.cache = [] ∧ s.fwImage = [] ∧ MgmtLegal s ∧
  (∀ x, s.hbm.read x = 0 ∧ s.host.read x = 0 ∧ s.peer.read x = 0 ∧ s.cxl.read x = 0 ∧ s.flash.mem.read x = 0) ∧
  s.hbm.wf = true ∧ s.host.wf = true ∧ s.peer.wf = true ∧ s.cxl.wf = true ∧ s.flash.mem.wf = true ∧
  s.flash.dir = [] ∧ (∀ a, sget lineReset s.lines a = { ver := 0, key := none, ecc := .good, poison := false, intact := true }) ∧
  s.fe.hold = false ∧ s.fe.sched = 0 ∧ s.fe.kick = [] ∧ s.fe.jbase = 0 ∧ s.fe.jtail = 0 ∧ s.fe.jlow = 0 ∧ s.fe.jseq = 0 ∧
  s.fe.heldRecs = [] ∧ s.fe.heldDone = [] ∧ s.fe.evals = [] ∧ s.fe.pubs = [] ∧ s.fe.resets = [] ∧
  s.fe.releases = [] ∧ s.fe.saves = [] ∧ s.fe.dead = false ∧ s.fe.deadFw = [] ∧
  m.pmode = 0 ∧ m.priv = 0 ∧ m.reqsig = 0 ∧ m.linkb = 0 ∧ m.bootstat = 0 ∧ m.keybuf = 0 ∧ m.absent = [] ∧ m.inReset = false ∧
  m.linkA = 0 ∧ m.linkB = 0 ∧
  (∀ n, sget 0 m.ttbase n = 0 ∧ sget 0 m.inval n = 0 ∧ sget 0 m.vmap n = 0 ∧ sget 0 m.trust n = 0 ∧ sget none m.keys n = none ∧
    sget 0 m.errlog n = 0 ∧ sget 0 m.extents n = 0) ∧
  tr.tsrc = 0 ∧ tr.peerid = 0xFFFF ∧ tr.peertab = 0 ∧ tr.queue = [] ∧
  (∀ d, sget 0 tr.base d = 0 ∧ sget 0 tr.head d = 0 ∧ sget 0 tr.tail d = 0 ∧ sget 0 tr.drop d = 0 ∧
    sget 0xFFFFFFFF tr.mask d = 0xFFFFFFFF) ∧
  (∀ p, (s.heat p).phase = .none) ∧
  (∀ q, s.queue q = { tnext := 0, skips := 0, tarm := false, run := false, err := false, res := false, part := 0, log2n := 0,
                      met := 0, tail := 0, head := 0, base := 0 }) ∧
  (∀ n, s.patrolOf n = { passes := 0, next := 1, cur := 0, state := 0, line := 0, stopping := false }) ∧
  (∀ n b, (s.chan n).getBank b = { row := none, act := none, rd := none, wr := none, pre := none, ref := none, window := none,
                                   lent := none, queue := [], busy := 0, atomics := [] }) ∧
  ∀ c,
    let k := s.core c
    let f := k.fw
    k.seq.dom = .notStarted ∧ k.sstat = 0 ∧ k.csp = 0 ∧ k.csbase = 0 ∧ k.slimit = 0 ∧ k.lq = [] ∧ k.lqOut = 0 ∧ k.poison = [] ∧
    k.shadow = none ∧ k.pend = [] ∧ k.acc = [] ∧ k.badReg = [] ∧ k.badSpad = [] ∧ k.spad.wf = true ∧ (∀ x, k.spad.read x = 0) ∧
    k.half0.valid = false ∧ k.half1.valid = false ∧
    (∀ n, k.rs n = 0 ∧ k.rv n = 0 ∧ k.rk n = 0 ∧ k.rq n = decide (n = 0) ∧
      k.rw n = (if n = 0 then BitVec.allOnes 256 else 0) ∧ (k.rm n).bits = 0 ∧ (k.rm n).poison = 0 ∧ k.rb n = barrierReset ∧
      strField (k.ra n) 111 3 = 2 ∧ strField (k.ra n) 108 3 = 1 ∧ strField (k.ra n) 0 108 = 0 ∧ strField (k.ra n) 114 14 = 0 ∧
      ∀ j, j < 32 → (k.ry n).extractLsb' (65 * j) 65 = 0x3F800000) ∧
    f.mode = .off ∧ f.fvec = 0 ∧ f.fepc = 0 ∧ f.fcause = 0 ∧ f.fpend = 0 ∧ f.fenable = 0 ∧ f.fshare = 256 ∧ f.fxaddr = 0 ∧
    f.calls = [] ∧ f.trapped = none ∧ f.mem = none ∧ f.imem.wf = true ∧ f.dmem.wf = true ∧ f.badI = [] ∧ f.badD = [] ∧
    ∀ n, f.rs n = 0 ∧ f.rq n = decide (n = 0) ∧ f.imem.read n = 0 ∧ f.dmem.read n = 0

/-- R71, R238, R239, R243, R323: a step takes the first event of the agenda at its cycle and runs it. Where that is the issue of a bundle
whose six syllables decode to legal operations, the step runs those operations one after another and then its context goes
on; with no event ahead a cycle goes by. A bundle marked for a restart also leaves its shadow (R243), and an uncorrectable
error that its reads meet in the register files traps and undoes nothing (R239). The event kinds and their phases are the
model's (log entry 1). So is what a mark's shadow holds besides the state R243 names: the streams as they are before an `ASET`
of its own bundle, the sequencer at the mark's own position (log entry 12), and no stop of a trap or of a pre-emption that
stood at the time (log entry 62). -/
def Obligations.StepRunsDecoded : Prop :=
  ∀ (s : State) (e : Event) (rest : List Event) (c : Nat) (b : Bundle) (i0 i1 i2 i3 i4 i5 : Instr),
    let ops := [i0, i1, i2, i3, i4, i5]
    let s1 : State := { s with gcount := max s.gcount e.at_, agenda := rest }
    let k := s1.core c
    let x := k.half k.seq.half
    let f := k.fw
    let runs := fun (t : State) =>
      step s = (match runSlots ops t with
        | .next u => .next (finishIssue u)
        | .fault y => .fault y
        | .refused y => .refused y)
    let decodes := fun (fw : Bool) => ∀ p, p ∈ [(Slot.sca, i0), (.vec, i1), (.mat, i2), (.prm, i3), (.mem, i4), (.ctl, i5)] →
      decodeSyl p.1 (syl b p.1) = some p.2 ∧ (if fw then p.2.legalFirmware else p.2.legalCompute && k.namesOk p.2) = true
    (s.agenda = [] → step s = .next { s with gcount := s.gcount + 1 }) ∧
    (s.agenda = e :: rest →
      (∀ t, exec e.instr s1 = .next t → t.slots = [] → t.issuing = none → step s = .next t) ∧
      (∀ y, exec e.instr s1 = .fault y → step s = .fault y)) ∧
    (s.agenda = e :: rest → e.instr = .bundleIssue c → k.seq.due = s1.gcount → k.issues = true → k.unheld = true →
      k.barred s1.gcount = false → k.seq.bad = none → x.rec_ = none → x.bundles[k.seq.pos]? = some b →
      (s1.heat (s1.partOf c)).cutK = none → decodes false → ∀ h, decodeHeader b = some h →
      let s2 : State := { s1 with cur := { core := c, fw := false, pos := k.seq.pos, seg := x.hdr } }
      (∀ i, i ∈ ops → s2.slotFault c i = none) →
      let q : Seq := { k.seq with lastIssue := some s1.gcount, resumed := false, parted := k.seq.parted || h.part,
                                  lastCut := if h.part then effectiveCut h.cut k.seq.loops else k.seq.lastCut }
      let heat := s1.heat (s1.partOf c)
      let mark : Shadow :=
        { heat := heat.origin, seq := { q with stopFrom := none, stopLine := none }, a := k.a,
          sched := (s1.gcount : Int) - heat.origin - heat.sigma, sigma := heat.sigma, segHdr := x.hdr, y := k.y,
          bar := k.bar.map (fun b => (b.1, b.2.settled)),
          pours := k.runs.filter (fun r => decide (r.start ≤ s1.gcount) && !r.closed) }
      let issued : Core := { k with seq := q, shadow := if h.restart then some mark else k.shadow }
      (s2.regError c b = none → runs { s1.setCore c issued with cur := s2.cur, slots := [], issuing := some c }) ∧
      (∀ n, s2.regError c b = some n →
        runs { (s2.setCore c issued).raiseTrap c ⟨8, 1, 0, some (k.seq.pos, x.hdr), n⟩ with
                 cur := s2.cur, slots := [], issuing := some c })) ∧
    (s.agenda = e :: rest → e.instr = .firmwareBundleIssue c → f.mode = .running → f.due = s1.gcount →
      s1.mgmt.inReset = false → k.seq.lastIssue ≠ some s1.gcount → f.usedIn s1.gcount < f.fshare → f.away = none → f.pos < 682 →
      f.badI.contains f.pos = false → f.bundleAt f.pos = b → fld b.toNat 0 32 = 0 → decodes true →
      runs { s1.setCore c { k with fw := { f with window := s1.gcount / 256, issuedIn := f.usedIn s1.gcount + 1 } } with
        cur := { core := c, fw := true, pos := f.pos, seg := 0 }, slots := [], issuing := some c }) ∧
    (∀ (i : Instr) (l : List Instr) (t : State), runSlots [] t = .next t ∧ runSlots (i :: l) t = (match exec i t with
      | .next u => runSlots l u
      | .fault y => .fault y
      | .refused y => .refused y))

/-- R71, R92, R95, R101, R108, R110, R248, R324: where a context goes on after its bundle: to the bundle that follows, in the next cycle
and its GAP; to the target of a branch once its two delay bundles have issued; at the end of a loop's body to its start with
the next kernel iteration, or out of the loop. A target that lies beyond a firmware context's code is kept with the value
that named it, and faults when it would issue. A fall-through past a compute segment's last bundle enters the other half at
its first bundle, while the half it leaves begins to expand the segment after that one (R92); with nothing to enter it goes
on to a recorded fault, of cause 4 at the end of the last segment, else of cause 6 at the segment that should follow (that
this one stands at position 0 of a segment that holds no bundle is log entry 61). Where K stands and the next bundle is the
core's stop point, the core has stopped with that (R248, log entry 22). -/
def Obligations.SequencerAdvance : Prop :=
  ∀ (s : State) (c : Nat),
    let k := s.core c
    let q := k.seq
    let x := k.half q.half
    let y := k.half (!q.half)
    let h := s.heat (s.partOf c)
    let at_ := fun (n : Nat) (l : List LoopRec) (i : Sparse Nat) (br : Option (Target × Nat)) (skip : Nat) (t : State) =>
      let due := s.gcount + 1 + ((x.bundles[n]?).map gapOf).getD 0
      let q1 : Seq := { q with pos := n, loops := l, idx := i, branch := br, bad := none, due := due, skip := skip }
      let stops := h.cutK.isSome = true ∧ h.phase = .stopping ∧ StopPoint h { k with seq := q1 } due
      (¬stops → t.core c = { k with seq := q1 } ∧ Adds s t [{ at_ := due, instr := .bundleIssue c }] ∧ OnlyCore s t c) ∧
      (stops → t.core c = { k with seq := stoppedSeq q1 due } ∧
        { t with cores := s.cores, heats := s.heats, agenda := s.agenda } = s ∧
        (∀ d, d ≠ c → t.core d = s.core d) ∧ ∀ x, x ∈ s.agenda → x ∈ t.agenda)
    let faults := fun (r : ExpRecord) (t : State) =>
      t.core c = { k with seq := { q with pos := q.pos + 1 + q.skip, bad := some r, due := s.gcount + 1, skip := 0 } } ∧
      Adds s t [{ at_ := s.gcount + 1, instr := .bundleIssue c }] ∧ OnlyCore s t c
    let f := k.fw
    let fwAt := fun (n : Nat) (out : Option Word64) (br : Option (Target × Nat)) (t : State) =>
      t.core c = { k with fw := { f with pos := n, away := out, branch := br, resume := none, due := s.gcount + 1 } } ∧
      AddsOrWakes s t c [{ at_ := s.gcount + 1, instr := .firmwareBundleIssue c }] ∧ OnlyCore s t c
    (k.issues = true → k.unheld = true → x.busy = false → x.rec_ = none → q.stopLine = none →
      (q.branch = none → q.loops = [] → q.pos + 1 + q.skip < x.bundles.length →
        at_ (q.pos + 1 + q.skip) [] q.idx none 0 (s.finishCompute c)) ∧
      (q.branch = none → q.loops = [] → x.bundles.length ≤ q.pos + 1 + q.skip →
        (x.lastSeg = true → faults ⟨false, q.pos + 1 + q.skip, 4, x.hdr, x.endOff, x.hdr + x.endOff⟩ (s.finishCompute c)) ∧
        (x.lastSeg = false → y.valid = false →
          faults ⟨false, q.pos + 1 + q.skip, 6, x.next, 0, x.next⟩ (s.finishCompute c)) ∧
        (x.lastSeg = false → y.valid = true → y.busy = false → y.bundles ≠ [] → y.rec_ = none →
          (h.cutK = none ∨ h.phase ≠ .stopping) →
          let due := s.gcount + 1 + ((y.bundles[0]?).map gapOf).getD 0
          let t := s.finishCompute c
          (t.core c).seq = { q with half := !q.half, pos := 0, bad := none, due := due, skip := 0 } ∧
          (t.core c).half (!q.half) = y ∧
          (t.core c).half q.half = (if y.lastSeg then halfReset else halfBegin y.next) ∧
          ({ at_ := due, instr := .bundleIssue c } : Event) ∈ t.agenda ∧
          (y.lastSeg = false → ∃ n, s.gcount + 1 ≤ n ∧ ({ at_ := n, instr := .codeLineFetch c } : Event) ∈ t.agenda) ∧
          (∀ d, d ≠ c → t.core d = s.core d) ∧ ∀ r, (t.core c).rs r = k.rs r)) ∧
      (∀ t n, q.branch = some (t, n + 2) → q.pos + 1 < x.bundles.length →
        at_ (q.pos + 1) q.loops q.idx (some (t, n + 1)) q.skip (s.finishCompute c)) ∧
      (∀ t, q.branch = some (t, 1) → x.valid = true → t.away = false → t.hdr = x.hdr → t.idx < x.bundles.length →
        at_ t.idx q.loops q.idx none q.skip (s.finishCompute c)) ∧
      (∀ l rest, q.branch = none → q.loops = l :: rest → l.kind = 0 → q.skip = 0 →
        (q.pos + 1 < l.start + l.body → q.pos + 1 < x.bundles.length →
          at_ (q.pos + 1) q.loops q.idx none 0 (s.finishCompute c)) ∧
        (l.start + l.body ≤ q.pos + 1 → l.j + 1 < l.n + l.s - 1 → l.start < x.bundles.length →
          at_ l.start ({ l with j := l.j + 1 } :: rest) q.idx none 0 (s.finishCompute c)) ∧
        (l.start + l.body ≤ q.pos + 1 → l.n + l.s - 1 ≤ l.j + 1 → rest = [] → q.pos + 1 < x.bundles.length →
          at_ (q.pos + 1) [] (sset 0 q.idx l.lvl ((((l.ibase : Int) + (l.n - 1) * l.istep) % 2 ^ 64).toNat)) none 0
            (s.finishCompute c)))) ∧
    (f.mode = .running → f.trapped = none →
      (f.resume = none → f.branch = none → fwAt (f.pos + 1) none none (s.finishFw c)) ∧
      (∀ t n, f.resume = none → f.branch = some (t, n + 2) → fwAt (f.pos + 1) none (some (t, n + 1)) (s.finishFw c)) ∧
      (∀ t, f.resume = none → f.branch = some (t, 1) → (t.raw.getLsbD 10 = false ∧ t.idx < 682) →
        fwAt t.idx none none (s.finishFw c)) ∧
      (∀ t, f.resume = none → f.branch = some (t, 1) → (t.raw.getLsbD 10 = true ∨ 682 ≤ t.idx) →
        fwAt t.idx (some t.raw) none (s.finishFw c)) ∧
      (∀ n, f.resume = some n → fwAt n none none (s.finishFw c)))

/-- R69, R72, R78, R80, R82, R84, R86: words written out from the encodings of the spec decode to the instructions they stand
for. -/
def Obligations.DecodeWords : Prop :=
  let g : Gate := { pred := 0, stage := 0 }
  let staged := fun (n : BitVec 4) => ({ pred := 0, stage := n } : Gate)
  decodeSyl .ctl 0x000000000008 = some (.halt g) ∧
  decodeSyl .ctl 0x00000184000A = some (.waitd g 2 6) ∧
  decodeSyl .ctl 0x000000004207 = some (.lexit { pred := 2, stage := 2 } 0) ∧
  decodeSyl .sca 0x002800040011 = some (.addi g 2 0 5) ∧
  decodeSyl .sca 0x00587F8A0031 = some (.xv g 5 11 255) ∧
  decodeSyl .sca 0x001004042040 = some (.cmpeqi (staged 1) 2 8 2) ∧
  decodeSyl .sca 0x0010002800E0 = some (.fsrd g 20 2) ∧
  decodeSyl .vec 0x0000A00A0174A040 = some (.vfadd (staged 5) 10 0 11 10 20) ∧
  decodeSyl .vec 0x0240002905100355 = some (.vfmulVs { pred := 3, stage := 0 } 8 1 40 41 9) ∧
  decodeSyl .mat 0x0000000208440001 = some (.mma g 2 1 2 8 0 0) ∧
  decodeSyl .mat 0x03C0000000040009 = some (.mrd g 2 0 30) ∧
  decodeSyl .prm 0x5300000801540003 = some (.vcvt g 10 5 4 6 1 true) ∧
  decodeSyl .prm 0x0800100200940005 = some (.qnt g 10 2 1 1 0 16 0 false) ∧
  decodeSyl .mem 0x0000000802C0E002 = some (.vst (staged 7) 11 4) ∧
  decodeSyl .mem 0x00000C02008A0008 = some (.atom g 5 2 1 6) ∧
  decodeSyl .mem 0x0000020000000019 = some (.fence g 1) ∧
  decodeSyl .mem 0x0000001A000000E3 = some (.japp g 13) ∧
  decodeSyl .ctl 0 = some (.nop .ctl) ∧ decodeSyl .sca 0x0000000000FF = none

/-- R69, R72, R73, R76, R78, R80, R82, R84, R86: for every well-formed operation of every slot, the word of its encoding decodes
to it, with every operand at every value; the word fits the slot, and the bundle that holds it holds the NOPs of the other
slots.

R72, R73: no operation has two words: a word of a slot's width that decodes is the encoding of what it decodes to, so that a
reserved bit that is not zero, or a field value that is not legal, is never taken. -/
def Obligations.Encoding : Prop :=
  (∀ (i : Instr) (sl : Slot), i.slot? = some sl → i.wf = true →
    decodeSyl sl (encode i) = some i ∧ encode i < 2 ^ slotWidth sl ∧
    ∀ other, syl (bundleOf i) other = if other = sl then encode i else 0) ∧
  (∀ (sl : Slot) (w : Nat) (i : Instr), w < 2 ^ slotWidth sl → decodeSyl sl w = some i →
    encode i = w ∧ i.wf = true ∧ i.slot? = some sl)

/-- Every instruction has its effect in every state: it is never refused, and stops only as a slot operation that is not well
formed, or whose rotating name no ring holds, when it is run other than through a bundle's issue, which takes the
illegal-encoding trap instead (R74, R238; that such an operation stops when it is run alone is log entry 55). -/
def Obligations.EveryInstructionAnswers : Prop :=
  ∀ (i : Instr) (s : State),
    (∀ r, exec i s ≠ .refused r) ∧
    (∀ f, exec i s = .fault f → f = .illFormed i ∧ i.slot?.isSome = true ∧
      (i.wf = false ∨ (s.core s.cur.core).namesOk i = false)) ∧
    (i.wf = true → (s.core s.cur.core).namesOk i = true → ∃ t, exec i s = .next t)

/-- R315, R341: the registers of the management function keep the form the spec gives them over every step: PMODE one bit, LINKB
one bit, and every TTBASE and VMAP only its own fields. -/
def Obligations.MgmtLegalKept : Prop :=
  ∀ (s t : State), MgmtLegal s → step s = .next t → MgmtLegal t
end

