-- ==== Sys2Proof/Laws/Elements.lean ====
section
/-! SUPPORT. The elements of a packed field read back (R136). -/

namespace Sys2Proof.Machine

theorem packList_lt (w : Nat) (l : List Nat) : packList w l < 2 ^ (w * l.length) := by
  induction l with
  | nil => simp [packList]
  | cons x l ih =>
    simp only [packList, List.length_cons, Nat.mul_add, Nat.mul_one]
    have h1 : x % 2 ^ w < 2 ^ w := Nat.mod_lt _ (Nat.two_pow_pos w)
    have h2 : 2 ^ w * packList w l + 2 ^ w ≤ 2 ^ w * 2 ^ (w * l.length) := by
      rw [← Nat.mul_succ]; exact Nat.mul_le_mul_left _ ih
    rw [Nat.pow_add, Nat.mul_comm (2 ^ (w * l.length))]
    omega

/-- Element j of a packed list is its j-th entry. -/
theorem elem_packList (w : Nat) (l : List Nat) (j : Nat) (h : j < l.length) : elem w (packList w l) j = l[j] % 2 ^ w := by
  induction l generalizing j with
  | nil => exact absurd h (Nat.not_lt_zero j)
  | cons x l ih =>
    have h1 : x % 2 ^ w < 2 ^ w := Nat.mod_lt _ (Nat.two_pow_pos w)
    cases j with
    | zero => simp [elem, packList, Nat.add_mul_mod_self_left]
    | succ j =>
      have hj : j < l.length := by simpa using h
      have := ih j hj
      simp only [elem, packList, List.getElem_cons_succ] at this ⊢
      rw [Nat.mul_add, Nat.mul_one, Nat.add_comm (w * j) w, Nat.pow_add, ← Nat.div_div_eq_div_mul,
        Nat.add_mul_div_left _ _ (Nat.two_pow_pos w), Nat.div_eq_of_lt h1, Nat.zero_add]
      exact this

/-- The elements of a register packed from a list of as many elements as it has. -/
theorem elem_ofNat_packList (w : Nat) (l : List Nat) (j : Nat) (hl : w * l.length ≤ 8192) (h : j < l.length) :
    elem w (BitVec.ofNat 8192 (packList w l)).toNat j = l[j] % 2 ^ w := by
  rw [BitVec.toNat_ofNat, Nat.mod_eq_of_lt
    (Nat.lt_of_lt_of_le (packList_lt w l) (Nat.pow_le_pow_right (by omega) hl))]
  exact elem_packList w l j h

theorem elem_lt (w x j : Nat) : elem w x j < 2 ^ w := Nat.mod_lt _ (Nat.two_pow_pos w)

@[simp] theorem length_elems (w n x : Nat) : (elems w n x).length = n := by simp [elems]

theorem getElem_elems (w n x j : Nat) (h : j < (elems w n x).length) : (elems w n x)[j] = elem w x j := by
  simp [elems]

/-- Element j of a result computed element by element from two lists. -/
theorem elem_vecOf_zip (f : Nat) (op : Nat → Nat → Nat) (l m : List Nat) (j : Nat)
    (hl : l.length = 8192 / fmtWidth f) (hm : m.length = 8192 / fmtWidth f) (h : j < 8192 / fmtWidth f) :
    elem (fmtWidth f) (vecOf f (List.zipWith op l m)).toNat j =
      op (l[j]'(by omega)) (m[j]'(by omega)) % 2 ^ fmtWidth f := by
  have hlen : (List.zipWith op l m).length = 8192 / fmtWidth f := by simp [hl, hm]
  rw [vecOf, elem_ofNat_packList _ _ _ (by rw [hlen]; exact Nat.mul_div_le _ _) (by omega)]
  simp

/-- Element j of a result computed element by element from one list. -/
theorem elem_vecOf_map (f : Nat) (l : List Nat) (j : Nat)
    (hl : l.length = 8192 / fmtWidth f) (h : j < 8192 / fmtWidth f) :
    elem (fmtWidth f) (vecOf f l).toNat j = l[j]'(by omega) % 2 ^ fmtWidth f := by
  rw [vecOf, elem_ofNat_packList _ _ _ (by rw [hl]; exact Nat.mul_div_le _ _) (by omega)]

end Sys2Proof.Machine
end

