-- ==== Sys2Proof/Laws/Exec.lean ====
section
/-! SUPPORT. Which meaning the dispatch calls: one lemma for each constructor of the syntax, so that no proof unfolds the
dispatch. -/

namespace Sys2Proof.Machine

theorem exec_bundleIssue {core} (s : State) : exec (.bundleIssue core) s = execBundleIssue core s := rfl
theorem exec_codeLineFetch {core} (s : State) : exec (.codeLineFetch core) s = execCodeLineFetch core s := rfl
theorem exec_resultLand {core} (s : State) : exec (.resultLand core) s = execResultLand core s := rfl
theorem exec_bankAccess {core id part} (s : State) : exec (.bankAccess core id part) s = execBankAccess core id part s := rfl
theorem exec_dynamicBankAccess {core id off} (s : State) : exec (.dynamicBankAccess core id off) s = execDynamicBankAccess core id off s := rfl
theorem exec_nop {slot} (s : State) : exec (.nop slot) s = execNop slot s := rfl
theorem exec_br {g idx seg} (s : State) : exec (.br g idx seg) s = execBr g idx seg s := rfl
theorem exec_call {g idx seg} (s : State) : exec (.call g idx seg) s = execCall g idx seg s := rfl
theorem exec_bri {g sreg} (s : State) : exec (.bri g sreg) s = execBri g sreg s := rfl
theorem exec_calli {g sreg} (s : State) : exec (.calli g sreg) s = execCalli g sreg s := rfl
theorem exec_ret {g} (s : State) : exec (.ret g) s = execRet g s := rfl
theorem exec_loop {g cnt lte body lvl} (s : State) : exec (.loop g cnt lte body lvl) s = execLoop g cnt lte body lvl s := rfl
theorem exec_lexit {g lvl} (s : State) : exec (.lexit g lvl) s = execLexit g lvl s := rfl
theorem exec_halt {g} (s : State) : exec (.halt g) s = execHalt g s := rfl
theorem exec_trig {g imm8} (s : State) : exec (.trig g imm8) s = execTrig g imm8 s := rfl
theorem exec_waitd {g bar sreg} (s : State) : exec (.waitd g bar sreg) s = execWaitd g bar sreg s := rfl
theorem exec_waitdDeadline {core} (s : State) : exec (.waitdDeadline core) s = execWaitdDeadline core s := rfl
theorem exec_waita {g bar} (s : State) : exec (.waita g bar) s = execWaita g bar s := rfl
theorem exec_waitaRelease {core} (s : State) : exec (.waitaRelease core) s = execWaitaRelease core s := rfl
theorem exec_align {g sreg} (s : State) : exec (.align g sreg) s = execAlign g sreg s := rfl
theorem exec_alignPointReached {core} (s : State) : exec (.alignPointReached core) s = execAlignPointReached core s := rfl
theorem exec_trap {g imm8} (s : State) : exec (.trap g imm8) s = execTrap g imm8 s := rfl
theorem exec_chill {g} (s : State) : exec (.chill g) s = execChill g s := rfl
theorem exec_fret {g} (s : State) : exec (.fret g) s = execFret g s := rfl
theorem exec_add {g d a b} (s : State) : exec (.add g d a b) s = execAdd g d a b s := rfl
theorem exec_sub {g d a b} (s : State) : exec (.sub g d a b) s = execSub g d a b s := rfl
theorem exec_and {g d a b} (s : State) : exec (.and g d a b) s = execAnd g d a b s := rfl
theorem exec_or {g d a b} (s : State) : exec (.or g d a b) s = execOr g d a b s := rfl
theorem exec_xor {g d a b} (s : State) : exec (.xor g d a b) s = execXor g d a b s := rfl
theorem exec_shl {g d a b} (s : State) : exec (.shl g d a b) s = execShl g d a b s := rfl
theorem exec_shr {g d a b} (s : State) : exec (.shr g d a b) s = execShr g d a b s := rfl
theorem exec_sar {g d a b} (s : State) : exec (.sar g d a b) s = execSar g d a b s := rfl
theorem exec_min {g d a b} (s : State) : exec (.min g d a b) s = execMin g d a b s := rfl
theorem exec_max {g d a b} (s : State) : exec (.max g d a b) s = execMax g d a b s := rfl
theorem exec_minu {g d a b} (s : State) : exec (.minu g d a b) s = execMinu g d a b s := rfl
theorem exec_maxu {g d a b} (s : State) : exec (.maxu g d a b) s = execMaxu g d a b s := rfl
theorem exec_addi {g d a imm} (s : State) : exec (.addi g d a imm) s = execAddi g d a imm s := rfl
theorem exec_andi {g d a imm} (s : State) : exec (.andi g d a imm) s = execAndi g d a imm s := rfl
theorem exec_ori {g d a imm} (s : State) : exec (.ori g d a imm) s = execOri g d a imm s := rfl
theorem exec_xori {g d a imm} (s : State) : exec (.xori g d a imm) s = execXori g d a imm s := rfl
theorem exec_shli {g d a imm} (s : State) : exec (.shli g d a imm) s = execShli g d a imm s := rfl
theorem exec_shri {g d a imm} (s : State) : exec (.shri g d a imm) s = execShri g d a imm s := rfl
theorem exec_sari {g d a imm} (s : State) : exec (.sari g d a imm) s = execSari g d a imm s := rfl
theorem exec_cati {g d a imm} (s : State) : exec (.cati g d a imm) s = execCati g d a imm s := rfl
theorem exec_mul {g d a b} (s : State) : exec (.mul g d a b) s = execMul g d a b s := rfl
theorem exec_mulh {g d a b} (s : State) : exec (.mulh g d a b) s = execMulh g d a b s := rfl
theorem exec_mulhu {g d a b} (s : State) : exec (.mulhu g d a b) s = execMulhu g d a b s := rfl
theorem exec_div {g d a b} (s : State) : exec (.div g d a b) s = execDiv g d a b s := rfl
theorem exec_divu {g d a b} (s : State) : exec (.divu g d a b) s = execDivu g d a b s := rfl
theorem exec_rem {g d a b} (s : State) : exec (.rem g d a b) s = execRem g d a b s := rfl
theorem exec_remu {g d a b} (s : State) : exec (.remu g d a b) s = execRemu g d a b s := rfl
theorem exec_xs {g a v} (s : State) : exec (.xs g a v) s = execXs g a v s := rfl
theorem exec_xv {g d v lane} (s : State) : exec (.xv g d v lane) s = execXv g d v lane s := rfl
theorem exec_cmpeq {g d a b} (s : State) : exec (.cmpeq g d a b) s = execCmpeq g d a b s := rfl
theorem exec_cmpne {g d a b} (s : State) : exec (.cmpne g d a b) s = execCmpne g d a b s := rfl
theorem exec_cmplt {g d a b} (s : State) : exec (.cmplt g d a b) s = execCmplt g d a b s := rfl
theorem exec_cmpltu {g d a b} (s : State) : exec (.cmpltu g d a b) s = execCmpltu g d a b s := rfl
theorem exec_cmple {g d a b} (s : State) : exec (.cmple g d a b) s = execCmple g d a b s := rfl
theorem exec_cmpleu {g d a b} (s : State) : exec (.cmpleu g d a b) s = execCmpleu g d a b s := rfl
theorem exec_cmpeqi {g d a imm} (s : State) : exec (.cmpeqi g d a imm) s = execCmpeqi g d a imm s := rfl
theorem exec_cmpnei {g d a imm} (s : State) : exec (.cmpnei g d a imm) s = execCmpnei g d a imm s := rfl
theorem exec_cmplti {g d a imm} (s : State) : exec (.cmplti g d a imm) s = execCmplti g d a imm s := rfl
theorem exec_cmpltui {g d a imm} (s : State) : exec (.cmpltui g d a imm) s = execCmpltui g d a imm s := rfl
theorem exec_cmplei {g d a imm} (s : State) : exec (.cmplei g d a imm) s = execCmplei g d a imm s := rfl
theorem exec_cmpleui {g d a imm} (s : State) : exec (.cmpleui g d a imm) s = execCmpleui g d a imm s := rfl
theorem exec_qand {g d a b} (s : State) : exec (.qand g d a b) s = execQand g d a b s := rfl
theorem exec_qor {g d a b} (s : State) : exec (.qor g d a b) s = execQor g d a b s := rfl
theorem exec_qxor {g d a b} (s : State) : exec (.qxor g d a b) s = execQxor g d a b s := rfl
theorem exec_qandn {g d a b} (s : State) : exec (.qandn g d a b) s = execQandn g d a b s := rfl
theorem exec_aset {g d a fsel} (s : State) : exec (.aset g d a fsel) s = execAset g d a fsel s := rfl
theorem exec_srd {g d n} (s : State) : exec (.srd g d n) s = execSrd g d n s := rfl
theorem exec_swr {g n a} (s : State) : exec (.swr g n a) s = execSwr g n a s := rfl
theorem exec_gcrdHeat {g d} (s : State) : exec (.gcrdHeat g d) s = execGcrdHeat g d s := rfl
theorem exec_gcrdGcount {g d} (s : State) : exec (.gcrdGcount g d) s = execGcrdGcount g d s := rfl
theorem exec_lxrd {g d n} (s : State) : exec (.lxrd g d n) s = execLxrd g d n s := rfl
theorem exec_fsrd {g d n} (s : State) : exec (.fsrd g d n) s = execFsrd g d n s := rfl
theorem exec_fswr {g n a} (s : State) : exec (.fswr g n a) s = execFswr g n a s := rfl
theorem exec_holdWrite {core v} (s : State) : exec (.holdWrite core v) s = execHoldWrite core v s := rfl
theorem exec_heatStopRequest {part} (s : State) : exec (.heatStopRequest part) s = execHeatStopRequest part s := rfl
theorem exec_heatResume {part delta} (s : State) : exec (.heatResume part delta) s = execHeatResume part delta s := rfl
theorem exec_heatRestart {part delta} (s : State) : exec (.heatRestart part delta) s = execHeatRestart part delta s := rfl
theorem exec_heatEnd {part} (s : State) : exec (.heatEnd part) s = execHeatEnd part s := rfl
theorem exec_patrolStartScrub {part} (s : State) : exec (.patrolStartScrub part) s = execPatrolStartScrub part s := rfl
theorem exec_patrolRotate {part} (s : State) : exec (.patrolRotate part) s = execPatrolRotate part s := rfl
theorem exec_patrolStop {part} (s : State) : exec (.patrolStop part) s = execPatrolStop part s := rfl
theorem exec_timerArm {q} (s : State) : exec (.timerArm q) s = execTimerArm q s := rfl
theorem exec_timerDisarm {q} (s : State) : exec (.timerDisarm q) s = execTimerDisarm q s := rfl
theorem exec_vadd {g fmt d a b} (s : State) : exec (.vadd g fmt d a b) s = execVadd g fmt d a b s := rfl
theorem exec_vaddVs {g fmt d a c} (s : State) : exec (.vaddVs g fmt d a c) s = execVaddVs g fmt d a c s := rfl
theorem exec_vsub {g fmt d a b} (s : State) : exec (.vsub g fmt d a b) s = execVsub g fmt d a b s := rfl
theorem exec_vsubVs {g fmt d a c} (s : State) : exec (.vsubVs g fmt d a c) s = execVsubVs g fmt d a c s := rfl
theorem exec_vmul {g fmt d a b} (s : State) : exec (.vmul g fmt d a b) s = execVmul g fmt d a b s := rfl
theorem exec_vmulVs {g fmt d a c} (s : State) : exec (.vmulVs g fmt d a c) s = execVmulVs g fmt d a c s := rfl
theorem exec_vmulh {g fmt d a b} (s : State) : exec (.vmulh g fmt d a b) s = execVmulh g fmt d a b s := rfl
theorem exec_vmulhVs {g fmt d a c} (s : State) : exec (.vmulhVs g fmt d a c) s = execVmulhVs g fmt d a c s := rfl
theorem exec_vmin {g fmt d a b} (s : State) : exec (.vmin g fmt d a b) s = execVmin g fmt d a b s := rfl
theorem exec_vminVs {g fmt d a c} (s : State) : exec (.vminVs g fmt d a c) s = execVminVs g fmt d a c s := rfl
theorem exec_vmax {g fmt d a b} (s : State) : exec (.vmax g fmt d a b) s = execVmax g fmt d a b s := rfl
theorem exec_vmaxVs {g fmt d a c} (s : State) : exec (.vmaxVs g fmt d a c) s = execVmaxVs g fmt d a c s := rfl
theorem exec_vand {g fmt d a b} (s : State) : exec (.vand g fmt d a b) s = execVand g fmt d a b s := rfl
theorem exec_vandVs {g fmt d a c} (s : State) : exec (.vandVs g fmt d a c) s = execVandVs g fmt d a c s := rfl
theorem exec_vor {g fmt d a b} (s : State) : exec (.vor g fmt d a b) s = execVor g fmt d a b s := rfl
theorem exec_vorVs {g fmt d a c} (s : State) : exec (.vorVs g fmt d a c) s = execVorVs g fmt d a c s := rfl
theorem exec_vxor {g fmt d a b} (s : State) : exec (.vxor g fmt d a b) s = execVxor g fmt d a b s := rfl
theorem exec_vxorVs {g fmt d a c} (s : State) : exec (.vxorVs g fmt d a c) s = execVxorVs g fmt d a c s := rfl
theorem exec_vshl {g fmt d a b} (s : State) : exec (.vshl g fmt d a b) s = execVshl g fmt d a b s := rfl
theorem exec_vshlVs {g fmt d a c} (s : State) : exec (.vshlVs g fmt d a c) s = execVshlVs g fmt d a c s := rfl
theorem exec_vshr {g fmt d a b} (s : State) : exec (.vshr g fmt d a b) s = execVshr g fmt d a b s := rfl
theorem exec_vshrVs {g fmt d a c} (s : State) : exec (.vshrVs g fmt d a c) s = execVshrVs g fmt d a c s := rfl
theorem exec_vsar {g fmt d a b} (s : State) : exec (.vsar g fmt d a b) s = execVsar g fmt d a b s := rfl
theorem exec_vsarVs {g fmt d a c} (s : State) : exec (.vsarVs g fmt d a c) s = execVsarVs g fmt d a c s := rfl
theorem exec_vadds {g fmt d a b} (s : State) : exec (.vadds g fmt d a b) s = execVadds g fmt d a b s := rfl
theorem exec_vaddsVs {g fmt d a c} (s : State) : exec (.vaddsVs g fmt d a c) s = execVaddsVs g fmt d a c s := rfl
theorem exec_vsubs {g fmt d a b} (s : State) : exec (.vsubs g fmt d a b) s = execVsubs g fmt d a b s := rfl
theorem exec_vsubsVs {g fmt d a c} (s : State) : exec (.vsubsVs g fmt d a c) s = execVsubsVs g fmt d a c s := rfl
theorem exec_vabs {g fmt d a} (s : State) : exec (.vabs g fmt d a) s = execVabs g fmt d a s := rfl
theorem exec_vneg {g fmt d a} (s : State) : exec (.vneg g fmt d a) s = execVneg g fmt d a s := rfl
theorem exec_vnot {g fmt d a} (s : State) : exec (.vnot g fmt d a) s = execVnot g fmt d a s := rfl
theorem exec_vmov {g fmt d a} (s : State) : exec (.vmov g fmt d a) s = execVmov g fmt d a s := rfl
theorem exec_vmovi {g fmt d imm} (s : State) : exec (.vmovi g fmt d imm) s = execVmovi g fmt d imm s := rfl
theorem exec_vsel {g fmt d a b sel} (s : State) : exec (.vsel g fmt d a b sel) s = execVsel g fmt d a b sel s := rfl
theorem exec_vfadd {g fmt rm d a b} (s : State) : exec (.vfadd g fmt rm d a b) s = execVfadd g fmt rm d a b s := rfl
theorem exec_vfaddVs {g fmt rm d a c} (s : State) : exec (.vfaddVs g fmt rm d a c) s = execVfaddVs g fmt rm d a c s := rfl
theorem exec_vfsub {g fmt rm d a b} (s : State) : exec (.vfsub g fmt rm d a b) s = execVfsub g fmt rm d a b s := rfl
theorem exec_vfsubVs {g fmt rm d a c} (s : State) : exec (.vfsubVs g fmt rm d a c) s = execVfsubVs g fmt rm d a c s := rfl
theorem exec_vfmul {g fmt rm d a b} (s : State) : exec (.vfmul g fmt rm d a b) s = execVfmul g fmt rm d a b s := rfl
theorem exec_vfmulVs {g fmt rm d a c} (s : State) : exec (.vfmulVs g fmt rm d a c) s = execVfmulVs g fmt rm d a c s := rfl
theorem exec_vfma {g fmt rm d a b c} (s : State) : exec (.vfma g fmt rm d a b c) s = execVfma g fmt rm d a b c s := rfl
theorem exec_vfmin {g fmt d a b} (s : State) : exec (.vfmin g fmt d a b) s = execVfmin g fmt d a b s := rfl
theorem exec_vfminVs {g fmt d a c} (s : State) : exec (.vfminVs g fmt d a c) s = execVfminVs g fmt d a c s := rfl
theorem exec_vfmax {g fmt d a b} (s : State) : exec (.vfmax g fmt d a b) s = execVfmax g fmt d a b s := rfl
theorem exec_vfmaxVs {g fmt d a c} (s : State) : exec (.vfmaxVs g fmt d a c) s = execVfmaxVs g fmt d a c s := rfl
theorem exec_vfabs {g fmt d a} (s : State) : exec (.vfabs g fmt d a) s = execVfabs g fmt d a s := rfl
theorem exec_vfneg {g fmt d a} (s : State) : exec (.vfneg g fmt d a) s = execVfneg g fmt d a s := rfl
theorem exec_vexp2 {g fmt d a} (s : State) : exec (.vexp2 g fmt d a) s = execVexp2 g fmt d a s := rfl
theorem exec_vlog2 {g fmt d a} (s : State) : exec (.vlog2 g fmt d a) s = execVlog2 g fmt d a s := rfl
theorem exec_vrcp {g fmt d a} (s : State) : exec (.vrcp g fmt d a) s = execVrcp g fmt d a s := rfl
theorem exec_vrsq {g fmt d a} (s : State) : exec (.vrsq g fmt d a) s = execVrsq g fmt d a s := rfl
theorem exec_vcmpeq {g fmt d a b} (s : State) : exec (.vcmpeq g fmt d a b) s = execVcmpeq g fmt d a b s := rfl
theorem exec_vcmpeqVs {g fmt d a c} (s : State) : exec (.vcmpeqVs g fmt d a c) s = execVcmpeqVs g fmt d a c s := rfl
theorem exec_vcmpne {g fmt d a b} (s : State) : exec (.vcmpne g fmt d a b) s = execVcmpne g fmt d a b s := rfl
theorem exec_vcmpneVs {g fmt d a c} (s : State) : exec (.vcmpneVs g fmt d a c) s = execVcmpneVs g fmt d a c s := rfl
theorem exec_vcmplt {g fmt d a b} (s : State) : exec (.vcmplt g fmt d a b) s = execVcmplt g fmt d a b s := rfl
theorem exec_vcmpltVs {g fmt d a c} (s : State) : exec (.vcmpltVs g fmt d a c) s = execVcmpltVs g fmt d a c s := rfl
theorem exec_vcmple {g fmt d a b} (s : State) : exec (.vcmple g fmt d a b) s = execVcmple g fmt d a b s := rfl
theorem exec_vcmpleVs {g fmt d a c} (s : State) : exec (.vcmpleVs g fmt d a c) s = execVcmpleVs g fmt d a c s := rfl
theorem exec_vrsum {g fmt d a} (s : State) : exec (.vrsum g fmt d a) s = execVrsum g fmt d a s := rfl
theorem exec_vrmax {g fmt d a} (s : State) : exec (.vrmax g fmt d a) s = execVrmax g fmt d a s := rfl
theorem exec_vrmin {g fmt d a} (s : State) : exec (.vrmin g fmt d a) s = execVrmin g fmt d a s := rfl
theorem exec_vpsum {g fmt d a} (s : State) : exec (.vpsum g fmt d a) s = execVpsum g fmt d a s := rfl
theorem exec_wand {g d a b} (s : State) : exec (.wand g d a b) s = execWand g d a b s := rfl
theorem exec_wor {g d a b} (s : State) : exec (.wor g d a b) s = execWor g d a b s := rfl
theorem exec_wxor {g d a b} (s : State) : exec (.wxor g d a b) s = execWxor g d a b s := rfl
theorem exec_wnot {g d a} (s : State) : exec (.wnot g d a) s = execWnot g d a s := rfl
theorem exec_wandn {g d a b} (s : State) : exec (.wandn g d a b) s = execWandn g d a b s := rfl
theorem exec_pack {g fmt d a b tfmt rm ov} (s : State) : exec (.pack g fmt d a b tfmt rm ov) s = execPack g fmt d a b tfmt rm ov s := rfl
theorem exec_unpk {g fmt d a tfmt rm ov} (s : State) : exec (.unpk g fmt d a tfmt rm ov) s = execUnpk g fmt d a tfmt rm ov s := rfl
theorem exec_vcvt {g fmt d a tfmt rm ov} (s : State) : exec (.vcvt g fmt d a tfmt rm ov) s = execVcvt g fmt d a tfmt rm ov s := rfl
theorem exec_scale {g fmt d a k idx tfmt rm ov} (s : State) : exec (.scale g fmt d a k idx tfmt rm ov) s = execScale g fmt d a k idx tfmt rm ov s := rfl
theorem exec_qnt {g fmt d a k idx tfmt rm ov} (s : State) : exec (.qnt g fmt d a k idx tfmt rm ov) s = execQnt g fmt d a k idx tfmt rm ov s := rfl
theorem exec_ldsc {g k a} (s : State) : exec (.ldsc g k a) s = execLdsc g k a s := rfl
theorem exec_stsc {g k a} (s : State) : exec (.stsc g k a) s = execStsc g k a s := rfl
theorem exec_perm {g fmt d a b imm} (s : State) : exec (.perm g fmt d a b imm) s = execPerm g fmt d a b imm s := rfl
theorem exec_slide {g fmt d a b imm} (s : State) : exec (.slide g fmt d a b imm) s = execSlide g fmt d a b imm s := rfl
theorem exec_shuf {g fmt d a b imm} (s : State) : exec (.shuf g fmt d a b imm) s = execShuf g fmt d a b imm s := rfl
theorem exec_rot {g fmt d a imm} (s : State) : exec (.rot g fmt d a imm) s = execRot g fmt d a imm s := rfl
theorem exec_mma {g tile sa sb fmt ka kb} (s : State) : exec (.mma g tile sa sb fmt ka kb) s = execMma g tile sa sb fmt ka kb s := rfl
theorem exec_mmaz {g tile sa sb fmt ka kb} (s : State) : exec (.mmaz g tile sa sb fmt ka kb) s = execMmaz g tile sa sb fmt ka kb s := rfl
theorem exec_mmaa {g tile sa sb fmt ka kb} (s : State) : exec (.mmaa g tile sa sb fmt ka kb) s = execMmaa g tile sa sb fmt ka kb s := rfl
theorem exec_mmaaz {g tile sa sb fmt ka kb} (s : State) : exec (.mmaaz g tile sa sb fmt ka kb) s = execMmaaz g tile sa sb fmt ka kb s := rfl
theorem exec_mgain {g tile rg v} (s : State) : exec (.mgain g tile rg v) s = execMgain g tile rg v s := rfl
theorem exec_mrd {g tile rg v} (s : State) : exec (.mrd g tile rg v) s = execMrd g tile rg v s := rfl
theorem exec_mwr {g tile rg v} (s : State) : exec (.mwr g tile rg v) s = execMwr g tile rg v s := rfl
theorem exec_mzero {g tile} (s : State) : exec (.mzero g tile) s = execMzero g tile s := rfl
theorem exec_mclrp {g tile} (s : State) : exec (.mclrp g tile) s = execMclrp g tile s := rfl
theorem exec_ascan {g tile cy} (s : State) : exec (.ascan g tile cy) s = execAscan g tile cy s := rfl
theorem exec_msvc {g cy v} (s : State) : exec (.msvc g cy v) s = execMsvc g cy v s := rfl
theorem exec_mldc {g cy v} (s : State) : exec (.mldc g cy v) s = execMldc g cy v s := rfl
theorem exec_vld {g v sa} (s : State) : exec (.vld g v sa) s = execVld g v sa s := rfl
theorem exec_vst {g v sa} (s : State) : exec (.vst g v sa) s = execVst g v sa s := rfl
theorem exec_sld {g sreg sa} (s : State) : exec (.sld g sreg sa) s = execSld g sreg sa s := rfl
theorem exec_sst {g sreg sa} (s : State) : exec (.sst g sreg sa) s = execSst g sreg sa s := rfl
theorem exec_vgth {g fmt v sa idx} (s : State) : exec (.vgth g fmt v sa idx) s = execVgth g fmt v sa idx s := rfl
theorem exec_vsct {g fmt v sa idx} (s : State) : exec (.vsct g fmt v sa idx) s = execVsct g fmt v sa idx s := rfl
theorem exec_vstn {g v sa core} (s : State) : exec (.vstn g v sa core) s = execVstn g v sa core s := rfl
theorem exec_vstnArrival {core id part} (s : State) : exec (.vstnArrival core id part) s = execVstnArrival core id part s := rfl
theorem exec_atom {g fmt sreg sa op} (s : State) : exec (.atom g fmt sreg sa op) s = execAtom g fmt sreg sa op s := rfl
theorem exec_loadQueuePush {core id} (s : State) : exec (.loadQueuePush core id) s = execLoadQueuePush core id s := rfl
theorem exec_red {g fmt sreg sa op} (s : State) : exec (.red g fmt sreg sa op) s = execRed g fmt sreg sa op s := rfl
theorem exec_lqpop {g sreg} (s : State) : exec (.lqpop g sreg) s = execLqpop g sreg s := rfl
theorem exec_copy {g sa} (s : State) : exec (.copy g sa) s = execCopy g sa s := rfl
theorem exec_copyTile {core id tile part} (s : State) : exec (.copyTile core id tile part) s = execCopyTile core id tile part s := rfl
theorem exec_pour {g sa} (s : State) : exec (.pour g sa) s = execPour g sa s := rfl
theorem exec_take {g sa} (s : State) : exec (.take g sa) s = execTake g sa s := rfl
theorem exec_cred {g sa} (s : State) : exec (.cred g sa) s = execCred g sa s := rfl
theorem exec_caxpy {g sa} (s : State) : exec (.caxpy g sa) s = execCaxpy g sa s := rfl
theorem exec_cfill {g sa} (s : State) : exec (.cfill g sa) s = execCfill g sa s := rfl
theorem exec_put {g sa} (s : State) : exec (.put g sa) s = execPut g sa s := rfl
theorem exec_get {g sa} (s : State) : exec (.get g sa) s = execGet g sa s := rfl
theorem exec_cfence {g sa scope} (s : State) : exec (.cfence g sa scope) s = execCfence g sa scope s := rfl
theorem exec_cfenceRelease {core} (s : State) : exec (.cfenceRelease core) s = execCfenceRelease core s := rfl
theorem exec_fence {g scope} (s : State) : exec (.fence g scope) s = execFence g scope s := rfl
theorem exec_fenceRelease {core fw} (s : State) : exec (.fenceRelease core fw) s = execFenceRelease core fw s := rfl
theorem exec_bpost {g sreg bar} (s : State) : exec (.bpost g sreg bar) s = execBpost g sreg bar s := rfl
theorem exec_qrd {g sa} (s : State) : exec (.qrd g sa) s = execQrd g sa s := rfl
theorem exec_kscan {g sa} (s : State) : exec (.kscan g sa) s = execKscan g sa s := rfl
theorem exec_kclr {g sa} (s : State) : exec (.kclr g sa) s = execKclr g sa s := rfl
theorem exec_japp {g sa} (s : State) : exec (.japp g sa) s = execJapp g sa s := rfl
theorem exec_firmwareAccessComplete {core} (s : State) : exec (.firmwareAccessComplete core) s = execFirmwareAccessComplete core s := rfl
theorem exec_firmwareBundleIssue {core} (s : State) : exec (.firmwareBundleIssue core) s = execFirmwareBundleIssue core s := rfl
theorem exec_firmwareCauseTaken {core} (s : State) : exec (.firmwareCauseTaken core) s = execFirmwareCauseTaken core s := rfl
theorem exec_completionBitWrite {part group iter} (s : State) : exec (.completionBitWrite part group iter) s = execCompletionBitWrite part group iter s := rfl
theorem exec_pourRequest {core id} (s : State) : exec (.pourRequest core id) s = execPourRequest core id s := rfl
theorem exec_pourArrival {core id off len} (s : State) : exec (.pourArrival core id off len) s = execPourArrival core id off len s := rfl
theorem exec_blockExpansion {core id k} (s : State) : exec (.blockExpansion core id k) s = execBlockExpansion core id k s := rfl
theorem exec_blockRemoval {core id k} (s : State) : exec (.blockRemoval core id k) s = execBlockRemoval core id k s := rfl
theorem exec_expansionPiece {core id piece part} (s : State) : exec (.expansionPiece core id piece part) s = execExpansionPiece core id piece part s := rfl
theorem exec_codebookDelivery {core id} (s : State) : exec (.codebookDelivery core id) s = execCodebookDelivery core id s := rfl
theorem exec_crucibleSend {core id part} (s : State) : exec (.crucibleSend core id part) s = execCrucibleSend core id part s := rfl
theorem exec_crucibleArrival {core id} (s : State) : exec (.crucibleArrival core id) s = execCrucibleArrival core id s := rfl
theorem exec_crucibleExecute {ch bank} (s : State) : exec (.crucibleExecute ch bank) s = execCrucibleExecute ch bank s := rfl
theorem exec_hostAtomicExecute {ch bank} (s : State) : exec (.hostAtomicExecute ch bank) s = execHostAtomicExecute ch bank s := rfl
theorem exec_dynamicRequestIssue {core id} (s : State) : exec (.dynamicRequestIssue core id) s = execDynamicRequestIssue core id s := rfl
theorem exec_dynamicRequestPerform {core id off} (s : State) : exec (.dynamicRequestPerform core id off) s = execDynamicRequestPerform core id off s := rfl
theorem exec_act {ch entry} (s : State) : exec (.act ch entry) s = execAct ch entry s := rfl
theorem exec_rd {ch entry} (s : State) : exec (.rd ch entry) s = execRd ch entry s := rfl
theorem exec_wr {ch entry} (s : State) : exec (.wr ch entry) s = execWr ch entry s := rfl
theorem exec_pre {ch entry} (s : State) : exec (.pre ch entry) s = execPre ch entry s := rfl
theorem exec_refpb {ch entry} (s : State) : exec (.refpb ch entry) s = execRefpb ch entry s := rfl
theorem exec_wopen {ch entry} (s : State) : exec (.wopen ch entry) s = execWopen ch entry s := rfl
theorem exec_svc {ch entry} (s : State) : exec (.svc ch entry) s = execSvc ch entry s := rfl
theorem exec_rowGroupStale {ch bank group} (s : State) : exec (.rowGroupStale ch bank group) s = execRowGroupStale ch bank group s := rfl
theorem exec_patrolLine {part line} (s : State) : exec (.patrolLine part line) s = execPatrolLine part line s := rfl
theorem exec_logAppend {id} (s : State) : exec (.logAppend id) s = execLogAppend id s := rfl
theorem exec_heatArm {part} (s : State) : exec (.heatArm part) s = execHeatArm part s := rfl
theorem exec_launchCheck {part} (s : State) : exec (.launchCheck part) s = execLaunchCheck part s := rfl
theorem exec_taskStart {core} (s : State) : exec (.taskStart core) s = execTaskStart core s := rfl
theorem exec_heatCompletion {part} (s : State) : exec (.heatCompletion part) s = execHeatCompletion part s := rfl
theorem exec_timerRelease {q} (s : State) : exec (.timerRelease q) s = execTimerRelease q s := rfl
theorem exec_stopCycle {part} (s : State) : exec (.stopCycle part) s = execStopCycle part s := rfl
theorem exec_cutReduction {part} (s : State) : exec (.cutReduction part) s = execCutReduction part s := rfl
theorem exec_quiescence {part} (s : State) : exec (.quiescence part) s = execQuiescence part s := rfl
theorem exec_invalComplete {part} (s : State) : exec (.invalComplete part) s = execInvalComplete part s := rfl
theorem exec_traceWrite {die} (s : State) : exec (.traceWrite die) s = execTraceWrite die s := rfl
theorem exec_logSubmit {core v} (s : State) : exec (.logSubmit core v) s = execLogSubmit core v s := rfl
theorem exec_doorbell {src w} (s : State) : exec (.doorbell src w) s = execDoorbell src w s := rfl
theorem exec_mailboxWrite {src off data} (s : State) : exec (.mailboxWrite src off data) s = execMailboxWrite src off data s := rfl
theorem exec_mailboxRead {src off len} (s : State) : exec (.mailboxRead src off len) s = execMailboxRead src off len s := rfl
theorem exec_hostAtomicop {src off op size x cmp} (s : State) : exec (.hostAtomicop src off op size x cmp) s = execHostAtomicop src off op size x cmp s := rfl
theorem exec_functionLevelReset {fn} (s : State) : exec (.functionLevelReset fn) s = execFunctionLevelReset fn s := rfl
theorem exec_linkDown {link} (s : State) : exec (.linkDown link) s = execLinkDown link s := rfl
theorem exec_linkTrain {link} (s : State) : exec (.linkTrain link) s = execLinkTrain link s := rfl
theorem exec_errlogRead {fn} (s : State) : exec (.errlogRead fn) s = execErrlogRead fn s := rfl
theorem exec_attreq {fn nonce} (s : State) : exec (.attreq fn nonce) s = execAttreq fn nonce s := rfl
theorem exec_pmodeWrite {v} (s : State) : exec (.pmodeWrite v) s = execPmodeWrite v s := rfl
theorem exec_keySlotLoad {part k v} (s : State) : exec (.keySlotLoad part k v) s = execKeySlotLoad part k v s := rfl
theorem exec_registerWrite {byFirmware reg v} (s : State) : exec (.registerWrite byFirmware reg v) s = execRegisterWrite byFirmware reg v s := rfl
theorem exec_unitMapOut {unit n} (s : State) : exec (.unitMapOut unit n) s = execUnitMapOut unit n s := rfl
theorem exec_timeSync {dt0 g0 f} (s : State) : exec (.timeSync dt0 g0 f) s = execTimeSync dt0 g0 f s := rfl
theorem exec_peerGetRequest {peer addr len} (s : State) : exec (.peerGetRequest peer addr len) s = execPeerGetRequest peer addr len s := rfl
theorem exec_remoteArrival {core bar space addr data} (s : State) : exec (.remoteArrival core bar space addr data) s = execRemoteArrival core bar space addr data s := rfl
theorem exec_parkedRequestReplay {core tag} (s : State) : exec (.parkedRequestReplay core tag) s = execParkedRequestReplay core tag s := rfl
theorem exec_parkedRequestAbandon {core tag} (s : State) : exec (.parkedRequestAbandon core tag) s = execParkedRequestAbandon core tag s := rfl
theorem exec_inval {part v} (s : State) : exec (.inval part v) s = execInval part v s := rfl
theorem exec_reevaluationPort {q} (s : State) : exec (.reevaluationPort q) s = execReevaluationPort q s := rfl
theorem exec_controllerRunRefresh {ch} (s : State) : exec (.controllerRunRefresh ch) s = execControllerRunRefresh ch s := rfl
theorem exec_journalHeldAppend (s : State) : exec (.journalHeldAppend) s = execJournalHeldAppend s := rfl
theorem exec_attestationQuote (s : State) : exec (.attestationQuote) s = execAttestationQuote s := rfl
theorem exec_reset (s : State) : exec (.reset) s = execReset s := rfl
theorem exec_inletWarning (s : State) : exec (.inletWarning) s = execInletWarning s := rfl
theorem exec_inletShutdown (s : State) : exec (.inletShutdown) s = execInletShutdown s := rfl
theorem exec_inletRecover (s : State) : exec (.inletRecover) s = execInletRecover s := rfl
theorem exec_powerLoss (s : State) : exec (.powerLoss) s = execPowerLoss s := rfl

end Sys2Proof.Machine
end

