-- ==== Sys2Proof/Laws/Sparse.lean ====
section
/-! SUPPORT. Laws of the sparse maps: what a read after a write gives, that a write leaves every other key alone, and that
a write keeps the canonical form. -/

namespace Sys2Proof

theorem sget_append {α : Type} (d : α) (l m : Sparse α) (k : Nat) :
    sget d (l ++ m) k = if l.any (fun p => decide (p.1 = k)) then sget d l k else sget d m k := by
  induction l with
  | nil => simp
  | cons p l ih =>
    obtain ⟨k', v⟩ := p
    by_cases h : k' = k
    · simp [sget, h]
    · simp only [List.cons_append, sget, h, if_false, List.any_cons, decide_false, Bool.false_or, ih]

theorem sget_filter_keep {α : Type} (d : α) (q : Nat → Bool) (m : Sparse α) (k : Nat) (hk : q k = true) :
    sget d (m.filter (fun p => q p.1)) k = sget d m k := by
  induction m with
  | nil => rfl
  | cons p m ih =>
    obtain ⟨k', v⟩ := p
    by_cases h : k' = k
    · subst h; simp [sget, hk]
    · by_cases hq : q k' = true <;> simp [sget, h, hq, ih]

theorem any_key_filter {α : Type} (q : Nat → Bool) (m : Sparse α) (k : Nat) :
    (m.filter (fun p => q p.1)).any (fun p => decide (p.1 = k)) = (q k && m.any (fun p => decide (p.1 = k))) := by
  induction m with
  | nil => simp
  | cons p m ih =>
    obtain ⟨k', v⟩ := p
    by_cases h : k' = k
    · subst h; by_cases hq : q k' = true <;> simp [hq, ih]
    · by_cases hq : q k' = true <;> simp [h, hq, ih]

theorem sget_absent {α : Type} (d : α) (m : Sparse α) (k : Nat) (h : m.any (fun p => decide (p.1 = k)) = false) :
    sget d m k = d := by
  induction m with
  | nil => rfl
  | cons p m ih =>
    obtain ⟨k', v⟩ := p
    simp only [List.any_cons, Bool.or_eq_false_iff, decide_eq_false_iff_not] at h
    simp only [sget, h.1, if_false]
    exact ih h.2

/-- A read of the key just written gives the value written. -/
@[simp] theorem sget_sset_same {α : Type} [DecidableEq α] (d : α) (m : Sparse α) (k : Nat) (v : α) :
    sget d (sset d m k v) k = v := by
  have h1 := any_key_filter (fun x => decide (x < k)) m k
  have h2 := any_key_filter (fun x => decide (k < x)) m k
  simp only [Nat.lt_irrefl, decide_false, Bool.false_and] at h1 h2
  rw [sset, List.append_assoc, sget_append, h1]
  by_cases hv : v = d
  · simp only [hv, if_true, List.nil_append, Bool.false_eq_true, if_false]
    exact sget_absent d _ k h2
  · simp [hv, sget]

/-- A write leaves every other key alone. -/
theorem sget_sset_ne {α : Type} [DecidableEq α] (d : α) (m : Sparse α) (k j : Nat) (v : α) (hj : j ≠ k) :
    sget d (sset d m k v) j = sget d m j := by
  rw [sset, List.append_assoc, sget_append, sget_append]
  have hone : (if v = d then ([] : Sparse α) else [(k, v)]).any (fun p => decide (p.1 = j)) = false := by
    by_cases hv : v = d <;> simp [hv, Ne.symm hj]
  rw [hone, any_key_filter (fun x => decide (x < k)) m j]
  rcases Nat.lt_or_gt_of_ne hj with h | h
  · by_cases hm : m.any (fun p => decide (p.1 = j)) = true
    · simp only [h, decide_true, Bool.true_and, hm, if_true]
      exact sget_filter_keep d (fun x => decide (x < k)) m j (by simp [h])
    · have hm' : m.any (fun p => decide (p.1 = j)) = false := by
        cases hx : m.any (fun p => decide (p.1 = j)) with
        | false => rfl
        | true => exact absurd hx hm
      have ha := any_key_filter (fun x => decide (k < x)) m j
      rw [hm', Bool.and_false] at ha
      simp only [hm', Bool.and_false, Bool.false_eq_true, if_false]
      rw [sget_absent d _ j ha, sget_absent d m j hm']
  · have hn : decide (j < k) = false := by simp; omega
    simp only [hn, Bool.false_and, Bool.false_eq_true, if_false]
    exact sget_filter_keep d (fun x => decide (k < x)) m j (by simp [h])

/-- A read after a write. -/
theorem sget_sset {α : Type} [DecidableEq α] (d : α) (m : Sparse α) (k j : Nat) (v : α) :
    sget d (sset d m k v) j = if j = k then v else sget d m j := by
  by_cases h : j = k
  · subst h; simp
  · simp [h, sget_sset_ne d m k j v h]

theorem keysFrom_mono {α : Type} (m : Sparse α) (a b : Nat) (hab : a ≤ b) (h : keysFrom b m = true) :
    keysFrom a m = true := by
  cases m with
  | nil => rfl
  | cons p m =>
    obtain ⟨k, v⟩ := p
    simp only [keysFrom, Bool.and_eq_true, decide_eq_true_eq] at h ⊢
    exact ⟨Nat.le_trans hab h.1, h.2⟩

/-- Keys that rise from a bound on lie at or above it, and filtering keeps that. -/
theorem keysFrom_filter {α : Type} (q : Nat × α → Bool) (m : Sparse α) (a b : Nat) (h : keysFrom a m = true)
    (hb : ∀ p ∈ m, q p = true → b ≤ p.1) : keysFrom b (m.filter q) = true := by
  induction m generalizing a b with
  | nil => rfl
  | cons p m ih =>
    obtain ⟨k, v⟩ := p
    simp only [keysFrom, Bool.and_eq_true, decide_eq_true_eq] at h
    have low : ∀ (m : Sparse α) (c : Nat), keysFrom c m = true → ∀ p ∈ m, c ≤ p.1 := by
      intro m
      induction m with
      | nil => intro c _ p hp; cases hp
      | cons x m ihm =>
        intro c hc p hp
        obtain ⟨kx, vx⟩ := x
        simp only [keysFrom, Bool.and_eq_true, decide_eq_true_eq] at hc
        rcases List.mem_cons.1 hp with rfl | hp
        · exact hc.1
        · exact Nat.le_trans (Nat.le_succ_of_le hc.1) (ihm _ hc.2 p hp)
    by_cases hq : q (k, v) = true
    · simp only [List.filter_cons, hq, if_true, keysFrom, Bool.and_eq_true, decide_eq_true_eq]
      exact ⟨hb _ (by simp) hq, ih _ _ h.2 (fun p hp _ => low m _ h.2 p hp)⟩
    · simp only [List.filter_cons, hq]
      exact ih _ _ h.2 (fun p hp hqp => hb p (by simp [hp]) hqp)

theorem keysFrom_append {α : Type} (l m : Sparse α) (a b : Nat) (hl : keysFrom a l = true)
    (hlow : ∀ p ∈ l, p.1 < b) (hm : keysFrom b m = true) (hab : a ≤ b) : keysFrom a (l ++ m) = true := by
  induction l generalizing a with
  | nil => exact keysFrom_mono m a b hab hm
  | cons p l ih =>
    obtain ⟨k, v⟩ := p
    simp only [keysFrom, Bool.and_eq_true, decide_eq_true_eq, List.cons_append] at hl ⊢
    exact ⟨hl.1, ih _ hl.2 (fun q hq => hlow q (by simp [hq]))
      (hlow (k, v) (by simp))⟩

/-- A write keeps the canonical form. -/
theorem sset_wf {α : Type} [DecidableEq α] (d : α) (m : Sparse α) (k : Nat) (v : α) (h : Sparse.wf d m = true) :
    Sparse.wf d (sset d m k v) = true := by
  simp only [Sparse.wf, Bool.and_eq_true, List.all_eq_true, decide_eq_true_eq] at h ⊢
  refine ⟨?_, ?_⟩
  · have h3 : keysFrom (k + 1) (m.filter (fun p => decide (k < p.1))) = true :=
      keysFrom_filter _ m 0 (k + 1) h.1 (fun p _ hp => by have := of_decide_eq_true hp; omega)
    have h2 : keysFrom k ((if v = d then [] else [(k, v)]) ++ m.filter (fun p => decide (k < p.1))) = true := by
      by_cases hv : v = d
      · simp only [hv, if_true, List.nil_append]; exact keysFrom_mono _ _ _ (Nat.le_succ k) h3
      · simp [hv, keysFrom, h3]
    rw [sset, List.append_assoc]
    exact keysFrom_append _ _ 0 k (keysFrom_filter _ m 0 0 h.1 (fun p _ _ => Nat.zero_le _))
      (fun p hp => by simpa using (List.mem_filter.1 hp).2) h2 (Nat.zero_le k)
  · intro p hp
    simp only [sset, List.mem_append, List.mem_filter] at hp
    rcases hp with (hp | hp) | hp
    · exact h.2 p hp.1
    · by_cases hv : v = d
      · simp [hv] at hp
      · simp only [hv, if_false, List.mem_singleton] at hp
        subst hp; exact hv
    · exact h.2 p hp.1

end Sys2Proof
end

