-- ==== Sys2Proof/Laws/State.lean ====
section
/-! SUPPORT. What each update of the state leaves alone: one lemma per field and update, true by definition, so that no
proof unfolds a record update; and reads of a part after a write of a part. -/

namespace Sys2Proof.Machine

@[simp] theorem State.setCore_gcount (s : State) (c : Nat) (k : Core) : (s.setCore c k).gcount = s.gcount := rfl
@[simp] theorem State.setCore_agenda (s : State) (c : Nat) (k : Core) : (s.setCore c k).agenda = s.agenda := rfl
@[simp] theorem State.setCore_cur (s : State) (c : Nat) (k : Core) : (s.setCore c k).cur = s.cur := rfl
@[simp] theorem State.setCore_slots (s : State) (c : Nat) (k : Core) : (s.setCore c k).slots = s.slots := rfl
@[simp] theorem State.setCore_issuing (s : State) (c : Nat) (k : Core) : (s.setCore c k).issuing = s.issuing := rfl
@[simp] theorem State.setCore_choice (s : State) (c : Nat) (k : Core) : (s.setCore c k).choice = s.choice := rfl
@[simp] theorem State.setCore_heats (s : State) (c : Nat) (k : Core) : (s.setCore c k).heats = s.heats := rfl
@[simp] theorem State.setCore_parked (s : State) (c : Nat) (k : Core) : (s.setCore c k).parked = s.parked := rfl
@[simp] theorem State.setCore_hbm (s : State) (c : Nat) (k : Core) : (s.setCore c k).hbm = s.hbm := rfl
@[simp] theorem State.setCore_lines (s : State) (c : Nat) (k : Core) : (s.setCore c k).lines = s.lines := rfl
@[simp] theorem State.setCore_bits (s : State) (c : Nat) (k : Core) : (s.setCore c k).bits = s.bits := rfl
@[simp] theorem State.setCore_chans (s : State) (c : Nat) (k : Core) : (s.setCore c k).chans = s.chans := rfl
@[simp] theorem State.setCore_flash (s : State) (c : Nat) (k : Core) : (s.setCore c k).flash = s.flash := rfl
@[simp] theorem State.setCore_logq (s : State) (c : Nat) (k : Core) : (s.setCore c k).logq = s.logq := rfl
@[simp] theorem State.setCore_nextLog (s : State) (c : Nat) (k : Core) : (s.setCore c k).nextLog = s.nextLog := rfl
@[simp] theorem State.setCore_host (s : State) (c : Nat) (k : Core) : (s.setCore c k).host = s.host := rfl
@[simp] theorem State.setCore_peer (s : State) (c : Nat) (k : Core) : (s.setCore c k).peer = s.peer := rfl
@[simp] theorem State.setCore_cxl (s : State) (c : Nat) (k : Core) : (s.setCore c k).cxl = s.cxl := rfl
@[simp] theorem State.setCore_fe (s : State) (c : Nat) (k : Core) : (s.setCore c k).fe = s.fe := rfl
@[simp] theorem State.setCore_patrol (s : State) (c : Nat) (k : Core) : (s.setCore c k).patrol = s.patrol := rfl
@[simp] theorem State.setCore_mgmt (s : State) (c : Nat) (k : Core) : (s.setCore c k).mgmt = s.mgmt := rfl
@[simp] theorem State.setCore_cache (s : State) (c : Nat) (k : Core) : (s.setCore c k).cache = s.cache := rfl
@[simp] theorem State.setCore_mail (s : State) (c : Nat) (k : Core) : (s.setCore c k).mail = s.mail := rfl
@[simp] theorem State.setCore_attest (s : State) (c : Nat) (k : Core) : (s.setCore c k).attest = s.attest := rfl
@[simp] theorem State.setCore_fwImage (s : State) (c : Nat) (k : Core) : (s.setCore c k).fwImage = s.fwImage := rfl
@[simp] theorem State.setCore_trace (s : State) (c : Nat) (k : Core) : (s.setCore c k).trace = s.trace := rfl
@[simp] theorem State.setCore_out (s : State) (c : Nat) (k : Core) : (s.setCore c k).out = s.out := rfl

@[simp] theorem State.modCore_gcount (s : State) (c : Nat) (g : Core → Core) : (s.modCore c g).gcount = s.gcount := rfl
@[simp] theorem State.modCore_agenda (s : State) (c : Nat) (g : Core → Core) : (s.modCore c g).agenda = s.agenda := rfl
@[simp] theorem State.modCore_cur (s : State) (c : Nat) (g : Core → Core) : (s.modCore c g).cur = s.cur := rfl
@[simp] theorem State.modCore_slots (s : State) (c : Nat) (g : Core → Core) : (s.modCore c g).slots = s.slots := rfl
@[simp] theorem State.modCore_issuing (s : State) (c : Nat) (g : Core → Core) : (s.modCore c g).issuing = s.issuing := rfl
@[simp] theorem State.modCore_choice (s : State) (c : Nat) (g : Core → Core) : (s.modCore c g).choice = s.choice := rfl
@[simp] theorem State.modCore_heats (s : State) (c : Nat) (g : Core → Core) : (s.modCore c g).heats = s.heats := rfl
@[simp] theorem State.modCore_parked (s : State) (c : Nat) (g : Core → Core) : (s.modCore c g).parked = s.parked := rfl
@[simp] theorem State.modCore_hbm (s : State) (c : Nat) (g : Core → Core) : (s.modCore c g).hbm = s.hbm := rfl
@[simp] theorem State.modCore_lines (s : State) (c : Nat) (g : Core → Core) : (s.modCore c g).lines = s.lines := rfl
@[simp] theorem State.modCore_bits (s : State) (c : Nat) (g : Core → Core) : (s.modCore c g).bits = s.bits := rfl
@[simp] theorem State.modCore_chans (s : State) (c : Nat) (g : Core → Core) : (s.modCore c g).chans = s.chans := rfl
@[simp] theorem State.modCore_flash (s : State) (c : Nat) (g : Core → Core) : (s.modCore c g).flash = s.flash := rfl
@[simp] theorem State.modCore_logq (s : State) (c : Nat) (g : Core → Core) : (s.modCore c g).logq = s.logq := rfl
@[simp] theorem State.modCore_nextLog (s : State) (c : Nat) (g : Core → Core) : (s.modCore c g).nextLog = s.nextLog := rfl
@[simp] theorem State.modCore_host (s : State) (c : Nat) (g : Core → Core) : (s.modCore c g).host = s.host := rfl
@[simp] theorem State.modCore_peer (s : State) (c : Nat) (g : Core → Core) : (s.modCore c g).peer = s.peer := rfl
@[simp] theorem State.modCore_cxl (s : State) (c : Nat) (g : Core → Core) : (s.modCore c g).cxl = s.cxl := rfl
@[simp] theorem State.modCore_fe (s : State) (c : Nat) (g : Core → Core) : (s.modCore c g).fe = s.fe := rfl
@[simp] theorem State.modCore_patrol (s : State) (c : Nat) (g : Core → Core) : (s.modCore c g).patrol = s.patrol := rfl
@[simp] theorem State.modCore_mgmt (s : State) (c : Nat) (g : Core → Core) : (s.modCore c g).mgmt = s.mgmt := rfl
@[simp] theorem State.modCore_cache (s : State) (c : Nat) (g : Core → Core) : (s.modCore c g).cache = s.cache := rfl
@[simp] theorem State.modCore_mail (s : State) (c : Nat) (g : Core → Core) : (s.modCore c g).mail = s.mail := rfl
@[simp] theorem State.modCore_attest (s : State) (c : Nat) (g : Core → Core) : (s.modCore c g).attest = s.attest := rfl
@[simp] theorem State.modCore_fwImage (s : State) (c : Nat) (g : Core → Core) : (s.modCore c g).fwImage = s.fwImage := rfl
@[simp] theorem State.modCore_trace (s : State) (c : Nat) (g : Core → Core) : (s.modCore c g).trace = s.trace := rfl
@[simp] theorem State.modCore_out (s : State) (c : Nat) (g : Core → Core) : (s.modCore c g).out = s.out := rfl

@[simp] theorem State.setHeat_gcount (s : State) (p : Nat) (h : Heat) : (s.setHeat p h).gcount = s.gcount := rfl
@[simp] theorem State.setHeat_agenda (s : State) (p : Nat) (h : Heat) : (s.setHeat p h).agenda = s.agenda := rfl
@[simp] theorem State.setHeat_cur (s : State) (p : Nat) (h : Heat) : (s.setHeat p h).cur = s.cur := rfl
@[simp] theorem State.setHeat_slots (s : State) (p : Nat) (h : Heat) : (s.setHeat p h).slots = s.slots := rfl
@[simp] theorem State.setHeat_issuing (s : State) (p : Nat) (h : Heat) : (s.setHeat p h).issuing = s.issuing := rfl
@[simp] theorem State.setHeat_choice (s : State) (p : Nat) (h : Heat) : (s.setHeat p h).choice = s.choice := rfl
@[simp] theorem State.setHeat_cores (s : State) (p : Nat) (h : Heat) : (s.setHeat p h).cores = s.cores := rfl
@[simp] theorem State.setHeat_parked (s : State) (p : Nat) (h : Heat) : (s.setHeat p h).parked = s.parked := rfl
@[simp] theorem State.setHeat_hbm (s : State) (p : Nat) (h : Heat) : (s.setHeat p h).hbm = s.hbm := rfl
@[simp] theorem State.setHeat_lines (s : State) (p : Nat) (h : Heat) : (s.setHeat p h).lines = s.lines := rfl
@[simp] theorem State.setHeat_bits (s : State) (p : Nat) (h : Heat) : (s.setHeat p h).bits = s.bits := rfl
@[simp] theorem State.setHeat_chans (s : State) (p : Nat) (h : Heat) : (s.setHeat p h).chans = s.chans := rfl
@[simp] theorem State.setHeat_flash (s : State) (p : Nat) (h : Heat) : (s.setHeat p h).flash = s.flash := rfl
@[simp] theorem State.setHeat_logq (s : State) (p : Nat) (h : Heat) : (s.setHeat p h).logq = s.logq := rfl
@[simp] theorem State.setHeat_nextLog (s : State) (p : Nat) (h : Heat) : (s.setHeat p h).nextLog = s.nextLog := rfl
@[simp] theorem State.setHeat_host (s : State) (p : Nat) (h : Heat) : (s.setHeat p h).host = s.host := rfl
@[simp] theorem State.setHeat_peer (s : State) (p : Nat) (h : Heat) : (s.setHeat p h).peer = s.peer := rfl
@[simp] theorem State.setHeat_cxl (s : State) (p : Nat) (h : Heat) : (s.setHeat p h).cxl = s.cxl := rfl
@[simp] theorem State.setHeat_fe (s : State) (p : Nat) (h : Heat) : (s.setHeat p h).fe = s.fe := rfl
@[simp] theorem State.setHeat_patrol (s : State) (p : Nat) (h : Heat) : (s.setHeat p h).patrol = s.patrol := rfl
@[simp] theorem State.setHeat_mgmt (s : State) (p : Nat) (h : Heat) : (s.setHeat p h).mgmt = s.mgmt := rfl
@[simp] theorem State.setHeat_cache (s : State) (p : Nat) (h : Heat) : (s.setHeat p h).cache = s.cache := rfl
@[simp] theorem State.setHeat_mail (s : State) (p : Nat) (h : Heat) : (s.setHeat p h).mail = s.mail := rfl
@[simp] theorem State.setHeat_attest (s : State) (p : Nat) (h : Heat) : (s.setHeat p h).attest = s.attest := rfl
@[simp] theorem State.setHeat_fwImage (s : State) (p : Nat) (h : Heat) : (s.setHeat p h).fwImage = s.fwImage := rfl
@[simp] theorem State.setHeat_trace (s : State) (p : Nat) (h : Heat) : (s.setHeat p h).trace = s.trace := rfl
@[simp] theorem State.setHeat_out (s : State) (p : Nat) (h : Heat) : (s.setHeat p h).out = s.out := rfl

@[simp] theorem State.modHeat_gcount (s : State) (p : Nat) (g : Heat → Heat) : (s.modHeat p g).gcount = s.gcount := rfl
@[simp] theorem State.modHeat_agenda (s : State) (p : Nat) (g : Heat → Heat) : (s.modHeat p g).agenda = s.agenda := rfl
@[simp] theorem State.modHeat_cur (s : State) (p : Nat) (g : Heat → Heat) : (s.modHeat p g).cur = s.cur := rfl
@[simp] theorem State.modHeat_slots (s : State) (p : Nat) (g : Heat → Heat) : (s.modHeat p g).slots = s.slots := rfl
@[simp] theorem State.modHeat_issuing (s : State) (p : Nat) (g : Heat → Heat) : (s.modHeat p g).issuing = s.issuing := rfl
@[simp] theorem State.modHeat_choice (s : State) (p : Nat) (g : Heat → Heat) : (s.modHeat p g).choice = s.choice := rfl
@[simp] theorem State.modHeat_cores (s : State) (p : Nat) (g : Heat → Heat) : (s.modHeat p g).cores = s.cores := rfl
@[simp] theorem State.modHeat_parked (s : State) (p : Nat) (g : Heat → Heat) : (s.modHeat p g).parked = s.parked := rfl
@[simp] theorem State.modHeat_hbm (s : State) (p : Nat) (g : Heat → Heat) : (s.modHeat p g).hbm = s.hbm := rfl
@[simp] theorem State.modHeat_lines (s : State) (p : Nat) (g : Heat → Heat) : (s.modHeat p g).lines = s.lines := rfl
@[simp] theorem State.modHeat_bits (s : State) (p : Nat) (g : Heat → Heat) : (s.modHeat p g).bits = s.bits := rfl
@[simp] theorem State.modHeat_chans (s : State) (p : Nat) (g : Heat → Heat) : (s.modHeat p g).chans = s.chans := rfl
@[simp] theorem State.modHeat_flash (s : State) (p : Nat) (g : Heat → Heat) : (s.modHeat p g).flash = s.flash := rfl
@[simp] theorem State.modHeat_logq (s : State) (p : Nat) (g : Heat → Heat) : (s.modHeat p g).logq = s.logq := rfl
@[simp] theorem State.modHeat_nextLog (s : State) (p : Nat) (g : Heat → Heat) : (s.modHeat p g).nextLog = s.nextLog := rfl
@[simp] theorem State.modHeat_host (s : State) (p : Nat) (g : Heat → Heat) : (s.modHeat p g).host = s.host := rfl
@[simp] theorem State.modHeat_peer (s : State) (p : Nat) (g : Heat → Heat) : (s.modHeat p g).peer = s.peer := rfl
@[simp] theorem State.modHeat_cxl (s : State) (p : Nat) (g : Heat → Heat) : (s.modHeat p g).cxl = s.cxl := rfl
@[simp] theorem State.modHeat_fe (s : State) (p : Nat) (g : Heat → Heat) : (s.modHeat p g).fe = s.fe := rfl
@[simp] theorem State.modHeat_patrol (s : State) (p : Nat) (g : Heat → Heat) : (s.modHeat p g).patrol = s.patrol := rfl
@[simp] theorem State.modHeat_mgmt (s : State) (p : Nat) (g : Heat → Heat) : (s.modHeat p g).mgmt = s.mgmt := rfl
@[simp] theorem State.modHeat_cache (s : State) (p : Nat) (g : Heat → Heat) : (s.modHeat p g).cache = s.cache := rfl
@[simp] theorem State.modHeat_mail (s : State) (p : Nat) (g : Heat → Heat) : (s.modHeat p g).mail = s.mail := rfl
@[simp] theorem State.modHeat_attest (s : State) (p : Nat) (g : Heat → Heat) : (s.modHeat p g).attest = s.attest := rfl
@[simp] theorem State.modHeat_fwImage (s : State) (p : Nat) (g : Heat → Heat) : (s.modHeat p g).fwImage = s.fwImage := rfl
@[simp] theorem State.modHeat_trace (s : State) (p : Nat) (g : Heat → Heat) : (s.modHeat p g).trace = s.trace := rfl
@[simp] theorem State.modHeat_out (s : State) (p : Nat) (g : Heat → Heat) : (s.modHeat p g).out = s.out := rfl

@[simp] theorem State.setChan_gcount (s : State) (c : Nat) (x : Channel) : (s.setChan c x).gcount = s.gcount := rfl
@[simp] theorem State.setChan_agenda (s : State) (c : Nat) (x : Channel) : (s.setChan c x).agenda = s.agenda := rfl
@[simp] theorem State.setChan_cur (s : State) (c : Nat) (x : Channel) : (s.setChan c x).cur = s.cur := rfl
@[simp] theorem State.setChan_slots (s : State) (c : Nat) (x : Channel) : (s.setChan c x).slots = s.slots := rfl
@[simp] theorem State.setChan_issuing (s : State) (c : Nat) (x : Channel) : (s.setChan c x).issuing = s.issuing := rfl
@[simp] theorem State.setChan_choice (s : State) (c : Nat) (x : Channel) : (s.setChan c x).choice = s.choice := rfl
@[simp] theorem State.setChan_cores (s : State) (c : Nat) (x : Channel) : (s.setChan c x).cores = s.cores := rfl
@[simp] theorem State.setChan_heats (s : State) (c : Nat) (x : Channel) : (s.setChan c x).heats = s.heats := rfl
@[simp] theorem State.setChan_parked (s : State) (c : Nat) (x : Channel) : (s.setChan c x).parked = s.parked := rfl
@[simp] theorem State.setChan_hbm (s : State) (c : Nat) (x : Channel) : (s.setChan c x).hbm = s.hbm := rfl
@[simp] theorem State.setChan_lines (s : State) (c : Nat) (x : Channel) : (s.setChan c x).lines = s.lines := rfl
@[simp] theorem State.setChan_bits (s : State) (c : Nat) (x : Channel) : (s.setChan c x).bits = s.bits := rfl
@[simp] theorem State.setChan_flash (s : State) (c : Nat) (x : Channel) : (s.setChan c x).flash = s.flash := rfl
@[simp] theorem State.setChan_logq (s : State) (c : Nat) (x : Channel) : (s.setChan c x).logq = s.logq := rfl
@[simp] theorem State.setChan_nextLog (s : State) (c : Nat) (x : Channel) : (s.setChan c x).nextLog = s.nextLog := rfl
@[simp] theorem State.setChan_host (s : State) (c : Nat) (x : Channel) : (s.setChan c x).host = s.host := rfl
@[simp] theorem State.setChan_peer (s : State) (c : Nat) (x : Channel) : (s.setChan c x).peer = s.peer := rfl
@[simp] theorem State.setChan_cxl (s : State) (c : Nat) (x : Channel) : (s.setChan c x).cxl = s.cxl := rfl
@[simp] theorem State.setChan_fe (s : State) (c : Nat) (x : Channel) : (s.setChan c x).fe = s.fe := rfl
@[simp] theorem State.setChan_patrol (s : State) (c : Nat) (x : Channel) : (s.setChan c x).patrol = s.patrol := rfl
@[simp] theorem State.setChan_mgmt (s : State) (c : Nat) (x : Channel) : (s.setChan c x).mgmt = s.mgmt := rfl
@[simp] theorem State.setChan_cache (s : State) (c : Nat) (x : Channel) : (s.setChan c x).cache = s.cache := rfl
@[simp] theorem State.setChan_mail (s : State) (c : Nat) (x : Channel) : (s.setChan c x).mail = s.mail := rfl
@[simp] theorem State.setChan_attest (s : State) (c : Nat) (x : Channel) : (s.setChan c x).attest = s.attest := rfl
@[simp] theorem State.setChan_fwImage (s : State) (c : Nat) (x : Channel) : (s.setChan c x).fwImage = s.fwImage := rfl
@[simp] theorem State.setChan_trace (s : State) (c : Nat) (x : Channel) : (s.setChan c x).trace = s.trace := rfl
@[simp] theorem State.setChan_out (s : State) (c : Nat) (x : Channel) : (s.setChan c x).out = s.out := rfl

@[simp] theorem State.setQueue_gcount (s : State) (q : Nat) (x : Queue) : (s.setQueue q x).gcount = s.gcount := rfl
@[simp] theorem State.setQueue_agenda (s : State) (q : Nat) (x : Queue) : (s.setQueue q x).agenda = s.agenda := rfl
@[simp] theorem State.setQueue_cur (s : State) (q : Nat) (x : Queue) : (s.setQueue q x).cur = s.cur := rfl
@[simp] theorem State.setQueue_slots (s : State) (q : Nat) (x : Queue) : (s.setQueue q x).slots = s.slots := rfl
@[simp] theorem State.setQueue_issuing (s : State) (q : Nat) (x : Queue) : (s.setQueue q x).issuing = s.issuing := rfl
@[simp] theorem State.setQueue_choice (s : State) (q : Nat) (x : Queue) : (s.setQueue q x).choice = s.choice := rfl
@[simp] theorem State.setQueue_cores (s : State) (q : Nat) (x : Queue) : (s.setQueue q x).cores = s.cores := rfl
@[simp] theorem State.setQueue_heats (s : State) (q : Nat) (x : Queue) : (s.setQueue q x).heats = s.heats := rfl
@[simp] theorem State.setQueue_parked (s : State) (q : Nat) (x : Queue) : (s.setQueue q x).parked = s.parked := rfl
@[simp] theorem State.setQueue_hbm (s : State) (q : Nat) (x : Queue) : (s.setQueue q x).hbm = s.hbm := rfl
@[simp] theorem State.setQueue_lines (s : State) (q : Nat) (x : Queue) : (s.setQueue q x).lines = s.lines := rfl
@[simp] theorem State.setQueue_bits (s : State) (q : Nat) (x : Queue) : (s.setQueue q x).bits = s.bits := rfl
@[simp] theorem State.setQueue_chans (s : State) (q : Nat) (x : Queue) : (s.setQueue q x).chans = s.chans := rfl
@[simp] theorem State.setQueue_flash (s : State) (q : Nat) (x : Queue) : (s.setQueue q x).flash = s.flash := rfl
@[simp] theorem State.setQueue_logq (s : State) (q : Nat) (x : Queue) : (s.setQueue q x).logq = s.logq := rfl
@[simp] theorem State.setQueue_nextLog (s : State) (q : Nat) (x : Queue) : (s.setQueue q x).nextLog = s.nextLog := rfl
@[simp] theorem State.setQueue_host (s : State) (q : Nat) (x : Queue) : (s.setQueue q x).host = s.host := rfl
@[simp] theorem State.setQueue_peer (s : State) (q : Nat) (x : Queue) : (s.setQueue q x).peer = s.peer := rfl
@[simp] theorem State.setQueue_cxl (s : State) (q : Nat) (x : Queue) : (s.setQueue q x).cxl = s.cxl := rfl
@[simp] theorem State.setQueue_patrol (s : State) (q : Nat) (x : Queue) : (s.setQueue q x).patrol = s.patrol := rfl
@[simp] theorem State.setQueue_mgmt (s : State) (q : Nat) (x : Queue) : (s.setQueue q x).mgmt = s.mgmt := rfl
@[simp] theorem State.setQueue_cache (s : State) (q : Nat) (x : Queue) : (s.setQueue q x).cache = s.cache := rfl
@[simp] theorem State.setQueue_mail (s : State) (q : Nat) (x : Queue) : (s.setQueue q x).mail = s.mail := rfl
@[simp] theorem State.setQueue_attest (s : State) (q : Nat) (x : Queue) : (s.setQueue q x).attest = s.attest := rfl
@[simp] theorem State.setQueue_fwImage (s : State) (q : Nat) (x : Queue) : (s.setQueue q x).fwImage = s.fwImage := rfl
@[simp] theorem State.setQueue_trace (s : State) (q : Nat) (x : Queue) : (s.setQueue q x).trace = s.trace := rfl
@[simp] theorem State.setQueue_out (s : State) (q : Nat) (x : Queue) : (s.setQueue q x).out = s.out := rfl

@[simp] theorem State.emit_gcount (s : State) (o : Output) : (s.emit o).gcount = s.gcount := rfl
@[simp] theorem State.emit_agenda (s : State) (o : Output) : (s.emit o).agenda = s.agenda := rfl
@[simp] theorem State.emit_cur (s : State) (o : Output) : (s.emit o).cur = s.cur := rfl
@[simp] theorem State.emit_slots (s : State) (o : Output) : (s.emit o).slots = s.slots := rfl
@[simp] theorem State.emit_issuing (s : State) (o : Output) : (s.emit o).issuing = s.issuing := rfl
@[simp] theorem State.emit_choice (s : State) (o : Output) : (s.emit o).choice = s.choice := rfl
@[simp] theorem State.emit_cores (s : State) (o : Output) : (s.emit o).cores = s.cores := rfl
@[simp] theorem State.emit_heats (s : State) (o : Output) : (s.emit o).heats = s.heats := rfl
@[simp] theorem State.emit_parked (s : State) (o : Output) : (s.emit o).parked = s.parked := rfl
@[simp] theorem State.emit_hbm (s : State) (o : Output) : (s.emit o).hbm = s.hbm := rfl
@[simp] theorem State.emit_lines (s : State) (o : Output) : (s.emit o).lines = s.lines := rfl
@[simp] theorem State.emit_bits (s : State) (o : Output) : (s.emit o).bits = s.bits := rfl
@[simp] theorem State.emit_chans (s : State) (o : Output) : (s.emit o).chans = s.chans := rfl
@[simp] theorem State.emit_flash (s : State) (o : Output) : (s.emit o).flash = s.flash := rfl
@[simp] theorem State.emit_logq (s : State) (o : Output) : (s.emit o).logq = s.logq := rfl
@[simp] theorem State.emit_nextLog (s : State) (o : Output) : (s.emit o).nextLog = s.nextLog := rfl
@[simp] theorem State.emit_host (s : State) (o : Output) : (s.emit o).host = s.host := rfl
@[simp] theorem State.emit_peer (s : State) (o : Output) : (s.emit o).peer = s.peer := rfl
@[simp] theorem State.emit_cxl (s : State) (o : Output) : (s.emit o).cxl = s.cxl := rfl
@[simp] theorem State.emit_fe (s : State) (o : Output) : (s.emit o).fe = s.fe := rfl
@[simp] theorem State.emit_patrol (s : State) (o : Output) : (s.emit o).patrol = s.patrol := rfl
@[simp] theorem State.emit_mgmt (s : State) (o : Output) : (s.emit o).mgmt = s.mgmt := rfl
@[simp] theorem State.emit_cache (s : State) (o : Output) : (s.emit o).cache = s.cache := rfl
@[simp] theorem State.emit_mail (s : State) (o : Output) : (s.emit o).mail = s.mail := rfl
@[simp] theorem State.emit_attest (s : State) (o : Output) : (s.emit o).attest = s.attest := rfl
@[simp] theorem State.emit_fwImage (s : State) (o : Output) : (s.emit o).fwImage = s.fwImage := rfl
@[simp] theorem State.emit_trace (s : State) (o : Output) : (s.emit o).trace = s.trace := rfl

@[simp] theorem State.at_gcount (s : State) (t : Nat) (i : Instr) : (s.at t i).gcount = s.gcount := rfl
@[simp] theorem State.at_cur (s : State) (t : Nat) (i : Instr) : (s.at t i).cur = s.cur := rfl
@[simp] theorem State.at_slots (s : State) (t : Nat) (i : Instr) : (s.at t i).slots = s.slots := rfl
@[simp] theorem State.at_issuing (s : State) (t : Nat) (i : Instr) : (s.at t i).issuing = s.issuing := rfl
@[simp] theorem State.at_choice (s : State) (t : Nat) (i : Instr) : (s.at t i).choice = s.choice := rfl
@[simp] theorem State.at_cores (s : State) (t : Nat) (i : Instr) : (s.at t i).cores = s.cores := rfl
@[simp] theorem State.at_heats (s : State) (t : Nat) (i : Instr) : (s.at t i).heats = s.heats := rfl
@[simp] theorem State.at_parked (s : State) (t : Nat) (i : Instr) : (s.at t i).parked = s.parked := rfl
@[simp] theorem State.at_hbm (s : State) (t : Nat) (i : Instr) : (s.at t i).hbm = s.hbm := rfl
@[simp] theorem State.at_lines (s : State) (t : Nat) (i : Instr) : (s.at t i).lines = s.lines := rfl
@[simp] theorem State.at_bits (s : State) (t : Nat) (i : Instr) : (s.at t i).bits = s.bits := rfl
@[simp] theorem State.at_chans (s : State) (t : Nat) (i : Instr) : (s.at t i).chans = s.chans := rfl
@[simp] theorem State.at_flash (s : State) (t : Nat) (i : Instr) : (s.at t i).flash = s.flash := rfl
@[simp] theorem State.at_logq (s : State) (t : Nat) (i : Instr) : (s.at t i).logq = s.logq := rfl
@[simp] theorem State.at_nextLog (s : State) (t : Nat) (i : Instr) : (s.at t i).nextLog = s.nextLog := rfl
@[simp] theorem State.at_host (s : State) (t : Nat) (i : Instr) : (s.at t i).host = s.host := rfl
@[simp] theorem State.at_peer (s : State) (t : Nat) (i : Instr) : (s.at t i).peer = s.peer := rfl
@[simp] theorem State.at_cxl (s : State) (t : Nat) (i : Instr) : (s.at t i).cxl = s.cxl := rfl
@[simp] theorem State.at_fe (s : State) (t : Nat) (i : Instr) : (s.at t i).fe = s.fe := rfl
@[simp] theorem State.at_patrol (s : State) (t : Nat) (i : Instr) : (s.at t i).patrol = s.patrol := rfl
@[simp] theorem State.at_mgmt (s : State) (t : Nat) (i : Instr) : (s.at t i).mgmt = s.mgmt := rfl
@[simp] theorem State.at_cache (s : State) (t : Nat) (i : Instr) : (s.at t i).cache = s.cache := rfl
@[simp] theorem State.at_mail (s : State) (t : Nat) (i : Instr) : (s.at t i).mail = s.mail := rfl
@[simp] theorem State.at_attest (s : State) (t : Nat) (i : Instr) : (s.at t i).attest = s.attest := rfl
@[simp] theorem State.at_fwImage (s : State) (t : Nat) (i : Instr) : (s.at t i).fwImage = s.fwImage := rfl
@[simp] theorem State.at_trace (s : State) (t : Nat) (i : Instr) : (s.at t i).trace = s.trace := rfl
@[simp] theorem State.at_out (s : State) (t : Nat) (i : Instr) : (s.at t i).out = s.out := rfl

@[simp] theorem State.cancel_gcount (s : State) (q : Instr → Bool) : (s.cancel q).gcount = s.gcount := rfl
@[simp] theorem State.cancel_cur (s : State) (q : Instr → Bool) : (s.cancel q).cur = s.cur := rfl
@[simp] theorem State.cancel_slots (s : State) (q : Instr → Bool) : (s.cancel q).slots = s.slots := rfl
@[simp] theorem State.cancel_issuing (s : State) (q : Instr → Bool) : (s.cancel q).issuing = s.issuing := rfl
@[simp] theorem State.cancel_choice (s : State) (q : Instr → Bool) : (s.cancel q).choice = s.choice := rfl
@[simp] theorem State.cancel_cores (s : State) (q : Instr → Bool) : (s.cancel q).cores = s.cores := rfl
@[simp] theorem State.cancel_heats (s : State) (q : Instr → Bool) : (s.cancel q).heats = s.heats := rfl
@[simp] theorem State.cancel_parked (s : State) (q : Instr → Bool) : (s.cancel q).parked = s.parked := rfl
@[simp] theorem State.cancel_hbm (s : State) (q : Instr → Bool) : (s.cancel q).hbm = s.hbm := rfl
@[simp] theorem State.cancel_lines (s : State) (q : Instr → Bool) : (s.cancel q).lines = s.lines := rfl
@[simp] theorem State.cancel_bits (s : State) (q : Instr → Bool) : (s.cancel q).bits = s.bits := rfl
@[simp] theorem State.cancel_chans (s : State) (q : Instr → Bool) : (s.cancel q).chans = s.chans := rfl
@[simp] theorem State.cancel_flash (s : State) (q : Instr → Bool) : (s.cancel q).flash = s.flash := rfl
@[simp] theorem State.cancel_logq (s : State) (q : Instr → Bool) : (s.cancel q).logq = s.logq := rfl
@[simp] theorem State.cancel_nextLog (s : State) (q : Instr → Bool) : (s.cancel q).nextLog = s.nextLog := rfl
@[simp] theorem State.cancel_host (s : State) (q : Instr → Bool) : (s.cancel q).host = s.host := rfl
@[simp] theorem State.cancel_peer (s : State) (q : Instr → Bool) : (s.cancel q).peer = s.peer := rfl
@[simp] theorem State.cancel_cxl (s : State) (q : Instr → Bool) : (s.cancel q).cxl = s.cxl := rfl
@[simp] theorem State.cancel_fe (s : State) (q : Instr → Bool) : (s.cancel q).fe = s.fe := rfl
@[simp] theorem State.cancel_patrol (s : State) (q : Instr → Bool) : (s.cancel q).patrol = s.patrol := rfl
@[simp] theorem State.cancel_mgmt (s : State) (q : Instr → Bool) : (s.cancel q).mgmt = s.mgmt := rfl
@[simp] theorem State.cancel_cache (s : State) (q : Instr → Bool) : (s.cancel q).cache = s.cache := rfl
@[simp] theorem State.cancel_mail (s : State) (q : Instr → Bool) : (s.cancel q).mail = s.mail := rfl
@[simp] theorem State.cancel_attest (s : State) (q : Instr → Bool) : (s.cancel q).attest = s.attest := rfl
@[simp] theorem State.cancel_fwImage (s : State) (q : Instr → Bool) : (s.cancel q).fwImage = s.fwImage := rfl
@[simp] theorem State.cancel_trace (s : State) (q : Instr → Bool) : (s.cancel q).trace = s.trace := rfl
@[simp] theorem State.cancel_out (s : State) (q : Instr → Bool) : (s.cancel q).out = s.out := rfl

@[simp] theorem State.atOnce_gcount (s : State) (t : Nat) (i : Instr) : (s.atOnce t i).gcount = s.gcount := by
  unfold State.atOnce; split <;> rfl
@[simp] theorem State.atOnce_cur (s : State) (t : Nat) (i : Instr) : (s.atOnce t i).cur = s.cur := by
  unfold State.atOnce; split <;> rfl
@[simp] theorem State.atOnce_slots (s : State) (t : Nat) (i : Instr) : (s.atOnce t i).slots = s.slots := by
  unfold State.atOnce; split <;> rfl
@[simp] theorem State.atOnce_issuing (s : State) (t : Nat) (i : Instr) : (s.atOnce t i).issuing = s.issuing := by
  unfold State.atOnce; split <;> rfl
@[simp] theorem State.atOnce_choice (s : State) (t : Nat) (i : Instr) : (s.atOnce t i).choice = s.choice := by
  unfold State.atOnce; split <;> rfl
@[simp] theorem State.atOnce_cores (s : State) (t : Nat) (i : Instr) : (s.atOnce t i).cores = s.cores := by
  unfold State.atOnce; split <;> rfl
@[simp] theorem State.atOnce_heats (s : State) (t : Nat) (i : Instr) : (s.atOnce t i).heats = s.heats := by
  unfold State.atOnce; split <;> rfl
@[simp] theorem State.atOnce_parked (s : State) (t : Nat) (i : Instr) : (s.atOnce t i).parked = s.parked := by
  unfold State.atOnce; split <;> rfl
@[simp] theorem State.atOnce_hbm (s : State) (t : Nat) (i : Instr) : (s.atOnce t i).hbm = s.hbm := by
  unfold State.atOnce; split <;> rfl
@[simp] theorem State.atOnce_lines (s : State) (t : Nat) (i : Instr) : (s.atOnce t i).lines = s.lines := by
  unfold State.atOnce; split <;> rfl
@[simp] theorem State.atOnce_bits (s : State) (t : Nat) (i : Instr) : (s.atOnce t i).bits = s.bits := by
  unfold State.atOnce; split <;> rfl
@[simp] theorem State.atOnce_chans (s : State) (t : Nat) (i : Instr) : (s.atOnce t i).chans = s.chans := by
  unfold State.atOnce; split <;> rfl
@[simp] theorem State.atOnce_flash (s : State) (t : Nat) (i : Instr) : (s.atOnce t i).flash = s.flash := by
  unfold State.atOnce; split <;> rfl
@[simp] theorem State.atOnce_logq (s : State) (t : Nat) (i : Instr) : (s.atOnce t i).logq = s.logq := by
  unfold State.atOnce; split <;> rfl
@[simp] theorem State.atOnce_nextLog (s : State) (t : Nat) (i : Instr) : (s.atOnce t i).nextLog = s.nextLog := by
  unfold State.atOnce; split <;> rfl
@[simp] theorem State.atOnce_host (s : State) (t : Nat) (i : Instr) : (s.atOnce t i).host = s.host := by
  unfold State.atOnce; split <;> rfl
@[simp] theorem State.atOnce_peer (s : State) (t : Nat) (i : Instr) : (s.atOnce t i).peer = s.peer := by
  unfold State.atOnce; split <;> rfl
@[simp] theorem State.atOnce_cxl (s : State) (t : Nat) (i : Instr) : (s.atOnce t i).cxl = s.cxl := by
  unfold State.atOnce; split <;> rfl
@[simp] theorem State.atOnce_fe (s : State) (t : Nat) (i : Instr) : (s.atOnce t i).fe = s.fe := by
  unfold State.atOnce; split <;> rfl
@[simp] theorem State.atOnce_patrol (s : State) (t : Nat) (i : Instr) : (s.atOnce t i).patrol = s.patrol := by
  unfold State.atOnce; split <;> rfl
@[simp] theorem State.atOnce_mgmt (s : State) (t : Nat) (i : Instr) : (s.atOnce t i).mgmt = s.mgmt := by
  unfold State.atOnce; split <;> rfl
@[simp] theorem State.atOnce_cache (s : State) (t : Nat) (i : Instr) : (s.atOnce t i).cache = s.cache := by
  unfold State.atOnce; split <;> rfl
@[simp] theorem State.atOnce_mail (s : State) (t : Nat) (i : Instr) : (s.atOnce t i).mail = s.mail := by
  unfold State.atOnce; split <;> rfl
@[simp] theorem State.atOnce_attest (s : State) (t : Nat) (i : Instr) : (s.atOnce t i).attest = s.attest := by
  unfold State.atOnce; split <;> rfl
@[simp] theorem State.atOnce_fwImage (s : State) (t : Nat) (i : Instr) : (s.atOnce t i).fwImage = s.fwImage := by
  unfold State.atOnce; split <;> rfl
@[simp] theorem State.atOnce_trace (s : State) (t : Nat) (i : Instr) : (s.atOnce t i).trace = s.trace := by
  unfold State.atOnce; split <;> rfl
@[simp] theorem State.atOnce_out (s : State) (t : Nat) (i : Instr) : (s.atOnce t i).out = s.out := by
  unfold State.atOnce; split <;> rfl

/-! Reads of a part after a write of a part. -/

@[simp] theorem State.core_setCore (s : State) (c : Nat) (k : Core) : (s.setCore c k).core c = k :=
  sget_sset_same _ _ c k
theorem State.core_setCore_ne (s : State) (c d : Nat) (k : Core) (h : d ≠ c) : (s.setCore c k).core d = s.core d :=
  sget_sset_ne _ _ c d k h
@[simp] theorem State.core_modCore (s : State) (c : Nat) (g : Core → Core) : (s.modCore c g).core c = g (s.core c) :=
  sget_sset_same _ _ c _
theorem State.core_modCore_ne (s : State) (c d : Nat) (g : Core → Core) (h : d ≠ c) :
    (s.modCore c g).core d = s.core d :=
  sget_sset_ne _ _ c d _ h
@[simp] theorem State.heat_setHeat (s : State) (p : Nat) (h : Heat) : (s.setHeat p h).heat p = h :=
  sget_sset_same _ _ p h
theorem State.heat_setHeat_ne (s : State) (p r : Nat) (h : Heat) (hr : r ≠ p) : (s.setHeat p h).heat r = s.heat r :=
  sget_sset_ne _ _ p r h hr
@[simp] theorem State.chan_setChan (s : State) (c : Nat) (x : Channel) : (s.setChan c x).chan c = x :=
  sget_sset_same _ _ c x
theorem State.chan_setChan_ne (s : State) (c d : Nat) (x : Channel) (h : d ≠ c) : (s.setChan c x).chan d = s.chan d :=
  sget_sset_ne _ _ c d x h
@[simp] theorem State.queue_setQueue (s : State) (q : Nat) (x : Queue) : (s.setQueue q x).queue q = x :=
  sget_sset_same _ _ q x
theorem State.queue_setQueue_ne (s : State) (q r : Nat) (x : Queue) (h : r ≠ q) : (s.setQueue q x).queue r = s.queue r :=
  sget_sset_ne _ _ q r x h
@[simp] theorem State.core_at (s : State) (t : Nat) (i : Instr) (c : Nat) : (s.at t i).core c = s.core c := rfl
@[simp] theorem State.core_atOnce (s : State) (t : Nat) (i : Instr) (c : Nat) : (s.atOnce t i).core c = s.core c := by
  unfold State.core; rw [State.atOnce_cores]
@[simp] theorem State.core_setHeat (s : State) (p : Nat) (h : Heat) (c : Nat) : (s.setHeat p h).core c = s.core c := rfl
@[simp] theorem State.core_cancel (s : State) (q : Instr → Bool) (c : Nat) : (s.cancel q).core c = s.core c := rfl
@[simp] theorem State.heat_at (s : State) (t : Nat) (i : Instr) (p : Nat) : (s.at t i).heat p = s.heat p := rfl
@[simp] theorem State.heat_atOnce (s : State) (t : Nat) (i : Instr) (p : Nat) : (s.atOnce t i).heat p = s.heat p := by
  unfold State.heat; rw [State.atOnce_heats]
@[simp] theorem State.heat_setCore (s : State) (c : Nat) (k : Core) (p : Nat) : (s.setCore c k).heat p = s.heat p := rfl
@[simp] theorem State.heat_modCore (s : State) (c : Nat) (g : Core → Core) (p : Nat) :
    (s.modCore c g).heat p = s.heat p := rfl

/-! Registers of a core (R17): a read after a write, and the registers hard-wired to a constant. -/

@[simp] theorem Core.rs_zero (k : Core) : k.rs 0 = 0 := rfl
@[simp] theorem Core.rq_zero (k : Core) : k.rq 0 = true := rfl
@[simp] theorem Core.rw_zero (k : Core) : k.rw 0 = BitVec.allOnes 256 := rfl
@[simp] theorem FwCtx.rs_zero (f : FwCtx) : f.rs 0 = 0 := rfl
@[simp] theorem FwCtx.rq_zero (f : FwCtx) : f.rq 0 = true := rfl
@[simp] theorem FwCtx.ws_zero (f : FwCtx) (v : Word64) : f.ws 0 v = f := rfl
@[simp] theorem Core.ws_zero (k : Core) (v : Word64) : k.ws 0 v = k := rfl
@[simp] theorem Core.wq_zero (k : Core) (v : Bool) : k.wq 0 v = k := rfl
@[simp] theorem Core.ww_zero (k : Core) (v : BitVec 256) : k.ww 0 v = k := rfl
theorem Core.rs_ws (k : Core) (n m : Nat) (v : Word64) :
    (k.ws n v).rs m = if m = 0 then 0 else if m = n then v else k.rs m := by
  by_cases hn : n = 0
  · subst hn; by_cases hm : m = 0 <;> simp [hm]
  · by_cases hm : m = 0 <;> simp [Core.rs, Core.ws, hn, hm, sget_sset]
theorem FwCtx.rs_ws (f : FwCtx) (n m : Nat) (v : Word64) :
    (f.ws n v).rs m = if m = 0 then 0 else if m = n then v else f.rs m := by
  by_cases hn : n = 0
  · subst hn; by_cases hm : m = 0 <;> simp [hm]
  · by_cases hm : m = 0 <;> simp [FwCtx.rs, FwCtx.ws, hn, hm, sget_sset]
theorem Core.rv_wv (k : Core) (n m : Nat) (v : VReg) : (k.wv n v).rv m = if m = n then v else k.rv m :=
  sget_sset _ _ n m v
theorem Core.rk_wk (k : Core) (n m : Nat) (v : Word64) : (k.wk n v).rk m = if m = n then v else k.rk m :=
  sget_sset _ _ n m v
theorem Core.ra_wa (k : Core) (n m : Nat) (v : BitVec 128) : (k.wa n v).ra m = if m = n then v else k.ra m :=
  sget_sset _ _ n m v
theorem Core.rm_wm (k : Core) (n m : Nat) (t : Tile) : (k.wm n t).rm m = if m = n then t else k.rm m :=
  sget_sset _ _ n m t
theorem Core.ry_wy (k : Core) (n m : Nat) (v : BitVec 2080) : (k.wy n v).ry m = if m = n then v else k.ry m :=
  sget_sset _ _ n m v
theorem Core.rb_wb (k : Core) (n m : Nat) (b : Barrier) : (k.wb n b).rb m = if m = n then b else k.rb m :=
  sget_sset _ _ n m b
theorem Core.rw_ww (k : Core) (n m : Nat) (v : BitVec 256) :
    (k.ww n v).rw m = if m = 0 then BitVec.allOnes 256 else if m = n then v else k.rw m := by
  by_cases hn : n = 0
  · subst hn; by_cases hm : m = 0 <;> simp [hm]
  · by_cases hm : m = 0 <;> simp [Core.rw, Core.ww, hn, hm, sget_sset]

/-! What a register write leaves alone in its core. -/

@[simp] theorem Core.ws_v (c : Core) (n : Nat) (v : Word64) : (c.ws n v).v = c.v := by
  unfold Core.ws; split <;> rfl
@[simp] theorem Core.ws_k (c : Core) (n : Nat) (v : Word64) : (c.ws n v).k = c.k := by
  unfold Core.ws; split <;> rfl
@[simp] theorem Core.ws_m (c : Core) (n : Nat) (v : Word64) : (c.ws n v).m = c.m := by
  unfold Core.ws; split <;> rfl
@[simp] theorem Core.ws_y (c : Core) (n : Nat) (v : Word64) : (c.ws n v).y = c.y := by
  unfold Core.ws; split <;> rfl
@[simp] theorem Core.ws_q (c : Core) (n : Nat) (v : Word64) : (c.ws n v).q = c.q := by
  unfold Core.ws; split <;> rfl
@[simp] theorem Core.ws_w (c : Core) (n : Nat) (v : Word64) : (c.ws n v).w = c.w := by
  unfold Core.ws; split <;> rfl
@[simp] theorem Core.ws_a (c : Core) (n : Nat) (v : Word64) : (c.ws n v).a = c.a := by
  unfold Core.ws; split <;> rfl
@[simp] theorem Core.ws_sstat (c : Core) (n : Nat) (v : Word64) : (c.ws n v).sstat = c.sstat := by
  unfold Core.ws; split <;> rfl
@[simp] theorem Core.ws_csp (c : Core) (n : Nat) (v : Word64) : (c.ws n v).csp = c.csp := by
  unfold Core.ws; split <;> rfl
@[simp] theorem Core.ws_csbase (c : Core) (n : Nat) (v : Word64) : (c.ws n v).csbase = c.csbase := by
  unfold Core.ws; split <;> rfl
@[simp] theorem Core.ws_slimit (c : Core) (n : Nat) (v : Word64) : (c.ws n v).slimit = c.slimit := by
  unfold Core.ws; split <;> rfl
@[simp] theorem Core.ws_bar (c : Core) (n : Nat) (v : Word64) : (c.ws n v).bar = c.bar := by
  unfold Core.ws; split <;> rfl
@[simp] theorem Core.ws_lq (c : Core) (n : Nat) (v : Word64) : (c.ws n v).lq = c.lq := by
  unfold Core.ws; split <;> rfl
@[simp] theorem Core.ws_lqOut (c : Core) (n : Nat) (v : Word64) : (c.ws n v).lqOut = c.lqOut := by
  unfold Core.ws; split <;> rfl
@[simp] theorem Core.ws_spad (c : Core) (n : Nat) (v : Word64) : (c.ws n v).spad = c.spad := by
  unfold Core.ws; split <;> rfl
@[simp] theorem Core.ws_poison (c : Core) (n : Nat) (v : Word64) : (c.ws n v).poison = c.poison := by
  unfold Core.ws; split <;> rfl
@[simp] theorem Core.ws_seq (c : Core) (n : Nat) (v : Word64) : (c.ws n v).seq = c.seq := by
  unfold Core.ws; split <;> rfl
@[simp] theorem Core.ws_half0 (c : Core) (n : Nat) (v : Word64) : (c.ws n v).half0 = c.half0 := by
  unfold Core.ws; split <;> rfl
@[simp] theorem Core.ws_half1 (c : Core) (n : Nat) (v : Word64) : (c.ws n v).half1 = c.half1 := by
  unfold Core.ws; split <;> rfl
@[simp] theorem Core.ws_dict (c : Core) (n : Nat) (v : Word64) : (c.ws n v).dict = c.dict := by
  unfold Core.ws; split <;> rfl
@[simp] theorem Core.ws_loopTab (c : Core) (n : Nat) (v : Word64) : (c.ws n v).loopTab = c.loopTab := by
  unfold Core.ws; split <;> rfl
@[simp] theorem Core.ws_loopGrp (c : Core) (n : Nat) (v : Word64) : (c.ws n v).loopGrp = c.loopGrp := by
  unfold Core.ws; split <;> rfl
@[simp] theorem Core.ws_regions (c : Core) (n : Nat) (v : Word64) : (c.ws n v).regions = c.regions := by
  unfold Core.ws; split <;> rfl
@[simp] theorem Core.ws_pours (c : Core) (n : Nat) (v : Word64) : (c.ws n v).pours = c.pours := by
  unfold Core.ws; split <;> rfl
@[simp] theorem Core.ws_parts (c : Core) (n : Nat) (v : Word64) : (c.ws n v).parts = c.parts := by
  unfold Core.ws; split <;> rfl
@[simp] theorem Core.ws_shadow (c : Core) (n : Nat) (v : Word64) : (c.ws n v).shadow = c.shadow := by
  unfold Core.ws; split <;> rfl
@[simp] theorem Core.ws_pend (c : Core) (n : Nat) (v : Word64) : (c.ws n v).pend = c.pend := by
  unfold Core.ws; split <;> rfl
@[simp] theorem Core.ws_acc (c : Core) (n : Nat) (v : Word64) : (c.ws n v).acc = c.acc := by
  unfold Core.ws; split <;> rfl
@[simp] theorem Core.ws_nextId (c : Core) (n : Nat) (v : Word64) : (c.ws n v).nextId = c.nextId := by
  unfold Core.ws; split <;> rfl
@[simp] theorem Core.ws_steps (c : Core) (n : Nat) (v : Word64) : (c.ws n v).steps = c.steps := by
  unfold Core.ws; split <;> rfl
@[simp] theorem Core.ws_copies (c : Core) (n : Nat) (v : Word64) : (c.ws n v).copies = c.copies := by
  unfold Core.ws; split <;> rfl
@[simp] theorem Core.ws_deliv (c : Core) (n : Nat) (v : Word64) : (c.ws n v).deliv = c.deliv := by
  unfold Core.ws; split <;> rfl
@[simp] theorem Core.ws_outq (c : Core) (n : Nat) (v : Word64) : (c.ws n v).outq = c.outq := by
  unfold Core.ws; split <;> rfl
@[simp] theorem Core.ws_runs (c : Core) (n : Nat) (v : Word64) : (c.ws n v).runs = c.runs := by
  unfold Core.ws; split <;> rfl
@[simp] theorem Core.ws_pieces (c : Core) (n : Nat) (v : Word64) : (c.ws n v).pieces = c.pieces := by
  unfold Core.ws; split <;> rfl
@[simp] theorem Core.ws_cruc (c : Core) (n : Nat) (v : Word64) : (c.ws n v).cruc = c.cruc := by
  unfold Core.ws; split <;> rfl
@[simp] theorem Core.ws_dyn (c : Core) (n : Nat) (v : Word64) : (c.ws n v).dyn = c.dyn := by
  unfold Core.ws; split <;> rfl
@[simp] theorem Core.ws_bitsDue (c : Core) (n : Nat) (v : Word64) : (c.ws n v).bitsDue = c.bitsDue := by
  unfold Core.ws; split <;> rfl
@[simp] theorem Core.ws_started (c : Core) (n : Nat) (v : Word64) : (c.ws n v).started = c.started := by
  unfold Core.ws; split <;> rfl
@[simp] theorem Core.ws_task (c : Core) (n : Nat) (v : Word64) : (c.ws n v).task = c.task := by
  unfold Core.ws; split <;> rfl
@[simp] theorem Core.ws_startAt (c : Core) (n : Nat) (v : Word64) : (c.ws n v).startAt = c.startAt := by
  unfold Core.ws; split <;> rfl
@[simp] theorem Core.ws_spanTrap (c : Core) (n : Nat) (v : Word64) : (c.ws n v).spanTrap = c.spanTrap := by
  unfold Core.ws; split <;> rfl
@[simp] theorem Core.ws_badReg (c : Core) (n : Nat) (v : Word64) : (c.ws n v).badReg = c.badReg := by
  unfold Core.ws; split <;> rfl
@[simp] theorem Core.ws_badSpad (c : Core) (n : Nat) (v : Word64) : (c.ws n v).badSpad = c.badSpad := by
  unfold Core.ws; split <;> rfl
@[simp] theorem Core.ws_fw (c : Core) (n : Nat) (v : Word64) : (c.ws n v).fw = c.fw := by
  unfold Core.ws; split <;> rfl

@[simp] theorem Core.wq_s (c : Core) (n : Nat) (v : Bool) : (c.wq n v).s = c.s := by
  unfold Core.wq; split <;> rfl
@[simp] theorem Core.wq_v (c : Core) (n : Nat) (v : Bool) : (c.wq n v).v = c.v := by
  unfold Core.wq; split <;> rfl
@[simp] theorem Core.wq_k (c : Core) (n : Nat) (v : Bool) : (c.wq n v).k = c.k := by
  unfold Core.wq; split <;> rfl
@[simp] theorem Core.wq_m (c : Core) (n : Nat) (v : Bool) : (c.wq n v).m = c.m := by
  unfold Core.wq; split <;> rfl
@[simp] theorem Core.wq_y (c : Core) (n : Nat) (v : Bool) : (c.wq n v).y = c.y := by
  unfold Core.wq; split <;> rfl
@[simp] theorem Core.wq_w (c : Core) (n : Nat) (v : Bool) : (c.wq n v).w = c.w := by
  unfold Core.wq; split <;> rfl
@[simp] theorem Core.wq_a (c : Core) (n : Nat) (v : Bool) : (c.wq n v).a = c.a := by
  unfold Core.wq; split <;> rfl
@[simp] theorem Core.wq_sstat (c : Core) (n : Nat) (v : Bool) : (c.wq n v).sstat = c.sstat := by
  unfold Core.wq; split <;> rfl
@[simp] theorem Core.wq_csp (c : Core) (n : Nat) (v : Bool) : (c.wq n v).csp = c.csp := by
  unfold Core.wq; split <;> rfl
@[simp] theorem Core.wq_csbase (c : Core) (n : Nat) (v : Bool) : (c.wq n v).csbase = c.csbase := by
  unfold Core.wq; split <;> rfl
@[simp] theorem Core.wq_slimit (c : Core) (n : Nat) (v : Bool) : (c.wq n v).slimit = c.slimit := by
  unfold Core.wq; split <;> rfl
@[simp] theorem Core.wq_bar (c : Core) (n : Nat) (v : Bool) : (c.wq n v).bar = c.bar := by
  unfold Core.wq; split <;> rfl
@[simp] theorem Core.wq_lq (c : Core) (n : Nat) (v : Bool) : (c.wq n v).lq = c.lq := by
  unfold Core.wq; split <;> rfl
@[simp] theorem Core.wq_lqOut (c : Core) (n : Nat) (v : Bool) : (c.wq n v).lqOut = c.lqOut := by
  unfold Core.wq; split <;> rfl
@[simp] theorem Core.wq_spad (c : Core) (n : Nat) (v : Bool) : (c.wq n v).spad = c.spad := by
  unfold Core.wq; split <;> rfl
@[simp] theorem Core.wq_poison (c : Core) (n : Nat) (v : Bool) : (c.wq n v).poison = c.poison := by
  unfold Core.wq; split <;> rfl
@[simp] theorem Core.wq_seq (c : Core) (n : Nat) (v : Bool) : (c.wq n v).seq = c.seq := by
  unfold Core.wq; split <;> rfl
@[simp] theorem Core.wq_half0 (c : Core) (n : Nat) (v : Bool) : (c.wq n v).half0 = c.half0 := by
  unfold Core.wq; split <;> rfl
@[simp] theorem Core.wq_half1 (c : Core) (n : Nat) (v : Bool) : (c.wq n v).half1 = c.half1 := by
  unfold Core.wq; split <;> rfl
@[simp] theorem Core.wq_dict (c : Core) (n : Nat) (v : Bool) : (c.wq n v).dict = c.dict := by
  unfold Core.wq; split <;> rfl
@[simp] theorem Core.wq_loopTab (c : Core) (n : Nat) (v : Bool) : (c.wq n v).loopTab = c.loopTab := by
  unfold Core.wq; split <;> rfl
@[simp] theorem Core.wq_loopGrp (c : Core) (n : Nat) (v : Bool) : (c.wq n v).loopGrp = c.loopGrp := by
  unfold Core.wq; split <;> rfl
@[simp] theorem Core.wq_regions (c : Core) (n : Nat) (v : Bool) : (c.wq n v).regions = c.regions := by
  unfold Core.wq; split <;> rfl
@[simp] theorem Core.wq_pours (c : Core) (n : Nat) (v : Bool) : (c.wq n v).pours = c.pours := by
  unfold Core.wq; split <;> rfl
@[simp] theorem Core.wq_parts (c : Core) (n : Nat) (v : Bool) : (c.wq n v).parts = c.parts := by
  unfold Core.wq; split <;> rfl
@[simp] theorem Core.wq_shadow (c : Core) (n : Nat) (v : Bool) : (c.wq n v).shadow = c.shadow := by
  unfold Core.wq; split <;> rfl
@[simp] theorem Core.wq_pend (c : Core) (n : Nat) (v : Bool) : (c.wq n v).pend = c.pend := by
  unfold Core.wq; split <;> rfl
@[simp] theorem Core.wq_acc (c : Core) (n : Nat) (v : Bool) : (c.wq n v).acc = c.acc := by
  unfold Core.wq; split <;> rfl
@[simp] theorem Core.wq_nextId (c : Core) (n : Nat) (v : Bool) : (c.wq n v).nextId = c.nextId := by
  unfold Core.wq; split <;> rfl
@[simp] theorem Core.wq_steps (c : Core) (n : Nat) (v : Bool) : (c.wq n v).steps = c.steps := by
  unfold Core.wq; split <;> rfl
@[simp] theorem Core.wq_copies (c : Core) (n : Nat) (v : Bool) : (c.wq n v).copies = c.copies := by
  unfold Core.wq; split <;> rfl
@[simp] theorem Core.wq_deliv (c : Core) (n : Nat) (v : Bool) : (c.wq n v).deliv = c.deliv := by
  unfold Core.wq; split <;> rfl
@[simp] theorem Core.wq_outq (c : Core) (n : Nat) (v : Bool) : (c.wq n v).outq = c.outq := by
  unfold Core.wq; split <;> rfl
@[simp] theorem Core.wq_runs (c : Core) (n : Nat) (v : Bool) : (c.wq n v).runs = c.runs := by
  unfold Core.wq; split <;> rfl
@[simp] theorem Core.wq_pieces (c : Core) (n : Nat) (v : Bool) : (c.wq n v).pieces = c.pieces := by
  unfold Core.wq; split <;> rfl
@[simp] theorem Core.wq_cruc (c : Core) (n : Nat) (v : Bool) : (c.wq n v).cruc = c.cruc := by
  unfold Core.wq; split <;> rfl
@[simp] theorem Core.wq_dyn (c : Core) (n : Nat) (v : Bool) : (c.wq n v).dyn = c.dyn := by
  unfold Core.wq; split <;> rfl
@[simp] theorem Core.wq_bitsDue (c : Core) (n : Nat) (v : Bool) : (c.wq n v).bitsDue = c.bitsDue := by
  unfold Core.wq; split <;> rfl
@[simp] theorem Core.wq_started (c : Core) (n : Nat) (v : Bool) : (c.wq n v).started = c.started := by
  unfold Core.wq; split <;> rfl
@[simp] theorem Core.wq_task (c : Core) (n : Nat) (v : Bool) : (c.wq n v).task = c.task := by
  unfold Core.wq; split <;> rfl
@[simp] theorem Core.wq_startAt (c : Core) (n : Nat) (v : Bool) : (c.wq n v).startAt = c.startAt := by
  unfold Core.wq; split <;> rfl
@[simp] theorem Core.wq_spanTrap (c : Core) (n : Nat) (v : Bool) : (c.wq n v).spanTrap = c.spanTrap := by
  unfold Core.wq; split <;> rfl
@[simp] theorem Core.wq_badReg (c : Core) (n : Nat) (v : Bool) : (c.wq n v).badReg = c.badReg := by
  unfold Core.wq; split <;> rfl
@[simp] theorem Core.wq_badSpad (c : Core) (n : Nat) (v : Bool) : (c.wq n v).badSpad = c.badSpad := by
  unfold Core.wq; split <;> rfl
@[simp] theorem Core.wq_fw (c : Core) (n : Nat) (v : Bool) : (c.wq n v).fw = c.fw := by
  unfold Core.wq; split <;> rfl

@[simp] theorem Core.ww_s (c : Core) (n : Nat) (v : BitVec 256) : (c.ww n v).s = c.s := by
  unfold Core.ww; split <;> rfl
@[simp] theorem Core.ww_v (c : Core) (n : Nat) (v : BitVec 256) : (c.ww n v).v = c.v := by
  unfold Core.ww; split <;> rfl
@[simp] theorem Core.ww_k (c : Core) (n : Nat) (v : BitVec 256) : (c.ww n v).k = c.k := by
  unfold Core.ww; split <;> rfl
@[simp] theorem Core.ww_m (c : Core) (n : Nat) (v : BitVec 256) : (c.ww n v).m = c.m := by
  unfold Core.ww; split <;> rfl
@[simp] theorem Core.ww_y (c : Core) (n : Nat) (v : BitVec 256) : (c.ww n v).y = c.y := by
  unfold Core.ww; split <;> rfl
@[simp] theorem Core.ww_q (c : Core) (n : Nat) (v : BitVec 256) : (c.ww n v).q = c.q := by
  unfold Core.ww; split <;> rfl
@[simp] theorem Core.ww_a (c : Core) (n : Nat) (v : BitVec 256) : (c.ww n v).a = c.a := by
  unfold Core.ww; split <;> rfl
@[simp] theorem Core.ww_sstat (c : Core) (n : Nat) (v : BitVec 256) : (c.ww n v).sstat = c.sstat := by
  unfold Core.ww; split <;> rfl
@[simp] theorem Core.ww_csp (c : Core) (n : Nat) (v : BitVec 256) : (c.ww n v).csp = c.csp := by
  unfold Core.ww; split <;> rfl
@[simp] theorem Core.ww_csbase (c : Core) (n : Nat) (v : BitVec 256) : (c.ww n v).csbase = c.csbase := by
  unfold Core.ww; split <;> rfl
@[simp] theorem Core.ww_slimit (c : Core) (n : Nat) (v : BitVec 256) : (c.ww n v).slimit = c.slimit := by
  unfold Core.ww; split <;> rfl
@[simp] theorem Core.ww_bar (c : Core) (n : Nat) (v : BitVec 256) : (c.ww n v).bar = c.bar := by
  unfold Core.ww; split <;> rfl
@[simp] theorem Core.ww_lq (c : Core) (n : Nat) (v : BitVec 256) : (c.ww n v).lq = c.lq := by
  unfold Core.ww; split <;> rfl
@[simp] theorem Core.ww_lqOut (c : Core) (n : Nat) (v : BitVec 256) : (c.ww n v).lqOut = c.lqOut := by
  unfold Core.ww; split <;> rfl
@[simp] theorem Core.ww_spad (c : Core) (n : Nat) (v : BitVec 256) : (c.ww n v).spad = c.spad := by
  unfold Core.ww; split <;> rfl
@[simp] theorem Core.ww_poison (c : Core) (n : Nat) (v : BitVec 256) : (c.ww n v).poison = c.poison := by
  unfold Core.ww; split <;> rfl
@[simp] theorem Core.ww_seq (c : Core) (n : Nat) (v : BitVec 256) : (c.ww n v).seq = c.seq := by
  unfold Core.ww; split <;> rfl
@[simp] theorem Core.ww_half0 (c : Core) (n : Nat) (v : BitVec 256) : (c.ww n v).half0 = c.half0 := by
  unfold Core.ww; split <;> rfl
@[simp] theorem Core.ww_half1 (c : Core) (n : Nat) (v : BitVec 256) : (c.ww n v).half1 = c.half1 := by
  unfold Core.ww; split <;> rfl
@[simp] theorem Core.ww_dict (c : Core) (n : Nat) (v : BitVec 256) : (c.ww n v).dict = c.dict := by
  unfold Core.ww; split <;> rfl
@[simp] theorem Core.ww_loopTab (c : Core) (n : Nat) (v : BitVec 256) : (c.ww n v).loopTab = c.loopTab := by
  unfold Core.ww; split <;> rfl
@[simp] theorem Core.ww_loopGrp (c : Core) (n : Nat) (v : BitVec 256) : (c.ww n v).loopGrp = c.loopGrp := by
  unfold Core.ww; split <;> rfl
@[simp] theorem Core.ww_regions (c : Core) (n : Nat) (v : BitVec 256) : (c.ww n v).regions = c.regions := by
  unfold Core.ww; split <;> rfl
@[simp] theorem Core.ww_pours (c : Core) (n : Nat) (v : BitVec 256) : (c.ww n v).pours = c.pours := by
  unfold Core.ww; split <;> rfl
@[simp] theorem Core.ww_parts (c : Core) (n : Nat) (v : BitVec 256) : (c.ww n v).parts = c.parts := by
  unfold Core.ww; split <;> rfl
@[simp] theorem Core.ww_shadow (c : Core) (n : Nat) (v : BitVec 256) : (c.ww n v).shadow = c.shadow := by
  unfold Core.ww; split <;> rfl
@[simp] theorem Core.ww_pend (c : Core) (n : Nat) (v : BitVec 256) : (c.ww n v).pend = c.pend := by
  unfold Core.ww; split <;> rfl
@[simp] theorem Core.ww_acc (c : Core) (n : Nat) (v : BitVec 256) : (c.ww n v).acc = c.acc := by
  unfold Core.ww; split <;> rfl
@[simp] theorem Core.ww_nextId (c : Core) (n : Nat) (v : BitVec 256) : (c.ww n v).nextId = c.nextId := by
  unfold Core.ww; split <;> rfl
@[simp] theorem Core.ww_steps (c : Core) (n : Nat) (v : BitVec 256) : (c.ww n v).steps = c.steps := by
  unfold Core.ww; split <;> rfl
@[simp] theorem Core.ww_copies (c : Core) (n : Nat) (v : BitVec 256) : (c.ww n v).copies = c.copies := by
  unfold Core.ww; split <;> rfl
@[simp] theorem Core.ww_deliv (c : Core) (n : Nat) (v : BitVec 256) : (c.ww n v).deliv = c.deliv := by
  unfold Core.ww; split <;> rfl
@[simp] theorem Core.ww_outq (c : Core) (n : Nat) (v : BitVec 256) : (c.ww n v).outq = c.outq := by
  unfold Core.ww; split <;> rfl
@[simp] theorem Core.ww_runs (c : Core) (n : Nat) (v : BitVec 256) : (c.ww n v).runs = c.runs := by
  unfold Core.ww; split <;> rfl
@[simp] theorem Core.ww_pieces (c : Core) (n : Nat) (v : BitVec 256) : (c.ww n v).pieces = c.pieces := by
  unfold Core.ww; split <;> rfl
@[simp] theorem Core.ww_cruc (c : Core) (n : Nat) (v : BitVec 256) : (c.ww n v).cruc = c.cruc := by
  unfold Core.ww; split <;> rfl
@[simp] theorem Core.ww_dyn (c : Core) (n : Nat) (v : BitVec 256) : (c.ww n v).dyn = c.dyn := by
  unfold Core.ww; split <;> rfl
@[simp] theorem Core.ww_bitsDue (c : Core) (n : Nat) (v : BitVec 256) : (c.ww n v).bitsDue = c.bitsDue := by
  unfold Core.ww; split <;> rfl
@[simp] theorem Core.ww_started (c : Core) (n : Nat) (v : BitVec 256) : (c.ww n v).started = c.started := by
  unfold Core.ww; split <;> rfl
@[simp] theorem Core.ww_task (c : Core) (n : Nat) (v : BitVec 256) : (c.ww n v).task = c.task := by
  unfold Core.ww; split <;> rfl
@[simp] theorem Core.ww_startAt (c : Core) (n : Nat) (v : BitVec 256) : (c.ww n v).startAt = c.startAt := by
  unfold Core.ww; split <;> rfl
@[simp] theorem Core.ww_spanTrap (c : Core) (n : Nat) (v : BitVec 256) : (c.ww n v).spanTrap = c.spanTrap := by
  unfold Core.ww; split <;> rfl
@[simp] theorem Core.ww_badReg (c : Core) (n : Nat) (v : BitVec 256) : (c.ww n v).badReg = c.badReg := by
  unfold Core.ww; split <;> rfl
@[simp] theorem Core.ww_badSpad (c : Core) (n : Nat) (v : BitVec 256) : (c.ww n v).badSpad = c.badSpad := by
  unfold Core.ww; split <;> rfl
@[simp] theorem Core.ww_fw (c : Core) (n : Nat) (v : BitVec 256) : (c.ww n v).fw = c.fw := by
  unfold Core.ww; split <;> rfl

@[simp] theorem Core.wv_s (c : Core) (n : Nat) (v : VReg) : (c.wv n v).s = c.s := rfl
@[simp] theorem Core.wv_k (c : Core) (n : Nat) (v : VReg) : (c.wv n v).k = c.k := rfl
@[simp] theorem Core.wv_m (c : Core) (n : Nat) (v : VReg) : (c.wv n v).m = c.m := rfl
@[simp] theorem Core.wv_y (c : Core) (n : Nat) (v : VReg) : (c.wv n v).y = c.y := rfl
@[simp] theorem Core.wv_q (c : Core) (n : Nat) (v : VReg) : (c.wv n v).q = c.q := rfl
@[simp] theorem Core.wv_w (c : Core) (n : Nat) (v : VReg) : (c.wv n v).w = c.w := rfl
@[simp] theorem Core.wv_a (c : Core) (n : Nat) (v : VReg) : (c.wv n v).a = c.a := rfl
@[simp] theorem Core.wv_sstat (c : Core) (n : Nat) (v : VReg) : (c.wv n v).sstat = c.sstat := rfl
@[simp] theorem Core.wv_csp (c : Core) (n : Nat) (v : VReg) : (c.wv n v).csp = c.csp := rfl
@[simp] theorem Core.wv_csbase (c : Core) (n : Nat) (v : VReg) : (c.wv n v).csbase = c.csbase := rfl
@[simp] theorem Core.wv_slimit (c : Core) (n : Nat) (v : VReg) : (c.wv n v).slimit = c.slimit := rfl
@[simp] theorem Core.wv_bar (c : Core) (n : Nat) (v : VReg) : (c.wv n v).bar = c.bar := rfl
@[simp] theorem Core.wv_lq (c : Core) (n : Nat) (v : VReg) : (c.wv n v).lq = c.lq := rfl
@[simp] theorem Core.wv_lqOut (c : Core) (n : Nat) (v : VReg) : (c.wv n v).lqOut = c.lqOut := rfl
@[simp] theorem Core.wv_spad (c : Core) (n : Nat) (v : VReg) : (c.wv n v).spad = c.spad := rfl
@[simp] theorem Core.wv_poison (c : Core) (n : Nat) (v : VReg) : (c.wv n v).poison = c.poison := rfl
@[simp] theorem Core.wv_seq (c : Core) (n : Nat) (v : VReg) : (c.wv n v).seq = c.seq := rfl
@[simp] theorem Core.wv_half0 (c : Core) (n : Nat) (v : VReg) : (c.wv n v).half0 = c.half0 := rfl
@[simp] theorem Core.wv_half1 (c : Core) (n : Nat) (v : VReg) : (c.wv n v).half1 = c.half1 := rfl
@[simp] theorem Core.wv_dict (c : Core) (n : Nat) (v : VReg) : (c.wv n v).dict = c.dict := rfl
@[simp] theorem Core.wv_loopTab (c : Core) (n : Nat) (v : VReg) : (c.wv n v).loopTab = c.loopTab := rfl
@[simp] theorem Core.wv_loopGrp (c : Core) (n : Nat) (v : VReg) : (c.wv n v).loopGrp = c.loopGrp := rfl
@[simp] theorem Core.wv_regions (c : Core) (n : Nat) (v : VReg) : (c.wv n v).regions = c.regions := rfl
@[simp] theorem Core.wv_pours (c : Core) (n : Nat) (v : VReg) : (c.wv n v).pours = c.pours := rfl
@[simp] theorem Core.wv_parts (c : Core) (n : Nat) (v : VReg) : (c.wv n v).parts = c.parts := rfl
@[simp] theorem Core.wv_shadow (c : Core) (n : Nat) (v : VReg) : (c.wv n v).shadow = c.shadow := rfl
@[simp] theorem Core.wv_pend (c : Core) (n : Nat) (v : VReg) : (c.wv n v).pend = c.pend := rfl
@[simp] theorem Core.wv_acc (c : Core) (n : Nat) (v : VReg) : (c.wv n v).acc = c.acc := rfl
@[simp] theorem Core.wv_nextId (c : Core) (n : Nat) (v : VReg) : (c.wv n v).nextId = c.nextId := rfl
@[simp] theorem Core.wv_steps (c : Core) (n : Nat) (v : VReg) : (c.wv n v).steps = c.steps := rfl
@[simp] theorem Core.wv_copies (c : Core) (n : Nat) (v : VReg) : (c.wv n v).copies = c.copies := rfl
@[simp] theorem Core.wv_deliv (c : Core) (n : Nat) (v : VReg) : (c.wv n v).deliv = c.deliv := rfl
@[simp] theorem Core.wv_outq (c : Core) (n : Nat) (v : VReg) : (c.wv n v).outq = c.outq := rfl
@[simp] theorem Core.wv_runs (c : Core) (n : Nat) (v : VReg) : (c.wv n v).runs = c.runs := rfl
@[simp] theorem Core.wv_pieces (c : Core) (n : Nat) (v : VReg) : (c.wv n v).pieces = c.pieces := rfl
@[simp] theorem Core.wv_cruc (c : Core) (n : Nat) (v : VReg) : (c.wv n v).cruc = c.cruc := rfl
@[simp] theorem Core.wv_dyn (c : Core) (n : Nat) (v : VReg) : (c.wv n v).dyn = c.dyn := rfl
@[simp] theorem Core.wv_bitsDue (c : Core) (n : Nat) (v : VReg) : (c.wv n v).bitsDue = c.bitsDue := rfl
@[simp] theorem Core.wv_started (c : Core) (n : Nat) (v : VReg) : (c.wv n v).started = c.started := rfl
@[simp] theorem Core.wv_task (c : Core) (n : Nat) (v : VReg) : (c.wv n v).task = c.task := rfl
@[simp] theorem Core.wv_startAt (c : Core) (n : Nat) (v : VReg) : (c.wv n v).startAt = c.startAt := rfl
@[simp] theorem Core.wv_spanTrap (c : Core) (n : Nat) (v : VReg) : (c.wv n v).spanTrap = c.spanTrap := rfl
@[simp] theorem Core.wv_badReg (c : Core) (n : Nat) (v : VReg) : (c.wv n v).badReg = c.badReg := rfl
@[simp] theorem Core.wv_badSpad (c : Core) (n : Nat) (v : VReg) : (c.wv n v).badSpad = c.badSpad := rfl
@[simp] theorem Core.wv_fw (c : Core) (n : Nat) (v : VReg) : (c.wv n v).fw = c.fw := rfl

@[simp] theorem Core.wk_s (c : Core) (n : Nat) (v : Word64) : (c.wk n v).s = c.s := rfl
@[simp] theorem Core.wk_v (c : Core) (n : Nat) (v : Word64) : (c.wk n v).v = c.v := rfl
@[simp] theorem Core.wk_m (c : Core) (n : Nat) (v : Word64) : (c.wk n v).m = c.m := rfl
@[simp] theorem Core.wk_y (c : Core) (n : Nat) (v : Word64) : (c.wk n v).y = c.y := rfl
@[simp] theorem Core.wk_q (c : Core) (n : Nat) (v : Word64) : (c.wk n v).q = c.q := rfl
@[simp] theorem Core.wk_w (c : Core) (n : Nat) (v : Word64) : (c.wk n v).w = c.w := rfl
@[simp] theorem Core.wk_a (c : Core) (n : Nat) (v : Word64) : (c.wk n v).a = c.a := rfl
@[simp] theorem Core.wk_sstat (c : Core) (n : Nat) (v : Word64) : (c.wk n v).sstat = c.sstat := rfl
@[simp] theorem Core.wk_csp (c : Core) (n : Nat) (v : Word64) : (c.wk n v).csp = c.csp := rfl
@[simp] theorem Core.wk_csbase (c : Core) (n : Nat) (v : Word64) : (c.wk n v).csbase = c.csbase := rfl
@[simp] theorem Core.wk_slimit (c : Core) (n : Nat) (v : Word64) : (c.wk n v).slimit = c.slimit := rfl
@[simp] theorem Core.wk_bar (c : Core) (n : Nat) (v : Word64) : (c.wk n v).bar = c.bar := rfl
@[simp] theorem Core.wk_lq (c : Core) (n : Nat) (v : Word64) : (c.wk n v).lq = c.lq := rfl
@[simp] theorem Core.wk_lqOut (c : Core) (n : Nat) (v : Word64) : (c.wk n v).lqOut = c.lqOut := rfl
@[simp] theorem Core.wk_spad (c : Core) (n : Nat) (v : Word64) : (c.wk n v).spad = c.spad := rfl
@[simp] theorem Core.wk_poison (c : Core) (n : Nat) (v : Word64) : (c.wk n v).poison = c.poison := rfl
@[simp] theorem Core.wk_seq (c : Core) (n : Nat) (v : Word64) : (c.wk n v).seq = c.seq := rfl
@[simp] theorem Core.wk_half0 (c : Core) (n : Nat) (v : Word64) : (c.wk n v).half0 = c.half0 := rfl
@[simp] theorem Core.wk_half1 (c : Core) (n : Nat) (v : Word64) : (c.wk n v).half1 = c.half1 := rfl
@[simp] theorem Core.wk_dict (c : Core) (n : Nat) (v : Word64) : (c.wk n v).dict = c.dict := rfl
@[simp] theorem Core.wk_loopTab (c : Core) (n : Nat) (v : Word64) : (c.wk n v).loopTab = c.loopTab := rfl
@[simp] theorem Core.wk_loopGrp (c : Core) (n : Nat) (v : Word64) : (c.wk n v).loopGrp = c.loopGrp := rfl
@[simp] theorem Core.wk_regions (c : Core) (n : Nat) (v : Word64) : (c.wk n v).regions = c.regions := rfl
@[simp] theorem Core.wk_pours (c : Core) (n : Nat) (v : Word64) : (c.wk n v).pours = c.pours := rfl
@[simp] theorem Core.wk_parts (c : Core) (n : Nat) (v : Word64) : (c.wk n v).parts = c.parts := rfl
@[simp] theorem Core.wk_shadow (c : Core) (n : Nat) (v : Word64) : (c.wk n v).shadow = c.shadow := rfl
@[simp] theorem Core.wk_pend (c : Core) (n : Nat) (v : Word64) : (c.wk n v).pend = c.pend := rfl
@[simp] theorem Core.wk_acc (c : Core) (n : Nat) (v : Word64) : (c.wk n v).acc = c.acc := rfl
@[simp] theorem Core.wk_nextId (c : Core) (n : Nat) (v : Word64) : (c.wk n v).nextId = c.nextId := rfl
@[simp] theorem Core.wk_steps (c : Core) (n : Nat) (v : Word64) : (c.wk n v).steps = c.steps := rfl
@[simp] theorem Core.wk_copies (c : Core) (n : Nat) (v : Word64) : (c.wk n v).copies = c.copies := rfl
@[simp] theorem Core.wk_deliv (c : Core) (n : Nat) (v : Word64) : (c.wk n v).deliv = c.deliv := rfl
@[simp] theorem Core.wk_outq (c : Core) (n : Nat) (v : Word64) : (c.wk n v).outq = c.outq := rfl
@[simp] theorem Core.wk_runs (c : Core) (n : Nat) (v : Word64) : (c.wk n v).runs = c.runs := rfl
@[simp] theorem Core.wk_pieces (c : Core) (n : Nat) (v : Word64) : (c.wk n v).pieces = c.pieces := rfl
@[simp] theorem Core.wk_cruc (c : Core) (n : Nat) (v : Word64) : (c.wk n v).cruc = c.cruc := rfl
@[simp] theorem Core.wk_dyn (c : Core) (n : Nat) (v : Word64) : (c.wk n v).dyn = c.dyn := rfl
@[simp] theorem Core.wk_bitsDue (c : Core) (n : Nat) (v : Word64) : (c.wk n v).bitsDue = c.bitsDue := rfl
@[simp] theorem Core.wk_started (c : Core) (n : Nat) (v : Word64) : (c.wk n v).started = c.started := rfl
@[simp] theorem Core.wk_task (c : Core) (n : Nat) (v : Word64) : (c.wk n v).task = c.task := rfl
@[simp] theorem Core.wk_startAt (c : Core) (n : Nat) (v : Word64) : (c.wk n v).startAt = c.startAt := rfl
@[simp] theorem Core.wk_spanTrap (c : Core) (n : Nat) (v : Word64) : (c.wk n v).spanTrap = c.spanTrap := rfl
@[simp] theorem Core.wk_badReg (c : Core) (n : Nat) (v : Word64) : (c.wk n v).badReg = c.badReg := rfl
@[simp] theorem Core.wk_badSpad (c : Core) (n : Nat) (v : Word64) : (c.wk n v).badSpad = c.badSpad := rfl
@[simp] theorem Core.wk_fw (c : Core) (n : Nat) (v : Word64) : (c.wk n v).fw = c.fw := rfl

@[simp] theorem Core.wa_s (c : Core) (n : Nat) (v : BitVec 128) : (c.wa n v).s = c.s := rfl
@[simp] theorem Core.wa_v (c : Core) (n : Nat) (v : BitVec 128) : (c.wa n v).v = c.v := rfl
@[simp] theorem Core.wa_k (c : Core) (n : Nat) (v : BitVec 128) : (c.wa n v).k = c.k := rfl
@[simp] theorem Core.wa_m (c : Core) (n : Nat) (v : BitVec 128) : (c.wa n v).m = c.m := rfl
@[simp] theorem Core.wa_y (c : Core) (n : Nat) (v : BitVec 128) : (c.wa n v).y = c.y := rfl
@[simp] theorem Core.wa_q (c : Core) (n : Nat) (v : BitVec 128) : (c.wa n v).q = c.q := rfl
@[simp] theorem Core.wa_w (c : Core) (n : Nat) (v : BitVec 128) : (c.wa n v).w = c.w := rfl
@[simp] theorem Core.wa_sstat (c : Core) (n : Nat) (v : BitVec 128) : (c.wa n v).sstat = c.sstat := rfl
@[simp] theorem Core.wa_csp (c : Core) (n : Nat) (v : BitVec 128) : (c.wa n v).csp = c.csp := rfl
@[simp] theorem Core.wa_csbase (c : Core) (n : Nat) (v : BitVec 128) : (c.wa n v).csbase = c.csbase := rfl
@[simp] theorem Core.wa_slimit (c : Core) (n : Nat) (v : BitVec 128) : (c.wa n v).slimit = c.slimit := rfl
@[simp] theorem Core.wa_bar (c : Core) (n : Nat) (v : BitVec 128) : (c.wa n v).bar = c.bar := rfl
@[simp] theorem Core.wa_lq (c : Core) (n : Nat) (v : BitVec 128) : (c.wa n v).lq = c.lq := rfl
@[simp] theorem Core.wa_lqOut (c : Core) (n : Nat) (v : BitVec 128) : (c.wa n v).lqOut = c.lqOut := rfl
@[simp] theorem Core.wa_spad (c : Core) (n : Nat) (v : BitVec 128) : (c.wa n v).spad = c.spad := rfl
@[simp] theorem Core.wa_poison (c : Core) (n : Nat) (v : BitVec 128) : (c.wa n v).poison = c.poison := rfl
@[simp] theorem Core.wa_seq (c : Core) (n : Nat) (v : BitVec 128) : (c.wa n v).seq = c.seq := rfl
@[simp] theorem Core.wa_half0 (c : Core) (n : Nat) (v : BitVec 128) : (c.wa n v).half0 = c.half0 := rfl
@[simp] theorem Core.wa_half1 (c : Core) (n : Nat) (v : BitVec 128) : (c.wa n v).half1 = c.half1 := rfl
@[simp] theorem Core.wa_dict (c : Core) (n : Nat) (v : BitVec 128) : (c.wa n v).dict = c.dict := rfl
@[simp] theorem Core.wa_loopTab (c : Core) (n : Nat) (v : BitVec 128) : (c.wa n v).loopTab = c.loopTab := rfl
@[simp] theorem Core.wa_loopGrp (c : Core) (n : Nat) (v : BitVec 128) : (c.wa n v).loopGrp = c.loopGrp := rfl
@[simp] theorem Core.wa_regions (c : Core) (n : Nat) (v : BitVec 128) : (c.wa n v).regions = c.regions := rfl
@[simp] theorem Core.wa_pours (c : Core) (n : Nat) (v : BitVec 128) : (c.wa n v).pours = c.pours := rfl
@[simp] theorem Core.wa_parts (c : Core) (n : Nat) (v : BitVec 128) : (c.wa n v).parts = c.parts := rfl
@[simp] theorem Core.wa_shadow (c : Core) (n : Nat) (v : BitVec 128) : (c.wa n v).shadow = c.shadow := rfl
@[simp] theorem Core.wa_pend (c : Core) (n : Nat) (v : BitVec 128) : (c.wa n v).pend = c.pend := rfl
@[simp] theorem Core.wa_acc (c : Core) (n : Nat) (v : BitVec 128) : (c.wa n v).acc = c.acc := rfl
@[simp] theorem Core.wa_nextId (c : Core) (n : Nat) (v : BitVec 128) : (c.wa n v).nextId = c.nextId := rfl
@[simp] theorem Core.wa_steps (c : Core) (n : Nat) (v : BitVec 128) : (c.wa n v).steps = c.steps := rfl
@[simp] theorem Core.wa_copies (c : Core) (n : Nat) (v : BitVec 128) : (c.wa n v).copies = c.copies := rfl
@[simp] theorem Core.wa_deliv (c : Core) (n : Nat) (v : BitVec 128) : (c.wa n v).deliv = c.deliv := rfl
@[simp] theorem Core.wa_outq (c : Core) (n : Nat) (v : BitVec 128) : (c.wa n v).outq = c.outq := rfl
@[simp] theorem Core.wa_runs (c : Core) (n : Nat) (v : BitVec 128) : (c.wa n v).runs = c.runs := rfl
@[simp] theorem Core.wa_pieces (c : Core) (n : Nat) (v : BitVec 128) : (c.wa n v).pieces = c.pieces := rfl
@[simp] theorem Core.wa_cruc (c : Core) (n : Nat) (v : BitVec 128) : (c.wa n v).cruc = c.cruc := rfl
@[simp] theorem Core.wa_dyn (c : Core) (n : Nat) (v : BitVec 128) : (c.wa n v).dyn = c.dyn := rfl
@[simp] theorem Core.wa_bitsDue (c : Core) (n : Nat) (v : BitVec 128) : (c.wa n v).bitsDue = c.bitsDue := rfl
@[simp] theorem Core.wa_started (c : Core) (n : Nat) (v : BitVec 128) : (c.wa n v).started = c.started := rfl
@[simp] theorem Core.wa_task (c : Core) (n : Nat) (v : BitVec 128) : (c.wa n v).task = c.task := rfl
@[simp] theorem Core.wa_startAt (c : Core) (n : Nat) (v : BitVec 128) : (c.wa n v).startAt = c.startAt := rfl
@[simp] theorem Core.wa_spanTrap (c : Core) (n : Nat) (v : BitVec 128) : (c.wa n v).spanTrap = c.spanTrap := rfl
@[simp] theorem Core.wa_badReg (c : Core) (n : Nat) (v : BitVec 128) : (c.wa n v).badReg = c.badReg := rfl
@[simp] theorem Core.wa_badSpad (c : Core) (n : Nat) (v : BitVec 128) : (c.wa n v).badSpad = c.badSpad := rfl
@[simp] theorem Core.wa_fw (c : Core) (n : Nat) (v : BitVec 128) : (c.wa n v).fw = c.fw := rfl

@[simp] theorem Core.wm_s (c : Core) (n : Nat) (t : Tile) : (c.wm n t).s = c.s := rfl
@[simp] theorem Core.wm_v (c : Core) (n : Nat) (t : Tile) : (c.wm n t).v = c.v := rfl
@[simp] theorem Core.wm_k (c : Core) (n : Nat) (t : Tile) : (c.wm n t).k = c.k := rfl
@[simp] theorem Core.wm_y (c : Core) (n : Nat) (t : Tile) : (c.wm n t).y = c.y := rfl
@[simp] theorem Core.wm_q (c : Core) (n : Nat) (t : Tile) : (c.wm n t).q = c.q := rfl
@[simp] theorem Core.wm_w (c : Core) (n : Nat) (t : Tile) : (c.wm n t).w = c.w := rfl
@[simp] theorem Core.wm_a (c : Core) (n : Nat) (t : Tile) : (c.wm n t).a = c.a := rfl
@[simp] theorem Core.wm_sstat (c : Core) (n : Nat) (t : Tile) : (c.wm n t).sstat = c.sstat := rfl
@[simp] theorem Core.wm_csp (c : Core) (n : Nat) (t : Tile) : (c.wm n t).csp = c.csp := rfl
@[simp] theorem Core.wm_csbase (c : Core) (n : Nat) (t : Tile) : (c.wm n t).csbase = c.csbase := rfl
@[simp] theorem Core.wm_slimit (c : Core) (n : Nat) (t : Tile) : (c.wm n t).slimit = c.slimit := rfl
@[simp] theorem Core.wm_bar (c : Core) (n : Nat) (t : Tile) : (c.wm n t).bar = c.bar := rfl
@[simp] theorem Core.wm_lq (c : Core) (n : Nat) (t : Tile) : (c.wm n t).lq = c.lq := rfl
@[simp] theorem Core.wm_lqOut (c : Core) (n : Nat) (t : Tile) : (c.wm n t).lqOut = c.lqOut := rfl
@[simp] theorem Core.wm_spad (c : Core) (n : Nat) (t : Tile) : (c.wm n t).spad = c.spad := rfl
@[simp] theorem Core.wm_poison (c : Core) (n : Nat) (t : Tile) : (c.wm n t).poison = c.poison := rfl
@[simp] theorem Core.wm_seq (c : Core) (n : Nat) (t : Tile) : (c.wm n t).seq = c.seq := rfl
@[simp] theorem Core.wm_half0 (c : Core) (n : Nat) (t : Tile) : (c.wm n t).half0 = c.half0 := rfl
@[simp] theorem Core.wm_half1 (c : Core) (n : Nat) (t : Tile) : (c.wm n t).half1 = c.half1 := rfl
@[simp] theorem Core.wm_dict (c : Core) (n : Nat) (t : Tile) : (c.wm n t).dict = c.dict := rfl
@[simp] theorem Core.wm_loopTab (c : Core) (n : Nat) (t : Tile) : (c.wm n t).loopTab = c.loopTab := rfl
@[simp] theorem Core.wm_loopGrp (c : Core) (n : Nat) (t : Tile) : (c.wm n t).loopGrp = c.loopGrp := rfl
@[simp] theorem Core.wm_regions (c : Core) (n : Nat) (t : Tile) : (c.wm n t).regions = c.regions := rfl
@[simp] theorem Core.wm_pours (c : Core) (n : Nat) (t : Tile) : (c.wm n t).pours = c.pours := rfl
@[simp] theorem Core.wm_parts (c : Core) (n : Nat) (t : Tile) : (c.wm n t).parts = c.parts := rfl
@[simp] theorem Core.wm_shadow (c : Core) (n : Nat) (t : Tile) : (c.wm n t).shadow = c.shadow := rfl
@[simp] theorem Core.wm_pend (c : Core) (n : Nat) (t : Tile) : (c.wm n t).pend = c.pend := rfl
@[simp] theorem Core.wm_acc (c : Core) (n : Nat) (t : Tile) : (c.wm n t).acc = c.acc := rfl
@[simp] theorem Core.wm_nextId (c : Core) (n : Nat) (t : Tile) : (c.wm n t).nextId = c.nextId := rfl
@[simp] theorem Core.wm_steps (c : Core) (n : Nat) (t : Tile) : (c.wm n t).steps = c.steps := rfl
@[simp] theorem Core.wm_copies (c : Core) (n : Nat) (t : Tile) : (c.wm n t).copies = c.copies := rfl
@[simp] theorem Core.wm_deliv (c : Core) (n : Nat) (t : Tile) : (c.wm n t).deliv = c.deliv := rfl
@[simp] theorem Core.wm_outq (c : Core) (n : Nat) (t : Tile) : (c.wm n t).outq = c.outq := rfl
@[simp] theorem Core.wm_runs (c : Core) (n : Nat) (t : Tile) : (c.wm n t).runs = c.runs := rfl
@[simp] theorem Core.wm_pieces (c : Core) (n : Nat) (t : Tile) : (c.wm n t).pieces = c.pieces := rfl
@[simp] theorem Core.wm_cruc (c : Core) (n : Nat) (t : Tile) : (c.wm n t).cruc = c.cruc := rfl
@[simp] theorem Core.wm_dyn (c : Core) (n : Nat) (t : Tile) : (c.wm n t).dyn = c.dyn := rfl
@[simp] theorem Core.wm_bitsDue (c : Core) (n : Nat) (t : Tile) : (c.wm n t).bitsDue = c.bitsDue := rfl
@[simp] theorem Core.wm_started (c : Core) (n : Nat) (t : Tile) : (c.wm n t).started = c.started := rfl
@[simp] theorem Core.wm_task (c : Core) (n : Nat) (t : Tile) : (c.wm n t).task = c.task := rfl
@[simp] theorem Core.wm_startAt (c : Core) (n : Nat) (t : Tile) : (c.wm n t).startAt = c.startAt := rfl
@[simp] theorem Core.wm_spanTrap (c : Core) (n : Nat) (t : Tile) : (c.wm n t).spanTrap = c.spanTrap := rfl
@[simp] theorem Core.wm_badReg (c : Core) (n : Nat) (t : Tile) : (c.wm n t).badReg = c.badReg := rfl
@[simp] theorem Core.wm_badSpad (c : Core) (n : Nat) (t : Tile) : (c.wm n t).badSpad = c.badSpad := rfl
@[simp] theorem Core.wm_fw (c : Core) (n : Nat) (t : Tile) : (c.wm n t).fw = c.fw := rfl

@[simp] theorem Core.wy_s (c : Core) (n : Nat) (v : BitVec 2080) : (c.wy n v).s = c.s := rfl
@[simp] theorem Core.wy_v (c : Core) (n : Nat) (v : BitVec 2080) : (c.wy n v).v = c.v := rfl
@[simp] theorem Core.wy_k (c : Core) (n : Nat) (v : BitVec 2080) : (c.wy n v).k = c.k := rfl
@[simp] theorem Core.wy_m (c : Core) (n : Nat) (v : BitVec 2080) : (c.wy n v).m = c.m := rfl
@[simp] theorem Core.wy_q (c : Core) (n : Nat) (v : BitVec 2080) : (c.wy n v).q = c.q := rfl
@[simp] theorem Core.wy_w (c : Core) (n : Nat) (v : BitVec 2080) : (c.wy n v).w = c.w := rfl
@[simp] theorem Core.wy_a (c : Core) (n : Nat) (v : BitVec 2080) : (c.wy n v).a = c.a := rfl
@[simp] theorem Core.wy_sstat (c : Core) (n : Nat) (v : BitVec 2080) : (c.wy n v).sstat = c.sstat := rfl
@[simp] theorem Core.wy_csp (c : Core) (n : Nat) (v : BitVec 2080) : (c.wy n v).csp = c.csp := rfl
@[simp] theorem Core.wy_csbase (c : Core) (n : Nat) (v : BitVec 2080) : (c.wy n v).csbase = c.csbase := rfl
@[simp] theorem Core.wy_slimit (c : Core) (n : Nat) (v : BitVec 2080) : (c.wy n v).slimit = c.slimit := rfl
@[simp] theorem Core.wy_bar (c : Core) (n : Nat) (v : BitVec 2080) : (c.wy n v).bar = c.bar := rfl
@[simp] theorem Core.wy_lq (c : Core) (n : Nat) (v : BitVec 2080) : (c.wy n v).lq = c.lq := rfl
@[simp] theorem Core.wy_lqOut (c : Core) (n : Nat) (v : BitVec 2080) : (c.wy n v).lqOut = c.lqOut := rfl
@[simp] theorem Core.wy_spad (c : Core) (n : Nat) (v : BitVec 2080) : (c.wy n v).spad = c.spad := rfl
@[simp] theorem Core.wy_poison (c : Core) (n : Nat) (v : BitVec 2080) : (c.wy n v).poison = c.poison := rfl
@[simp] theorem Core.wy_seq (c : Core) (n : Nat) (v : BitVec 2080) : (c.wy n v).seq = c.seq := rfl
@[simp] theorem Core.wy_half0 (c : Core) (n : Nat) (v : BitVec 2080) : (c.wy n v).half0 = c.half0 := rfl
@[simp] theorem Core.wy_half1 (c : Core) (n : Nat) (v : BitVec 2080) : (c.wy n v).half1 = c.half1 := rfl
@[simp] theorem Core.wy_dict (c : Core) (n : Nat) (v : BitVec 2080) : (c.wy n v).dict = c.dict := rfl
@[simp] theorem Core.wy_loopTab (c : Core) (n : Nat) (v : BitVec 2080) : (c.wy n v).loopTab = c.loopTab := rfl
@[simp] theorem Core.wy_loopGrp (c : Core) (n : Nat) (v : BitVec 2080) : (c.wy n v).loopGrp = c.loopGrp := rfl
@[simp] theorem Core.wy_regions (c : Core) (n : Nat) (v : BitVec 2080) : (c.wy n v).regions = c.regions := rfl
@[simp] theorem Core.wy_pours (c : Core) (n : Nat) (v : BitVec 2080) : (c.wy n v).pours = c.pours := rfl
@[simp] theorem Core.wy_parts (c : Core) (n : Nat) (v : BitVec 2080) : (c.wy n v).parts = c.parts := rfl
@[simp] theorem Core.wy_shadow (c : Core) (n : Nat) (v : BitVec 2080) : (c.wy n v).shadow = c.shadow := rfl
@[simp] theorem Core.wy_pend (c : Core) (n : Nat) (v : BitVec 2080) : (c.wy n v).pend = c.pend := rfl
@[simp] theorem Core.wy_acc (c : Core) (n : Nat) (v : BitVec 2080) : (c.wy n v).acc = c.acc := rfl
@[simp] theorem Core.wy_nextId (c : Core) (n : Nat) (v : BitVec 2080) : (c.wy n v).nextId = c.nextId := rfl
@[simp] theorem Core.wy_steps (c : Core) (n : Nat) (v : BitVec 2080) : (c.wy n v).steps = c.steps := rfl
@[simp] theorem Core.wy_copies (c : Core) (n : Nat) (v : BitVec 2080) : (c.wy n v).copies = c.copies := rfl
@[simp] theorem Core.wy_deliv (c : Core) (n : Nat) (v : BitVec 2080) : (c.wy n v).deliv = c.deliv := rfl
@[simp] theorem Core.wy_outq (c : Core) (n : Nat) (v : BitVec 2080) : (c.wy n v).outq = c.outq := rfl
@[simp] theorem Core.wy_runs (c : Core) (n : Nat) (v : BitVec 2080) : (c.wy n v).runs = c.runs := rfl
@[simp] theorem Core.wy_pieces (c : Core) (n : Nat) (v : BitVec 2080) : (c.wy n v).pieces = c.pieces := rfl
@[simp] theorem Core.wy_cruc (c : Core) (n : Nat) (v : BitVec 2080) : (c.wy n v).cruc = c.cruc := rfl
@[simp] theorem Core.wy_dyn (c : Core) (n : Nat) (v : BitVec 2080) : (c.wy n v).dyn = c.dyn := rfl
@[simp] theorem Core.wy_bitsDue (c : Core) (n : Nat) (v : BitVec 2080) : (c.wy n v).bitsDue = c.bitsDue := rfl
@[simp] theorem Core.wy_started (c : Core) (n : Nat) (v : BitVec 2080) : (c.wy n v).started = c.started := rfl
@[simp] theorem Core.wy_task (c : Core) (n : Nat) (v : BitVec 2080) : (c.wy n v).task = c.task := rfl
@[simp] theorem Core.wy_startAt (c : Core) (n : Nat) (v : BitVec 2080) : (c.wy n v).startAt = c.startAt := rfl
@[simp] theorem Core.wy_spanTrap (c : Core) (n : Nat) (v : BitVec 2080) : (c.wy n v).spanTrap = c.spanTrap := rfl
@[simp] theorem Core.wy_badReg (c : Core) (n : Nat) (v : BitVec 2080) : (c.wy n v).badReg = c.badReg := rfl
@[simp] theorem Core.wy_badSpad (c : Core) (n : Nat) (v : BitVec 2080) : (c.wy n v).badSpad = c.badSpad := rfl
@[simp] theorem Core.wy_fw (c : Core) (n : Nat) (v : BitVec 2080) : (c.wy n v).fw = c.fw := rfl

@[simp] theorem Core.wb_s (c : Core) (n : Nat) (b : Barrier) : (c.wb n b).s = c.s := rfl
@[simp] theorem Core.wb_v (c : Core) (n : Nat) (b : Barrier) : (c.wb n b).v = c.v := rfl
@[simp] theorem Core.wb_k (c : Core) (n : Nat) (b : Barrier) : (c.wb n b).k = c.k := rfl
@[simp] theorem Core.wb_m (c : Core) (n : Nat) (b : Barrier) : (c.wb n b).m = c.m := rfl
@[simp] theorem Core.wb_y (c : Core) (n : Nat) (b : Barrier) : (c.wb n b).y = c.y := rfl
@[simp] theorem Core.wb_q (c : Core) (n : Nat) (b : Barrier) : (c.wb n b).q = c.q := rfl
@[simp] theorem Core.wb_w (c : Core) (n : Nat) (b : Barrier) : (c.wb n b).w = c.w := rfl
@[simp] theorem Core.wb_a (c : Core) (n : Nat) (b : Barrier) : (c.wb n b).a = c.a := rfl
@[simp] theorem Core.wb_sstat (c : Core) (n : Nat) (b : Barrier) : (c.wb n b).sstat = c.sstat := rfl
@[simp] theorem Core.wb_csp (c : Core) (n : Nat) (b : Barrier) : (c.wb n b).csp = c.csp := rfl
@[simp] theorem Core.wb_csbase (c : Core) (n : Nat) (b : Barrier) : (c.wb n b).csbase = c.csbase := rfl
@[simp] theorem Core.wb_slimit (c : Core) (n : Nat) (b : Barrier) : (c.wb n b).slimit = c.slimit := rfl
@[simp] theorem Core.wb_lq (c : Core) (n : Nat) (b : Barrier) : (c.wb n b).lq = c.lq := rfl
@[simp] theorem Core.wb_lqOut (c : Core) (n : Nat) (b : Barrier) : (c.wb n b).lqOut = c.lqOut := rfl
@[simp] theorem Core.wb_spad (c : Core) (n : Nat) (b : Barrier) : (c.wb n b).spad = c.spad := rfl
@[simp] theorem Core.wb_poison (c : Core) (n : Nat) (b : Barrier) : (c.wb n b).poison = c.poison := rfl
@[simp] theorem Core.wb_seq (c : Core) (n : Nat) (b : Barrier) : (c.wb n b).seq = c.seq := rfl
@[simp] theorem Core.wb_half0 (c : Core) (n : Nat) (b : Barrier) : (c.wb n b).half0 = c.half0 := rfl
@[simp] theorem Core.wb_half1 (c : Core) (n : Nat) (b : Barrier) : (c.wb n b).half1 = c.half1 := rfl
@[simp] theorem Core.wb_dict (c : Core) (n : Nat) (b : Barrier) : (c.wb n b).dict = c.dict := rfl
@[simp] theorem Core.wb_loopTab (c : Core) (n : Nat) (b : Barrier) : (c.wb n b).loopTab = c.loopTab := rfl
@[simp] theorem Core.wb_loopGrp (c : Core) (n : Nat) (b : Barrier) : (c.wb n b).loopGrp = c.loopGrp := rfl
@[simp] theorem Core.wb_regions (c : Core) (n : Nat) (b : Barrier) : (c.wb n b).regions = c.regions := rfl
@[simp] theorem Core.wb_pours (c : Core) (n : Nat) (b : Barrier) : (c.wb n b).pours = c.pours := rfl
@[simp] theorem Core.wb_parts (c : Core) (n : Nat) (b : Barrier) : (c.wb n b).parts = c.parts := rfl
@[simp] theorem Core.wb_shadow (c : Core) (n : Nat) (b : Barrier) : (c.wb n b).shadow = c.shadow := rfl
@[simp] theorem Core.wb_pend (c : Core) (n : Nat) (b : Barrier) : (c.wb n b).pend = c.pend := rfl
@[simp] theorem Core.wb_acc (c : Core) (n : Nat) (b : Barrier) : (c.wb n b).acc = c.acc := rfl
@[simp] theorem Core.wb_nextId (c : Core) (n : Nat) (b : Barrier) : (c.wb n b).nextId = c.nextId := rfl
@[simp] theorem Core.wb_steps (c : Core) (n : Nat) (b : Barrier) : (c.wb n b).steps = c.steps := rfl
@[simp] theorem Core.wb_copies (c : Core) (n : Nat) (b : Barrier) : (c.wb n b).copies = c.copies := rfl
@[simp] theorem Core.wb_deliv (c : Core) (n : Nat) (b : Barrier) : (c.wb n b).deliv = c.deliv := rfl
@[simp] theorem Core.wb_outq (c : Core) (n : Nat) (b : Barrier) : (c.wb n b).outq = c.outq := rfl
@[simp] theorem Core.wb_runs (c : Core) (n : Nat) (b : Barrier) : (c.wb n b).runs = c.runs := rfl
@[simp] theorem Core.wb_pieces (c : Core) (n : Nat) (b : Barrier) : (c.wb n b).pieces = c.pieces := rfl
@[simp] theorem Core.wb_cruc (c : Core) (n : Nat) (b : Barrier) : (c.wb n b).cruc = c.cruc := rfl
@[simp] theorem Core.wb_dyn (c : Core) (n : Nat) (b : Barrier) : (c.wb n b).dyn = c.dyn := rfl
@[simp] theorem Core.wb_bitsDue (c : Core) (n : Nat) (b : Barrier) : (c.wb n b).bitsDue = c.bitsDue := rfl
@[simp] theorem Core.wb_started (c : Core) (n : Nat) (b : Barrier) : (c.wb n b).started = c.started := rfl
@[simp] theorem Core.wb_task (c : Core) (n : Nat) (b : Barrier) : (c.wb n b).task = c.task := rfl
@[simp] theorem Core.wb_startAt (c : Core) (n : Nat) (b : Barrier) : (c.wb n b).startAt = c.startAt := rfl
@[simp] theorem Core.wb_spanTrap (c : Core) (n : Nat) (b : Barrier) : (c.wb n b).spanTrap = c.spanTrap := rfl
@[simp] theorem Core.wb_badReg (c : Core) (n : Nat) (b : Barrier) : (c.wb n b).badReg = c.badReg := rfl
@[simp] theorem Core.wb_badSpad (c : Core) (n : Nat) (b : Barrier) : (c.wb n b).badSpad = c.badSpad := rfl
@[simp] theorem Core.wb_fw (c : Core) (n : Nat) (b : Barrier) : (c.wb n b).fw = c.fw := rfl

@[simp] theorem Core.setFlag_s (c : Core) (n : Nat) : (c.setFlag n).s = c.s := rfl
@[simp] theorem Core.setFlag_v (c : Core) (n : Nat) : (c.setFlag n).v = c.v := rfl
@[simp] theorem Core.setFlag_k (c : Core) (n : Nat) : (c.setFlag n).k = c.k := rfl
@[simp] theorem Core.setFlag_m (c : Core) (n : Nat) : (c.setFlag n).m = c.m := rfl
@[simp] theorem Core.setFlag_y (c : Core) (n : Nat) : (c.setFlag n).y = c.y := rfl
@[simp] theorem Core.setFlag_q (c : Core) (n : Nat) : (c.setFlag n).q = c.q := rfl
@[simp] theorem Core.setFlag_w (c : Core) (n : Nat) : (c.setFlag n).w = c.w := rfl
@[simp] theorem Core.setFlag_a (c : Core) (n : Nat) : (c.setFlag n).a = c.a := rfl
@[simp] theorem Core.setFlag_csp (c : Core) (n : Nat) : (c.setFlag n).csp = c.csp := rfl
@[simp] theorem Core.setFlag_csbase (c : Core) (n : Nat) : (c.setFlag n).csbase = c.csbase := rfl
@[simp] theorem Core.setFlag_slimit (c : Core) (n : Nat) : (c.setFlag n).slimit = c.slimit := rfl
@[simp] theorem Core.setFlag_bar (c : Core) (n : Nat) : (c.setFlag n).bar = c.bar := rfl
@[simp] theorem Core.setFlag_lq (c : Core) (n : Nat) : (c.setFlag n).lq = c.lq := rfl
@[simp] theorem Core.setFlag_lqOut (c : Core) (n : Nat) : (c.setFlag n).lqOut = c.lqOut := rfl
@[simp] theorem Core.setFlag_spad (c : Core) (n : Nat) : (c.setFlag n).spad = c.spad := rfl
@[simp] theorem Core.setFlag_poison (c : Core) (n : Nat) : (c.setFlag n).poison = c.poison := rfl
@[simp] theorem Core.setFlag_seq (c : Core) (n : Nat) : (c.setFlag n).seq = c.seq := rfl
@[simp] theorem Core.setFlag_half0 (c : Core) (n : Nat) : (c.setFlag n).half0 = c.half0 := rfl
@[simp] theorem Core.setFlag_half1 (c : Core) (n : Nat) : (c.setFlag n).half1 = c.half1 := rfl
@[simp] theorem Core.setFlag_dict (c : Core) (n : Nat) : (c.setFlag n).dict = c.dict := rfl
@[simp] theorem Core.setFlag_loopTab (c : Core) (n : Nat) : (c.setFlag n).loopTab = c.loopTab := rfl
@[simp] theorem Core.setFlag_loopGrp (c : Core) (n : Nat) : (c.setFlag n).loopGrp = c.loopGrp := rfl
@[simp] theorem Core.setFlag_regions (c : Core) (n : Nat) : (c.setFlag n).regions = c.regions := rfl
@[simp] theorem Core.setFlag_pours (c : Core) (n : Nat) : (c.setFlag n).pours = c.pours := rfl
@[simp] theorem Core.setFlag_parts (c : Core) (n : Nat) : (c.setFlag n).parts = c.parts := rfl
@[simp] theorem Core.setFlag_shadow (c : Core) (n : Nat) : (c.setFlag n).shadow = c.shadow := rfl
@[simp] theorem Core.setFlag_pend (c : Core) (n : Nat) : (c.setFlag n).pend = c.pend := rfl
@[simp] theorem Core.setFlag_acc (c : Core) (n : Nat) : (c.setFlag n).acc = c.acc := rfl
@[simp] theorem Core.setFlag_nextId (c : Core) (n : Nat) : (c.setFlag n).nextId = c.nextId := rfl
@[simp] theorem Core.setFlag_steps (c : Core) (n : Nat) : (c.setFlag n).steps = c.steps := rfl
@[simp] theorem Core.setFlag_copies (c : Core) (n : Nat) : (c.setFlag n).copies = c.copies := rfl
@[simp] theorem Core.setFlag_deliv (c : Core) (n : Nat) : (c.setFlag n).deliv = c.deliv := rfl
@[simp] theorem Core.setFlag_outq (c : Core) (n : Nat) : (c.setFlag n).outq = c.outq := rfl
@[simp] theorem Core.setFlag_runs (c : Core) (n : Nat) : (c.setFlag n).runs = c.runs := rfl
@[simp] theorem Core.setFlag_pieces (c : Core) (n : Nat) : (c.setFlag n).pieces = c.pieces := rfl
@[simp] theorem Core.setFlag_cruc (c : Core) (n : Nat) : (c.setFlag n).cruc = c.cruc := rfl
@[simp] theorem Core.setFlag_dyn (c : Core) (n : Nat) : (c.setFlag n).dyn = c.dyn := rfl
@[simp] theorem Core.setFlag_bitsDue (c : Core) (n : Nat) : (c.setFlag n).bitsDue = c.bitsDue := rfl
@[simp] theorem Core.setFlag_started (c : Core) (n : Nat) : (c.setFlag n).started = c.started := rfl
@[simp] theorem Core.setFlag_task (c : Core) (n : Nat) : (c.setFlag n).task = c.task := rfl
@[simp] theorem Core.setFlag_startAt (c : Core) (n : Nat) : (c.setFlag n).startAt = c.startAt := rfl
@[simp] theorem Core.setFlag_spanTrap (c : Core) (n : Nat) : (c.setFlag n).spanTrap = c.spanTrap := rfl
@[simp] theorem Core.setFlag_badReg (c : Core) (n : Nat) : (c.setFlag n).badReg = c.badReg := rfl
@[simp] theorem Core.setFlag_badSpad (c : Core) (n : Nat) : (c.setFlag n).badSpad = c.badSpad := rfl
@[simp] theorem Core.setFlag_fw (c : Core) (n : Nat) : (c.setFlag n).fw = c.fw := rfl

end Sys2Proof.Machine
end

