-- ==== Sys2Proof/Laws/Landing.lean ====
section
/-! SUPPORT. What the shared operations of the slots do: a result sent on its way, an access opened, and the frame of a slot
operation. -/

namespace Sys2Proof.Machine

open Sys2Proof.Safety

theorem mem_insertEvent (e x : Event) (l : List Event) : x ∈ insertEvent e l ↔ x ∈ l ∨ x = e := by
  induction l with
  | nil => simp [insertEvent]
  | cons y l ih =>
    simp only [insertEvent]
    split
    · simp only [List.mem_cons]; grind
    · simp only [List.mem_cons, ih]; grind

/-- An event put in the agenda. -/
theorem State.mem_at (s : State) (t : Nat) (i : Instr) (x : Event) :
    x ∈ (s.at t i).agenda ↔ x ∈ s.agenda ∨ x = { at_ := max t s.gcount, instr := i } :=
  mem_insertEvent _ _ _

/-- An event that is in the agenda once. -/
theorem State.mem_atOnce (s : State) (t : Nat) (i : Instr) (x : Event) (h : s.gcount ≤ t) :
    x ∈ (s.atOnce t i).agenda ↔ x ∈ s.agenda ∨ x = { at_ := t, instr := i } := by
  unfold State.atOnce
  split
  · rename_i hc
    rw [List.any_eq_true] at hc
    obtain ⟨y, hy, hp⟩ := hc
    simp only [Bool.and_eq_true, decide_eq_true_eq] at hp
    constructor
    · exact Or.inl
    · rintro (hx | rfl)
      · exact hx
      · obtain ⟨ya, yi⟩ := y; simp only at hp; obtain ⟨rfl, rfl⟩ := hp; exact hy
  · rw [State.mem_at, Nat.max_eq_left h]

/-- A result sent on its way does nothing else. -/
theorem State.landIn_lands (s : State) (lat : Nat) (slot : Slot) (e : Eff) (gufl : Bool) :
    Lands s (s.landIn lat slot e gufl) lat slot [e] gufl where
  core := by simp [State.landIn, onItsWay]
  events := fun x => by
    simp only [State.landIn]
    rw [State.mem_atOnce _ _ _ _ (by simp)]; simp
  rest := ⟨by
    cases s; simp only [State.landIn, State.atOnce]; split <;> rfl, fun d hd => by
    simp only [State.landIn, State.core_atOnce]; exact State.core_modCore_ne _ _ _ _ hd⟩

/-- Two sendings of one operation are one sending of both. -/
theorem Lands.trans {s t u : State} {lat : Nat} {slot : Slot} {l m : List Eff} {gufl : Bool}
    (h : Lands s t lat slot l gufl) (k : Lands t u lat slot m gufl) : Lands s u lat slot (l ++ m) gufl := by
  have hr := h.rest.1
  have hc : t.cur = s.cur := by rw [← hr]
  have hg : t.gcount = s.gcount := by rw [← hr]
  refine ⟨?_, fun x => ?_, ?_, fun d hd => ?_⟩
  · have hk := k.core
    rw [hc, h.core] at hk
    rw [hk]
    simp [onItsWay, hc, hg]
  · rw [k.events x, h.events x, hc, hg]; grind
  · have e : ({ ({ u with cores := t.cores, agenda := t.agenda } : State) with cores := s.cores, agenda := s.agenda } : State) = s := by
      rw [k.rest.1]; exact hr
    exact e
  · have hk := k.rest.2
    rw [hc] at hk
    rw [hk d hd, h.rest.2 d hd]

/-- An access opened does nothing else. -/
theorem State.access_opens (s : State) (code : Nat) (banks : BitVec 16) (addr first last : Nat) (op : BankOp) :
    Opens s (s.access code banks addr first last op) code banks addr first last op where
  core := by simp [State.access, State.openAccess, opened]
  events := fun x => by
    simp only [State.access, State.openAccess]
    rw [State.mem_at, State.mem_at]
    simp only [State.setCore_gcount, State.at_gcount, State.setCore_agenda, List.mem_cons, List.not_mem_nil, or_false]
    rw [Nat.max_eq_left (Nat.le_add_right _ _), Nat.max_eq_left (Nat.le_add_right _ _)]
    grind
  rest := ⟨by cases s; rfl, fun d hd => by
    simp only [State.access, State.openAccess, State.core_at]; exact State.core_setCore_ne _ _ _ _ hd⟩

/-- An enabled operation runs its meaning. -/
theorem runOp_on {i : Instr} {vec : Bool} {g : Gate} {s : State} (f : State → Result) (h : Enabled i vec g s) :
    runOp i vec g s f = f s := by
  unfold runOp; simp [h.1, h.2]

/-- A disabled operation changes nothing (R32). -/
theorem runOp_off {i : Instr} {vec : Bool} {g : Gate} {s : State} (f : State → Result) (hw : i.wf = true)
    (h : s.enabled vec g = false) : runOp i vec g s f = .next s := by
  unfold runOp; simp [hw, h]

/-- A vector name that resolves. -/
theorem withV_some {i : Instr} {s : State} {f : VField} {n : Nat} (k : Nat → Result)
    (h : (s.core s.cur.core).vname f = some n) : withV i s f k = k n := by
  unfold withV; rw [h]

end Sys2Proof.Machine
end

