-- ==== Sys2Proof/Laws/Memory.lean ====
section
/-! SUPPORT. Laws of the memories: a read after a write, what a write leaves alone, and the canonical form that every
memory operation keeps and the reset memories have. -/

namespace Sys2Proof.Machine

/-- A byte just written reads back. -/
@[simp] theorem Memory.read_write_same (m : Memory) (a : Nat) (b : Byte) : (m.write a b).read a = b :=
  sget_sset_same _ m a b

/-- Writing a byte leaves every other byte alone. -/
theorem Memory.read_write_ne (m : Memory) (a x : Nat) (b : Byte) (h : x ≠ a) : (m.write a b).read x = m.read x :=
  sget_sset_ne _ m a x b h

/-- Writing a byte keeps the canonical form. -/
theorem Memory.wf_write (m : Memory) (a : Nat) (b : Byte) (h : m.wf = true) : (m.write a b).wf = true :=
  sset_wf _ m a b h

/-- Writing bytes one by one keeps the canonical form. -/
theorem Memory.wf_writeList (l : List (Nat × Byte)) (m : Memory) (h : m.wf = true) : (m.writeList l).wf = true := by
  induction l generalizing m with
  | nil => exact h
  | cons p l ih => exact ih (m.write p.1 p.2) (Memory.wf_write m p.1 p.2 h)

theorem cellsFrom_any (bs : List Byte) (a x : Nat) (h : x < a ∨ a + bs.length ≤ x) :
    (cellsFrom a bs).any (fun p => decide (p.1 = x)) = false := by
  induction bs generalizing a with
  | nil => rfl
  | cons b bs ih =>
    simp only [List.length_cons] at h
    have hne : a ≠ x := by omega
    by_cases hb : b = Memory.blank
    · simp only [cellsFrom, hb, if_true]; exact ih (a + 1) (by omega)
    · simp only [cellsFrom, hb, if_false, List.any_cons, hne, decide_false, Bool.false_or]; exact ih (a + 1) (by omega)

theorem sget_cellsFrom (bs : List Byte) (a i : Nat) (h : i < bs.length) :
    sget Memory.blank (cellsFrom a bs) (a + i) = bs[i] := by
  induction bs generalizing a i with
  | nil => exact absurd h (Nat.not_lt_zero i)
  | cons b bs ih =>
    cases i with
    | zero =>
      by_cases hb : b = Memory.blank
      · simp only [cellsFrom, hb, if_true, Nat.add_zero, List.getElem_cons_zero]
        exact sget_absent _ _ _ (cellsFrom_any bs (a + 1) a (by omega))
      · simp [cellsFrom, hb, sget]
    | succ i =>
      have hi : i < bs.length := by simpa using h
      have e : a + (i + 1) = a + 1 + i := by omega
      by_cases hb : b = Memory.blank
      · simp only [cellsFrom, hb, if_true, List.getElem_cons_succ, e]; exact ih (a + 1) i hi
      · have hne : a ≠ a + 1 + i := by omega
        simp only [cellsFrom, hb, if_false, sget, List.getElem_cons_succ, e, hne]; exact ih (a + 1) i hi

/-- A read within a run of bytes just written gives its byte. -/
theorem Memory.read_writeBytes_in (m : Memory) (a : Nat) (bs : List Byte) (i : Nat) (h : i < bs.length) :
    (m.writeBytes a bs).read (a + i) = bs[i] := by
  have h1 := any_key_filter (fun x => decide (x < a)) m (a + i)
  have n1 : decide (a + i < a) = false := by simp
  rw [n1, Bool.false_and] at h1
  have h2 := any_key_filter (fun x => decide (a + bs.length ≤ x)) m (a + i)
  have n2 : decide (a + bs.length ≤ a + i) = false := by simp; omega
  rw [n2, Bool.false_and] at h2
  rw [Memory.read, Memory.writeBytes, List.append_assoc, sget_append, h1]
  simp only [Bool.false_eq_true, if_false]
  rw [sget_append]
  by_cases hc : (cellsFrom a bs).any (fun p => decide (p.1 = a + i)) = true
  · rw [if_pos hc]; exact sget_cellsFrom bs a i h
  · have hc' : (cellsFrom a bs).any (fun p => decide (p.1 = a + i)) = false := by
      cases hx : (cellsFrom a bs).any (fun p => decide (p.1 = a + i)) with
      | false => rfl
      | true => exact absurd hx hc
    rw [if_neg hc, sget_absent _ _ _ h2, ← sget_cellsFrom bs a i h, sget_absent _ _ _ hc']

/-- A run of bytes leaves every byte outside it alone. -/
theorem Memory.read_writeBytes_out (m : Memory) (a : Nat) (bs : List Byte) (x : Nat) (h : x < a ∨ a + bs.length ≤ x) :
    (m.writeBytes a bs).read x = m.read x := by
  have hc := cellsFrom_any bs a x h
  rw [Memory.read, Memory.writeBytes, List.append_assoc, sget_append, sget_append, hc]
  simp only [Bool.false_eq_true, if_false, Memory.read]
  rw [any_key_filter (fun y => decide (y < a)) m x]
  rcases h with h | h
  · have n1 : decide (x < a) = true := by simp [h]
    rw [n1, Bool.true_and]
    by_cases hm : m.any (fun p => decide (p.1 = x)) = true
    · rw [if_pos hm]; exact sget_filter_keep _ (fun y => decide (y < a)) m x n1
    · have hm' : m.any (fun p => decide (p.1 = x)) = false := by
        cases hx : m.any (fun p => decide (p.1 = x)) with
        | false => rfl
        | true => exact absurd hx hm
      have ha := any_key_filter (fun y => decide (a + bs.length ≤ y)) m x
      rw [hm', Bool.and_false] at ha
      rw [if_neg hm, sget_absent _ _ _ ha, sget_absent _ _ _ hm']
  · have n1 : decide (x < a) = false := by simp; omega
    rw [n1, Bool.false_and]
    exact sget_filter_keep _ (fun y => decide (a + bs.length ≤ y)) m x (by simp [h])

theorem cellsFrom_keys (bs : List Byte) (a : Nat) :
    keysFrom a (cellsFrom a bs) = true ∧ (∀ p ∈ cellsFrom a bs, p.1 < a + bs.length ∧ p.2 ≠ Memory.blank) := by
  induction bs generalizing a with
  | nil => exact ⟨rfl, fun p hp => by cases hp⟩
  | cons b bs ih =>
    obtain ⟨h1, h2⟩ := ih (a + 1)
    have e : a + (b :: bs).length = a + 1 + bs.length := by simp only [List.length_cons]; omega
    rw [e]
    by_cases hb : b = Memory.blank
    · simp only [cellsFrom, hb, if_true]
      exact ⟨keysFrom_mono _ _ _ (Nat.le_succ a) h1, h2⟩
    · simp only [cellsFrom, hb, if_false]
      refine ⟨by simp [keysFrom, h1], fun p hp => ?_⟩
      rcases List.mem_cons.1 hp with rfl | hp
      · exact ⟨by simp only; omega, hb⟩
      · exact h2 p hp

/-- A run of bytes keeps the canonical form. -/
theorem Memory.wf_writeBytes (m : Memory) (a : Nat) (bs : List Byte) (h : m.wf = true) :
    (m.writeBytes a bs).wf = true := by
  simp only [Memory.wf, Sparse.wf, Bool.and_eq_true, List.all_eq_true, decide_eq_true_eq] at h ⊢
  obtain ⟨hk, hv⟩ := cellsFrom_keys bs a
  have h3 : keysFrom (a + bs.length) (m.filter (fun p => decide (a + bs.length ≤ p.1))) = true :=
    keysFrom_filter _ m 0 _ h.1 (fun p _ hp => of_decide_eq_true hp)
  have h2 := keysFrom_append (cellsFrom a bs) _ a (a + bs.length) hk (fun p hp => (hv p hp).1) h3 (Nat.le_add_right _ _)
  refine ⟨?_, fun p hp => ?_⟩
  · rw [Memory.writeBytes, List.append_assoc]
    exact keysFrom_append _ _ 0 a (keysFrom_filter _ m 0 0 h.1 (fun p _ _ => Nat.zero_le _))
      (fun p hp => of_decide_eq_true (List.mem_filter.1 hp).2) h2 (Nat.zero_le a)
  · simp only [Memory.writeBytes, List.mem_append, List.mem_filter] at hp
    rcases hp with (hp | hp) | hp
    · exact h.2 p hp.1
    · exact (hv p hp).2
    · exact h.2 p hp.1

/-- A number written keeps the canonical form. -/
theorem Memory.wf_writeNat (m : Memory) (a n v : Nat) (h : m.wf = true) : (m.writeNat a n v).wf = true :=
  Memory.wf_writeBytes m a _ h

/-- A number written leaves every byte outside its own alone. -/
theorem Memory.read_writeNat_out (m : Memory) (a n v x : Nat) (h : x < a ∨ a + (bytesOf n v).length ≤ x) :
    (m.writeNat a n v).read x = m.read x :=
  Memory.read_writeBytes_out m a _ x h

/-! Reads of several bytes. -/

/-- Reading n bytes reads each of them. -/
theorem Memory.readBytes_eq (m : Memory) (a n : Nat) : m.readBytes a n = (List.range n).map (fun i => m.read (a + i)) := by
  refine List.map_congr_left fun i hi => ?_
  have hi := List.mem_range.1 hi
  have hk : (decide (a ≤ a + i) && decide (a + i < a + n)) = true := by simp [hi]
  exact sget_filter_keep Memory.blank (fun k => decide (a ≤ k) && decide (k < a + n)) m (a + i) hk

/-- A number read is the little-endian number of its bytes. -/
theorem Memory.readNat_eq (m : Memory) (a n : Nat) : m.readNat a n = natOf ((List.range n).map (fun i => m.read (a + i))) := by
  rw [Memory.readNat, Memory.readBytes_eq]

@[simp] theorem Memory.length_readBytes (m : Memory) (a n : Nat) : (m.readBytes a n).length = n := by
  simp [Memory.readBytes_eq]

@[simp] theorem length_bytesOf (n x : Nat) : (bytesOf n x).length = n := by simp [bytesOf]

@[simp] theorem length_zeros (n : Nat) : (zeros n).length = n := List.length_replicate

/-- What is written is read back. -/
theorem Memory.readBytes_writeBytes (m : Memory) (a : Nat) (bs : List Byte) : (m.writeBytes a bs).readBytes a bs.length = bs := by
  rw [Memory.readBytes_eq]
  refine List.ext_getElem (by simp) fun i h1 h2 => ?_
  simp [Memory.read_writeBytes_in m a bs i h2]

/-- A write elsewhere leaves the bytes read alone. -/
theorem Memory.readBytes_writeBytes_out (m : Memory) (a b n : Nat) (bs : List Byte) (h : b + n ≤ a ∨ a + bs.length ≤ b) :
    (m.writeBytes a bs).readBytes b n = m.readBytes b n := by
  rw [Memory.readBytes_eq, Memory.readBytes_eq]
  refine List.map_congr_left fun i hi => ?_
  have hi := List.mem_range.1 hi
  exact Memory.read_writeBytes_out m a bs _ (by omega)

/-- A number is below 256 to the number of its bytes. -/
theorem natOf_lt (bs : List Byte) : natOf bs < 256 ^ bs.length := by
  induction bs with
  | nil => simp [natOf]
  | cons b bs ih =>
    have := b.isLt
    simp only [natOf, List.length_cons, Nat.pow_succ]
    omega

/-- Byte i of a number's bytes is its element i of width 8. -/
theorem getElem_bytesOf (n x i : Nat) (h : i < (bytesOf n x).length) : (bytesOf n x)[i].toNat = elem 8 x i := by
  simp [bytesOf, elem]

/-- The bytes of a number make the number, modulo 256 to their number. -/
theorem natOf_bytesOf (n x : Nat) : natOf (bytesOf n x) = x % 256 ^ n := by
  induction n generalizing x with
  | zero => simp [bytesOf, natOf, Nat.mod_one]
  | succ n ih =>
    have hs : bytesOf (n + 1) x = BitVec.ofNat 8 x :: bytesOf n (x / 256) := by
      simp only [bytesOf, List.range_succ_eq_map, List.map_cons, List.map_map]
      congr 1
      · simp
      · refine List.map_congr_left fun i _ => ?_
        simp only [Function.comp, Nat.div_div_eq_div_mul]
        congr 2
        rw [show 8 * (i + 1) = 8 + 8 * i by omega, Nat.pow_add]
    rw [hs, natOf, ih, Nat.pow_succ, Nat.mul_comm (256 ^ n) 256, Nat.mod_mul]
    simp

/-- The memories of the reset state are in canonical form. -/
theorem reset_memories_wf :
    Memory.wf State.reset.hbm = true ∧ Memory.wf State.reset.host = true ∧ Memory.wf State.reset.peer = true ∧
      Memory.wf State.reset.cxl = true ∧ Memory.wf State.reset.flash.mem = true ∧ Memory.wf coreReset.spad = true ∧
      Memory.wf fwReset.imem = true ∧ Memory.wf fwReset.dmem = true := by
  decide

end Sys2Proof.Machine
end

