-- ==== Sys2Proof/Laws/Shared.lean ====
section
/-! SUPPORT. What the shared operations of restarts, cuts and waiting accesses do: one lemma each, which says all of it. -/

namespace Sys2Proof.Machine

/-- A restart mark writes the shadow of its own core and nothing else (R243). -/
theorem State.takeShadow_frame (s : State) (c : Nat) :
    ({ s.takeShadow c with cores := s.cores } : State) = s ∧
      ({ (s.takeShadow c).core c with shadow := (s.core c).shadow } : Core) = s.core c ∧
      ∀ d, d ≠ c → (s.takeShadow c).core d = s.core d := by
  refine ⟨rfl, ?_, fun d h => State.core_modCore_ne s c d _ h⟩
  unfold State.takeShadow
  rw [State.core_modCore]

/-- The shadow that a mark leaves is one of the heat that runs, and only that heat restarts from it (R245). -/
theorem State.takeShadow_markOf (s : State) (c : Nat) (h : Heat) :
    (((s.takeShadow c).core c).markOf h).isSome = decide ((s.heat (s.partOf c)).origin = h.origin) := by
  unfold State.takeShadow Core.markOf
  rw [State.core_modCore]
  by_cases e : (s.heat (s.partOf c)).origin = h.origin <;> simp [Option.filter, e]

/-- A cut clears a core but for its firmware context, and keeps no shadow (R250). -/
@[simp] theorem clearCore_fw (k : Core) : (clearCore k).fw = k.fw := rfl
@[simp] theorem clearCore_shadow (k : Core) : (clearCore k).shadow = none := rfl
@[simp] theorem clearCore_spad (k : Core) : (clearCore k).spad = [] := rfl

/-- A core forgets the records of code problems and nothing else (R204). -/
@[simp] theorem Core.forgetRecords_shadow (k : Core) : k.forgetRecords.shadow = k.shadow := rfl
@[simp] theorem Core.forgetRecords_fw (k : Core) : k.forgetRecords.fw = k.fw := rfl
@[simp] theorem Core.forgetRecords_bad (k : Core) : k.forgetRecords.seq.bad = none := rfl

/-- A read that belongs to no core leaves the state alone or raises class 9 at core 0 of the channel's die (R299). -/
theorem State.tagCheck_cases (s : State) (pa n : Nat) :
    s.tagCheck pa n = s ∨
      ∃ t : TrapInfo, t.cls = 9 ∧ s.tagCheck pa n = s.raiseTrap (chanCore (paChannel t.detail)) t := by
  unfold State.tagCheck
  split
  · next t h =>
    obtain ⟨p, -, hp⟩ := List.exists_of_findSome?_eq_some h
    refine .inr ⟨t, ?_, rfl⟩
    split at hp
    · cases hp
    · simpa using (Option.filter_eq_some_iff.mp hp).2
  · exact .inl rfl

end Sys2Proof.Machine
end

