-- ==== Sys2Proof/Laws/Slots.lean ====
section
/-! SUPPORT. What the shared operations of the register slots answer when they are enabled: one lemma each. -/

namespace Sys2Proof.Machine

open Sys2Proof.Safety

/-- Form SR. -/
theorem scalarOp_lands {i : Instr} {g : Gate} {lat : Nat} {d a b : SReg} {f : Word64 → Word64 → Word64} {s : State}
    (h : Enabled i false g s) :
    ∃ t, scalarOp i g lat d a b f s = .next t ∧ Lands s t lat .sca [.sreg d.toNat (f (s.rs a.toNat) (s.rs b.toNat))] :=
  ⟨_, runOp_on _ h, State.landIn_lands _ _ _ _ _⟩

/-- Form SI. -/
theorem scalarImm_lands {i : Instr} {g : Gate} {d a : SReg} {imm : Word64} {f : Word64 → Word64 → Word64} {s : State}
    (h : Enabled i false g s) :
    ∃ t, scalarImm i g d a imm f s = .next t ∧ Lands s t 1 .sca [.sreg d.toNat (f (s.rs a.toNat) imm)] :=
  ⟨_, runOp_on _ h, State.landIn_lands _ _ _ _ _⟩

/-- The register compares. -/
theorem scalarCmp_lands {i : Instr} {g : Gate} {cond : Nat} {d : QReg} {a b : SReg} {s : State} (h : Enabled i false g s) :
    ∃ t, scalarCmp i g cond d a b s = .next t ∧
      Lands s t 1 .sca [.qreg d.toNat (cmpS cond (s.rs a.toNat) (s.rs b.toNat))] :=
  ⟨_, runOp_on _ h, State.landIn_lands _ _ _ _ _⟩

/-- The compares with an immediate. -/
theorem scalarCmpi_lands {i : Instr} {g : Gate} {cond : Nat} {d : QReg} {a : SReg} {imm : BitVec 13} {s : State}
    (h : Enabled i false g s) :
    ∃ t, scalarCmpi i g cond d a imm s = .next t ∧
      Lands s t 1 .sca [.qreg d.toNat (cmpS cond (s.rs a.toNat)
        (if cond = 3 ∨ cond = 5 then imm.setWidth 64 else imm.signExtend 64))] :=
  by
  refine ⟨_, ?_, State.landIn_lands s 1 .sca _ false⟩
  unfold scalarCmpi
  rw [runOp_on _ h]; rfl

/-- The predicate operations. -/
theorem predOp_lands {i : Instr} {g : Gate} {d a b : QReg} {f : Bool → Bool → Bool} {s : State} (h : Enabled i false g s) :
    ∃ t, predOp i g d a b f s = .next t ∧ Lands s t 1 .sca [.qreg d.toNat (f (s.rq a.toNat) (s.rq b.toNat))] :=
  ⟨_, runOp_on _ h, State.landIn_lands _ _ _ _ _⟩

theorem length_vecElems (s : State) (f n : Nat) : (vecElems s f n).length = 8192 / fmtWidth f := by simp [vecElems]

theorem length_scalarElems (s : State) (f : Nat) (c : SReg) :
    (scalarElems s (fmtWidth f) c).length = 8192 / fmtWidth f := by simp [scalarElems]

theorem getElem_vecElems (s : State) (f n j : Nat) (h : j < (vecElems s f n).length) :
    (vecElems s f n)[j] = lane s (fmtWidth f) n j := by simp [vecElems, elems, lane, State.me]

theorem getElem_scalarElems (s : State) (w : Nat) (c : SReg) (j : Nat) (h : j < (scalarElems s w c).length) :
    (scalarElems s w c)[j] = scalarLane s w c j := by simp [scalarElems, scalarLane]

/-- Form VV: element j of the result is `op` of elements j of both operands. -/
theorem vecVV_result {i : Instr} {g : Gate} {lat : Nat} {f : BitVec 4} {d a b : VField} {dn an bn : Nat}
    {op : Nat → Nat → Nat → Nat} {s : State} (h : Enabled i true g s) (hd : Names s d dn) (ha : Names s a an)
    (hb : Names s b bn) :
    ∃ t, vecVV i g lat f d a b op s = .next t ∧ ∃ r : VReg, Lands s t lat .vec [.vreg dn (s.laneMask g) r] ∧
      ∀ j, j < 8192 / fmtWidth f.toNat → elem (fmtWidth f.toNat) r.toNat j =
        op f.toNat (lane s (fmtWidth f.toNat) an j) (lane s (fmtWidth f.toNat) bn j) % 2 ^ fmtWidth f.toNat := by
  refine ⟨_, ?_, vecOf f.toNat (List.zipWith (op f.toNat) (vecElems s f.toNat an) (vecElems s f.toNat bn)),
    State.landIn_lands s lat .vec _ false, fun j hj => ?_⟩
  · unfold vecVV
    rw [runOp_on _ h, withV_some _ hd, withV_some _ ha, withV_some _ hb]; rfl
  · rw [elem_vecOf_zip _ _ _ _ _ (length_vecElems _ _ _) (length_vecElems _ _ _) hj, getElem_vecElems, getElem_vecElems]

/-- Form VS. -/
theorem vecVS_result {i : Instr} {g : Gate} {lat : Nat} {f : BitVec 4} {d a : VField} {c : SReg} {dn an : Nat}
    {op : Nat → Nat → Nat → Nat} {s : State} (h : Enabled i true g s) (hd : Names s d dn) (ha : Names s a an) :
    ∃ t, vecVS i g lat f d a c op s = .next t ∧ ∃ r : VReg, Lands s t lat .vec [.vreg dn (s.laneMask g) r] ∧
      ∀ j, j < 8192 / fmtWidth f.toNat → elem (fmtWidth f.toNat) r.toNat j =
        op f.toNat (lane s (fmtWidth f.toNat) an j) (scalarLane s (fmtWidth f.toNat) c j) % 2 ^ fmtWidth f.toNat := by
  refine ⟨_, ?_, vecOf f.toNat (List.zipWith (op f.toNat) (vecElems s f.toNat an) (scalarElems s (fmtWidth f.toNat) c)),
    State.landIn_lands s lat .vec _ false, fun j hj => ?_⟩
  · unfold vecVS
    rw [runOp_on _ h, withV_some _ hd, withV_some _ ha]; rfl
  · rw [elem_vecOf_zip _ _ _ _ _ (length_vecElems _ _ _) (length_scalarElems _ _ _) hj, getElem_vecElems,
      getElem_scalarElems]

/-- Form V1. -/
theorem vecV1_result {i : Instr} {g : Gate} {lat : Nat} {f : BitVec 4} {d a : VField} {dn an : Nat} {op : Nat → Nat → Nat}
    {s : State} (h : Enabled i true g s) (hd : Names s d dn) (ha : Names s a an) :
    ∃ t, vecV1 i g lat f d a op s = .next t ∧ ∃ r : VReg, Lands s t lat .vec [.vreg dn (s.laneMask g) r] ∧
      ∀ j, j < 8192 / fmtWidth f.toNat → elem (fmtWidth f.toNat) r.toNat j =
        op f.toNat (lane s (fmtWidth f.toNat) an j) % 2 ^ fmtWidth f.toNat := by
  refine ⟨_, ?_, vecOf f.toNat ((vecElems s f.toNat an).map (op f.toNat)),
    State.landIn_lands s lat .vec _ false, fun j hj => ?_⟩
  · unfold vecV1
    rw [runOp_on _ h, withV_some _ hd, withV_some _ ha]; rfl
  · rw [elem_vecOf_map _ _ _ (by simp [length_vecElems]) hj]
    simp only [List.getElem_map, getElem_vecElems]

/-- The reductions: every element of the result is the one value. -/
theorem vecReduce_result {i : Instr} {g : Gate} {f : BitVec 4} {d a : VField} {dn an : Nat} {op : Nat → List Nat → Nat}
    {s : State} (h : Enabled i true g s) (hd : Names s d dn) (ha : Names s a an) :
    ∃ t, vecReduce i g f d a op s = .next t ∧ ∃ r : VReg, Lands s t 6 .vec [.vreg dn (s.laneMask g) r] ∧
      ∀ j, j < 8192 / fmtWidth f.toNat → elem (fmtWidth f.toNat) r.toNat j =
        op f.toNat (vecElems s f.toNat an) % 2 ^ fmtWidth f.toNat := by
  refine ⟨_, ?_, vecOf f.toNat (List.replicate (8192 / fmtWidth f.toNat) (op f.toNat (vecElems s f.toNat an))),
    State.landIn_lands s 6 .vec _ false, fun j hj => ?_⟩
  · unfold vecReduce
    rw [runOp_on _ h, withV_some _ hd, withV_some _ ha]; rfl
  · rw [elem_vecOf_map _ _ _ (by simp) hj]
    simp only [List.getElem_replicate]

/-- The compares of two vectors. -/
theorem vecCmp_lands {i : Instr} {g : Gate} {cond : Nat} {f : BitVec 4} {d : WReg} {a b : VField} {an bn : Nat} {s : State}
    (h : Enabled i true g s) (ha : Names s a an) (hb : Names s b bn) :
    ∃ t, vecCmp i g cond f d a b s = .next t ∧ Lands s t 2 .vec [.wreg d.toNat (s.laneMask g)
      (cmpGroups cond f.toNat (lane s (fmtWidth f.toNat) an) (lane s (fmtWidth f.toNat) bn))] := by
  refine ⟨_, ?_, State.landIn_lands s 2 .vec _ false⟩
  unfold vecCmp
  rw [runOp_on _ h, withV_some _ ha, withV_some _ hb]; rfl

/-- The compares of a vector with a scalar. -/
theorem vecCmpS_lands {i : Instr} {g : Gate} {cond : Nat} {f : BitVec 4} {d : WReg} {a : VField} {c : SReg} {an : Nat}
    {s : State} (h : Enabled i true g s) (ha : Names s a an) :
    ∃ t, vecCmpS i g cond f d a c s = .next t ∧ Lands s t 2 .vec [.wreg d.toNat (s.laneMask g)
      (cmpGroups cond f.toNat (lane s (fmtWidth f.toNat) an) (scalarLane s (fmtWidth f.toNat) c))] := by
  refine ⟨_, ?_, State.landIn_lands s 2 .vec _ false⟩
  unfold vecCmpS
  rw [runOp_on _ h, withV_some _ ha]; rfl

/-- The mask operations. -/
theorem maskOp_lands {i : Instr} {g : Gate} {d a b : WReg} {f : BitVec 256 → BitVec 256 → BitVec 256} {s : State}
    (h : Enabled i true g s) :
    ∃ t, maskOp i g d a b f s = .next t ∧ Lands s t 2 .vec [.wreg d.toNat (s.laneMask g)
      (f ((s.core s.cur.core).rw a.toNat) ((s.core s.cur.core).rw b.toNat))] :=
  ⟨_, runOp_on _ h, State.landIn_lands _ _ _ _ _⟩

end Sys2Proof.Machine
end

