-- ==== Sys2Proof/Tests/Slice0.lean ====
section
/-! SUPPORT. Tests: ill-formed terms that the well-formedness checks refuse, words written out from the spec's encodings,
single steps on small states whose results were worked out by hand from the spec, and witnesses for the hypotheses of the
statements. -/

namespace Sys2Proof.Tests

open Sys2Proof Sys2Proof.Machine Sys2Proof.Safety

set_option Elab.async false

/-- An unannotated operation. -/
def g0 : Gate := { pred := 0, stage := 0 }

/-- A gate with both fields set: not q5, stage enable e2. -/
def g : Gate := { pred := 21, stage := 3 }

/-! Ill-formed terms, one for each check (R72, R73 and the operand limits of the instruction chapters). -/

theorem test_wf_gate : (Instr.add { pred := 0, stage := 9 } 1 2 3).wf = false ∧
    (Instr.vadd { pred := 31, stage := 15 } 2 1 2 3).wf = false ∧ (Instr.halt { pred := 0, stage := 8 }).wf = true := by
  decide

theorem test_wf_scalar : (Instr.shli g0 1 2 64).wf = false ∧ (Instr.shri g0 1 2 64).wf = false ∧
    (Instr.sari g0 1 2 8191).wf = false ∧ (Instr.shli g0 1 2 63).wf = true ∧ (Instr.aset g0 1 2 6).wf = false ∧
    (Instr.srd g0 1 6).wf = false ∧ (Instr.swr g0 4 1).wf = false ∧ (Instr.lxrd g0 1 6).wf = false ∧
    (Instr.fsrd g0 1 16).wf = false ∧ (Instr.fswr g0 16 1).wf = false ∧ (Instr.fswr g0 2 1).wf = false ∧
    (Instr.fswr g0 6 1).wf = false ∧ (Instr.fswr g0 10 1).wf = false ∧ (Instr.fswr g0 11 1).wf = true := by
  decide

theorem test_wf_control : (Instr.loop g0 1 2 3 6).wf = false ∧ (Instr.lexit g0 7).wf = false ∧
    (Instr.lexit g0 5).wf = true := by
  decide

theorem test_wf_vector : (Instr.vadd g0 6 1 2 3).wf = false ∧ (Instr.vabs g0 3 1 2).wf = false ∧
    (Instr.vnot g0 8 1 2).wf = false ∧ (Instr.vmov g0 12 1 2).wf = false ∧ (Instr.vsel g0 12 1 2 3 4).wf = false ∧
    (Instr.vfadd g0 7 0 1 2 3).wf = false ∧ (Instr.vfma g0 11 0 1 2 3 4).wf = false ∧
    (Instr.vcmpeq g0 6 1 2 3).wf = false ∧ (Instr.vrsum g0 11 1 2).wf = false ∧ (Instr.vmovi g0 10 1 2).wf = false ∧
    (Instr.vcmplt g0 10 1 2 3).wf = true := by
  decide

theorem test_wf_permute : (Instr.vcvt g0 17 1 2 10 0 false).wf = false ∧ (Instr.vcvt g0 10 1 2 31 0 false).wf = false ∧
    (Instr.pack g0 8 1 2 3 10 0 false).wf = false ∧ (Instr.unpk g0 10 1 2 8 0 false).wf = false ∧
    (Instr.qnt g0 8 1 2 3 0 6 0 false).wf = false ∧ (Instr.qnt g0 10 1 2 3 1 6 0 false).wf = false ∧
    (Instr.qnt g0 10 1 2 3 0 8 0 false).wf = false ∧ (Instr.perm g0 12 1 2 3 0).wf = false ∧
    (Instr.perm g0 6 1 2 3 4).wf = false ∧ (Instr.shuf g0 6 1 2 3 4).wf = false ∧
    (Instr.rot g0 10 1 2 256).wf = false ∧ (Instr.rot g0 0 1 2 256).wf = true ∧
    (Instr.slide g0 10 1 2 3 257).wf = false ∧ (Instr.slide g0 10 1 2 3 256).wf = true := by
  decide

theorem test_wf_matrix : (Instr.mma g0 1 2 3 10 0 0).wf = false ∧ (Instr.mma g0 1 2 3 8 1 0).wf = false ∧
    (Instr.mma g0 1 2 3 14 49 0).wf = false ∧ (Instr.mma g0 1 2 3 14 48 57).wf = false ∧
    (Instr.mmaa g0 1 2 3 8 0 0).wf = false ∧ (Instr.mmaa g0 2 2 3 1 0 0).wf = false ∧
    (Instr.mgain g0 3 0 0).wf = false ∧ (Instr.ascan g0 5 0).wf = false ∧ (Instr.mmaaz g0 2 2 3 8 0 0).wf = true := by
  decide

theorem test_wf_memory : (Instr.vgth g0 0 1 2 3).wf = false ∧ (Instr.vsct g0 6 1 2 3).wf = false ∧
    (Instr.atom g0 8 1 2 0).wf = false ∧ (Instr.atom g0 2 1 2 7).wf = false ∧ (Instr.red g0 2 1 2 6).wf = false ∧
    (Instr.red g0 10 1 2 3).wf = false ∧ (Instr.cfence g0 0 3).wf = false ∧ (Instr.cfence g0 1 2).wf = false ∧
    (Instr.fence g0 2).wf = false ∧ (Instr.atom g0 10 1 2 6).wf = true := by
  decide

theorem test_wf_events : (Instr.bundleIssue 256).wf = false ∧ (Instr.heatArm 4).wf = false ∧
    (Instr.doorbell ⟨33, .a⟩ ⟨0, []⟩).wf = false ∧ (Instr.doorbell ⟨31, .b⟩ ⟨4096, []⟩).wf = false ∧ (Instr.act 384 0).wf = false ∧ (Instr.crucibleExecute 0 32).wf = false ∧
    (Instr.rowGroupStale 0 0 8192).wf = false ∧ (Instr.mailboxRead ⟨33, .a⟩ 0 0).wf = false ∧ (Instr.traceWrite 4).wf = false ∧
    (Instr.keySlotLoad 0 4 0).wf = false ∧ (Instr.remoteArrival 0 none 2 0 []).wf = false ∧
    (Instr.registerWrite true (.vmap 33) 0).wf = false ∧ (Instr.registerWrite true (.trust 0 4) 0).wf = false ∧
    (Instr.registerWrite true (.queueWord 0 4) 0).wf = false ∧ (Instr.registerWrite true (.extent 0 16) 0).wf = false := by
  decide

/-- R135, R176, R323: what no Yeven bundle may hold, and R75: what no compute bundle may. -/
theorem test_legal_contexts : (Instr.halt g0).legalFirmware = false ∧ (Instr.xs g0 1 2).legalFirmware = false ∧
    (Instr.vld g0 1 2).legalFirmware = false ∧ (Instr.vadd g0 2 1 2 3).legalFirmware = false ∧
    (Instr.br g0 682 false).legalFirmware = false ∧ (Instr.br g0 681 true).legalFirmware = false ∧
    (Instr.br g0 681 false).legalFirmware = true ∧ (Instr.chill g0).legalCompute = false ∧
    (Instr.fsrd g0 1 2).legalCompute = false ∧ (Instr.japp g0 1).legalCompute = false := by
  decide

/-! Words written out from R72 and R76 to R87. -/

theorem test_decode_ctl :
    decodeSyl .ctl 0x00000C267501 = some (.br g 777 true) ∧
    decodeSyl .ctl 0x000008087502 = some (.call g 514 false) ∧
    decodeSyl .ctl 0x0000005A7503 = some (.bri g 45) ∧
    decodeSyl .ctl 0x0000005C7504 = some (.calli g 46) ∧
    decodeSyl .ctl 0x000000007505 = some (.ret g) ∧
    decodeSyl .ctl 0x08727E7A7506 = some (.loop g 33 201 999 5) ∧
    decodeSyl .ctl 0x000000087507 = some (.lexit g 4) ∧
    decodeSyl .ctl 0x000000007508 = some (.halt g) ∧
    decodeSyl .ctl 0x000FA0007509 = some (.trig g 250) ∧
    decodeSyl .ctl 0x00000AFA750A = some (.waitd g 29 43) ∧
    decodeSyl .ctl 0x0000003C750B = some (.waita g 30) ∧
    decodeSyl .ctl 0x00000B00750C = some (.align g 44) ∧
    decodeSyl .ctl 0x000FB000750D = some (.trap g 251) ∧
    decodeSyl .ctl 0x0000000075E0 = some (.chill g) ∧
    decodeSyl .ctl 0x0000000075E1 = some (.fret g) := by
  decide

theorem test_decode_sca_sr :
    decodeSyl .sca 0x0002F57A7501 = some (.add g 61 42 23) ∧
    decodeSyl .sca 0x0002F57A7502 = some (.sub g 61 42 23) ∧
    decodeSyl .sca 0x0002F57A7503 = some (.and g 61 42 23) ∧
    decodeSyl .sca 0x0002F57A7504 = some (.or g 61 42 23) ∧
    decodeSyl .sca 0x0002F57A7505 = some (.xor g 61 42 23) ∧
    decodeSyl .sca 0x0002F57A7506 = some (.shl g 61 42 23) ∧
    decodeSyl .sca 0x0002F57A7507 = some (.shr g 61 42 23) ∧
    decodeSyl .sca 0x0002F57A7508 = some (.sar g 61 42 23) ∧
    decodeSyl .sca 0x0002F57A7509 = some (.min g 61 42 23) ∧
    decodeSyl .sca 0x0002F57A750A = some (.max g 61 42 23) ∧
    decodeSyl .sca 0x0002F57A750B = some (.minu g 61 42 23) ∧
    decodeSyl .sca 0x0002F57A750C = some (.maxu g 61 42 23) := by
  decide

theorem test_decode_sca_mul :
    decodeSyl .sca 0x0002D4FC7520 = some (.mul g 62 41 22) ∧
    decodeSyl .sca 0x0002D4FC7521 = some (.mulh g 62 41 22) ∧
    decodeSyl .sca 0x0002D4FC7522 = some (.mulhu g 62 41 22) ∧
    decodeSyl .sca 0x0002D4FC7524 = some (.div g 62 41 22) ∧
    decodeSyl .sca 0x0002D4FC7525 = some (.divu g 62 41 22) ∧
    decodeSyl .sca 0x0002D4FC7526 = some (.rem g 62 41 22) ∧
    decodeSyl .sca 0x0002D4FC7527 = some (.remu g 62 41 22) := by
  decide

theorem test_decode_sca_si :
    decodeSyl .sca 0x800013F87511 = some (.addi g 60 39 4096) ∧
    decodeSyl .sca 0xFFF813F87513 = some (.andi g 60 39 8191) ∧
    decodeSyl .sca 0x7FF813F87514 = some (.ori g 60 39 4095) ∧
    decodeSyl .sca 0xFFF013F87515 = some (.xori g 60 39 8190) ∧
    decodeSyl .sca 0x01F813F87516 = some (.shli g 60 39 63) ∧
    decodeSyl .sca 0x000813F87517 = some (.shri g 60 39 1) ∧
    decodeSyl .sca 0x014013F87518 = some (.sari g 60 39 40) ∧
    decodeSyl .sca 0xFFF813F87519 = some (.cati g 60 39 8191) := by
  decide

theorem test_decode_sca_cmp :
    decodeSyl .sca 0x000373167538 = some (.cmpeq g 11 38 27) ∧
    decodeSyl .sca 0x000373167539 = some (.cmpne g 11 38 27) ∧
    decodeSyl .sca 0x00037316753A = some (.cmplt g 11 38 27) ∧
    decodeSyl .sca 0x00037316753B = some (.cmpltu g 11 38 27) ∧
    decodeSyl .sca 0x00037316753C = some (.cmple g 11 38 27) ∧
    decodeSyl .sca 0x00037316753D = some (.cmpleu g 11 38 27) ∧
    decodeSyl .sca 0x9C4012987540 = some (.cmpeqi g 12 37 5000) ∧
    decodeSyl .sca 0x9C4012987541 = some (.cmpnei g 12 37 5000) ∧
    decodeSyl .sca 0x9C4012987542 = some (.cmplti g 12 37 5000) ∧
    decodeSyl .sca 0x9C4012987543 = some (.cmpltui g 12 37 5000) ∧
    decodeSyl .sca 0x9C4012987544 = some (.cmplei g 12 37 5000) ∧
    decodeSyl .sca 0x9C4012987545 = some (.cmpleui g 12 37 5000) := by
  decide

theorem test_decode_sca_move :
    decodeSyl .sca 0x0001251A7548 = some (.qand g 13 10 9) ∧
    decodeSyl .sca 0x0001251A7549 = some (.qor g 13 10 9) ∧
    decodeSyl .sca 0x0001251A754A = some (.qxor g 13 10 9) ∧
    decodeSyl .sca 0x0001251A754B = some (.qandn g 13 10 9) ∧
    decodeSyl .sca 0x3C1812007530 = some (.xs g 36 1923) ∧
    decodeSyl .sca 0x1FF07F467531 = some (.xv g 35 1022 254) ∧
    decodeSyl .sca 0x0028111C7550 = some (.aset g 14 34 5) ∧
    decodeSyl .sca 0x002800427558 = some (.srd g 33 5) ∧
    decodeSyl .sca 0x001810007559 = some (.swr g 3 32) ∧
    decodeSyl .sca 0x0000003E755A = some (.gcrdHeat g 31) ∧
    decodeSyl .sca 0x0008003E755A = some (.gcrdGcount g 31) ∧
    decodeSyl .sca 0x0020003C755B = some (.lxrd g 30 4) ∧
    decodeSyl .sca 0x0068003A75E0 = some (.fsrd g 29 13) ∧
    decodeSyl .sca 0x00780E0075E1 = some (.fswr g 15 28) := by
  decide

theorem test_decode_vec_int_vv :
    decodeSyl .vec 0x003FFB0280207502 = some (.vadd g 0 1025 770 2047) ∧
    decodeSyl .vec 0x003FFB0280227504 = some (.vsub g 1 1025 770 2047) ∧
    decodeSyl .vec 0x003FFB0280247506 = some (.vmul g 2 1025 770 2047) ∧
    decodeSyl .vec 0x003FFB0280267508 = some (.vmulh g 3 1025 770 2047) ∧
    decodeSyl .vec 0x003FFB028028750A = some (.vmin g 4 1025 770 2047) ∧
    decodeSyl .vec 0x003FFB02802A750C = some (.vmax g 5 1025 770 2047) ∧
    decodeSyl .vec 0x003FFB028020750E = some (.vand g 0 1025 770 2047) ∧
    decodeSyl .vec 0x003FFB0280227510 = some (.vor g 1 1025 770 2047) ∧
    decodeSyl .vec 0x003FFB0280247512 = some (.vxor g 2 1025 770 2047) ∧
    decodeSyl .vec 0x003FFB0280267514 = some (.vshl g 3 1025 770 2047) ∧
    decodeSyl .vec 0x003FFB0280287516 = some (.vshr g 4 1025 770 2047) ∧
    decodeSyl .vec 0x003FFB02802A7518 = some (.vsar g 5 1025 770 2047) ∧
    decodeSyl .vec 0x003FFB028020751A = some (.vadds g 0 1025 770 2047) ∧
    decodeSyl .vec 0x003FFB028022751C = some (.vsubs g 1 1025 770 2047) := by
  decide

theorem test_decode_vec_int_vs :
    decodeSyl .vec 0x0E80030280227503 = some (.vaddVs g 1 1025 770 58) ∧
    decodeSyl .vec 0x0E80030280247505 = some (.vsubVs g 2 1025 770 58) ∧
    decodeSyl .vec 0x0E80030280267507 = some (.vmulVs g 3 1025 770 58) ∧
    decodeSyl .vec 0x0E80030280287509 = some (.vmulhVs g 4 1025 770 58) ∧
    decodeSyl .vec 0x0E800302802A750B = some (.vminVs g 5 1025 770 58) ∧
    decodeSyl .vec 0x0E8003028020750D = some (.vmaxVs g 0 1025 770 58) ∧
    decodeSyl .vec 0x0E8003028022750F = some (.vandVs g 1 1025 770 58) ∧
    decodeSyl .vec 0x0E80030280247511 = some (.vorVs g 2 1025 770 58) ∧
    decodeSyl .vec 0x0E80030280267513 = some (.vxorVs g 3 1025 770 58) ∧
    decodeSyl .vec 0x0E80030280287515 = some (.vshlVs g 4 1025 770 58) ∧
    decodeSyl .vec 0x0E800302802A7517 = some (.vshrVs g 5 1025 770 58) ∧
    decodeSyl .vec 0x0E80030280207519 = some (.vsarVs g 0 1025 770 58) ∧
    decodeSyl .vec 0x0E8003028022751B = some (.vaddsVs g 1 1025 770 58) ∧
    decodeSyl .vec 0x0E8003028024751D = some (.vsubsVs g 2 1025 770 58) := by
  decide

theorem test_decode_vec_one :
    decodeSyl .vec 0x0000030380447520 = some (.vabs g 2 1026 771) ∧
    decodeSyl .vec 0x0000030380427521 = some (.vneg g 1 1026 771) ∧
    decodeSyl .vec 0x00000303804A7522 = some (.vnot g 5 1026 771) ∧
    decodeSyl .vec 0x0000030380567523 = some (.vmov g 11 1026 771) ∧
    decodeSyl .vec 0x0000030380507564 = some (.vfabs g 8 1026 771) ∧
    decodeSyl .vec 0x0000030380527565 = some (.vfneg g 9 1026 771) ∧
    decodeSyl .vec 0x0000030380547568 = some (.vexp2 g 10 1026 771) ∧
    decodeSyl .vec 0x0000030380527569 = some (.vlog2 g 9 1026 771) ∧
    decodeSyl .vec 0x000003038050756A = some (.vrcp g 8 1026 771) ∧
    decodeSyl .vec 0x000003038054756B = some (.vrsq g 10 1026 771) ∧
    decodeSyl .vec 0x0000030380447580 = some (.vrsum g 2 1026 771) ∧
    decodeSyl .vec 0x0000030380547581 = some (.vrmax g 10 1026 771) ∧
    decodeSyl .vec 0x00000303804A7582 = some (.vrmin g 5 1026 771) ∧
    decodeSyl .vec 0x0000030380507584 = some (.vpsum g 8 1026 771) := by
  decide

theorem test_decode_vec_float :
    decodeSyl .vec 0x003FFB0280347543 = some (.vfadd g 10 3 1025 770 2047) ∧
    decodeSyl .vec 0x0E80030280327546 = some (.vfaddVs g 9 2 1025 770 58) ∧
    decodeSyl .vec 0x003FFB028034754B = some (.vfsub g 10 3 1025 770 2047) ∧
    decodeSyl .vec 0x0E8003028032754E = some (.vfsubVs g 9 2 1025 770 58) ∧
    decodeSyl .vec 0x003FFB0280347553 = some (.vfmul g 10 3 1025 770 2047) ∧
    decodeSyl .vec 0x0E80030280327556 = some (.vfmulVs g 9 2 1025 770 58) ∧
    decodeSyl .vec 0xFA7FFB0280307559 = some (.vfma g 8 1 1025 770 2047 1001) ∧
    decodeSyl .vec 0x003FFB0280347560 = some (.vfmin g 10 1025 770 2047) ∧
    decodeSyl .vec 0x0E80030280327561 = some (.vfminVs g 9 1025 770 58) ∧
    decodeSyl .vec 0x003FFB0280347562 = some (.vfmax g 10 1025 770 2047) ∧
    decodeSyl .vec 0x0E80030280327563 = some (.vfmaxVs g 9 1025 770 58) ∧
    decodeSyl .vec 0x80000000806A7524 = some (.vmovi g 5 1027 512) ∧
    decodeSyl .vec 0x037FFB0280367525 = some (.vsel g 11 1025 770 2047 13) := by
  decide

theorem test_decode_vec_mask :
    decodeSyl .vec 0x003FFB0201D47570 = some (.vcmpeq g 10 14 770 2047) ∧
    decodeSyl .vec 0x0E40030301E67571 = some (.vcmpeqVs g 3 15 771 57) ∧
    decodeSyl .vec 0x003FFB0201D47572 = some (.vcmpne g 10 14 770 2047) ∧
    decodeSyl .vec 0x0E40030301E67573 = some (.vcmpneVs g 3 15 771 57) ∧
    decodeSyl .vec 0x003FFB0201D47574 = some (.vcmplt g 10 14 770 2047) ∧
    decodeSyl .vec 0x0E40030301E67575 = some (.vcmpltVs g 3 15 771 57) ∧
    decodeSyl .vec 0x003FFB0201D47576 = some (.vcmple g 10 14 770 2047) ∧
    decodeSyl .vec 0x0E40030301E67577 = some (.vcmpleVs g 3 15 771 57) ∧
    decodeSyl .vec 0x0000500C01607590 = some (.wand g 11 12 10) ∧
    decodeSyl .vec 0x0000500C01607591 = some (.wor g 11 12 10) ∧
    decodeSyl .vec 0x0000500C01607592 = some (.wxor g 11 12 10) ∧
    decodeSyl .vec 0x0000500C01607594 = some (.wandn g 11 12 10) ∧
    decodeSyl .vec 0x0000000C01607593 = some (.wnot g 11 12) := by
  decide

theorem test_decode_prm :
    decodeSyl .prm 0x637FF60500547501 = some (.pack g 10 1025 770 2047 6 2 true) ∧
    decodeSyl .prm 0x14000605004C7502 = some (.unpk g 6 1025 770 8 1 false) ∧
    decodeSyl .prm 0x7780060500607503 = some (.vcvt g 16 1025 770 15 3 true) ∧
    decodeSyl .prm 0x251FD605005C7504 = some (.scale g 14 1025 770 61 7 10 2 false) ∧
    decodeSyl .prm 0x5683C60500547505 = some (.qnt g 10 1025 770 60 0 13 1 true) ∧
    decodeSyl .prm 0x0000001C0EC07508 = some (.ldsc g 59 14) ∧
    decodeSyl .prm 0x0000001A0E807509 = some (.stsc g 58 13) ∧
    decodeSyl .prm 0x01FFF60500607510 = some (.perm g 16 1025 770 2047 3) ∧
    decodeSyl .prm 0xFFFFF605004C7511 = some (.slide g 6 1025 770 2047 511) ∧
    decodeSyl .prm 0x017FF60500527512 = some (.shuf g 9 1025 770 2047 2) ∧
    decodeSyl .prm 0x7F80060500547513 = some (.rot g 10 1025 770 255) := by
  decide

theorem test_decode_mat :
    decodeSyl .mat 0x00007183B7BE7501 = some (.mma g 31 14 13 14 48 56) ∧
    decodeSyl .mat 0x00007183B7BA7502 = some (.mmaz g 29 14 13 14 48 56) ∧
    decodeSyl .mat 0x00007183B7BC7503 = some (.mmaa g 30 14 13 14 48 56) ∧
    decodeSyl .mat 0x00007183B7B87504 = some (.mmaaz g 28 14 13 14 48 56) ∧
    decodeSyl .mat 0xBB98000000347508 = some (.mgain g 26 6 1500) ∧
    decodeSyl .mat 0xBBB4000000327509 = some (.mrd g 25 5 1501) ∧
    decodeSyl .mat 0xBBDC00000030750A = some (.mwr g 24 7 1502) ∧
    decodeSyl .mat 0x00000000002E750B = some (.mzero g 23) ∧
    decodeSyl .mat 0x00000000002A750C = some (.mclrp g 21) ∧
    decodeSyl .mat 0x0003000000287510 = some (.ascan g 20 6) ∧
    decodeSyl .mat 0xBBE2800000007511 = some (.msvc g 5 1503) ∧
    decodeSyl .mat 0xBC03800000007512 = some (.mldc g 7 1504) := by
  decide

theorem test_decode_mem :
    decodeSyl .mem 0x0000001FFF807501 = some (.vld g 2046 15) ∧
    decodeSyl .mem 0x0000001DFF407502 = some (.vst g 2045 14) ∧
    decodeSyl .mem 0x0000001A0DC07503 = some (.sld g 55 13) ∧
    decodeSyl .mem 0x000000180D807504 = some (.sst g 54 12) ∧
    decodeSyl .mem 0x0006041700547505 = some (.vgth g 10 1025 11 770) ∧
    decodeSyl .mem 0x0006041500527506 = some (.vsct g 9 1025 10 770) ∧
    decodeSyl .mem 0x0001901300407507 = some (.vstn g 1025 9 200) ∧
    decodeSyl .mem 0x00000C100D447508 = some (.atom g 2 53 8 6) ∧
    decodeSyl .mem 0x0000040E0D147509 = some (.red g 10 52 7 2) ∧
    decodeSyl .mem 0x000000000CC0750A = some (.lqpop g 51) := by
  decide

theorem test_decode_mem_engine :
    decodeSyl .mem 0x0000001E00007510 = some (.copy g 15) ∧
    decodeSyl .mem 0x0000001C00007511 = some (.pour g 14) ∧
    decodeSyl .mem 0x0000001A00007512 = some (.take g 13) ∧
    decodeSyl .mem 0x0000001800007513 = some (.cred g 12) ∧
    decodeSyl .mem 0x0000001600007514 = some (.caxpy g 11) ∧
    decodeSyl .mem 0x0000001400007515 = some (.cfill g 10) ∧
    decodeSyl .mem 0x0000001200007516 = some (.put g 9) ∧
    decodeSyl .mem 0x0000001000007517 = some (.get g 8) ∧
    decodeSyl .mem 0x0000020C00007518 = some (.cfence g 6 1) ∧
    decodeSyl .mem 0x0000020000007519 = some (.fence g 1) ∧
    decodeSyl .mem 0x000036000C80751A = some (.bpost g 50 27) ∧
    decodeSyl .mem 0x0000000A000075E0 = some (.qrd g 5) ∧
    decodeSyl .mem 0x0000000C000075E1 = some (.kscan g 6) ∧
    decodeSyl .mem 0x0000000E000075E2 = some (.kclr g 7) ∧
    decodeSyl .mem 0x00000010000075E3 = some (.japp g 8) := by
  decide

/-! One operation on a small state, its result landed where it has one. The values are worked out by hand from the rules named. -/

/-- A machine whose core 0 is `k`, with nothing ahead. -/
def on (k : Core) : State := { State.reset with agenda := [], cores := sset coreReset [] 0 k }

/-- The same, in the firmware context. -/
def onFw (k : Core) : State := { on k with cur := { core := 0, fw := true, pos := 0, seg := 0 } }

/-- The state an instruction answers. -/
def after (i : Instr) (s : State) : State :=
  match exec i s with
  | .next t => t
  | _ => State.reset

/-- Core 0 once the first result under way has landed. -/
def land (s : State) : Core :=
  match (s.core 0).pend with
  | p :: _ => (after (.resultLand 0) { s with gcount := p.at_ }).core 0
  | [] => s.core 0

/-- Core 0 after one operation. -/
def run (i : Instr) (k : Core) : Core := land (after i (on k))

/-- Registers s1 and s2. -/
def two (x y : Word64) : Core := { coreReset with s := sset 0 (sset 0 [] 1 x) 2 y }

theorem test_add_wraps : (run (.add g0 3 1 2) (two 0xFFFFFFFFFFFFFFFF 2)).rs 3 = 1 ∧
    (run (.sub g0 3 1 2) (two 1 2)).rs 3 = 0xFFFFFFFFFFFFFFFF ∧ (run (.add g0 0 1 2) (two 5 6)).rs 0 = 0 := by decide +kernel

theorem test_bitwise : (run (.and g0 3 1 2) (two 0b1100 0b1010)).rs 3 = 0b1000 ∧
    (run (.or g0 3 1 2) (two 0b1100 0b1010)).rs 3 = 0b1110 ∧ (run (.xor g0 3 1 2) (two 0b1100 0b1010)).rs 3 = 0b0110 := by decide +kernel

/-- R122: a shift takes the low six bits of its count. -/
theorem test_shifts : (run (.shl g0 3 1 2) (two 3 65)).rs 3 = 6 ∧
    (run (.shr g0 3 1 2) (two 0x8000000000000000 63)).rs 3 = 1 ∧
    (run (.sar g0 3 1 2) (two 0x8000000000000000 63)).rs 3 = 0xFFFFFFFFFFFFFFFF := by decide +kernel

theorem test_min_max : (run (.min g0 3 1 2) (two 0xFFFFFFFFFFFFFFFF 1)).rs 3 = 0xFFFFFFFFFFFFFFFF ∧
    (run (.minu g0 3 1 2) (two 0xFFFFFFFFFFFFFFFF 1)).rs 3 = 1 ∧
    (run (.max g0 3 1 2) (two 0xFFFFFFFFFFFFFFFF 1)).rs 3 = 1 ∧
    (run (.maxu g0 3 1 2) (two 0xFFFFFFFFFFFFFFFF 1)).rs 3 = 0xFFFFFFFFFFFFFFFF := by decide +kernel

theorem test_multiply : (run (.mul g0 3 1 2) (two 0xFFFFFFFFFFFFFFFF 2)).rs 3 = 0xFFFFFFFFFFFFFFFE ∧
    (run (.mulh g0 3 1 2) (two 0xFFFFFFFFFFFFFFFF 2)).rs 3 = 0xFFFFFFFFFFFFFFFF ∧
    (run (.mulhu g0 3 1 2) (two 0xFFFFFFFFFFFFFFFF 2)).rs 3 = 1 := by decide +kernel

/-- R124: the special cases, and rounding toward zero: -7 by 2. -/
theorem test_divide : (run (.div g0 3 1 2) (two 7 0)).rs 3 = 0xFFFFFFFFFFFFFFFF ∧
    (run (.div g0 3 1 2) (two 0x8000000000000000 0xFFFFFFFFFFFFFFFF)).rs 3 = 0x8000000000000000 ∧
    (run (.div g0 3 1 2) (two 0xFFFFFFFFFFFFFFF9 2)).rs 3 = 0xFFFFFFFFFFFFFFFD ∧
    (run (.divu g0 3 1 2) (two 0xFFFFFFFFFFFFFFF9 2)).rs 3 = 0x7FFFFFFFFFFFFFFC := by decide +kernel
theorem test_remainder : (run (.rem g0 3 1 2) (two 7 0)).rs 3 = 7 ∧
    (run (.rem g0 3 1 2) (two 0x8000000000000000 0xFFFFFFFFFFFFFFFF)).rs 3 = 0 ∧
    (run (.rem g0 3 1 2) (two 0xFFFFFFFFFFFFFFF9 2)).rs 3 = 0xFFFFFFFFFFFFFFFF ∧
    (run (.remu g0 3 1 2) (two 7 0)).rs 3 = 7 ∧ (run (.remu g0 3 1 2) (two 9 4)).rs 3 = 1 := by decide +kernel

theorem test_immediates : (run (.addi g0 3 1 0x1FFF) (two 5 0)).rs 3 = 4 ∧
    (run (.andi g0 3 1 0x1FF0) (two 0xFFFF 0)).rs 3 = 0xFFF0 ∧
    (run (.ori g0 3 1 0x1FFF) (two 0 0)).rs 3 = 0xFFFFFFFFFFFFFFFF ∧
    (run (.xori g0 3 1 1) (two 3 0)).rs 3 = 2 ∧ (run (.cati g0 3 1 8191) (two 1 0)).rs 3 = 0x3FFF ∧
    (run (.shli g0 3 1 4) (two 3 0)).rs 3 = 48 ∧ (run (.shri g0 3 1 1) (two 6 0)).rs 3 = 3 ∧
    (run (.sari g0 3 1 63) (two 0x8000000000000000 0)).rs 3 = 0xFFFFFFFFFFFFFFFF := by decide +kernel

/-- R123: 2^40 is built from s0 with one `ADDI` and four `CATI`s; the second step of the spec's example. -/
theorem test_cati_constant : (run (.cati g0 1 1 0) (two (2 * 2 ^ 26) 0)).rs 1 = 2 ^ 40 := by decide +kernel

theorem test_compares : (run (.cmplt g0 1 1 2) (two 0xFFFFFFFFFFFFFFFF 1)).rq 1 = true ∧
    (run (.cmpltu g0 1 1 2) (two 0xFFFFFFFFFFFFFFFF 1)).rq 1 = false ∧
    (run (.cmpeq g0 1 1 2) (two 4 4)).rq 1 = true ∧ (run (.cmpne g0 1 1 2) (two 4 4)).rq 1 = false ∧
    (run (.cmple g0 1 1 2) (two 4 4)).rq 1 = true ∧ (run (.cmpleu g0 1 1 2) (two 5 4)).rq 1 = false ∧
    (run (.cmpeq g0 0 1 2) (two 4 5)).rq 0 = true := by decide +kernel
/-- R126: the signed compares sign-extend the immediate, the unsigned ones extend it with zeros. -/
theorem test_compare_immediates : (run (.cmplti g0 1 1 0x1FFF) (two 0 0)).rq 1 = false ∧
    (run (.cmpltui g0 1 1 0x1FFF) (two 0 0)).rq 1 = true ∧ (run (.cmplei g0 1 1 0) (two 0 0)).rq 1 = true ∧
    (run (.cmpleui g0 1 1 0x1FFF) (two 0x2000 0)).rq 1 = false ∧ (run (.cmpeqi g0 1 1 2) (two 2 0)).rq 1 = true ∧
    (run (.cmpnei g0 1 1 2) (two 2 0)).rq 1 = false := by decide +kernel

/-- Predicates q1 = 1 and q2 = 0. -/
def preds : Core := { coreReset with q := 0b0010 }
theorem test_predicates : (run (.qand g0 3 1 2) preds).rq 3 = false ∧ (run (.qor g0 3 1 2) preds).rq 3 = true ∧
    (run (.qxor g0 3 1 1) preds).rq 3 = false ∧ (run (.qandn g0 3 1 2) preds).rq 3 = true := by decide +kernel

/-- R32: with a false predicate, or the enable of a stage that is off, nothing happens. -/
theorem test_disabled : after (.add { pred := 2, stage := 0 } 3 1 2) (on preds) = on preds ∧
    after (.add { pred := 17, stage := 0 } 3 1 2) (on preds) = on preds ∧
    after (.halt { pred := 0, stage := 2 }) (on preds) = on preds := by decide +kernel

theorem test_xs_xv : elem 32 ((run (.xs g0 1 7) (two 0x1234567890ABCDEF 0)).rv 7).toNat 255 = 0x90ABCDEF ∧
    (run (.xv g0 3 9 1) { coreReset with v := [(9, 0xAAAAAAAA11111111)] }).rs 3 = 0xAAAAAAAA := by decide +kernel

/-- R130: `lvt` takes LV0, LV1, LV2 and TAG from bits 2:0, 5:3, 8:6 and 10:9. -/
theorem test_aset : fld ((run (.aset g0 4 1 5) (two 0b11_101_100_011 0)).ra 4).toNat 105 11 = 0b11_101_100_011 ∧
    fld ((run (.aset g0 4 1 0) (two 0x3FFFFF 0)).ra 4).toNat 0 22 = 0x1FFFFF := by decide +kernel

theorem test_system_registers : (run (.srd g0 3 4) coreReset).rs 3 = 0 ∧
    (run (.srd g0 3 0) { coreReset with sstat := 9 }).rs 3 = 9 ∧
    (run (.swr g0 0 1) { two 1 0 with sstat := 9 }).sstat = 8 ∧
    (run (.swr g0 1 1) (two 0xFFFFFFFFFFFFFFFF 0)).csp = 0x7FFFF0 := by decide +kernel

theorem test_cycle_reads : (land (after (.gcrdGcount g0 3) { on coreReset with gcount := 77 })).rs 3 = 77 ∧
    (land (after (.gcrdHeat g0 3) { on coreReset with gcount := 77, heats := [(0, { heatReset with origin := 80 })] })).rs 3 =
      0xFFFFFFFFFFFFFFFD := by decide +kernel

/-- A loop of level 0 in kernel iteration 3: six source iterations of two stages, indices from 10 by 2. -/
def looped : Core := { coreReset with seq := { seqReset with loops :=
  [{ lvl := 0, entry := 0, n := 6, orig := 6, s := 2, j := 3, j0 := 0, start := 1, body := 2, kind := 0, ibase := 10,
     istep := 2, cutstr := 0, rings := [(768, 4)] }] } }

theorem test_lxrd : (run (.lxrd { pred := 0, stage := 2 } 3 0) looped).rs 3 = 14 ∧ (run (.lxrd g0 3 0) looped).rs 3 = 16 ∧
    (run (.lxrd g0 3 1) looped).rs 3 = 0 := by decide +kernel
/-- R109: e0 and e1 are on in iterations 1 to 5, e2 is not of a loop of two stages. -/
theorem test_enables : looped.enable 0 = true ∧ looped.enable 1 = true ∧ looped.enable 2 = false := by decide +kernel
/-- R74: in iteration j name n of a ring of R registers from v768 is register 768 + (n - 768 + j) mod R. -/
theorem test_rotating_name : looped.vname (0x400 + 772) = none ∧ looped.vname (0x400 + 768 + 2) = some (768 + (2 + 3) % 4) ∧
    looped.vname 770 = some 770 := by decide +kernel

theorem test_loop : (after (.loop g0 1 0 1 0) (on (two 0 0))).core 0 = { two 0 0 with seq := { seqReset with skip := 2 } } ∧
    (((after (.loop g0 1 0 1 3) (on (two 7 0))).core 0).seq.loops.map (fun l => (l.lvl, l.n, l.j, l.start, l.body))) =
      [(3, 7, 0, 1, 2)] := by decide +kernel
/-- R113: the count falls to j + 1. -/
theorem test_lexit : (((after (.lexit g0 0) (on looped)).core 0).seq.loops.map (fun l => l.n)) = [4] ∧
    (((after (.lexit g0 1) (on looped)).core 0).seq.loops.map (fun l => l.n)) = [6] := by decide +kernel

theorem test_halt : ((after (.halt g0) (on looped)).core 0).seq.dom = .halted := by decide +kernel

/-- R101, R102: a taken branch has its own bundle and two delay bundles to go. -/
theorem test_branches : ((after (.br g0 5 false) (on coreReset)).core 0).seq.branch = some (⟨0, 5, 5, false⟩, 3) ∧
    ((after (.bri g0 1) (on (two 9 0))).core 0).seq.branch = some (⟨0, 9, 9, false⟩, 3) := by decide +kernel

/-- R105: CSP moves by 16 at c+1, and a full stack traps with class 13. -/
theorem test_call : (land (after (.call g0 5 false) (on { coreReset with slimit := 16 }))).csp = 16 ∧
    ((after (.call g0 5 false) (on { coreReset with slimit := 15 })).core 0).seq.branch = none ∧
    (land (after (.calli g0 1) (on { two 3 0 with csp := 32, slimit := 48 }))).csp = 48 := by decide +kernel
theorem test_ret : (land (after (.ret g0) (on { coreReset with csp := 48, csbase := 32 }))).csp = 32 ∧
    ((after (.ret g0) (on { coreReset with csp := 47, csbase := 32 })).core 0).seq.branch = none := by decide +kernel

/-- R117 to R119: waits in the future. -/
theorem test_waits : ((after (.waitd g0 3 1) (on (two 9 0))).core 0).seq.hold = .waitd 3 none 9 0 0 ∧
    ((after (.align g0 1) (on (two 9 0))).core 0).seq.hold = .align 9 ∧
    ((after (.waita g0 3) (on coreReset)).core 0).seq.hold = .waita 3 none := by decide +kernel
theorem test_late_waits : ((after (.waitd g0 3 1) (on (two 0 0))).core 0).seq.hold = .none ∧
    ((after (.align g0 1) (on (two 0 0))).core 0).seq.hold = .none := by decide +kernel

theorem test_trig : (after (.trig g0 7) { on coreReset with heats :=
    [(0, { heatReset with triggers := [(7, some ⟨65, 9, false⟩)] })] }).agenda = [{ at_ := 1, instr := .resultLand 0 }] ∧
    after (.trig g0 7) (on coreReset) = on coreReset := by decide +kernel

theorem test_trap : ((after (.trap g0 3) (onFw coreReset)).core 0).fw.trapped = some 3 := by decide +kernel

/-- R121: FEPC names the next bundle, FIN (bit 8 of FCAUSE) is cleared. -/
theorem test_chill_fret :
    ((after (.chill g0) (onFw { coreReset with fw := { fwReset with pos := 6, fcause := 0x103 } })).core 0).fw =
      { fwReset with pos := 6, fcause := 3, fepc := 7, mode := .chilled } ∧
    ((after (.fret g0) (onFw { coreReset with fw := { fwReset with fepc := 9, fcause := 0x103 } })).core 0).fw =
      { fwReset with fepc := 9, fcause := 3, resume := some 9 } := by decide +kernel

theorem test_firmware_registers :
    ((land (after (.fsrd g0 3 2) (onFw { coreReset with fw := { fwReset with fcause := 0x105 } }))).fw.rs 3) = 0x105 ∧
    ((land (after (.fswr g0 0 1) (onFw { coreReset with fw := { fwReset with s := [(1, 0x20)] } }))).fw.fvec) = 0x20 := by decide +kernel

/-- v1 and v2. -/
def vecs (x y : VReg) : Core := { coreReset with v := sset 0 (sset 0 [] 1 x) 2 y }

/-- Element j of width w of v3 after an operation. -/
def el (i : Instr) (k : Core) (w j : Nat) : Nat := elem w ((run i k).rv 3).toNat j

/-- R141 on bytes: 0x7F + 0x01 wraps in `VADD.i8`, and is limited in `VADDS.i8`. -/
theorem test_vec_add : el (.vadd g0 0 3 1 2) (vecs 0x7F 1) 8 0 = 0x80 ∧ el (.vadds g0 0 3 1 2) (vecs 0x7F 1) 8 0 = 0x7F ∧
    el (.vsub g0 3 3 1 2) (vecs 0 1) 8 0 = 0xFF ∧ el (.vsubs g0 3 3 1 2) (vecs 0 1) 8 0 = 0 := by decide +kernel
theorem test_vec_mul : el (.vmul g0 2 3 1 2) (vecs 0xFFFFFFFF 2) 32 0 = 0xFFFFFFFE ∧
    el (.vmulh g0 2 3 1 2) (vecs 0xFFFFFFFF 2) 32 0 = 0xFFFFFFFF ∧ el (.vmulh g0 5 3 1 2) (vecs 0xFFFFFFFF 2) 32 0 = 1 := by decide +kernel
theorem test_vec_minmax : el (.vmin g0 1 3 1 2) (vecs 0xFFFF 1) 16 0 = 0xFFFF ∧ el (.vmin g0 4 3 1 2) (vecs 0xFFFF 1) 16 0 = 1 ∧
    el (.vmax g0 1 3 1 2) (vecs 0xFFFF 1) 16 0 = 1 := by decide +kernel
theorem test_vec_logic : el (.vand g0 2 3 1 2) (vecs 12 10) 32 0 = 8 ∧ el (.vor g0 2 3 1 2) (vecs 12 10) 32 0 = 14 ∧
    el (.vxor g0 2 3 1 2) (vecs 12 10) 32 0 = 6 ∧ el (.vnot g0 0 3 1) (vecs 12 10) 8 0 = 0xF3 := by decide +kernel
/-- A count is taken modulo the width. -/
theorem test_vec_shift : el (.vshl g0 0 3 1 2) (vecs 0x81 9) 8 0 = 2 ∧ el (.vshr g0 0 3 1 2) (vecs 0x81 1) 8 0 = 0x40 ∧
    el (.vsar g0 0 3 1 2) (vecs 0x81 1) 8 0 = 0xC0 := by decide +kernel
theorem test_vec_one : el (.vabs g0 0 3 1) (vecs 0x80 0) 8 0 = 0x7F ∧ el (.vneg g0 0 3 1) (vecs 0x80 0) 8 0 = 0x7F ∧
    el (.vmov g0 2 3 1) (vecs 7 0) 32 0 = 7 ∧ el (.vmovi g0 1 3 0x3FF) (vecs 0 0) 16 511 = 0xFFFF := by decide +kernel
/-- R138: the scalar forms broadcast the low bits of the s register. -/
theorem test_vec_scalar : el (.vaddVs g0 0 3 1 1) { two 0x101 0 with v := [(1, 5)] } 8 0 = 6 ∧
    el (.vaddVs g0 0 3 1 1) { two 0x101 0 with v := [(1, 5)] } 8 1023 = 1 := by decide +kernel
/-- R33: lanes whose mask bit is 0 keep their values. -/
theorem test_vec_mask : el (.vmovi { pred := 1, stage := 0 } 2 3 9) { coreReset with w := [(1, 2)], v := [(3, 5)] } 32 0 = 5 ∧
    el (.vmovi { pred := 1, stage := 0 } 2 3 9) { coreReset with w := [(1, 2)], v := [(3, 5)] } 32 1 = 9 := by decide +kernel
theorem test_vsel : el (.vsel g0 2 3 1 2 1) { vecs 0xB0000000A 0xD0000000C with w := [(1, 1)] } 32 0 = 10 ∧
    el (.vsel g0 2 3 1 2 1) { vecs 0xB0000000A 0xD0000000C with w := [(1, 1)] } 32 1 = 13 := by decide +kernel

/-- 1.0 + 2^-24 in FP32: a tie to even, up toward positive infinity. -/
theorem test_vfadd : el (.vfadd g0 10 0 3 1 2) (vecs 0x3F800000 0x33800000) 32 0 = 0x3F800000 ∧
    el (.vfadd g0 10 2 3 1 2) (vecs 0x3F800000 0x33800000) 32 0 = 0x3F800001 := by decide +kernel
theorem test_vfmul_vfma : el (.vfmul g0 10 0 3 1 2) (vecs 0x40000000 0x40400000) 32 0 = 0x40C00000 ∧
    el (.vfma g0 10 0 3 1 2 1) (vecs 0x40000000 0x40400000) 32 0 = 0x41000000 ∧
    el (.vfsub g0 10 0 3 1 2) (vecs 0x40000000 0x40400000) 32 0 = 0xBF800000 := by decide +kernel
/-- Minus zero is below plus zero, and a NaN gives the canonical NaN (R146). -/
theorem test_vfmin : el (.vfmin g0 10 3 1 2) (vecs 0 0x80000000) 32 0 = 0x80000000 ∧
    el (.vfmax g0 10 3 1 2) (vecs 0xFFC12345 0) 32 0 = 0x7FC00000 ∧ el (.vfabs g0 10 3 1) (vecs 0xBF800000 0) 32 0 = 0x3F800000 ∧
    el (.vfneg g0 9 3 1) (vecs 0x3C00 0) 16 0 = 0xBC00 := by decide +kernel
/-- Powers of two are exact: 2^3, log2 8, 1/4 and 1/sqrt 4 (R53 to R57). -/
theorem test_transcendentals : el (.vexp2 g0 10 3 1) (vecs 0x40400000 0) 32 0 = 0x41000000 ∧
    el (.vlog2 g0 10 3 1) (vecs 0x41000000 0) 32 0 = 0x40400000 := by decide +kernel

/-- R148: the condition holds for every element of a group, or its bit is 0. -/
theorem test_vcmp : (run (.vcmpeq g0 1 3 1 2) (vecs 0x00010001 0x00020001)).rw 3 = BitVec.allOnes 256 - 1 ∧
    (run (.vcmplt g0 2 3 1 2) (vecs 0xFFFFFFFF 1)).rw 3 = 1 ∧ (run (.vcmpne g0 2 3 1 2) (vecs 4 5)).rw 3 = 1 ∧
    (run (.vcmple g0 2 3 1 2) (vecs 6 5)).rw 3 = BitVec.allOnes 256 - 1 := by decide +kernel
def masks : Core := { coreReset with w := [(1, 12), (2, 10)] }
theorem test_masks : (run (.wand g0 3 1 2) masks).rw 3 = 8 ∧ (run (.wor g0 3 1 2) masks).rw 3 = 14 ∧
    (run (.wxor g0 3 1 2) masks).rw 3 = 6 ∧ (run (.wandn g0 3 1 2) masks).rw 3 = 4 ∧
    (run (.wnot g0 3 1) masks).rw 3 = ~~~12#256 := by decide +kernel

/-- 256 words: the sum of 3 and 4, the least and the greatest of them and the zeros, and the prefix sums. -/
theorem test_reductions : el (.vrsum g0 2 3 1) (vecs 0x400000003 0) 32 200 = 7 ∧ el (.vrmax g0 2 3 1) (vecs 0x400000003 0) 32 9 = 4 ∧
    el (.vrmin g0 2 3 1) (vecs 0xFFFFFFFF 0) 32 9 = 0xFFFFFFFF ∧ el (.vpsum g0 2 3 1) (vecs 0x400000003 0) 32 1 = 7 := by decide +kernel

/-- FP32 1.0 in BF16 and FP16, and 300.0 in UINT8 under SAT and IEEE (R51, R155). -/
theorem test_vcvt : el (.vcvt g0 10 3 1 8 0 false) (vecs 0x3F800000 0) 16 0 = 0x3F80 ∧
    el (.vcvt g0 10 3 1 3 0 true) (vecs 0x43960000 0) 8 0 = 255 ∧ el (.vcvt g0 2 3 1 0 0 true) (vecs 0x181 0) 8 0 = 0x81 ∧
    el (.vcvt g0 2 3 1 0 0 false) (vecs 0x181 0) 8 0 = 0x7F := by decide +kernel
theorem test_pack_unpk : el (.pack g0 10 3 1 2 8 0 false) (vecs 0x3F800000 0x40000000) 16 256 = 0x4000 ∧
    el (.unpk g0 8 3 1 10 0 false) (vecs (0x3F80 * 2 ^ 4096) 0) 32 0 = 0x3F800000 := by decide +kernel
/-- The scale 2^1 of 0x80 on FP32 1.5 (R158), and 1.0 quantised to E4M3 (R159). -/
theorem test_scale : el (.scale g0 10 3 1 4 1 10 0 false) { vecs 0x3FC00000 0 with k := [(4, 0x8000)] } 32 0 = 0x40400000 := by decide +kernel
theorem test_permutes : el (.perm g0 2 3 1 2 0) (vecs 0xB0000000A 1) 32 0 = 11 ∧
    el (.slide g0 2 3 1 2 1) (vecs 0xB0000000A 7) 32 255 = 7 ∧ el (.shuf g0 2 3 1 2 0) (vecs 0xB0000000A 7) 32 1 = 7 ∧
    el (.rot g0 2 3 1 1) (vecs 0xB0000000A 0) 32 255 = 10 := by decide +kernel

/-! The MAT slot. -/

/-- Tile m1 holds 5 in element 0, 6 in element 256 (row group 1), and poison at both. -/
def tiled : Core := { coreReset with m := [(1, { bits := 6 * 2 ^ 8192 + 5, poison := 2 ^ 256 + 1 })], v := [(9, 7)] }

theorem test_tile_writes : (run (.mzero g0 1) tiled).rm 1 = { bits := 0, poison := 0 } ∧
    (run (.mclrp g0 1) tiled).rm 1 = { bits := 6 * 2 ^ 8192 + 5, poison := 0 } := by decide +kernel
/-- R168: the other rows and their poison stay; `MGAIN` writes the even tile it names. -/
theorem test_row_groups : (run (.mwr g0 1 1 9) tiled).rm 1 = { bits := 7 * 2 ^ 8192 + 5, poison := 1 } ∧
    (run (.mgain g0 2 7 9) tiled).rm 2 = { bits := 7 * 2 ^ 57344, poison := 0 } := by decide +kernel
/-- R170: the bits move as they are, and a poisoned row group emits an event. -/
theorem test_mrd : (run (.mrd g0 1 1 3) tiled).rv 3 = 6 ∧ ((after (.mrd g0 1 1 3) (on tiled)).core 0).fw.fpend = 4 ∧
    ((after (.mrd g0 1 2 3) (on tiled)).core 0).fw.fpend = 0 := by decide +kernel

/-- R62, R63: gains in lanes 0 to 31, offsets in 32 to 63, poison in 64 to 95. -/
theorem test_carry_moves :
    elem 32 ((run (.msvc g0 1 3) { coreReset with y := [(1, 2 ^ 64 + 7 * 2 ^ 32 + 9)] }).rv 3).toNat 32 = 7 ∧
    elem 32 ((run (.msvc g0 1 3) { coreReset with y := [(1, 2 ^ 64 + 7 * 2 ^ 32 + 9)] }).rv 3).toNat 64 = 1 ∧
    fld ((run (.mldc g0 2 9) { coreReset with v := [(9, 5 + 6 * 2 ^ 1024 + 3 * 2 ^ 2048)] }).ry 2).toNat 0 65 =
      2 ^ 64 + 6 * 2 ^ 32 + 5 := by decide +kernel

/-- R60: 2 h + 3 after 5 h + 1 is 10 h + 5. -/
theorem test_compose : compose ⟨0x40000000, 0x40400000, false, false⟩ ⟨0x40A00000, 0x3F800000, true, false⟩ =
    ⟨0x41200000, 0x40A00000, true, false⟩ := by decide +kernel
/-- R61: a unit of `ASCAN` reads at issue and is to write both tiles and the carry at c+14. -/
theorem test_ascan_column : (scanColumn [⟨0x40000000, 0x3F800000, false, false⟩, ⟨0x40000000, 0, false, false⟩]
    ⟨0x3F800000, 0x40000000, false, false⟩).map (fun x => x.h) = [0x40A00000, 0x41200000] := by decide +kernel

/-- A step of INT8: row 0 of A is 3, -2 and column 0 of B is 5, 7; the sum is 1 (R43 to R45). -/
def stepping (acc : Nat) (zeroing : Bool) : State :=
  let r : StepRun := { fmt := 0, scaleA := [], scaleB := [], a := some 0xFE03, b := some 0x0705, poison := false, pos := 7, seg := 0x1000 }
  let p : Pending := { at_ := 3, slot := .mat, issued := 1, fw := false, gufl := false, eff := .step 2 4 zeroing }
  let t : Tile := { bits := BitVec.ofNat 65536 acc, poison := 0 }
  { on { coreReset with m := [(2, t)], steps := [(4, some r)], pend := [p] } with gcount := 3 }
theorem test_step_lands : elem 32 (((after (.resultLand 0) (stepping 10 false)).core 0).rm 2).bits.toNat 0 = 11 ∧
    elem 32 (((after (.resultLand 0) (stepping 10 true)).core 0).rm 2).bits.toNat 0 = 1 := by decide +kernel
/-- R44: the largest INT32 and 1 wrap, and IOVF is set. -/
theorem test_step_overflow : elem 32 (((after (.resultLand 0) (stepping 0x7FFFFFFF false)).core 0).rm 2).bits.toNat 0 = 0x80000000 ∧
    ((after (.resultLand 0) (stepping 0x7FFFFFFF false)).core 0).sstat = 2 := by decide +kernel

/-- R163: the pair instructions write the tile above the one they name. -/
def destinations (i : Instr) : List Eff := ((after i (on coreReset)).core 0).pend.map (fun p => p.eff)
theorem test_steps_issue : destinations (.mma g0 2 0 0 0 0 0) = [.step 2 0 false] ∧ destinations (.mmaz g0 2 0 0 0 0 0) = [.step 2 0 true] ∧
    destinations (.mmaa g0 2 0 0 8 0 0) = [.step 3 0 false] ∧ destinations (.mmaaz g0 2 0 0 8 0 0) = [.step 3 0 true] := by decide +kernel

/-! The MEM slot: accesses as they open, and as they perform. -/

/-- Stream a1 at byte 0x1234 of group 1 of the scratchpad, and s1 = 0x1122334455667788. -/
def streamed : Core := { two 0x1122334455667788 0 with a := [(1, 0x1234 + 1 * 2 ^ 114)], v := [(9, 0x0102)], k := [(5, 0xAB)] }

/-- What an access opens: address, banks, first and last cycle. -/
def opens (i : Instr) : List (Nat × BitVec 16 × Nat × Nat) :=
  ((after i (on streamed)).core 0).acc.map (fun a => (a.addr, a.banks, a.first, a.last))

/-- R20, R22, R178: BASE 0x1234 of group 1 (0x180000 up), aligned down; banks 4 to 7 are the group's. -/
theorem test_scalar_accesses : opens (.sld g0 1 1) = [(0x181230, 0x40, 2, 2)] ∧ opens (.sst g0 1 1) = [(0x181230, 0x40, 2, 2)] ∧
    opens (.ldsc g0 5 1) = [(0x181230, 0x40, 2, 2)] ∧ opens (.stsc g0 5 1) = [(0x181230, 0x40, 3, 3)] := by decide +kernel
theorem test_vector_accesses : opens (.vld g0 9 1) = [(0x181000, 0xF0, 2, 2)] ∧ opens (.vst g0 9 1) = [(0x181000, 0xF0, 3, 3)] ∧
    opens (.vgth g0 10 3 1 9) = [(0x180000, 0xF0, 2, 17)] ∧ opens (.vsct g0 10 9 1 9) = [(0x180000, 0xF0, 2, 17)] := by decide +kernel
theorem test_atomic_accesses : opens (.atom g0 2 1 1 0) = [(0x181234, 0x40, 2, 4)] ∧ opens (.red g0 2 1 1 0) = [(0x181234, 0x40, 2, 4)] := by
  decide +kernel
/-- R182: the record of 128 bytes is read at c+2. -/
theorem test_command_accesses : [Instr.copy g0 1, .pour g0 1, .take g0 1, .cred g0 1, .caxpy g0 1, .cfill g0 1, .put g0 1, .get g0 1].map opens =
    List.replicate 8 [(0x181200, 0x40, 2, 2)] := by decide +kernel

/-- R179: core 0 to core 9 is one hop right and one down, so 12 + 2 x 2 cycles; core 64 is on the next die. -/
theorem test_vstn : ((after (.vstn g0 9 1 9) (on streamed)).core 9).acc.map (fun a => a.last) = [16] ∧
    ((after (.vstn g0 9 1 64) (on streamed)).core 64).acc.map (fun a => a.last) = [52] := by decide +kernel

/-- R181. -/
theorem test_lqpop : (run (.lqpop g0 3) { coreReset with lq := [5, 6] }).rs 3 = 5 ∧ (run (.lqpop g0 3) { coreReset with lq := [5, 6] }).lq = [6] ∧
    ((after (.lqpop g0 3) { on coreReset with heats := [(0, { heatReset with phase := .running, cores := [0] })] }).core 0).spanTrap = true := by decide +kernel
/-- R200: three posts outstanding of three complete the phase. -/
theorem test_bpost : ((run (.bpost g0 1 4) { two 3 0 with bar := [(4, { barrierReset with count := -3 })] }).rb 4).settled.phase = true ∧
    ((run (.bpost g0 1 4) { two 2 0 with bar := [(4, { barrierReset with count := -3 })] }).rb 4).settled.count = -1 := by decide +kernel
theorem test_fences : ((after (.fence g0 1) (on coreReset)).core 0).seq.memHold = .fence 0 true ∧
    ((after (.cfence g0 0 2) (on coreReset)).core 0).seq.memHold = .cfence 0 2 none := by decide +kernel

/-- An access of core 0 to address 0x100 that performs in cycle 6; the word there is 0x04030201. -/
def performing (op : BankOp) : State :=
  let a : Access := { id := 3, code := 0, issue := 4, src := 0, banks := 2, addr := 0x100, first := 6, last := 6, conflictAt := none, pos := 0,
                      seg := 0, op := op }
  let m : Memory := [(0x100, 1), (0x101, 2), (0x102, 3), (0x103, 4)]
  { on { coreReset with spad := m, lqOut := 1, acc := [a] } with gcount := 6 }
def performed (op : BankOp) : Core := (after (.bankAccess 0 3 .perform) (performing op)).core 0
def loaded (op : BankOp) : List Eff := (performed op).pend.map (fun p => p.eff)

/-- The byte order is little-endian. -/
theorem test_loads : loaded (.sload 3) = [.sreg 3 0x04030201] ∧ loaded (.kload 3) = [.kreg 3 0x04030201] ∧
    loaded (.vload 3) = [.vreg 3 (BitVec.allOnes 256) 0x04030201] := by decide +kernel
theorem test_stores : (performed (.sstore 0x55)).spad = [(0x100, 0x55)] ∧ (performed (.kstore (0x77 * 2 ^ 56))).spad = [(0x107, 0x77)] ∧
    (performed (.vstore (0x66 * 2 ^ 8184))).spad = [(0x4FF, 0x66)] := by decide +kernel
/-- R160: index 1 of 16-bit elements takes bytes 2 and 3. -/
theorem test_gather : (loaded (.gather 3 16 1)).map (fun e => match e with | .vreg _ _ v => elem 16 v.toNat 0 | _ => 0) = [0x0403] ∧
    (loaded (.gather 3 32 0)).map (fun e => match e with | .vreg _ _ v => elem 32 v.toNat 255 | _ => 0) = [0x04030201] := by decide +kernel
/-- Of two elements at one index the later stays. -/
theorem test_scatter : ((performed (.scatter (0x88 * 2 ^ 8160 + 0x77) 32 0)).spad.read 0x100) = 0x88 := by decide +kernel

theorem test_atom : (performed (.atom true 2 0 5 (some 0x04030201))).spad.read 0x100 = 6 ∧
    (after (.loadQueuePush 0 3) (performing (.atom true 2 0 5 (some 0x04030201)))).core 0 =
      { (performing (.sload 0)).core 0 with acc := [], lq := [0x04030201], lqOut := 0 } := by decide +kernel
theorem test_red : (performed (.atom false 5 2 0x04030202 (some 0x04030201))).spad.read 0x100 = 2 ∧
    ((performed (.atom false 10 0 0x3F800000 (some 0x3F800000))).spad.read 0x103) = 0x40 := by decide +kernel

/-- R23: two accesses to one bank in one cycle raise the conflict trap, and neither performs. -/
def clashing : State :=
  let a : Access := { id := 1, code := 0, issue := 4, src := 0, banks := 6, addr := 0x100, first := 6, last := 6, conflictAt := none, pos := 0,
                      seg := 0, op := .sstore 5 }
  let b : Access := { a with id := 2, code := 4, issue := 2, banks := 4, first := 4, op := .atom false 2 0 5 (some 0) }
  { on { coreReset with acc := [a, b] } with gcount := 6, heats := [(0, { heatReset with phase := .running, cores := [0] })] }
theorem test_conflict : ((after (.bankAccess 0 1 .occupy) clashing).core 0).spanTrap = true ∧
    ((after (.bankAccess 0 1 .occupy) clashing).core 0).fw.dmem.read 0x7F1A = 4 := by decide +kernel

/-! The engines. -/

/-- A command record in the scratchpad: START 50, its kind, and three words of fields from byte 16 on. -/
def commanded (kind : Nat) (x : Nat) : State :=
  let m : Memory := Memory.writeBytes [] 0x100 (bytesOf 128 (50 + kind * 2 ^ 64 + x * 2 ^ 128))
  let a : Access := { id := 3, code := 0, issue := 4, src := 0, banks := 2, addr := 0x100, first := 6, last := 6, conflictAt := none, pos := 0,
                      seg := 0, op := .command kind }
  let h : Heat := { heatReset with phase := .running, cores := [0], pins := [(0, 3)] }
  { on { coreReset with spad := m, acc := [a] } with gcount := 6, heats := [(0, h)] }
def ordered (kind x : Nat) : Core := (after (.bankAccess 0 3 .perform) (commanded kind x)).core 0

/-- R185 to R187: one element of INT8 from 0x1000 to 0x2000, every count 1. -/
def oneElement : Nat := 0x1000 + 0x2000 * 2 ^ 64 + 0x7F * 2 ^ 141 + (2 ^ 16 + 1) * (2 ^ 192 + 2 ^ 288 + 2 ^ 384 + 2 ^ 480 + 2 ^ 576 + 2 ^ 672 + 2 ^ 768)
theorem test_copy : (ordered 0x10 oneElement).copies.map (fun x => (x.start, x.tiles)) = [(50, 1)] ∧ (ordered 0x10 oneElement).spanTrap = false ∧
    (ordered 0x11 oneElement).spanTrap = true := by decide +kernel
/-- R191, R193: 32 bytes of FP32 zeros at 0x2000 of HBM, physical page 3. -/
theorem test_crucible_fill : (ordered 0x15 (0x2000 + 2 ^ 60 + 32 * 2 ^ 128)).cruc.map (fun x => (x.start, x.pa)) = [(50, 0x32000)] ∧
    (ordered 0x13 (0x2000 + 2 ^ 60 + 32 * 2 ^ 128 + 10 * 2 ^ 142 + 0x400 * 2 ^ 64)).cruc.length = 1 ∧
    (ordered 0x14 (0x2000 + 2 ^ 60 + 32 * 2 ^ 128 + 2 * 2 ^ 142 + 0x400 * 2 ^ 64)).cruc.length = 0 := by decide +kernel
/-- R196: 100 bytes between the scratchpad and the host. -/
theorem test_put_get : (ordered 0x16 (0x1000 + (0x7000 + 4 * 2 ^ 60) * 2 ^ 64 + 100 * 2 ^ 128)).dyn.map (fun x => (x.get, x.start)) = [(false, 50)] ∧
    (ordered 0x17 (0x7000 + 4 * 2 ^ 60 + 0x1000 * 2 ^ 64 + 100 * 2 ^ 128)).dyn.map (fun x => (x.get, x.start)) = [(true, 50)] := by decide +kernel


/-! A step, and the events of the rest of the machine. -/

/-- The state a step answers. -/
def stepped (s : State) : State :=
  match step s with
  | .next t => t
  | _ => State.reset

/-- R345: reset restarts GCOUNT; without a firmware image BOOTSTAT reads 0x81 and no context runs. -/
theorem test_reset : (stepped State.reset).mgmt.bootstat = 0x81 ∧ (stepped State.reset).gcount = 0 ∧
    ((stepped State.reset).core 5).fw.mode = .off := by decide +kernel
/-- The bundle of a `HALT` and that of a firmware `CHILL` (CTL opcode 0x0F, R72, R86), fetched and run. -/
theorem test_fetched : ((stepped (State.reset.withFetchWord 384 (8 * 2 ^ 32))).core 0).seq.dom = .halted ∧
    ((stepped (State.reset.withFetchWord 384 (encode (.chill g0) * 2 ^ 32))).core 0).fw.mode = .chilled := by decide +kernel

/-- An entry of a timeline (R285). -/
def entryOf (cycle op bank row arg : Nat) : BitVec 128 := BitVec.ofNat 128 (cycle * 2 ^ 88 + op * 2 ^ 84 + row * 2 ^ 48 + bank * 2 ^ 43 + arg)
/-- A running heat with one entry in channel 0, in its cycle 100 = GCOUNT 104; bank 3 was activated at `act`. -/
def channelled (e : BitVec 128) (b : Bank) : State :=
  let h : Heat := { heatReset with phase := .running, origin := 4, cores := [0], timelines := [{ ch := 0, end_ := 900, entries := [e], elide := [] }] }
  { State.reset with gcount := 104, agenda := [], heats := [(0, h)], chans := [(0, { channelReset with bank := [(3, b)] })] }
/-- R286, R287: a row opens; a precharge 82 cycles after its activate is refused by rule 3 and one after 83 is not. -/
theorem test_act_pre : ((after (.act 0 0) (channelled (entryOf 100 1 3 5 0) bankReset)).bank 0 3).row = some 5 ∧
    ((after (.pre 0 0) (channelled (entryOf 100 4 3 0 0) { bankReset with row := some 5, act := some 21 })).bank 0 3).row = none ∧
    ((after (.pre 0 0) (channelled (entryOf 100 4 3 0 0) { bankReset with row := some 5, act := some 22 })).bank 0 3).row = some 5 ∧
    ((after (.pre 0 0) (channelled (entryOf 100 4 3 0 0) { bankReset with row := some 5, act := some 22 })).core 0).spanTrap = true := by decide +kernel
theorem test_windows : ((after (.wopen 0 0) (channelled (entryOf 100 6 3 20 0) bankReset)).bank 0 3).window = some (104, 123) ∧
    ((after (.svc 0 0) (channelled (entryOf 100 7 3 20 8) bankReset)).bank 0 3).lent = some 123 ∧
    ((after (.refpb 0 0) (channelled (entryOf 100 5 3 0 7) bankReset)).chan 0).deadline = [(8192 * 3 + 7, 80000104)] := by decide +kernel
/-- R290: 64 bytes of row 5 arrive 40 cycles later at core 0 of the owning die. -/
theorem test_rd : ((after (.rd 0 0) { channelled (entryOf 100 2 3 5 0) { bankReset with row := some 5 } with
    hbm := [(paOf 0 3 5 0, 7)] }).core 0).deliv = [⟨144, paOf 0 3 5 0, 7, false, false⟩] := by decide +kernel
/-- R192: 3.0 added to 1.5 in the last cycle of the command. -/
def melting : State :=
  let x : CrucCmd := ⟨4, 0x13, 0, BitVec.ofNat 1024 (32 * 2 ^ 256 + 10 * 2 ^ 270), 5, 60, 84, 0, bytesOf 32 0x40400000, true, none, 0, 0⟩
  let b : Bank := { bankReset with window := some (100, 120), queue := [(0, 4)], busy := 104 }
  let c : Core := { coreReset with cruc := [x] }
  { channelled 0 bankReset with chans := [(0, { channelReset with bank := [(0, b)] })], cores := [(0, c)], hbm := [(2, 0xC0), (3, 0x3F)] }
theorem test_crucible_execute : (after (.crucibleExecute 0 0) melting).hbm = [(2, 0x90), (3, 0x40)] := by decide +kernel

/-- A tile of a copy of one byte, read before, written over the low half of 0x55. -/
theorem test_copy_tile :
    let c : Core := { coreReset with spad := [(0x2000, 0x55)], copies := [⟨4, 0, 3, 50, 1, 0, 0, [(0, [(0x2000, 0x0F, 0x0A)])]⟩] }
    ((after (.copyTile 0 4 0 .perform) { on c with gcount := 81 }).core 0).spad = [(0x2000, 0x5A)] := by decide +kernel

/-- A queue of 16 packets, at its third. -/
def queued : State := { State.reset with agenda := [], fe := { feReset with queues := [(65, { queueReset with log2n := 4, head := 3, tail := 3 })] } }
/-- R316, R319, R353: a tail 17 ahead is an error; so is one of a disabled queue. -/
theorem test_doorbell : ((after (.doorbell ⟨1, .a⟩ ⟨8, [20, 0, 0, 0]⟩) queued).queue 65).err = true ∧
    ((after (.doorbell ⟨1, .a⟩ ⟨8, [3, 0, 0, 0]⟩) queued).queue 65).err = false ∧
    (after (.doorbell ⟨1, .a⟩ ⟨8, [20, 0, 0, 0]⟩) queued).fe.kick = [65] ∧
    ((after (.doorbell ⟨1, .b⟩ ⟨0, [1, 0, 0, 0]⟩) queued).core 0).fw.fpend = 1 := by decide +kernel
/-- R339, R340: a write of the window that is no doorbell's is discarded and logged. -/
theorem test_window : (after (.doorbell ⟨1, .a⟩ ⟨4, [1, 0, 0, 0]⟩) queued).mgmt.errlog = [(1, 2)] ∧
    (after (.doorbell ⟨1, .a⟩ ⟨0x200, [1, 0, 0, 0]⟩) queued).mgmt.errlog = [(1, 2)] ∧
    (after (.doorbell ⟨1, .a⟩ ⟨8, [1, 0]⟩) queued).fe = queued.fe := by decide +kernel
/-- An empty queue is left as it is, a disabled one too. -/
theorem test_reevaluation : (after (.reevaluationPort 64) queued).fe = queued.fe ∧ (after (.reevaluationPort 65) queued).fe = queued.fe := by
  decide +kernel
/-- R330: a timer that is not armed, or whose cycle is not now, releases nothing. -/
theorem test_timers : (after (.timerDisarm 65) { queued with fe := { feReset with queues := [(65, { queueReset with tarm := true })] } }).fe.queues = [] ∧
    (after (.timerRelease 65) queued).fe = queued.fe := by decide +kernel
theorem test_hold : (after (.holdWrite 0 1) queued).fe.hold = true ∧ (after (.holdWrite 3 1) queued).fe.hold = false := by decide +kernel

/-- R315, R340: PMODE is one bit and is not written while a heat runs. -/
theorem test_pmode : (after (.pmodeWrite 3) queued).mgmt.pmode = 1 ∧
    (after (.pmodeWrite 1) { queued with heats := [(2, { heatReset with phase := .running })] }).mgmt.pmode = 0 := by decide +kernel
theorem test_registers : (after (.registerWrite false (.ttbase 2) 0xFFFFFFFFFFFFFFFF) queued).mgmt.ttbase = [(2, 0xFFFFFFFF00)] ∧
    (after (.registerWrite true .priv 5) queued).mgmt.priv = queued.mgmt.priv ∧ (after (.keySlotLoad 0 1 1) queued).mgmt.keys = [(1, some 0)] := by decide +kernel
theorem test_errlog : (after (.errlogRead 3) { queued with mgmt := { mgmtReset with errlog := [(3, 5)] } }).out = [.register 3 5] ∧
    (after (.errlogRead 3) { queued with mgmt := { mgmtReset with errlog := [(3, 5)] } }).mgmt.errlog = [] ∧
    (after (.mailboxWrite ⟨3, .a⟩ 0 [1]) queued).mgmt.errlog = [(3, 1)] ∧ (after (.hostAtomicop ⟨3, .a⟩ 0 .other 4 0 0) queued).mgmt.errlog = [(3, 4)] ∧
    (after (.mailboxRead ⟨3, .a⟩ 0 1) queued).out = [.unsupported 3] := by decide +kernel
/-- R233: a compare and swap that matches, and one that does not. -/
def waiting (cmp : Nat) : State := { queued with hbm := [(0x40, 9)], chans := [(0, { channelReset with bank := [(0, { bankReset with
  atomics := [⟨3, .cas, 4, 0x40, 0x77, cmp, 0, some .a, true⟩] })] })] }
theorem test_atomic_op : (after (.hostAtomicExecute 0 0) (waiting 9)).hbm = [(0x40, 0x77)] ∧ (after (.hostAtomicExecute 0 0) (waiting 8)).hbm = [(0x40, 9)] ∧
    (after (.hostAtomicExecute 0 0) (waiting 8)).out = [.atomicDone 3 9] := by decide +kernel
theorem test_flr : ((after (.functionLevelReset 1) queued).queue 65).log2n = 0 ∧ ((after (.functionLevelReset 2) queued).queue 65).log2n = 4 := by decide +kernel
theorem test_links : (after (.linkTrain .a) queued).mgmt.linkA = 1 ∧ (after (.linkDown .b) (after (.linkTrain .a) queued)).mgmt.linkA = 1 := by decide +kernel
theorem test_attestation : (after (.attreq 3 7) queued).attest.waiting = [(3, 7)] ∧
    (after .attestationQuote { queued with attest := { State.reset.attest with waiting := [(3, 7)], index := 2 ^ 20 } }).out = [.notice 3 3] := by decide +kernel
theorem test_inlet : (after .inletShutdown queued).mgmt.inReset = true ∧ (after .inletRecover { queued with mgmt := { mgmtReset with inletWarn := true } }).mgmt = mgmtReset ∧
    (after .inletWarning queued).out = [.notice 4 0] ∧ (after .powerLoss { queued with hbm := [(0, 1)] }).hbm = [] := by decide +kernel
/-- R349: F of a time source is held within 500,000 parts per billion. -/
theorem test_time : (after (.timeSync 5 6 600000) { queued with trace := { traceReset with tsrc := 1 } }).trace.f = 500000 ∧
    (after (.timeSync 5 6 600000) queued).trace.f = 0 := by decide +kernel
theorem test_patrol : ((after (.patrolStartScrub 1) queued).patrol.map (fun p => (p.1, p.2.state))) = [(1, 1)] ∧
    (after (.patrolRotate 1) queued).patrol = [] ∧ (after (.patrolStop 1) queued).patrol = [] := by decide +kernel
theorem test_invalidate : (after (.invalComplete 1) { queued with cache := [(1, 0, 5), (2, 0, 6)], mgmt := { mgmtReset with inval := [(1, BitVec.allOnes 64)], invalQ := [(1, [BitVec.allOnes 64])] } }).cache =
    [(2, 0, 6)] ∧ (after (.unitMapOut .core 7) queued).mgmt.absentNext = [(.core, 7)] := by decide +kernel
/-- R241: the stop cycle is 64 cycles after the first trap, quiescence 512 after it. -/
theorem test_stop : (((channelled 0 bankReset).raiseTrap 0 ⟨1, 0, 0, none, 0⟩).heat 0).stopS = some 168 ∧
    (((channelled 0 bankReset).raiseTrap 0 ⟨1, 0, 0, none, 0⟩).heat 0).quiet = some 680 := by decide +kernel

/-! Witnesses: for every statement with hypotheses, states and operands that meet them, clause by clause. -/

theorem witness_ScalarArithmetic : ∃ (s : State) (g : Gate), g.ok = true ∧ s.enabled false g = true :=
  ⟨on (two 7 0), g0, by decide +kernel⟩
/-- The immediate family, at the ends of the range of a shift amount. -/
theorem witness_ScalarArithmetic_immediates : ∃ (s : State) (g : Gate) (m n : BitVec 13), g.ok = true ∧ s.enabled false g = true ∧
    m.toNat = 0 ∧ n.toNat = 63 ∧ n.toNat < 64 := ⟨on (two 7 0), g0, 0, 63, by decide +kernel⟩
theorem witness_ScalarComparesAndPredicates : ∃ (s : State) (g : Gate), g.ok = true ∧ s.enabled false g = true :=
  ⟨on (two 7 0), { pred := 0, stage := 1 }, by decide +kernel⟩
theorem witness_ScalarMovesAndReads : ∃ (s : State) (g : Gate) (v : VField) (n : Nat) (f : BitVec 3) (r : BitVec 13), g.ok = true ∧
    s.enabled false g = true ∧ s.cur.fw = false ∧ Names s v n ∧ f.toNat = 5 ∧ f.toNat ≤ 5 ∧ r.toNat = 3 ∧ r.toNat ≤ 3 ∧ r.toNat ≤ 5 :=
  ⟨on (two 7 0), g0, 191, 191, 5, 3, by unfold Names; decide +kernel⟩
theorem witness_ScalarMovesAndReads_last : ∃ (s : State) (g : Gate) (r : BitVec 13), g.ok = true ∧
    s.enabled false g = true ∧ s.cur.fw = false ∧ Names s 0 0 ∧ r.toNat = 5 ∧ r.toNat ≤ 5 := ⟨on (two 7 0), g0, 5, by unfold Names; decide +kernel⟩
theorem witness_VectorIntegerArithmetic : ∃ (s : State) (g : Gate) (f : BitVec 4), g.ok = true ∧ f.toNat = 5 ∧ f.toNat < 6 ∧
    s.enabled true g = true ∧ Names s 1 1 ∧ Names s 2 2 ∧ Names s 191 191 := ⟨on coreReset, g0, 5, by unfold Names; decide +kernel⟩
theorem witness_VectorSelection : ∃ (s : State) (g : Gate) (a b c : BitVec 4), g.ok = true ∧ s.enabled true g = true ∧
    Names s 1 1 ∧ Names s 2 2 ∧ Names s 191 191 ∧ a.toNat = 2 ∧ a.toNat < 3 ∧ b.toNat = 5 ∧ b.toNat < 6 ∧ c.toNat = 11 ∧ c.toNat ≤ 11 :=
  ⟨on coreReset, g0, 2, 5, 11, by unfold Names; decide +kernel⟩
theorem witness_VectorSelection_floats : ∃ (s : State) (g : Gate) (a b : BitVec 4), g.ok = true ∧
    s.enabled true g = true ∧ Names s 1 1 ∧ a.toNat = 8 ∧ 8 ≤ a.toNat ∧ (∃ p, floatFmt a.toNat = some p) ∧ b.toNat = 10 ∧ b.toNat ≤ 10 ∧
    ∃ p, floatFmt b.toNat = some p :=
  ⟨on coreReset, g0, 8, 10, rfl, by decide +kernel, by unfold Names; decide +kernel, rfl, by decide, ⟨_, rfl⟩, rfl, by decide, ⟨_, rfl⟩⟩
/-- R53 to R57: 1, −1, 2 (whose exponent is odd), 128 and −151, the ends of the range of `VEXP2`, and a value beyond each end. -/
theorem witness_VectorSelection_transcendentals :
    (∃ m e, widen 10 0x3F800000 = .fin false m e ∧ m ≠ 0 ∧ -151 ≤ numOf false m e ∧ numOf false m e < 128) ∧
    (∃ m e, widen 10 0xBF800000 = .fin true m e ∧ m ≠ 0) ∧
    (∃ m e, widen 10 0x40000000 = .fin false m e ∧ m ≠ 0 ∧ (m : ℚ) * 2 ^ e = 8388608 * 2 ^ ((1 : Int) - 23)) ∧
    (∃ m e, widen 10 0x43000000 = .fin false m e ∧ m ≠ 0 ∧ 128 ≤ numOf false m e) ∧
    (∃ m e, widen 10 0xC3170000 = .fin true m e ∧ m ≠ 0 ∧ -151 ≤ numOf true m e ∧ numOf true m e < 128) ∧
    (∃ m e, widen 10 0xC3180000 = .fin true m e ∧ m ≠ 0 ∧ numOf true m e < -151) ∧ 8 ≤ 10 ∧ 10 ≤ 10 ∧ 127 < 128 ∧ 191 < 192 ∧ 255 < 256 :=
  ⟨⟨_, _, rfl, by decide, by norm_num [numOf], by norm_num [numOf]⟩, ⟨_, _, rfl, by decide⟩, ⟨_, _, rfl, by decide, by norm_num⟩,
    ⟨_, _, rfl, by decide, by norm_num [numOf]⟩, ⟨_, _, rfl, by decide, by norm_num [numOf], by norm_num [numOf]⟩,
    ⟨_, _, rfl, by decide, by norm_num [numOf]⟩, by decide⟩
theorem witness_VectorFloatArithmetic : ∃ (s : State) (g : Gate) (a b : BitVec 4), g.ok = true ∧ s.enabled true g = true ∧
    Names s 1 1 ∧ a.toNat = 8 ∧ 8 ≤ a.toNat ∧ a.toNat ≤ 10 ∧ b.toNat = 10 ∧ 8 ≤ b.toNat ∧ b.toNat ≤ 10 :=
  ⟨on coreReset, g0, 8, 10, by unfold Names; decide +kernel⟩
theorem witness_VectorComparesAndMasks : ∃ (s : State) (g : Gate) (a b : BitVec 4), g.ok = true ∧ s.enabled true g = true ∧
    Names s 1 1 ∧ a.toNat = 0 ∧ clsNum a = true ∧ b.toNat = 10 ∧ clsNum b = true := ⟨on coreReset, g0, 0, 10, by unfold Names; decide +kernel⟩
theorem witness_VectorReductions : ∃ (s : State) (g : Gate) (a b c : BitVec 4), g.ok = true ∧ s.enabled true g = true ∧
    Names s 1 1 ∧ a.toNat = 5 ∧ a.toNat < 6 ∧ clsNum a = true ∧ b.toNat = 8 ∧ 8 ≤ b.toNat ∧ clsNum b = true ∧ c.toNat = 10 ∧
    8 ≤ c.toNat ∧ clsNum c = true := ⟨on coreReset, g0, 5, 8, 10, by unfold Names; decide +kernel⟩
/-- Conversions of the widest and the narrowest formats; a pack of two and an unpack of half a register; quantising. -/
theorem witness_Conversions : ∃ (s : State) (g : Gate) (a b c : BitVec 5), g.ok = true ∧ s.enabled false g = true ∧ Names s 1 1 ∧
    a.toNat = 16 ∧ a.toNat ≤ 16 ∧ b.toNat = 10 ∧ fmtWidth a.toNat < fmtWidth b.toNat ∧
    (2 * (8192 / max (fmtWidth b.toNat) 8) * fmtWidth a.toNat ≤ 8192) ∧ qntTarget c = true ∧ c.toNat = 16 :=
  ⟨on coreReset, g0, 16, 10, 16, by unfold Names; decide +kernel⟩
/-- R49 to R52: a format of each kind; a value of nothing, a normal one and one beyond FP32's largest. -/
theorem witness_Conversions_values : (∀ t ∈ [6, 7, 8, 9, 10, 13], t ≤ 16 ∧ (floatFmt t).isSome = true) ∧
    (∀ t ∈ [0, 5, 12], (intFmt t).isSome = true) ∧ (∀ t ∈ [14, 15, 16], (mxFrac t).isSome = true ∧ t ≤ 16) ∧ intFmt 10 = none ∧
    mxFrac 10 = none ∧ (∃ e, widen 10 0 = .fin false 0 e) ∧ (3 : Nat) < 4 ∧
    (∃ m e, widen 10 0x3FC00000 = .fin false m e ∧ m ≠ 0) ∧ ((2 ^ 24 - 1) * 2 ^ 104 : ℚ) < (2 ^ 24 : Nat) * 2 ^ (104 : Int) :=
  ⟨by decide, by decide, by decide, by decide, by decide, ⟨_, rfl⟩, by decide, ⟨_, _, rfl, by decide⟩, by norm_num⟩
/-- R158, R159: a block of zeros, and one that holds a NaN. -/
theorem witness_Conversions_blocks : (∀ x ∈ (List.range 32).map (fun j => lane (on coreReset) 32 1 j), ∃ m e q, widen 10 x = .fin m e q) ∧
    (let s := on { coreReset with v := [(1, 0x7FC00000)] }
     ∃ x ∈ (List.range 32).map (fun j => lane s 32 1 j), ∀ m e q, widen 10 x ≠ .fin m e q) ∧ qntTarget 16 = true ∧ 7 < 8 := by
  refine ⟨fun x hx => ?_, ⟨0x7FC00000, by decide +kernel, fun m e q h => ?_⟩, by decide, by decide⟩
  · have h : ∀ x ∈ (List.range 32).map (fun j => lane (on coreReset) 32 1 j), x = 0 := by decide +kernel
    rw [h x hx]
    exact ⟨false, 0, _, rfl⟩
  · have h' : widen 10 0x7FC00000 = .nan := by decide +kernel
    rw [h'] at h
    cases h
theorem witness_Permutes : ∃ (s : State) (g : Gate) (a b : BitVec 5) (m n : BitVec 9), g.ok = true ∧ s.enabled false g = true ∧
    Names s 1 1 ∧ clsPerm a = true ∧ clsPerm b = true ∧ a.toNat = 0 ∧ fmtWidth b.toNat = 32 ∧ m.toNat = 3 ∧ n.toNat = 256 ∧
    n.toNat ≤ min (8192 / fmtWidth b.toNat) 511 ∧ 255 ≤ min (8192 / fmtWidth b.toNat - 1) 511 :=
  ⟨on coreReset, g0, 0, 10, 3, 256, by unfold Names; decide +kernel⟩
theorem witness_MatrixStepIssue : ∃ (s : State) (g : Gate) (t : TileReg) (a b : BitVec 5) (k : KReg), g.ok = true ∧
    s.enabled false g = true ∧ s.cur.fw = false ∧ clsMat a = true ∧ scalesOk a k k = true ∧ clsMat b = true ∧ scalesOk b 0 0 = true ∧
    a.toNat = 14 ∧ 2 ≤ a.toNat ∧ b.toNat = 0 ∧ t.toNat = 6 ∧ t.toNat % 2 = 0 := ⟨on coreReset, g0, 6, 14, 0, 48, by decide +kernel⟩
/-- The operands of a step of INT8, one of whose granules is poisoned. -/
def readingStep (op : BankOp) : State :=
  let r : StepRun := { fmt := 0, scaleA := [], scaleB := [], a := none, b := none, poison := false, pos := 7, seg := 0x1000 }
  { on { coreReset with acc := [⟨3, 1, 4, 0, 15, 0x800, 6, 6, none, 7, 0x1000, op⟩], steps := [(2, some r)], poison := [2] } with gcount := 6 }
theorem witness_MatrixStepIssue_operands : ∀ op ∈ [BankOp.stepA 2, .stepB 2],
    ((readingStep op).core 0).accOf 3 = some ⟨3, 1, 4, 0, 15, 0x800, 6, 6, none, 7, 0x1000, op⟩ ∧ ((readingStep op).core 0).badSpad = [] ∧
    (sget none ((readingStep op).core 0).steps 2).map (fun r => r.fmt) = some 0 ∧
    ((readingStep op).core 0).poison.any (fun q => decide (q * 1024 < 0x800 + 1 ∧ 0x800 < (q + 1) * 1024)) = true := by decide +kernel
/-- A product of gains that a scan flushes: 2^−100 by itself. -/
theorem witness_MatrixMoves_scan : ∃ m e, xmul (widen 10 0x0D800000) (widen 10 0x0D800000) = .fin false m e ∧ m ≠ 0 ∧
    (m : ℚ) * 2 ^ e < 2 ^ (-126 : Int) ∧ 63 < 64 ∧ 31 < 32 ∧ 5 < 6 ∧ 2 ^ 5 ≤ 32 := ⟨_, _, rfl, by decide, by norm_num, by decide⟩
/-- A row group without poison and one with it. -/
theorem witness_MatrixMoves : ∃ (s : State) (g : Gate) (t : TileReg) (a b : BitVec 3), g.ok = true ∧ s.enabled false g = true ∧
    Names s 9 9 ∧ BitVec.extractLsb' (256 * a.toNat) 256 ((s.core s.cur.core).rm t.toNat).poison = 0 ∧
    BitVec.extractLsb' (256 * b.toNat) 256 ((s.core s.cur.core).rm t.toNat).poison ≠ 0 ∧ (2 : TileReg).toNat % 2 = 0 :=
  ⟨on tiled, g0, 1, 7, 1, by unfold Names; decide +kernel⟩

/-! The streams, the accesses and the banks. -/

theorem witness_AccessIssue : ∃ (s : State) (g : Gate) (f : BitVec 5), g.ok = true ∧ s.enabled false g = true ∧ s.cur.fw = false ∧
    Names s 1 1 ∧ Names s 191 191 ∧ clsGather f = true := ⟨on coreReset, g0, 10, by unfold Names; decide +kernel⟩
/-- 63 entries count against the load queue, or 64. -/
theorem witness_ReadModifyWrites : ∃ (s t : State) (g : Gate) (f : BitVec 5) (op : BitVec 3), g.ok = true ∧ clsAtom f = true ∧
    s.enabled false g = true ∧ s.cur.fw = false ∧ atomOpOk true f op = true ∧ atomOpOk false f 5 = true ∧
    (s.core s.cur.core).lq.length + (s.core s.cur.core).lqOut = 63 ∧ t.enabled false g = true ∧ t.cur.fw = false ∧
    (t.core t.cur.core).lq.length + (t.core t.cur.core).lqOut = 64 :=
  ⟨on { coreReset with lq := [5, 6], lqOut := 61 }, on { coreReset with lq := [5], lqOut := 63 }, g0, 2, 6, by decide +kernel⟩
/-- The access of an `ATOM`, before and after its read. -/
def atomAcc (old : Option (BitVec 32)) : Access := ⟨3, 4, 4, 0, 1, 0x800, 6, 8, none, 0, 0, .atom true 2 0 5 old⟩
theorem witness_ReadModifyWrites_parts : ((on { coreReset with acc := [atomAcc none] }).core 0).accOf 3 = some (atomAcc none) ∧
    ((on { coreReset with acc := [atomAcc (some 9)] }).core 0).accOf 3 = some (atomAcc (some 9)) := by decide +kernel
/-- The values of the greatest operands, over each of the three formats. -/
theorem witness_ReadModifyWrites_values : ∃ old x : Nat, old < 2 ^ 32 ∧ x < 2 ^ 32 ∧ old = 0xFFFFFFFF ∧ x = 0xFFFFFFFF :=
  ⟨0xFFFFFFFF, 0xFFFFFFFF, by decide⟩
/-- The load queue empty, and with one entry. -/
theorem witness_ReadModifyWrites_pop : ∃ (s t : State) (g : Gate), g.ok = true ∧ s.enabled false g = true ∧ s.cur.fw = false ∧
    (s.core s.cur.core).lq = [] ∧ t.enabled false g = true ∧ t.cur.fw = false ∧ (t.core t.cur.core).lq = [5] :=
  ⟨on coreReset, on { coreReset with lq := [5] }, g0, by decide +kernel⟩
theorem witness_RemoteStoresAndFences : ∃ (s : State) (g : Gate) (a b : BitVec 2), g.ok = true ∧ s.enabled false g = true ∧
    s.cur.fw = false ∧ Names s 1 1 ∧ a.toNat = 1 ∧ a.toNat ≤ 1 ∧ b.toNat = 2 ∧ (0 : StreamReg).toNat = 0 :=
  ⟨on coreReset, g0, 1, 2, by unfold Names; decide +kernel⟩
theorem witness_FirmwareMemoryIssue : ∃ (s : State) (g : Gate) (a : BitVec 2), g.ok = true ∧ s.enabled false g = true ∧
    s.cur.fw = true ∧ a.toNat = 1 ∧ a.toNat ≤ 1 := ⟨onFw coreReset, g0, 1, by decide +kernel⟩

/-- One access under way in its last cycle. -/
def oneAcc (op : BankOp) : Access := ⟨3, 0, 4, 0, 1, 0x800, 6, 6, none, 0, 0, op⟩
def accState (op : BankOp) : State := { on { coreReset with acc := [oneAcc op] } with gcount := 6 }
theorem witness_AccessPerform : ∀ op ∈ [BankOp.vload 5, .sload 5, .kload 5, .gather 5 16 7, .gather 5 32 7, .vstore 7, .sstore 7, .kstore 7,
    .vstn 7, .atom false 2 0 5 (some 7), .atom true 10 0 5 (some 7), .scatter 7 16 1, .scatter 7 32 1, .callStore 5 6],
    ((accState op).core 0).accOf 3 = some (oneAcc op) ∧ (oneAcc op).conflictAt = none ∧ (accState op).gcount ≤ (oneAcc op).last := by
  decide +kernel
/-- A scatter's element to whose address no later one goes. -/
theorem witness_AccessPerform_scatter : ∃ j n, j < 8192 / 32 ∧ n < 32 / 8 ∧ ∀ m, j < m → m < 8192 / 32 →
    0x800 + elem 32 (1 : VReg).toNat m % (131072 / 32) * (32 / 8) ≠ 0x800 + elem 32 (1 : VReg).toNat j % (131072 / 32) * (32 / 8) := by
  refine ⟨255, 3, by decide, by decide, fun m h h' => ?_⟩
  omega

/-- A void access; one whose read meets a byte in error. -/
def voidState (op : BankOp) : State := { on { coreReset with acc := [{ oneAcc op with conflictAt := some 5 }] } with gcount := 6 }
theorem witness_AccessPerform_void : ∀ op ∈ [BankOp.sload 5, .sstore 7, .vstn 7, .atom true 2 0 5 none],
    ((voidState op).core 0).accOf 3 = some { oneAcc op with conflictAt := some 5 } ∧ (oneAcc op).op = op := by decide +kernel
theorem witness_AccessPerform_error : ∀ op ∈ [BankOp.vload 5, .sload 5, .callLoad, .command 0x10, .gather 5 16 0, .atom true 2 0 5 none],
    let k : Core := { coreReset with acc := [oneAcc op], badSpad := [0x7FF, 0x801] }
    k.accOf 3 = some (oneAcc op) ∧ (oneAcc op).conflictAt = none ∧ k.badSpad.find? ((oneAcc op).readsByte k) = some 0x801 := by decide +kernel
/-- Two accesses of one cycle, which share bank 1 or no bank. -/
def twoAcc (b : BitVec 16) : List Access := [⟨1, 0, 4, 0, 0b11, 0x800, 6, 6, none, 4, 7, .sload 1⟩, ⟨2, 5, 1, 0, b, 0x800, 6, 6, none, 4, 7, .vstn 1⟩]
def bankState (b : BitVec 16) : State := { on { coreReset with acc := twoAcc b } with gcount := 6 }
theorem witness_BankConflicts : ((bankState 0b1100).core 0).accOf 1 = (twoAcc 0b1100)[0]? ∧
    (∀ x ∈ (twoAcc 0b1100).filter (fun x => decide (x.first ≤ 6) && decide (6 ≤ x.last)),
      ∀ y ∈ (twoAcc 0b1100).filter (fun x => decide (x.first ≤ 6) && decide (6 ≤ x.last)), x.id ≠ y.id → x.banks &&& y.banks = 0) := by
  decide +kernel
theorem witness_BankConflicts_shared : ∃ a b : Access, ((bankState 0b110).core 0).acc = [a, b] ∧ ((bankState 0b110).core 0).accOf 1 = some a ∧
    ((bankState 0b110).core 0).acc.filter (fun x => decide (x.first ≤ 6) && decide (6 ≤ x.last)) = [a, b] ∧ a.id ≠ b.id ∧
    a.conflictAt = none ∧ b.conflictAt = none ∧ a.first = 6 ∧ a.banks &&& b.banks ≠ 0 ∧ a.banks.getLsbD 1 = true ∧ b.banks.getLsbD 1 = true ∧
    (∀ m, m < 1 → (a.banks.getLsbD m && b.banks.getLsbD m) = false) ∧ a.code < b.code ∧
    (∀ i n, a.op ≠ .copySrc i (n + 1) ∧ b.op ≠ .copySrc i (n + 1)) :=
  ⟨(twoAcc 0b110)[0], (twoAcc 0b110)[1], by decide +kernel, by decide +kernel, by decide +kernel, by decide +kernel, rfl, rfl, rfl, by decide +kernel,
    by decide +kernel, by decide +kernel, by decide +kernel, by decide +kernel, fun i n => ⟨nofun, nofun⟩⟩
/-- Two of one code, told apart by their issue cycles or their source cores; a tile's source with the tile's before it. -/
theorem witness_BankConflicts_order : (let a : Access := ⟨1, 0, 4, 0, 1, 0x800, 6, 6, none, 4, 7, .sload 1⟩
      let b : Access := ⟨2, 0, 5, 0, 1, 0x800, 6, 6, none, 4, 7, .sload 2⟩
      let d : Access := ⟨3, 5, 4, 9, 1, 0x800, 6, 6, none, 4, 7, .vstn 2⟩
      let e : Access := ⟨4, 5, 4, 8, 1, 0x800, 6, 6, none, 4, 7, .vstn 2⟩
      (a.code = b.code ∧ a.issue < b.issue) ∧ (d.code = e.code ∧ d.issue = e.issue ∧ e.src < d.src)) ∧
    ∃ i n, BankOp.copySrc 4 2 = .copySrc i (n + 1) ∧ BankOp.copyDst 4 1 = .copyDst i n := ⟨by decide, 4, 1, rfl, rfl⟩

/-! The CTL slot. -/

/-- A call stack whose last record just fits, and one that is a byte short; one record on it, or a byte less. -/
def stackState (csp base limit : Word64) : State := on { coreReset with csp := csp, csbase := base, slimit := limit }
theorem witness_Branches : ∃ (s t u : State) (g : Gate), g.ok = true ∧ (∀ x ∈ [s, t, u], x.enabled false g = true ∧ x.cur.fw = false) ∧
    (s.core 0).csp.toNat + 16 = (s.core 0).slimit.toNat ∧ (t.core 0).slimit.toNat + 1 = (t.core 0).csp.toNat + 16 ∧
    (s.core 0).csbase.toNat + 16 = (s.core 0).csp.toNat ∧ (u.core 0).csp.toNat + 1 = (u.core 0).csbase.toNat + 16 :=
  ⟨stackState 0x100 0xF0 0x110, stackState 0x100 0xF0 0x10F, stackState 0x100 0xF1 0x200, g0, by decide +kernel⟩
/-- A return whose record comes while its branch pends. -/
def returning : Core := { coreReset with acc := [oneAcc .callLoad], seq := { seqReset with branch := some (⟨0, 0, 0, false⟩, 2) } }
theorem witness_Branches_record : ((on returning).core 0).accOf 3 = some (oneAcc .callLoad) ∧ (oneAcc .callLoad).conflictAt = none ∧
    (oneAcc .callLoad).op = .callLoad ∧ ((on returning).core 0).seq.branch = some (⟨0, 0, 0, false⟩, 2) := by decide +kernel

/-- A loop record in iteration j of n + s - 1. -/
def loopAt (j : Nat) : LoopRec := { lvl := 5, entry := 0, n := 6, orig := 6, s := 2, j := j, j0 := 0, start := 1, body := 2, kind := 0,
                                    ibase := 10, istep := 2, cutstr := 0, rings := [] }
def looping (l : List LoopRec) : Core :=
  { coreReset with loopTab := [(1, some 3), (2, some 0)], seq := { seqReset with loops := l, dom := .static, pos := 1 } }
/-- Counts of 0 and of 3, from the table and from a register. -/
theorem witness_LoopsAndHalt : ∃ (s : State) (g : Gate) (l : BitVec 3), g.ok = true ∧ s.enabled false g = true ∧ s.cur.fw = false ∧
    l.toNat = 5 ∧ l.toNat ≤ 5 ∧ fld ((sget none (s.core 0).loopTab 2).getD 0).toNat 0 32 = 0 ∧
    fld ((sget none (s.core 0).loopTab 1).getD 0).toNat 0 32 = 3 ∧ (s.core 0).seq.loops ≠ [] ∧
    ((s.core 0).rs 9).toNat % 2 ^ 32 = 0 := ⟨on (looping [loopAt 0]), g0, 5, by decide +kernel⟩
theorem witness_MeshHops : 63 < 64 ∧ 0 < 64 := by decide
/-- No loop; one in its middle; one that goes on as a loop inside it ends. -/
theorem witness_StageEnables : (looping []).seq.loops = [] ∧ (loopAt 3).j0 = 0 ∧ (looping [loopAt 3]).seq.loops = loopAt 3 :: [] ∧
    (let inner : LoopRec := { loopAt 6 with start := 1, body := 1 }
     inner.start + inner.body ≤ 2 ∧ inner.n + inner.s - 1 ≤ inner.j + 1 ∧ 2 < (loopAt 3).start + (loopAt 3).body ∧
     (looping [loopAt 3]).seq.loops = (closeLoops 2 (inner :: loopAt 3 :: []) []).2.1) := by decide +kernel
/-- A level that runs, and one that does not; a loop resumed at iteration 2. -/
theorem witness_StreamAddressesAndIndices : 5 ≤ 5 ∧ ({ loopAt 3 with j0 := 2 } : LoopRec).j0 = 2 ∧ (looping [loopAt 3]).seq.loops = loopAt 3 :: [] ∧ (looping [loopAt 3]).seq.loops.find? (fun r => decide (r.lvl = 5)) = some (loopAt 3) ∧ 1 ≤ (loopAt 3).s ∧
    (looping [loopAt 3]).seq.loops.find? (fun r => decide (r.lvl = 0)) = none := by decide +kernel
/-! Triggers, waits, traps and the control operations of a firmware context. -/

/-- A heat with a trigger entry that has not fired and one that has, s1 as the time. -/
def timed (x : Word64) : State :=
  let h : Heat := { heatReset with phase := .running, origin := 3, sigma := 2, triggers := [(7, some ⟨65, 9, false⟩), (8, some ⟨65, 9, true⟩)] }
  { on (two x 0) with gcount := 10, heats := [(0, h)] }
/-- Heat cycle 7 with a shift of 2: a time of 6 lies a cycle ahead, one of 5 does not. -/
theorem witness_TriggersWaitsAndTraps : ∃ (s t : State) (g : Gate), g.ok = true ∧ s.enabled false g = true ∧ s.cur.fw = false ∧
    t.enabled false g = true ∧ t.cur.fw = false ∧ sget none (s.heat 0).triggers 7 = some ⟨65, 9, false⟩ ∧
    sget none (s.heat 0).triggers 8 = some ⟨65, 9, true⟩ ∧ sget none (s.heat 0).triggers 255 = none ∧
    (s.gcount : Int) - (s.heat 0).origin + 1 = ((s.core 0).rs 1).toInt + (s.heat 0).sigma ∧
    (t.gcount : Int) - (t.heat 0).origin = ((t.core 0).rs 1).toInt + (t.heat 0).sigma :=
  ⟨timed 6, timed 5, g0, by decide +kernel⟩
/-- A firmware context in a call, its partition's heat armed, and one whose partition has no heat. -/
def fwState (p : HeatPhase) : State :=
  { onFw { coreReset with fw := { fwReset with calls := [5, 6] } } with heats := [(0, { heatReset with phase := p })] }
theorem witness_FirmwareControl : ∃ (s t : State) (g : Gate) (m n : BitVec 13), g.ok = true ∧ s.enabled false g = true ∧ s.cur.fw = true ∧
    (s.core s.cur.core).fw.calls = [5, 6] ∧ (s.heat (s.partOf s.cur.core)).phase = .armed ∧ t.enabled false g = true ∧ t.cur.fw = true ∧
    (t.heat (t.partOf t.cur.core)).phase = .none ∧ m.toNat = 15 ∧ m.toNat ≤ 15 ∧ n.toNat = 0 ∧ n.toNat ≤ 15 ∧
    (∀ k ∈ [2, 6, 10], m.toNat ≠ k ∧ n.toNat ≠ k) := ⟨fwState .armed, fwState .none, g0, 15, 0, by decide +kernel⟩

/-! Landing. -/

/-- A result due now behind one due later. -/
def duePending (fw : Bool) (e : Eff) : Pending := { at_ := 9, slot := .sca, issued := 3, fw := fw, gufl := false, eff := e }
def dueState (fw : Bool) (e : Eff) : State :=
  let p := duePending fw e
  { on { coreReset with pend := [{ p with at_ := 12 }, p], steps := [(3, some { fmt := 0, scaleA := [], scaleB := [], a := some 5, b := some 7, poison := false, pos := 7, seg := 0x1000 }),
      (4, some { fmt := 10, scaleA := [], scaleB := [], a := some 5, b := some 7, poison := true, pos := 7, seg := 0x1000 })] } with gcount := 9 }
theorem witness_RegisterFiles : (3 : Nat) ≠ 0 ∧ (15 : Nat) < 16 ∧ (15 : Nat) ≠ 3 := by decide
theorem witness_RegisterLanding : ∀ e ∈ [Eff.sreg 0 7, .sreg 63 7, .qreg 0 false, .qreg 15 true, .kreg 3 7, .carry 2 7, .vreg 1 5 7,
    .wreg 0 5 7, .wreg 1 5 7, .stream 1 0 7, .stream 1 5 7], DueAlone (dueState false e) 0 (duePending false e) ∧
    (duePending false e).fw = false ∧ (duePending false e).gufl = false := by unfold DueAlone Quiet; decide +kernel
/-- A scan's carry that flushed. -/
theorem witness_RegisterLanding_flushed : let p : Pending := { duePending false (.carry 2 7) with gufl := true }
    DueAlone { on { coreReset with pend := [p] } with gcount := 9 } 0 p ∧ p.fw = false ∧ p.gufl = true := by
  unfold DueAlone Quiet; decide +kernel
theorem witness_RegisterLanding_firmware : ∀ e ∈ [Eff.sreg 0 7, .sreg 63 7, .qreg 0 false, .qreg 15 true],
    DueAlone (dueState true e) 0 (duePending true e) ∧ (duePending true e).fw = true ∧ (duePending true e).gufl = false := by
  unfold DueAlone Quiet; decide +kernel
theorem witness_TileAndSystemLanding : (∀ e ∈ [Eff.rows 1 0 7, .rows 1 7 7, .tileSet 1 { bits := 5, poison := 0 }, .tileClear 1, .step 1 3 false,
    .step 1 4 true, .sysreg 0 5, .sysreg 1 5, .sysreg 2 5, .sysreg 3 5], DueAlone (dueState false e) 0 (duePending false e) ∧
    (duePending false e).fw = false ∧ (duePending false e).gufl = false) ∧
    ∀ id ∈ [3, 4], ∃ r, sget none ((dueState false (.step 1 id false)).core 0).steps id = some r ∧ r.a = some 5 ∧ r.b = some 7 := by
  refine ⟨by unfold DueAlone Quiet; decide +kernel, fun id h => ?_⟩
  rcases List.mem_cons.1 h with rfl | h
  · exact ⟨_, rfl, rfl, rfl⟩
  · rw [List.mem_singleton.1 h]; exact ⟨_, rfl, rfl, rfl⟩
/-- A step onto a tile in error; one whose A met a conflict; the results of a `QNT`, and of an `ASCAN`. -/
theorem witness_TileAndSystemLanding_step :
    (let r : StepRun := { fmt := 0, scaleA := [], scaleB := [], a := some 5, b := some 7, poison := false, pos := 7, seg := 0x1000 }
     let p := duePending false (.step 1 3 false)
     ∀ x ∈ [r, { r with a := none }], let s : State := { on { coreReset with pend := [p], steps := [(3, some x)], badReg := [(5, 1)] } with gcount := 9 }
     DueAlone s 0 p ∧ sget none (s.core 0).steps 3 = some x ∧ (5, 1) ∈ (s.core 0).badReg) ∧
    (let p := duePending false (.vreg 1 (BitVec.allOnes 256) 7)
     let q := duePending false (.kreg 3 7)
     let s : State := { on { coreReset with pend := [p, q] } with gcount := 9 }
     Quiet s 0 ∧ (s.core 0).pend.filter (fun x => decide (x.at_ ≤ s.gcount)) = [p, q] ∧ p.fw = false ∧ q.fw = false ∧ p.gufl = false) ∧
    (∀ b ∈ [true, false], let t : Tile := { bits := 5, poison := 1 }
     let p : Pending := { duePending false (.tileSet 2 t) with gufl := b }
     let l := [p, { p with eff := .tileSet (2 + 1) t }, { p with eff := .carry 1 7 }]
     let s : State := { on { coreReset with pend := l } with gcount := 9 }
     Quiet s 0 ∧ (s.core 0).pend.filter (fun x => decide (x.at_ ≤ s.gcount)) = l ∧ p.gufl = b) := by
  unfold DueAlone Quiet; decide +kernel
/-- An integer step that does not leave its accumulator's range, and one that does, in row 0 and column 0. -/
theorem witness_TileAndSystemLanding_overflow :
    let sum (a b : Nat) := intOf (exactDot ((operandRuns 0 64 a []).getD 0 []) ((operandRuns 0 32 b []).getD 0 []))
    sum 5 7 = 35 ∧ signedVal 32 (elem 32 (BitVec.ofNat 65536 0x7FFFFFFF).toNat 0) + sum 5 7 > 2 ^ 31 - 1 := by decide +kernel
/-- Two writes of s3, or of s0, by two slots and by one. -/
def clash (n : Nat) (sl : Slot) (i : Nat) : List Pending :=
  [{ at_ := 9, slot := .mem, issued := 3, fw := false, gufl := false, eff := .sreg n 5 },
   { at_ := 9, slot := sl, issued := i, fw := false, gufl := false, eff := .sreg n 6 }]
theorem witness_SimultaneousWrites : ∀ n ∈ [0, 3], ∀ x ∈ [(Slot.ctl, 4), (.mem, 2)],
    let s : State := { on { coreReset with pend := clash n x.1 x.2 } with gcount := 9 }
    let order := [Slot.mem, .prm, .mat, .vec, .sca, .ctl]
    Quiet s 0 ∧ (s.core 0).pend.filter (fun x => decide (x.at_ ≤ s.gcount)) = clash n x.1 x.2 ∧
      (order.idxOf Slot.mem < order.idxOf x.1 ∨ (Slot.mem = x.1 ∧ x.2 < 3)) := by unfold Quiet; decide +kernel
/-- Two writes of one register of each other file, and of one tile. -/
def clashOf (e f : Eff) : List Pending := [{ duePending false e with slot := .mem }, { duePending false f with slot := .mat }]
theorem witness_SimultaneousWrites_files : ∀ x ∈ [(Eff.qreg 3 true, Eff.qreg 3 false), (.kreg 3 5, .kreg 3 6), (.carry 3 5, .carry 3 6), (.vreg 3 5 7, .vreg 3 6 8),
      (.wreg 3 5 7, .wreg 3 6 8), (.tileSet 3 ⟨5, 0⟩, .tileClear 3), (.tileSet 3 ⟨5, 0⟩, .tileSet 3 ⟨6, 0⟩), (.tileSet 3 ⟨5, 0⟩, .rows 3 7 9),
      (.tileSet 3 ⟨5, 0⟩, .step 3 4 false), (.tileClear 3, .rows 3 7 9)],
    let r : StepRun := { fmt := 0, scaleA := [], scaleB := [], a := some 5, b := some 7, poison := false, pos := 7, seg := 0x1000 }
    let s : State := { on { coreReset with pend := clashOf x.1 x.2, steps := [(4, some r)] } with gcount := 9 }
    Quiet s 0 ∧ (s.core 0).pend.filter (fun x => decide (x.at_ ≤ s.gcount)) = clashOf x.1 x.2 ∧ (clashOf x.1 x.2).all (fun p => !p.fw) = true ∧
    [Slot.mem, .prm, .mat, .vec, .sca, .ctl].idxOf Slot.mem < [Slot.mem, .prm, .mat, .vec, .sca, .ctl].idxOf Slot.mat := by
  unfold Quiet; decide +kernel
/-- A post that completes its phase, and one that does not. -/
theorem witness_BarrierPost : ∀ n ∈ [5, 6],
    let p := duePending false (.post 1 n)
    let s : State := { on { coreReset with pend := [p], bar := [(1, { barrierReset with count := -5 })] } with gcount := 9 }
    DueAlone s 0 p ∧ p.gufl = false ∧ p.eff = .post 1 n ∧
      ((s.core 0).rb 1).count + BitVec.ofInt 48 (((s.core 0).rb 1).delta + n) = (if n = 5 then 0 else 1) := by
  unfold DueAlone Quiet; decide +kernel

/-! Issue. -/

/-- A bundle of some operations under a header. -/
def bundle (h : Nat) (l : List Instr) : Bundle := l.foldl (fun b i => b ||| bundleOf i) (BitVec.ofNat 384 h)
/-- A legal bundle, one with an illegal operation. -/
def goodBundle : Bundle := bundle 0x3 [.add g0 1 2 3, .lqpop g0 3, .halt g0]
def badBundle : Bundle := bundle 0x3 [.add g0 1 2 3, .chill g0]
/-- A running core at one of two bundles, due now, with what the code it expanded recorded. -/
def issueState (pos due : Nat) (bad r : Option ExpRecord) : State :=
  let hf : Half := { halfReset with valid := true, hdr := 0x1000, bundles := [goodBundle, badBundle], rec_ := r }
  { on { coreReset with seq := { seqReset with dom := .static, pos := pos, due := due, bad := bad }, half0 := hf, lq := [4] } with gcount := 6 }
theorem witness_BundleIssue : ∃ (s : State) (b : Bundle), let k := s.core 0
    let x := k.half k.seq.half
    k.seq.due = s.gcount ∧ k.issues = true ∧ k.unheld = true ∧ k.barred s.gcount = false ∧ k.seq.bad = none ∧ x.rec_ = none ∧
    x.bundles[k.seq.pos]? = some b ∧ (s.heat (s.partOf 0)).cutK = none ∧ (decodeHeader b).map (fun h => h.restart) = some false ∧
    ∀ p ∈ [(Slot.sca, Instr.add g0 1 2 3), (.vec, .nop .vec), (.mat, .nop .mat), (.prm, .nop .prm), (.mem, .lqpop g0 3), (.ctl, .halt g0)],
      decodeSyl p.1 (syl b p.1) = some p.2 ∧ p.2.legalCompute = true ∧ k.namesOk p.2 = true ∧
      ({ s with cur := { core := 0, fw := false, pos := k.seq.pos, seg := x.hdr } } : State).slotFault 0 p.2 = none :=
  ⟨issueState 0 6 none none, goodBundle, by decide +kernel, by decide +kernel, by decide +kernel, by decide +kernel, rfl, rfl, by decide +kernel,
    by decide +kernel, by decide +kernel, by decide +kernel⟩
/-- The same bundle marked for a restart, and one of whose registers has an error. -/
theorem witness_BundleIssue_marked : let b : Bundle := goodBundle ||| 0xC0
    let s := issueState 0 6 none none
    let s1 : State := { s with cur := { core := 0, fw := false, pos := 0, seg := 0x1000 } }
    (decodeHeader b).map (fun h => h.restart) = some true ∧ s1.regError 0 goodBundle = none ∧
    ({ s1 with cores := [(0, { s1.core 0 with badReg := [(0, 2)] })] } : State).regError 0 goodBundle = some 2 := by decide +kernel
/-- One that is not due, one held by a recorded fault of its bundle or of its position, one with an illegal operation. -/
theorem witness_BundleIssue_faults : ((issueState 0 5 none none).core 0).seq.due ≠ 6 ∧
    ((issueState 0 6 (some ⟨true, 1, 2, 0x1000, 20, 0x1014⟩) none).core 0).seq.bad ≠ none ∧
    (let k := (issueState 1 6 none (some ⟨false, 1, 2, 0x1000, 20, 0x1014⟩)).core 0
     k.seq.bad = none ∧ ∃ r, (k.half k.seq.half).rec_ = some r ∧ r.pos ≤ k.seq.pos) ∧
    (decodeHeader badBundle).isSome = true ∧ ∀ i, ¬(decodeSyl .ctl (syl badBundle .ctl) = some i ∧ i.legalCompute = true) := by
  refine ⟨by decide +kernel, by decide +kernel, ⟨rfl, ⟨_, rfl, by decide +kernel⟩⟩, by decide +kernel, fun i h => ?_⟩
  have : decodeSyl .ctl (syl badBundle .ctl) = some (.chill g0) := by decide +kernel
  rw [this] at h
  obtain ⟨h1, h2⟩ := h
  cases h1
  exact absurd h2 (by decide)

/-- A page table that maps the first 2^30 bytes of partition 0 to themselves. -/
def mapping : Memory := [(0x3FE00000, 2), (0x3FE00007, 0xE0), (0x3FF00000, 1), (0x3FF00002, 0xE0), (0x3FF00003, 0x3F)]
def mapped (s : State) (mem : Memory) : State :=
  { s with hbm := mem ++ mapping, mgmt := { mgmtReset with ttbase := [(0, 0x3FF00000)] } }
/-- The code prefetch at an address, in a channel without a timeline and in one whose timeline runs, and where nothing maps. -/
def fetchState (va : Nat) (busy : Bool) (tls : List Timeline) : State :=
  let k : Core := { coreReset with half1 := { halfReset with hdr := va, busy := busy } }
  { mapped (on k) [(0x1200, 5)] with heats := [(0, { heatReset with phase := .running, timelines := tls })] }
theorem witness_BundleIssue_prefetch :
    ((fetchState 0x1210 false []).core 0).half1.busy = false ∧ ((fetchState 0x1210 true []).core 0).half1.busy = true ∧
    (fetchState 0x1210 true []).translate 0 0x1210 false = some 0x1210 ∧ (fetchState 0x1210 true []).served 0x1210 = true ∧
    (fetchState 0x1210 true []).tagGood (0x1210 / 64) = true ∧ (fetchState 0x1210 true []).lineBad (0x1210 / 64) = false ∧
    (fetchState (2 ^ 30) true []).translate 0 (2 ^ 30) false = none ∧
    (let s := fetchState 0x1210 true [⟨paChannel 0x1210, 900, [], []⟩]
     s.translate 0 0x1210 false = some 0x1210 ∧ s.served 0x1210 = false) := by decide +kernel

/-- A held core. -/
def heldState (h m : Hold) (x : List CrucCmd) : State :=
  { on { coreReset with seq := { seqReset with dom := .dynamic, hold := h, memHold := m }, cruc := x } with gcount := 16 }
theorem witness_WaitReleases : ((heldState (.waitd 1 none 16 0 0) .none []).core 0).issues = true ∧
    ((heldState (.waitd 1 none 16 0 0) .none []).core 0).seq.hold = .waitd 1 none 16 0 0 ∧
    ((heldState (.waitd 1 (some 3) 16 0 0) .none []).core 0).issues = true ∧
    ((heldState (.waita 1 none) .none []).core 0).issues = true ∧ ((heldState (.align 16) .none []).core 0).issues = true ∧
    ((heldState .none (.fence 12 true) []).core 0).issues = true ∧ ((heldState .none (.fence 12 true) []).core 0).fenceMet 12 true = true ∧
    ((heldState .none (.fence 12 false) []).core 0).fenceMet 12 false = true := by decide +kernel
/-- A fence of each scope whose command before it has executed, three cycles after its issue. -/
theorem witness_WaitReleases_cfence : ∀ n ∈ [0, 1, 2],
    let s := heldState .none (.cfence 13 n (some 0x1000)) [⟨3, 0x13, 0, 0, 12, 2, 3, 0x1000, [], true, some 15, 0, 0⟩, ⟨4, 0x13, 0, 0, 13, 2, 3, 0x1000, [], true, none, 0, 0⟩]
    (s.core 0).issues = true ∧ (s.core 0).seq.memHold = .cfence 13 n (some 0x1000) ∧ 13 + 3 ≤ s.gcount ∧
    ∀ x, x ∈ (s.core 0).cruc → x.issue < 13 → inScope n (some 0x1000) x.pa = true → ∃ f, x.fin = some f ∧ f < s.gcount := by
  intro n h
  simp only [List.mem_cons, List.not_mem_nil, or_false] at h
  rcases h with rfl | rfl | rfl <;>
    exact ⟨by decide +kernel, rfl, by decide, fun x hx hi _ => by
      rcases List.mem_cons.1 hx with rfl | hx
      · exact ⟨15, rfl, by decide⟩
      · rw [List.mem_singleton.1 hx] at hi; exact absurd hi (by decide)⟩
theorem witness_WaitReleases_start :
    let k : Core := { coreReset with task := true, startAt := 16, half0 := { halfReset with bundles := [goodBundle] } }
    let s : State := { on k with gcount := 16, heats := [(0, { heatReset with phase := .running })] }
    (s.core 0).task = true ∧ (s.core 0).started = false ∧ (s.core 0).seq.dom = .notStarted ∧ (s.core 0).startAt = s.gcount ∧
    (s.heat (s.partOf 0)).phase = .running ∧ (s.core 0).half0.busy = false ∧ (s.core 0).half0.bundles ≠ [] ∧ (s.core 0).half0.rec_ = none := by
  decide +kernel

/-- A firmware context due at 600 in bundle 4, of which it has the given bytes. -/
def fwDue (b : Bundle) (f : FwCtx → FwCtx) (last : Option Nat) : State :=
  let x : FwCtx := { fwReset with mode := .running, due := 600, pos := 4, fshare := 5, imem := Memory.writeBytes [] 192 (bytesOf 48 b.toNat) }
  let k : Core := { coreReset with fw := f x, seq := { seqReset with lastIssue := last } }
  { on k with gcount := 600 }
def fwBundle : Bundle := bundle 0 [.add g0 1 2 3, .chill g0]
def fwBadBundle : Bundle := bundle 0 [.add g0 1 2 3, .halt g0]
theorem witness_FirmwareIssue : let s := fwDue fwBundle id none
    let f := (s.core 0).fw
    f.mode = .running ∧ f.due = s.gcount ∧ s.mgmt.inReset = false ∧ (s.core 0).seq.lastIssue ≠ some s.gcount ∧
    (if f.window = s.gcount / 256 then f.issuedIn else 0) < f.fshare ∧ f.away = none ∧ f.pos < 682 ∧ f.badI.contains f.pos = false ∧
    fld (f.bundleAt f.pos).toNat 0 32 = 0 ∧
    ∀ p ∈ [(Slot.sca, Instr.add g0 1 2 3), (.vec, .nop .vec), (.mat, .nop .mat), (.prm, .nop .prm), (.mem, .nop .mem), (.ctl, .chill g0)],
      decodeSyl p.1 (syl (f.bundleAt f.pos) p.1) = some p.2 ∧ p.2.legalFirmware = true := by decide +kernel
/-- Not due; behind the compute context; its share used up; beyond its memory; with an illegal operation. -/
theorem witness_FirmwareIssue_others : ((fwDue fwBundle (fun f => { f with due := 5 }) none).core 0).fw.due ≠ 600 ∧
    ((fwDue fwBundle id (some 600)).core 0).seq.lastIssue = some 600 ∧
    (let f := ((fwDue fwBundle (fun f => { f with window := 2, issuedIn := 5 }) none).core 0).fw
     f.window = 600 / 256 ∧ f.fshare ≤ f.issuedIn) ∧
    ((fwDue fwBundle (fun f => { f with pos := 682 }) none).core 0).fw.pos = 682 ∧
    ((fwDue fwBundle (fun f => { f with away := some 0x802BC }) none).core 0).fw.away = some 0x802BC ∧
    ((fwDue fwBundle (fun f => { f with badI := [4] }) none).core 0).fw.badI.contains 4 = true ∧
    fld (((fwDue (fwBundle ||| 1) id none).core 0).fw.bundleAt 4).toNat 0 32 ≠ 0 ∧
    ∀ i, ¬(decodeSyl .ctl (syl (((fwDue fwBadBundle id none).core 0).fw.bundleAt 4) .ctl) = some i ∧ i.legalFirmware = true) := by
  refine ⟨by decide +kernel, by decide +kernel, by decide +kernel, by decide +kernel, by decide +kernel, by decide +kernel,
    by decide +kernel, fun i h => ?_⟩
  have : decodeSyl .ctl (syl (((fwDue fwBadBundle id none).core 0).fw.bundleAt 4) .ctl) = some (.halt g0) := by decide +kernel
  rw [this] at h
  obtain ⟨h1, h2⟩ := h
  cases h1
  exact absurd h2 (by decide)
/-- Cause 1 with cause 3 behind it, in a running context; the non-maskable cause 4, in a chilled one; nothing to take. -/
theorem witness_FirmwareIssue_causes : ∀ x ∈ [(FwMode.running, 600, 0b1010#7, 0b1111111#7, 1), (.chilled, 550, 0b1010000#7, 0#7, 4)],
    let s := fwDue fwBundle (fun f => { f with mode := x.1, due := x.2.1, fpend := x.2.2.1, fenable := x.2.2.2.1 }) none
    let f := (s.core 0).fw
    let causes := f.fpend &&& (f.fenable ||| 0b0010000#7)
    s.mgmt.inReset = false ∧ (s.core 0).seq.lastIssue ≠ some s.gcount ∧ f.fcause.getLsbD 8 = false ∧ f.branch = none ∧ f.mem = none ∧
    x.2.2.2.2 < 7 ∧ causes.getLsbD x.2.2.2.2 = true ∧ (∀ m, m < x.2.2.2.2 → causes.getLsbD m = false) ∧ f.mode = x.1 ∧ f.due ≤ s.gcount ∧
    (fwReset.takeable = 0) := by decide +kernel

/-- A firmware context that waits for an operation on its data memory. -/
def fwMemState (i : Instr) (a w0 w1 : Nat) : State :=
  let d := Memory.writeBytes [] (a % 2 ^ 15 / 32 * 32) (bytesOf 8 w0 ++ bytesOf 8 w1)
  let f : FwCtx := { fwReset with mode := .waiting, dmem := d, mem := some ⟨i, 3, BitVec.ofNat 64 a, 0xABCD, 4⟩ }
  { on { coreReset with fw := f } with gcount := 10, fe := { feReset with kick := [3, 9, 2047] } }
theorem witness_FirmwareAccess : ∀ x ∈ [(Instr.sld g0 3 1, 0x125, 0, 0), (.sst g0 3 1, 0x7F47, 0, 0), (.sst g0 3 1, 0x7F48, 0, 0), (.qrd g0 1, 0x120, 2048, 0),
      (.qrd g0 1, 0x7F20, 2047, 0), (.kscan g0 1, 0x120, 2048, 0), (.kscan g0 1, 0x120, 4, 0), (.kclr g0 1, 0x120, 2048, 0), (.kclr g0 1, 0x120, 9, 0),
      (.japp g0 1, 0x120, 5, 15), (.japp g0 1, 0x120, 5, 257), (.japp g0 1, 0x120, 5, 17), (.fence g0 1, 0, 0, 0)],
    let s := fwMemState x.1 x.2.1 x.2.2.1 x.2.2.2
    let f := (s.core 0).fw
    let word (n : Nat) := natOf ((List.range 8).map (fun i => f.dmem.read (x.2.1 % 2 ^ 15 / 32 * 32 + n + i)))
    f.mem = some ⟨x.1, 3, BitVec.ofNat 64 x.2.1, 0xABCD, 4⟩ ∧ f.mode = .waiting ∧ (BitVec.ofNat 64 x.2.1).getLsbD 63 = false ∧ f.badD = [] ∧
    word 0 = x.2.2.1 ∧ word 8 = x.2.2.2 := by decide +kernel
/-- A queue at its tail; the kick set's next member from 4 on; none from 2048 on; a queue that is not there. -/
theorem witness_FirmwareAccess_answers : let s := fwMemState (.kscan g0 1) 0x120 4 0
    (s.queue 2047).head = (s.queue 2047).tail ∧ s.fe.kick = [3] ++ 9 :: [2047] ∧ (∀ j, j ∈ [3] → j < 4) ∧ 4 ≤ 9 ∧
    (∀ i, i ∈ s.fe.kick → i < 2048) ∧ 256 < 257 ∧ 17 % 16 ≠ 0 := by decide +kernel
/-- A trap in a heat that is armed, arming, trapped, at a cut or ended; one of class 9. -/
theorem witness_TakingATrap_phases : (∀ p ∈ [HeatPhase.arming, .armed, .trapped, .atCut, .ended, .none],
      let s : State := { on coreReset with heats := [(0, { heatReset with phase := p, queue := 3 })] }
      (s.heat (s.partOf 0)).phase = p) ∧ (⟨9, 1, 0, none, 0⟩ : TrapInfo).cls = 9 ∧
    (let k : Core := { coreReset with seq := { seqReset with dom := .dynamic, dynSince := some 9, hold := .align 9 } }
     (∃ n, k.seq.dynSince = some n ∧ n ≤ 9) ∧ k.seq.dom ≠ .halted ∧ ¬∀ n, k.seq.hold = .align n → 8 + 1 < n) := by
  refine ⟨by decide +kernel, rfl, ⟨9, rfl, by decide⟩, by decide, fun h => absurd (h 9 rfl) (by decide)⟩
/-- The first trap of a running heat, and of one that stops for a cut; a later one; one without a heat. -/
theorem witness_TakingATrap : ∀ x ∈ [(HeatPhase.running, false, false), (.running, false, true), (.stopping, false, false), (.stopping, true, false), (.none, false, true)],
    let s : State := { on { coreReset with spanTrap := x.2.2 } with gcount := 116, heats := [(0, { heatReset with phase := x.1, origin := 4, byTrap := x.2.1 })] }
    (s.heat (s.partOf 0)).phase = x.1 ∧ (s.heat 0).byTrap = x.2.1 ∧ (s.core 0).spanTrap = x.2.2 ∧ (s.core 0).seq.stopFrom = none ∧ 63 < 64 := by
  decide +kernel
/-- The sequencer at a bundle with one after it; in the last delay of a branch; in a loop's body, at its end, and at its last end. -/
def seqState (q : Seq → Seq) : State :=
  let hf : Half := { halfReset with valid := true, hdr := 0x500, bundles := [0, 0, 0, 0, 0] }
  { on { coreReset with seq := q { seqReset with dom := .static, pos := 1 }, half0 := hf, fw := { fwReset with mode := .running, pos := 3 } } with gcount := 104 }
theorem witness_SequencerAdvance : (∀ q ∈ [seqReset, { seqReset with skip := 2 }, { seqReset with branch := some (⟨0x500, 4, 4, false⟩, 3) },
      { seqReset with branch := some (⟨0x500, 4, 4, false⟩, 1) }, { seqReset with loops := [loopAt 3] }, { seqReset with pos := 1, loops := [loopAt 3] },
      { seqReset with pos := 1, loops := [loopAt 6] }],
    let k := (seqState (fun _ => { q with dom := .static, pos := q.pos + 1 })).core 0
    k.issues = true ∧ k.unheld = true ∧ (k.half k.seq.half).busy = false ∧ (k.half k.seq.half).rec_ = none ∧ k.seq.stopLine = none ∧
    (k.half k.seq.half).valid = true ∧ k.seq.pos + 1 + k.seq.skip < (k.half k.seq.half).bundles.length) ∧
    ((loopAt 6).start + (loopAt 6).body ≤ 2 + 1 ∧ (loopAt 6).n + (loopAt 6).s - 1 ≤ (loopAt 6).j + 1) ∧
    ((loopAt 3).j + 1 < (loopAt 3).n + (loopAt 3).s - 1 ∧ 1 + 1 < (loopAt 3).start + (loopAt 3).body ∧ (loopAt 3).kind = 0) := by decide +kernel
theorem witness_SequencerAdvance_firmware : ((seqState id).core 0).fw.mode = .running ∧ ((seqState id).core 0).fw.trapped = none ∧
    ((seqState id).core 0).fw.resume = none ∧ ((seqState id).core 0).fw.branch = none ∧ (681#64).getLsbD 10 = false ∧ 681 < 682 ∧
    (0x400#64).getLsbD 10 = true ∧ 682 ≤ 700 := by
  decide +kernel
/-! The channels and the heats. -/

/-- A channel whose bank 3 is as given. -/
def chanWith (b : Bank) : Channel := { channelReset with bank := [(3, b)] }
/-- Every bound of the rules met exactly at 104, and one of them missed. -/
theorem witness_TimelineRules : let b : Bank := { bankReset with act := some 21, rd := some 94, wr := some 64, row := some 5 }
    ruleBroken (chanWith b) 4 3 0 0 104 = none ∧ ruleBroken (chanWith { b with act := some 22 }) 4 3 0 0 104 = some (3, some 22) ∧
    ruleBroken (chanWith { bankReset with window := some (90, 103) }) 6 3 0 0 104 = none ∧
    (ruleBroken (chanWith { bankReset with window := some (90, 104) }) 6 3 0 0 104).isSome = true ∧
    ruleBroken (chanWith { bankReset with window := some (90, 103) }) 7 0 0 8 104 = none ∧
    (ruleBroken (chanWith { bankReset with window := some (90, 104) }) 7 0 0 8 104).isSome = true ∧
    ruleBroken { chanWith bankReset with refAt := [(8192 * 3 + 5, some 100)] } 5 3 0 5 80000100 = none ∧
    ruleBroken { chanWith bankReset with refAt := [(8192 * 3 + 5, some 101)] } 5 3 0 5 80000100 = some (14, some 101) := by decide +kernel
theorem witness_TimelineRules_violation : let s := channelled (entryOf 100 4 3 0 0) { bankReset with row := some 5, act := some 22 }
    let h := s.heat (s.chanPart 0)
    ∃ tl e ins r, h.timeline 0 = some tl ∧ tl.entries[0]? = some e ∧ fld e.toNat 43 5 = 3 ∧ fld e.toNat 48 16 = 0 ∧
      h.origin + fld e.toNat 88 40 + h.sigma = 104 ∧ s.gcount = 104 ∧ h.phase = .running ∧ entryInstr 0 0 e.toNat = some ins ∧
      ruleBroken (s.chan 0) (fld e.toNat 84 4) 3 0 0 104 = some r ∧ fld e.toNat 0 32 = 0 :=
  ⟨_, _, .pre 0 0, (3, some 22), rfl, rfl, by decide +kernel, by decide +kernel, by decide +kernel, rfl, rfl, by decide +kernel, by decide +kernel, by decide +kernel⟩
/-- Each of the seven commands in its cycle, breaking no rule, in bank 3. -/
theorem witness_ChannelCommands : ∀ op ∈ [1, 2, 3, 4, 5, 6, 7],
    let s := channelled (entryOf 100 op 3 5 8) (if op = 2 ∨ op = 3 then { bankReset with row := some 5 } else bankReset)
    let h := s.heat (s.chanPart 0)
    (h.timeline 0).map (fun tl => tl.entries) = some [entryOf 100 op 3 5 8] ∧ h.origin + fld (entryOf 100 op 3 5 8).toNat 88 40 + h.sigma = s.gcount ∧
    h.phase = .running ∧ fld (entryOf 100 op 3 5 8).toNat 84 4 = op ∧ fld (entryOf 100 op 3 5 8).toNat 43 5 = 3 ∧
    ruleBroken (s.chan 0) op 3 5 8 s.gcount = none := by decide +kernel
/-- A sound line read and a stale one; a refresh without and with zeros, of a stale group and another. -/
theorem witness_ChannelCommands_parts : let pa := paOf 0 3 5 0
    (chanWith bankReset).stale.contains (8192 * 3 + 0) = false ∧ State.reset.tagGood (pa / 64) = true ∧ State.reset.lineBad (pa / 64) = false ∧
    ({ State.reset with lines := [(pa / 64, { lineReset with ecc := .uncorrectable })] } : State).lineBad (pa / 64) = true ∧
    ({ chanWith bankReset with stale := [24576] }).stale.contains (8192 * 3 + 5 / 8) = true ∧ fld (5 : Nat) 13 1 = 0 ∧ fld (8192 + 5) 13 1 = 1 ∧
    (chanWith bankReset).stale.contains (8192 * 3 + 5) = false ∧ ({ chanWith bankReset with stale := [24581] }).stale.contains (8192 * 3 + 5) = true := by
  decide +kernel
/-- At the quiescent cycle of a stop; a window that holds a command that fits, and a slot whose bank an AtomicOp waits for. -/
theorem witness_ChannelCommands_more : (let s := channelled (entryOf 100 1 3 5 0) bankReset
      let h := { s.heat 0 with phase := HeatPhase.stopping, quiet := some 104 }
      ({ s with heats := [(0, h)] } : State).heat (s.chanPart 0) = h ∧ entryInstr 0 0 (entryOf 100 1 3 5 0).toNat = some (.act 0 0)) ∧
    (let x := (melting.core 0).crucOf 4
     (melting.bank 0 0).queue = (0, 4) :: [] ∧ (x.map (fun x => decide (x.arrival ≤ 104) && decide (104 + (fld x.rec_.toNat 256 11 + 255) / 256 + 1 ≤ 104 + 5))) = some true) ∧
    ((8 : Nat).testBit 3 = true ∧ ((waiting 9).bank 0 0).atomics ≠ []) := by decide +kernel
/-- A byte sent 24 cycles before a write reaches it, one sent later does not. -/
theorem witness_ChannelCommands_write : let pa := paOf 0 3 5 0
    let o (n t : Nat) : OutByte := ⟨t, pa + n, 0x0F, 5⟩
    let due (l : List OutByte) := l.filter (fun o => decide (o.pa / 64 = pa / 64) && decide (o.at_ + 24 ≤ 104))
    due [o 0 80, o 1 81] = [] ++ o 0 80 :: [] ∧ due [o 1 81] = [] := by decide +kernel

/-- A timeline with an elision interval over row groups 5 and 6 of bank 3. -/
def eliding : Timeline := { ch := 0, end_ := 1000, entries := [], elide := [BitVec.ofNat 128 (90 * 2 ^ 88 + 3 * 2 ^ 43 + 5 * 2 ^ 30 + 6 * 2 ^ 17 + 200 * 2 ^ 48)] }
/-- Row groups whose deadline is the present, in a channel with a running timeline or without. -/
def refreshState (dl : List (Nat × Nat)) (ph : HeatPhase) : State :=
  let h : Heat := { heatReset with phase := ph, origin := 4, timelines := [eliding] }
  { on coreReset with gcount := 104, heats := [(0, h)], chans := [(0, { channelReset with deadline := dl })] }
theorem witness_RefreshAndPatrol : (refreshState [] .none).timelineRuns 0 = false ∧ (refreshState [] .running).timelineRuns 0 = true ∧
    ((refreshState [(24581, 104)] .running).heat ((refreshState [] .running).chanPart 0)).timeline 0 = some eliding ∧
    eliding.elided (24581 / 8192) (24581 % 8192) ((104 : Int) - 4 - 0) = true ∧ eliding.elided (24583 / 8192) (24583 % 8192) ((104 : Int) - 4 - 0) = false ∧
    24583 < 262144 ∧ (∀ n ∈ [24581, 24583], sget (0 + 80000000) [(24581, 104), (24583, 104)] n = 104) := by decide +kernel
/-- The group due of one deadline is the one the channel lists: no group is due by default. -/
theorem witness_RefreshAndPatrol_due : ∀ j, (j < 262144 ∧ sget (0 + 80000000) [(24581, 104)] j = 104 ∧ j ∉ ([] : List Nat)) →
    eliding.elided (j / 8192) (j % 8192) ((104 : Int) - 4 - 0) = true := by
  intro j ⟨_, h, _⟩
  by_cases hj : j = 24581
  · subst hj; decide +kernel
  · simp [sget, Ne.symm hj] at h
/-- The patrol in each of its four states, with key slots 0 and 1 loaded, and with the next slot empty. -/
def patrolState (st cur : BitVec 2) (line : Nat) (stop : Bool) (l : List (Nat × LineMeta)) : State :=
  let r : Patrol := { patrolReset with state := st, cur := cur, next := cur + 1, line := line, stopping := stop }
  { on coreReset with gcount := 104, lines := l, mgmt := { mgmtReset with keys := [(0, some 0), (1, some 5)] }, patrol := [(0, r)] }
theorem witness_RefreshAndPatrol_commands : (∀ st ∈ [0#2, 1, 2, 3], (sget patrolReset (patrolState st 0 9 false []).patrol 0).state = st) ∧
    (sget none (patrolState 0 0 0 false []).mgmt.keys (4 * 0 + (0#2 + 1).toNat)).isSome = true ∧
    sget none (patrolState 0 1 0 false []).mgmt.keys (4 * 0 + (1#2 + 1).toNat) = none := by decide +kernel
/-- The patrol's next line, with each of the states the statement tells apart; the last line of its range. -/
theorem witness_RefreshAndPatrol_lines : ∀ x ∈ [(1#2, 7, false, LineMeta.mk 0 (some 0) .uncorrectable false true), (1, 7, true, LineMeta.mk 0 (some 0) .single false true),
      (2, 7, false, LineMeta.mk 0 (some 0) .good false true), (2, 7, false, LineMeta.mk 1 (some 5) .single false true), (2, 7, true, LineMeta.mk 0 (some 0) .single false false),
      (1, 3 * 2 ^ 32 - 1, false, LineMeta.mk 0 (some 0) .uncorrectable false true)],
    let s := patrolState x.1 0 x.2.1 x.2.2.1 [(x.2.1, x.2.2.2)]
    let r := sget patrolReset s.patrol 0
    r.line = x.2.1 ∧ r.stopping = x.2.2.1 ∧ s.served (64 * x.2.1) = true ∧ s.paStale (64 * x.2.1) = false ∧ sget lineReset s.lines x.2.1 = x.2.2.2 := by
  decide +kernel
/-- A line whose tag holds under its version and one whose tag does not. -/
theorem witness_RefreshAndPatrol_tags : (patrolState 2 0 7 false [(7, ⟨0, some 0, .good, false, true⟩)]).tagGood 7 = true ∧
    (patrolState 2 0 7 false [(7, ⟨1, some 5, .good, false, true⟩)]).tagGood 7 = true ∧
    (patrolState 2 0 7 false [(7, ⟨0, some 0, .single, false, false⟩)]).tagGood 7 = false := by decide +kernel

/-- A heat image without cores, at 0x10000: one timeline, of channel 9, that has no entry. -/
def coreless : List Byte :=
  bytesOf 64 (0x7E485358 + 2 ^ 32 + 0xABC * 2 ^ 64 + 2 ^ 96 + 2000 * 2 ^ 128 + 2 ^ 192 + 2 * 2 ^ 208) ++ bytesOf 32 (9 + 0xFFFF * 2 ^ 16 + 96 * 2 ^ 64)
/-- The packet of a heat: one that names the image, with its completion to be written to the host at 0x5000 and an interrupt. -/
def heatPacket : Nat := 1 + 256 + 0x10000 * 2 ^ 64 + (0x5000 + 4 * 2 ^ 60) * 2 ^ 128
def oneGroup : Group := { g := 2, kind := 1, n := 8, mask := 1, cdly := 5, cbase := 0x1002 + 2 ^ 60 }
/-- A heat in a phase, with cycle 0 at `origin`. -/
def heatState (ph : HeatPhase) (origin : Nat) (dom : Domain) (hold : Bool) (pkt : Nat) : State :=
  let h : Heat := { heatReset with phase := ph, queue := 65, packet := BitVec.ofNat 512 pkt, hasPacket := true, origin := origin, cores := [0], timelines := [⟨0, 50, [entryOf 3 1 3 5 0], []⟩], groups := [oneGroup], pins := [(0, 5)] }
  let s := mapped (on { coreReset with seq := { seqReset with dom := dom }, startAt := 107 }) (Memory.writeBytes [] 0x10000 coreless)
  { s with gcount := 104, heats := [(0, h)], fe := { feReset with hold := hold } }
theorem witness_HeatRuns : ((heatState .armed 105 .notStarted false heatPacket).heat 0).origin = 104 + 1 ∧
    ((heatState .armed 105 .notStarted false heatPacket).heat 0).phase = .armed ∧
    (∃ tl e ins, ((heatState .armed 105 .notStarted false heatPacket).heat 0).timeline 0 = some tl ∧ tl.entries[0]? = some e ∧
      entryInstr 0 0 e.toNat = some ins) ∧
    ((heatState .arming 105 .notStarted true heatPacket).heat 0).phase = .arming ∧ (heatState .arming 105 .notStarted true heatPacket).fe.hold = true ∧
    (heatState .arming 105 .notStarted true heatPacket).journalSize = none ∧ fld heatPacket 192 32 = 0 ∧ fld heatPacket 8 1 = 1 ∧
    fld heatPacket 128 64 ≠ 0 ∧ fld heatPacket 188 4 = 4 ∧ (heatReset.muted = false) ∧
    fld (BitVec.ofNat 512 (1 + 2 ^ 30 * 2 ^ 64)).toNat 8 1 = 0 :=
  ⟨rfl, rfl, ⟨_, _, .act 0 0, rfl, rfl, by decide +kernel⟩, by decide +kernel⟩
/-- Every core halted and the timeline over, or a cycle short of it; a completion bit; a queue whose image does not translate. -/
theorem witness_HeatRuns_ends : (let s := heatState .running 54 .halted false heatPacket
     s.heatDone 0 = true ∧ (∀ c, c ∈ (s.heat 0).cores → (s.core c).seq.dom = .halted) ∧
     (s.heat 0).groups.find? (fun x => decide (x.g = oneGroup.g)) = some oneGroup ∧
     (s.heat 0).pinned (fld oneGroup.cbase 0 60 + 3 / 8) = some 0x51002 ∧ s.paStale 0x51002 = false ∧ (s.heat 0).phase = .running) ∧
    (heatState .running 56 .halted false heatPacket).heatDone 0 = false ∧
    (let s := heatState .arming 200 .notStarted false (1 + 2 ^ 30 * 2 ^ 64)
     s.translate (s.ringPart 65) (fld (s.heat 0).packet.toNat 64 64) false = none) := by decide +kernel
/-- A channel without a timeline, before the origin, past END; a line that is stale; one whose version is another. -/
theorem witness_RefreshAndPatrol_more : (let s : State := { refreshState [] .running with chans := [(1, channelReset)] }
     (s.heat (s.chanPart 1)).timeline 1 = none) ∧
    ((refreshState [] .armed).heat 0).timeline 0 = some eliding ∧ (4 : Nat) + eliding.end_ + 0 < 1005 ∧ 3 < 4 ∧
    (let s : State := { patrolState 1 0 7 false [] with chans := [(paChannel 448, { channelReset with stale := List.range 8 })] }
     s.paStale 448 = true) ∧
    (patrolState 2 0 7 false [(7, ⟨2, none, .good, false, true⟩)]).tagGood 7 = true ∧ (2 : BitVec 2) ≠ 0 ∧ (2 : BitVec 2) ≠ 0 + 1 ∧
    (let s : State := { patrolState 1 0 7 false [] with heats := [(0, { heatReset with phase := .running, timelines := [⟨paChannel 448, 900, [], []⟩] })] }
     s.served 448 = false) := by decide +kernel
/-- A heat that ends by class 9 when it is armed, trapped or at a cut; what its end may meet: HOLD, a muted queue, completions that
wait, a word whose row is not served. -/
theorem witness_HeatRuns_more : (∀ ph ∈ [HeatPhase.armed, .trapped, .atCut],
     let s := heatState ph 200 .notStarted false heatPacket
     let t : State := { s with heats := [(0, { s.heat 0 with endStatus := some 2, muted := true })] }
     (t.heat 0).phase = ph ∧ (t.heat 0).endStatus = some 2 ∧ (t.heat 0).muted = true ∧ (s.heat 0).endStatus = none ∧ s.journalSize = none ∧
     s.fe.hold = false ∧ s.fe.pubs = []) ∧
    (let s := heatState .running 54 .halted false heatPacket
     let c : Completion := ⟨65, 0, BitVec.ofNat 512 heatPacket, 0, 104, 0, 0, false, false⟩
     s.wordServed c = true ∧ [c] ≠ [] ∧
     (let t : State := { s with heats := [(0, { s.heat 0 with timelines := [⟨paChannel 0x5000, 900, [], []⟩] })] }
      t.wordServed { c with packet := BitVec.ofNat 512 (1 + 0x5000 * 2 ^ 128 + 2 ^ 188) } = false)) := by decide +kernel

/-- The image without cores is read, and passes every check: it names no region, so that nothing is placed. -/
theorem witness_Arming : let s := heatState .arming 2000 .notStarted false heatPacket
    let h := s.heat 0
    let x := s.readImage (s.ringPart h.queue) (fld h.packet.toNat 64 64) maxRows h.image
    h.phase = .arming ∧ x.2.1 = coreless ∧ x.2.2 = ImageRead.done ∧ heatRegions coreless = [] ∧ placedGroups coreless [] = [] ∧
    (let s2 : State := { x.1 with choice := x.1.choice + 256 }
     s2.saveOk h coreless = true ∧ s2.pinPages 0 (hbmPages coreless []) = some [] ∧ s2.imageOk 0 coreless [] [] = true ∧
     s2.pinnedPages 0 = []) := by decide +kernel
theorem witness_Arming_page : ((heatState .arming 2000 .notStarted false heatPacket).firstPage 0 0) + 0 ≤ 2 ^ 44 := by
  have h : Config.regionPage (heatState .arming 2000 .notStarted false heatPacket).choice % 2 ^ 43 < 2 ^ 43 := Nat.mod_lt _ (by decide)
  have k : (heatState .arming 2000 .notStarted false heatPacket).pinnedPages 0 = [] := by decide +kernel
  simp only [State.firstPage, k, List.any_nil, Bool.false_eq_true, if_false]
  omega
/-- An image that fails a check; one whose row is not served. -/
theorem witness_Arming_others : (let s := heatState .arming 2000 .notStarted false heatPacket
      s.imageOk 0 (bytesOf 64 0) [] [] = false) ∧
    (let b : Bank := { bankReset with window := some (100, 200) }
     let s : State := { heatState .arming 2000 .notStarted false heatPacket with chans := [(paChannel 0x10000, { channelReset with bank := [(paBank 0x10000, b)] })] }
     (s.readImage 0 0x10000 maxRows []).2.2 = ImageRead.waits) := by decide +kernel
/-- Every core idle, and nothing left to do. -/
theorem witness_HeatRuns_done : let s := heatState .running 54 .halted false heatPacket
    (∀ c ∈ (s.heat 0).cores, let k := s.core c
      k.pend = [] ∧ k.acc = [] ∧ k.lqOut = 0 ∧ k.copies = [] ∧ k.pieces = [] ∧ k.runs = [] ∧ k.cruc = [] ∧ k.dyn = []) ∧
    (∀ c ∈ s.partCores 0, (s.core c).acc = []) ∧ s.agenda = [] ∧ ∀ tl ∈ (s.heat 0).timelines, (s.heat 0).origin + tl.end_ + (s.heat 0).sigma ≤ s.gcount := by
  decide +kernel
/-! How heats stop and go on. -/

/-- A heat of cores 0 and 1, whose last cut points are 3 and 4. -/
def stopState (f : Heat → Heat) (d0 d1 : Domain) : State :=
  let h : Heat := { heatReset with phase := .running, packet := BitVec.ofNat 512 (2 ^ 448 * 0x10000), hasPacket := true, origin := 5, cores := [0, 1], stopReq := some 8 }
  let k (d : Domain) (n : Nat) : Core := { coreReset with seq := { seqReset with dom := d, lastCut := n, parted := true, lastIssue := some 54 } }
  { State.reset with agenda := [], gcount := 104, cores := [(0, k d0 3), (1, k d1 4)], heats := [(0, f h)] }
theorem witness_HeatStops : let s := stopState id .static .dynamic
    let h := s.heat 0
    let live (c : Nat) := c ∈ h.cores ∧ (s.core c).seq.dom ≠ .halted
    let report (c : Nat) := if (s.core c).seq.parted then (s.core c).seq.lastCut + 1 else 0
    h.phase = .running ∧ h.origin ≤ s.gcount ∧ fld h.packet.toNat 448 64 ≠ 0 ∧ (∀ c, live c → report c ≤ 5) ∧ live 1 ∧ report 1 = 5 :=
  ⟨rfl, by decide, by decide +kernel, fun c h => by
    rcases List.mem_cons.1 h.1 with rfl | h'
    · decide +kernel
    · rw [List.mem_singleton.1 h']; decide +kernel, by decide +kernel, by decide +kernel⟩
/-- A request that is ignored: without a save area, with every core halted; one that a heat takes before its cycle 0. -/
theorem witness_HeatStops_ignored : fld ((stopState (fun h => { h with packet := 0 }) .static .static).heat 0).packet.toNat 448 64 = 0 ∧
    (let h := (stopState (fun h => { h with phase := .armed, origin := 205, stopReq := none }) .static .static).heat 0
     h.phase = .armed ∧ h.stopReq = none ∧ fld h.packet.toNat 448 64 ≠ 0) ∧
    ∀ c, ¬(c ∈ ((stopState id .halted .halted).heat 0).cores ∧ ((stopState id .halted .halted).core c).seq.dom ≠ .halted) := by
  refine ⟨by decide +kernel, by decide +kernel, fun c h => ?_⟩
  have h1 : c ∈ [0, 1] := h.1
  rcases List.mem_cons.1 h1 with rfl | h'
  · exact h.2 (by decide +kernel)
  · rw [List.mem_singleton.1 h'] at h; exact h.2 (by decide +kernel)
/-- The reduction 96 cycles after the request, with a core that still issues and with none. -/
theorem witness_HeatStops_reduction : ∀ d ∈ [Domain.static, .stopped],
    let s := stopState (fun h => { h with phase := .stopping }) d .halted
    let h := s.heat 0
    h.stopReq = some 8 ∧ h.phase = .stopping ∧ h.byTrap = false ∧ s.gcount = 8 + 96 ∧ h.cutK = none ∧ h.quiet = none ∧ h.cores ≠ [] ∧
    (∀ c, c ∈ h.cores → s.partOf c = 0) ∧ (s.core 0).seq.dom = d ∧ (s.core 1).seq.dom = .halted ∧ (s.core 1).seq.lastIssue = some 54 := by
  decide +kernel
/-- The stop cycle, quiescence after a trap and at a cut, and the end of a heat in each of its phases. -/
theorem witness_HeatStops_quiescence :
    (let h := (stopState (fun h => { h with phase := .stopping, byTrap := true, stopS := some 104 }) .static .halted).heat 0
     h.phase = .stopping ∧ h.byTrap = true ∧ h.stopS = some 104) ∧
    (∀ b ∈ [true, false], let s := stopState (fun h => { h with phase := .stopping, byTrap := b, quiet := some 104, timelines := [⟨0, 50, [], []⟩] }) .stopped .halted
     (s.heat 0).quiet = some s.gcount ∧ (s.heat 0).endStatus = none ∧ s.fe.deadFw = [] ∧ (s.heat 0).byTrap = b ∧ (s.heat 0).timelines ≠ []) ∧
    (stopState id .static .static).heat 0 ≠ heatReset := by decide +kernel

/-- A heat that stopped at 80, with a shift of 2: a mark of core 0 at heat cycle 10. -/
def markedState (ph : HeatPhase) (x : Option Shadow) (l : List SavedCore) : State :=
  let h : Heat := { heatReset with phase := ph, origin := 50, sigma := 2, cores := [0, 1], quiet := some 80, saved := l }
  { State.reset with agenda := [], gcount := 104, cores := [(0, { coreReset with shadow := x })], heats := [(0, h)] }
def mark : Shadow := { heat := 50, seq := seqReset, a := [(1, 9)], sched := 10, sigma := 2, segHdr := 0, y := [(1, 7)], bar := [], pours := [] }
/-- The least shift that suffices, 1066, and one less. -/
theorem witness_HeatGoesOn : let s := markedState .trapped (some mark) []
    let enough (delta : Nat) := max (((s.heat 0).quiet.getD 0 : Nat) : Int) s.gcount - (s.heat 0).origin + 1024 ≤ 10 + ((s.heat 0).sigma : Int) + delta
    (s.heat 0).phase = .trapped ∧ 0 ∈ (s.heat 0).cores ∧ (s.core 0).shadow = some mark ∧ mark.heat = (s.heat 0).origin ∧ mark.sched = 10 ∧
    (∀ c ∈ (s.heat 0).cores, ((s.core c).shadow.map (fun x => decide (10 ≤ x.sched))).getD true = true) ∧ enough 1066 ∧ ¬enough 1065 ∧
    ∀ c ∈ (s.heat 0).cores, ((markedState .trapped none []).core c).shadow = none := by decide +kernel
theorem witness_HeatGoesOn_tags : ∀ l, (markedState .trapped (some mark) []).tagGood l = true := by
  intro l
  rfl
/-- What a cut saved of core 0, which is to go on, and of core 1, which had halted. -/
def savedCore (c : Nat) (n : Int) (halted : Bool) : SavedCore :=
  { core := c, seq := seqReset, sched := n, sigma := 2, segHdr := 0, halted := halted, s := [(3, 4)], k := [], q := 3, w := [], y := [],
    a := [], csp := 16, csbase := 0, slimit := 32, sstat := 1, bar := [], v := [], m := [], spad := [], poison := [], pours := [], bitsDue := [] }
theorem witness_HeatGoesOn_resume : let h := (markedState .atCut none [savedCore 0 10 false, savedCore 1 5 true]).heat 0
    h.phase = .atCut ∧ (h.saved.map (fun x => x.core)).Nodup ∧ savedCore 0 10 false ∈ h.saved ∧ (savedCore 0 10 false).halted = false ∧
    (∀ x, x ∈ h.saved → x.halted = false → (10 : Int) ≤ x.sched) ∧
    (∀ p ∈ [HeatPhase.running, .armed], p ≠ .trapped ∧ p ≠ .atCut ∧ p ≠ .none ∧ p ≠ .ended) := by decide +kernel

/-- A heat that stands parked behind one that is over, and a partition without one; a mark of another heat. -/
theorem witness_HeatGoesOn_parked : let h : Heat := { heatReset with phase := .trapped, origin := 50, cores := [0] }
    let s : State := { markedState .ended (some mark) [] with parked := [] ++ (0, h) :: [] }
    (s.heat 0).phase = .ended ∧ s.parked = [] ++ (0, h) :: [] ∧ (∀ y, y ∈ ([] : List (Nat × Heat)) → ¬(y.1 = 0 ∧ y.2.phase = h.phase)) ∧
    (∀ y ∈ s.parked, ¬(y.1 = 0 ∧ y.2.phase = .atCut)) ∧ (∀ y ∈ (markedState .ended none []).parked, ¬(y.1 = 0 ∧ y.2.phase = .trapped)) ∧
    mark.heat ≠ ({ h with origin := 51 } : Heat).origin := by decide +kernel

/-- The end of a heat by firmware: while it runs or stops, before its origin, stopped already, and parked. -/
theorem witness_HeatStops_ends : (∀ x ∈ [(HeatPhase.running, false, 5), (.stopping, false, 5), (.stopping, true, 5), (.running, false, 205), (.armed, false, 205), (.trapped, true, 5), (.atCut, false, 5)],
      let h := (stopState (fun h => { h with phase := x.1, byTrap := x.2.1, origin := x.2.2 }) .static .halted).heat 0
      h.phase = x.1 ∧ h.byTrap = x.2.1 ∧ h.origin = x.2.2) ∧ 5 ≤ 104 ∧ 104 < 205 ∧
    (let s : State := { markedState .ended none [] with parked := [] ++ (0, heatReset) :: [(1, heatReset)] }
     s.parked = [] ++ (0, heatReset) :: [(1, heatReset)] ∧ (s.heat 0).phase = .ended ∧ (∀ y ∈ ([] : List (Nat × Heat)), y.1 ≠ 0) ∧
     ∀ y ∈ (markedState .ended none []).parked, y.1 ≠ 0) ∧
    (∀ e ∈ [(none, [1]), (some 5, [])], let s0 := stopState (fun h => { h with phase := .stopping, byTrap := true, quiet := some 104, endStatus := e.1, trapCores := [1] }) .stopped .halted
      let s : State := { s0 with fe := { feReset with deadFw := e.2 } }
      (s.heat 0).endStatus = e.1 ∧ s.fe.deadFw = e.2 ∧ (s.heat 0).trapCores = [1] ∧ s.journalSize = none) := by decide +kernel

/-! The engines. -/

/-- A copy of one tile of bytes from 0x1000, or from HBM, to 0x2001, its extents 20 in the first dimension. -/
def copyRecord (space : Nat) : Nat :=
  100 + 0x10 * 2 ^ 64 + (0x1000 + space * 2 ^ 60) * 2 ^ 128 + 0x2001 * 2 ^ 192 + 0x7F * 2 ^ 269 + (20 + 18 * 2 ^ 16 + 2 ^ 32 + 2 ^ 64) * 2 ^ 320 +
    ((List.range 6).map (fun d => (1 + 2 ^ 16) * 2 ^ (96 * d + 416))).sum
def copying (space : Nat) (acc : List Access) (ph : HeatPhase) : State :=
  let x : CopyRun := { id := 4, rec_ := BitVec.ofNat 1024 (copyRecord space), issue := 7, start := 100, tiles := 2, pos := 3, seg := 9, read := [(0, [(0x2001, 0x0F, 5)])] }
  let h : Heat := { heatReset with phase := ph, origin := 5, cores := [0], pins := [(0, 3)], byTrap := true, stopS := some 90, quiet := some 104 }
  { on { coreReset with copies := [x], acc := acc } with gcount := 104, heats := [(0, h)] }
theorem witness_CopyEngine : ((copying 0 [] .running).core 0).copyOf 4 ≠ none ∧ (copying 0 [] .running).begins 0 100 = true ∧
    wordSpace (copySrc (copyRecord 0)) = 0 ∧ wordSpace (copyDst (copyRecord 0)) = 0 ∧ wordSpace (copySrc (copyRecord 1)) ≠ 0 ∧
    (copying 0 [] .stopping).begins 0 100 = false ∧
    (∀ n, n < 16 → ((banksOfBytes (tileSource (copyRecord 0) 0)).getLsbD n = true ↔ ∃ y, y ∈ tileSource (copyRecord 0) 0 ∧ bankOf y = n)) ∧
    ((copying 0 [] .running).core 0).acc = [] ∧ ((copying 0 [] .stopping).heat 0).quiet = some (copying 0 [] .stopping).gcount ∧
    (let k : Core := { (copying 0 [] .running).core 0 with badSpad := [] ++ (tileSource (copyRecord 0) 0).headD 0 :: [] }
     k.badSpad = [] ++ 0x1000 :: [] ∧ 0x1000 ∈ tileSource (copyRecord 0) 0) := by decide +kernel
/-- A tile whose two accesses met no conflict, and one whose accesses did; a copy to HBM. -/
theorem witness_CopyEngine_perform : ∀ c ∈ [none, some 99],
    let l : List Access := [⟨5, 6, 7, 0, 1, 0, 88, 103, c, 3, 9, .copySrc 4 0⟩, ⟨6, 6, 7, 0, 1, 0, 89, 104, none, 3, 9, .copyDst 4 0⟩]
    ((copying 0 l .running).core 0).acc = l ∧ l.map (fun a => a.op) = [.copySrc 4 0, .copyDst 4 0] ∧
    ((∃ a ∈ l, (a.op = .copySrc 4 0 ∨ a.op = .copyDst 4 0) ∧ a.conflictAt ≠ none) ↔ c = some 99) ∧
    wordSpace (2 ^ 60) ≠ 0 ∧ sget [] [(0, [((0x2001 : Nat), (0x0F : Byte), (5 : Byte))])] 0 = [] ++ (0x2001, 0x0F, 5) :: [] := by decide +kernel
/-- Positions in the source and out of it; a bit copy, and a copy with a scale. -/
theorem witness_CopyEngine_values : let r := copyRecord 0
    (∀ d n, [17, 0, 0, 0, 0, 0, 0][d]? = some n → n < fld r (96 * d + 336) 16) ∧ ¬18 < fld r 336 16 ∧ fld r 188 4 = 0 ∧
    fld r 256 5 = fld r 261 5 ∧ fld r 269 8 = 0x7F ∧ fld (r + 2 ^ 269) 269 8 = 0x80 ∧
    (0 : Int) ≤ 8 * (fld r 128 60 : Int) + fmtWidth (fld r 256 5) * 17 * signedVal 32 (fld r 352 32) := by
  refine ⟨fun d n h => ?_, by decide +kernel⟩
  rcases d with _ | _ | _ | _ | _ | _ | _ | d <;> first | (cases h; decide +kernel) | cases h

/-- A block of a pour stream: its header of 16 bytes with its check, then the payload. -/
def pourBlock (pt : Nat) (l : List Byte) : List Byte :=
  let h := bytesOf 12 (0x1A9E + pt * 2 ^ 26 + (16 + l.length) * 2 ^ 48 + l.length * 2 ^ 72)
  h ++ bytesOf 4 (blockCrc (h ++ [0, 0, 0, 0] ++ l)) ++ l
/-- A stream of two stored blocks of 8 bytes. -/
def pourBytes : List Byte := pourBlock 3 [1, 2, 3, 4, 5, 6, 7, 8] ++ pourBlock 3 [11, 2, 3, 4, 5, 6, 7, 9]
def pourEntry (off : Nat) : BitVec 128 := BitVec.ofNat 128 (off + (if off < 48 then 24 else 0) * 2 ^ 40 + (if off < 48 then 8 else 0) * 2 ^ 61)
/-- Its descriptor, with the source in HBM (static) or in flash, under either policy. -/
def pourDesc (space trap pt : Nat) : PourDesc :=
  { d := BitVec.ofNat 1024 (0x1000 + space * 2 ^ 60 + 2 * 2 ^ 64 + 24 * 2 ^ 96 + 10 * 2 ^ 128 + 5 * 2 ^ 160 + 48 * 2 ^ 192 + trap * 2 ^ 232 + pt * 2 ^ 233 + 50 * 2 ^ 256 + 20 * 2 ^ 288 + 6 * 2 ^ 320),
    index := [pourEntry 0, pourEntry 24, pourEntry 48], list := [] }
def pourRun : PourRun :=
  { id := 4, intake := 1, desc := 0, start := 54, block := 0, next := 0, nextExp := 0, arrivals := 0, entered := [], got := [], asked := 0, flying := 0,
    takes := [], expanded := [], books := [], tables := [], preload := [], bar := none, issue := 6, pos := 2, seg := 7, closed := false, reqs := [], counted := [] }
def pouring (r : PourRun) (p : PourDesc) (ph : HeatPhase) : State :=
  let h : Heat := { heatReset with phase := ph, origin := 5, cores := [0], pins := [(0, 4)], byTrap := true, stopS := some 90 }
  { on { coreReset with runs := [r], pours := [(0, some p)] } with gcount := 104, heats := [(0, h)] }
/-- A core at the moment of an engine command's record, at START 100. -/
def engineState (kind rest : Nat) (f : Core → Core) (ph : HeatPhase) : State :=
  let h : Heat := { heatReset with phase := ph, origin := 5, cores := [0], pins := [(0, 4)], byTrap := true, stopS := some 1 }
  let k : Core := { coreReset with acc := [oneAcc (.command kind)], spad := Memory.writeBytes [] 0x800 (bytesOf 128 (100 + kind * 2 ^ 64 + rest)), pours := [(0, some (pourDesc 1 0 3))] }
  { on (f k) with gcount := 6, heats := [(0, h)] }
/-- What the record says behind its first word, for each kind. -/
def commandRest : List (Nat × Nat) :=
  [(0x10, copyRecord 0 - 100 - 0x10 * 2 ^ 64), (0x11, 2 ^ 160), (0x12, 2 ^ 160 + 0x2000 * 2 ^ 192),
   (0x13, (0x1000 + 2 ^ 60) * 2 ^ 128 + 0x2000 * 2 ^ 192 + 32 * 2 ^ 256 + 10 * 2 ^ 270), (0x14, (0x1000 + 2 ^ 60) * 2 ^ 128 + 0x2000 * 2 ^ 192 + 32 * 2 ^ 256 + 10 * 2 ^ 270),
   (0x15, (0x1000 + 2 ^ 60) * 2 ^ 128 + 32 * 2 ^ 256), (0x16, 0x2010 * 2 ^ 128 + (0x7F00 + 4 * 2 ^ 60) * 2 ^ 192 + 5000 * 2 ^ 256),
   (0x17, (0x7F00 + 4 * 2 ^ 60) * 2 ^ 128 + 0x2010 * 2 ^ 192 + 5000 * 2 ^ 256)]
def recordOf (s : State) : Nat := natOf ((List.range 128).map (fun i => (s.core 0).spad.read (0x800 + i)))
/-- Each kind's command passes the first two checks; one that comes late, one of another kind, and one in a heat that has stopped. -/
theorem witness_AccessIssue_engines : ∀ x ∈ commandRest,
    let s := engineState x.1 x.2 (fun k => { k with runs := [{ pourRun with intake := 0, start := 35 }] }) .running
    ((s.core 0).accOf 3 = some (oneAcc (.command x.1))) ∧ (oneAcc (.command x.1)).conflictAt = none ∧ (s.core 0).badSpad = [] ∧
    ((s.core 0).runs.map (fun y => decide (y.id ≠ (s.core 0).nextId))) = [true] ∧ s.flows 0 = true ∧
    (engineState x.1 x.2 id .stopping).flows 0 = false ∧ signedVal 64 (recordOf s) = 100 ∧ ¬(100 : Int) + 0 < ((oneAcc (.command 0)).issue : Int) - 5 + 16 ∧
    (14 : Int) + 0 < ((oneAcc (.command 0)).issue : Int) - 5 + 16 ∧ s.commandLegal 0 x.1 (recordOf s) = true ∧
    fld (recordOf s) 64 8 = x.1 ∧ s.commandLegal 0 x.1 (recordOf s + 2 ^ 80) = false := by decide +kernel
/-- A busy engine and a free one; a copy over itself and one of no tile; a `TAKE` whose block is removed at its START, and one cycle later. -/
theorem witness_AccessIssue_checks : (let y : CopyRun := ⟨9, 0, 3, 98, 1, 0, 0, []⟩
      y.start ≤ 105 ∧ 105 < y.start + 16 * y.tiles ∧ ¬(89 ≤ 105 ∧ 105 < 89 + 16 * y.tiles)) ∧
    copyOverlaps (copyRecord 0) = false ∧ copyOverlaps (copyRecord 0 - 0x1001 * 2 ^ 192) = true ∧ fld (copyRecord 0 - 2 ^ 416) 416 16 = 0 ∧
    (let q (n : Nat) : PourRun := { pourRun with intake := 0, start := n }
     let s (n : Nat) := engineState 0x12 (2 ^ 160 + 0x2000 * 2 ^ 192) (fun k => { k with runs := [q n] }) .running
     ((s 35).core 0).takeRun (recordOf (s 35)) 105 = some (q 35) ∧ ((s 36).core 0).takeRun (recordOf (s 36)) 105 = none) ∧
    (let q : PourRun := { pourRun with start := 35 }
     q.start ≤ 105 ∧ 105 ≤ q.removal (pourDesc 1 0 3) ((pourDesc 1 0 3).nblk - 1) ∧ q.closed = false ∧ q.intake = 1) := by decide +kernel

theorem witness_PourArrivals : (∀ x ∈ [(1, pourRun), (2, pourRun), (2, { pourRun with asked := 24, flying := 24 }), (2, { pourRun with asked := 48 }), (2, { pourRun with bar := some 3 })],
    ((pouring x.2 (pourDesc x.1 0 3) .running).core 0).pour 4 = some (x.2, pourDesc x.1 0 3)) ∧ pourRun.id = 4 ∧
    (pouring pourRun (pourDesc 1 0 3) .running).begins 0 54 = true ∧ (pouring pourRun (pourDesc 1 0 3) .running).flows 0 = true ∧
    (pouring pourRun (pourDesc 1 0 3) .stopping).flows 0 = false ∧ (pourDesc 1 0 3).isStatic = true ∧ (pourDesc 2 0 3).isStatic = false := by
  decide +kernel
/-- Nothing left to ask for; no room; the last bytes, with room; a barrier that counts, updated in this cycle or before. -/
theorem witness_PourArrivals_requests : let p := pourDesc 2 0 3
    min p.chunk (p.total - 48) = 0 ∧ min p.chunk (p.total - 24) = 24 ∧ 24 + 24 = p.total ∧
    ({ pourRun with asked := 24 } : PourRun).fullness p + 24 + 24 = p.cap ∧
    (let q : PourDesc := { p with d := p.d - BitVec.ofNat 1024 (2 ^ 192) }
     q.cap < ({ pourRun with asked := 24 } : PourRun).fullness q + 24 + min q.chunk (q.total - 24)) := by decide +kernel
/-- An expander above the tundish: the next block of the stream, sound and corrupt; what a preload holds. -/
theorem witness_PourArrivals_expansion : let p := pourDesc 1 0 1
    p.point < 3 ∧ pourRun.nextExp = 0 ∧ 0 < p.nblk ∧ p.method 0 = 0 ∧ p.method 0 < 3 ∧ p.reason 0 (pourBlock 1 [1, 2, 3, 4, 5, 6, 7, 8]) = 0 ∧
    p.reason 0 (zeros 24) ≠ 0 ∧ 1 < ({ pourRun with preload := [0, 1] } : PourRun).preload.length ∧ pourRun.preload.length ≤ 1 := by decide +kernel
/-- A pour from the pooled memory device whose extent leads there or does not; its parked request; bytes that counted already. -/
def cxlState (r : PourRun) (valid : Nat) : State :=
  { pouring r (pourDesc 3 0 3) .running with mgmt := { mgmtReset with priv := 1, linkbActive := true, extents := [(0, BitVec.ofNat 64 (valid + 1 * 2 ^ 44))] } }
theorem witness_PourArrivals_extents : (pourDesc 3 0 3).isStatic = false ∧ fld (pourDesc 3 0 3).src 60 4 = 3 ∧
    (cxlState pourRun 1).extentAddr 0 0x1018 24 = some 0x1018 ∧ (cxlState pourRun 0).extentAddr 0 0x1018 24 = none ∧
    (let e : PourReq := ⟨0, 24, 0, 24, none, 2, true⟩
     let s := cxlState { pourRun with reqs := [e] } 1
     e.at_ = none ∧ (s.core 0).parkedAt e.tag = none ∧ (s.core 0).pourParked e.tag = some ({ pourRun with reqs := [e] }, e) ∧
     ({ pourRun with reqs := [e] } : PourRun).waitsFor (pourDesc 3 0 1) 24 = true ∧ ({ pourRun with reqs := [e] } : PourRun).waitsFor (pourDesc 3 0 3) 24 = false) ∧
    24 - 0 - (([(0, 10)] : List (Nat × Nat)).map (fun x => min x.2 24 - max x.1 0)).sum = 14 := by decide +kernel
/-- Blocks 0 and 1 complete and sound, incomplete, corrupt; named by a `TAKE` or not; under either policy. -/
theorem witness_BlockRemovals : ∀ x ∈ [(0, 0, [Take.mk 0 0x2000 3 1 0]), (1, 1, [])],
    let r : PourRun := { pourRun with next := x.1, entered := Memory.writeBytes [] 0 pourBytes, got := [(0, 48)], takes := x.2.2 }
    let p := pourDesc 1 x.2.1 3
    let s := pouring r p .running
    (s.core 0).pour 4 = some (r, p) ∧ r.id = 4 ∧ r.bar = none ∧ r.closed = false ∧ s.begins 0 r.start = true ∧ s.flows 0 = true ∧ p.point = 3 ∧
    p.isStatic = true ∧ p.method x.1 = 0 ∧ p.method x.1 < 3 ∧ r.preload = [] ∧ p.tsize x.1 ≤ r.present p x.1 ∧
    p.reason x.1 (r.entered.readBytes (p.toff x.1) (p.tsize x.1)) = 0 ∧ p.reason x.1 (Memory.readBytes [] (p.toff x.1) (p.tsize x.1)) ≠ 0 ∧
    ¬p.tsize x.1 ≤ ({ r with got := [(0, 23)] } : PourRun).present p x.1 ∧ p.trapPolicy = decide (x.2.1 = 1) ∧
    r.takes.find? (fun t => decide (t.block = x.1)) = x.2.2.head? ∧
    (0 < (p.xsize x.1 + 1023) / 1024 ∧ (p.xsize x.1 + 1023) / 1024 ≤ p.allow + 1) := by decide +kernel
/-- A block of a table whose slot is still on its way after a restart. -/
theorem witness_BlockRemovals_missed : let e (m : Nat) : BitVec 128 := BitVec.ofNat 128 (m * 2 ^ 85)
    let p : PourDesc := { pourDesc 1 0 3 with index := [e 3, e 1] }
    (p.method 1 = 1 ∨ p.method 1 = 2) ∧ ∃ i, i ∈ ({ pourRun with preload := [0] } : PourRun).preload ∧ p.method i = p.method 1 + 2 ∧ p.slot i = p.slot 1 :=
  ⟨by decide +kernel, 0, by decide +kernel, by decide +kernel, by decide +kernel⟩
/-- The pieces of a block of 1024 bytes and of 1030. -/
def pieceState (n : Nat) (poison trap : Bool) (acc : List Access) : State :=
  let x : PieceRun := { id := 7, dst := 0x1000, bytes := List.replicate n 5, first := 104, np := (n + 1023) / 1024, poison := poison, err := 0, produced := 8, trap := trap, tag := 0, issue := 3, pos := 1, seg := 2 }
  { on { coreReset with pieces := [x], acc := acc, poison := [2, 4] } with gcount := 104 }
theorem witness_BlockRemovals_pieces : (∀ n ∈ [1024, 1030], ∀ b ∈ [true, false],
    ((pieceState n b false []).core 0).pieces.map (fun y => (y.id, y.trap, y.poison, y.err)) = [(7, false, b, 0)] ∧
    ((pieceState n b false []).core 0).acc = [] ∧ ((List.replicate n (5 : Byte)).drop 0).take 1024 = List.replicate 1024 5) ∧
    ((pieceState 1030 true true []).core 0).pieces.map (fun y => y.trap) = [true] ∧
    (let y : Access := ⟨5, 6, 3, 0, 0x10, 0x1000, 104, 104, some 104, 1, 2, .piece 7 0⟩
     ((pieceState 1030 true false [y]).core 0).acc = [y] ∧ y.op = .piece 7 0 ∧ y.conflictAt ≠ none) := by decide +kernel

/-- A crucible command of 32 bytes to 0x41000, with its bank's queue and window. -/
def crucState (kind op fmt par : Nat) (ph : HeatPhase) (acc : List Access) (q : List (Nat × Nat)) (w : Option (Nat × Nat)) : State :=
  let r : BitVec 1024 := BitVec.ofNat 1024 (0x2000 * 2 ^ 192 + 32 * 2 ^ 256 + op * 2 ^ 267 + fmt * 2 ^ 270 + par * 2 ^ 288)
  let x : CrucCmd := ⟨4, kind, 0, r, 5, 104, 80, 0x41000, if kind = 0x15 then [] else bytesOf 32 0x3F, true, none, 2, 3⟩
  let h : Heat := { heatReset with phase := ph, origin := 5, cores := [0], byTrap := true, stopS := some 90 }
  let b : Bank := { bankReset with queue := q, window := w, busy := 104 }
  { on { coreReset with cruc := [x], acc := acc } with gcount := 104, heats := [(0, h)], chans := [(paChannel 0x41000, { channelReset with bank := [(paBank 0x41000, b)] })] }
theorem witness_CrucibleCommands : (∀ k ∈ [0x13, 0x14, 0x15], ((crucState k 0 10 0 .running [] [] none).core 0).crucOf 4 ≠ none ∧
      ((crucState k 0 10 0 .running [] [] none).core 0).acc = [] ∧ (crucState k 0 10 0 .running [] [] none).begins 0 104 = true ∧
      (crucState k 0 10 0 .stopping [] [] none).begins 0 104 = false) ∧
    (crucState 0x13 0 10 0 .running [] [] none).workStop 0 = none ∧ (crucState 0x13 0 10 0 .stopping [] [] none).workStop 0 = some 90 := by decide +kernel
/-- A queue of 15 commands and one of 16; an access of the command that met a conflict. -/
theorem witness_CrucibleCommands_queue : (∀ n ∈ [15, 16],
    let s := crucState 0x13 0 10 0 .running [] (List.replicate n (7, 7)) none
    (s.bank (paChannel 0x41000) (paBank 0x41000)).queue.length = n) ∧
    (let y : Access := ⟨5, 6, 5, 0, 0x10, 0x2000, 104, 104, some 104, 2, 3, .crucData 4⟩
     ((crucState 0x13 0 10 0 .running [y] [] none).core 0).acc = [y] ∧ y.op = .crucData 4 ∧ y.conflictAt ≠ none) := by decide +kernel
/-- Data and an extent in error; a window that ends before Q and one that does not; a queue with commands before and after it. -/
theorem witness_CrucibleCommands_more : (let k : Core := { coreReset with badSpad := [0x2005] }
     0x2005 ∈ k.badSpad ∧ 0x2000 ≤ 0x2005 ∧ 0x2005 < 0x2000 + 32) ∧
    (let s : State := { crucState 0x13 0 10 0 .running [] [] none with lines := [(0x41000 / 64, { lineReset with ecc := .uncorrectable })] }
     s.paStale 0x41000 = false ∧ s.lineBad (0x41000 / 64) = true ∧ 0x41000 < 64 * (0x41000 / 64) + 64 ∧ 64 * (0x41000 / 64) < 0x41000 + 32) ∧
    (∀ q ∈ [(some 121, true), (some 120, false), (none, true)],
      let s0 := crucState 0x13 0 10 0 .running [] [] none
      let s : State := { s0 with heats := [(0, { s0.heat 0 with quiet := q.1 })] }
      (s.heat (if s.mgmt.pmode = 0 then 0 else paChannel 0x41000 / 96)).quiet = q.1 ∧ s.windowRuns (paChannel 0x41000) 120 = q.2) ∧
    (let x : CrucCmd := ⟨4, 0x13, 0, 0, 5, 104, 80, 0x41000, [], true, none, 2, 3⟩
     let y : CrucCmd := { x with id := 5, issue := 4 }
     let z : CrucCmd := { x with id := 6, arrival := 81 }
     y.arrival = x.arrival ∧ y.start = x.start ∧ y.core = x.core ∧ y.issue < x.issue ∧ ¬z.arrival < x.arrival ∧ z.arrival ≠ x.arrival) := by decide +kernel
/-- The last cycle of each kind of command in a window: both widths, each operation. -/
theorem witness_CrucibleCommands_execute : ∀ x ∈ [(0x13, 0, 2), (0x13, 0, 10), (0x13, 1, 10), (0x13, 2, 8), (0x14, 0, 8), (0x15, 0, 0)],
    let s := crucState x.1 x.2.1 x.2.2 7 .running [] [(0, 4)] (some (99, 120))
    let bank := s.bank (paChannel 0x41000) (paBank 0x41000)
    bank.window = some (99, 120) ∧ bank.queue = (0, 4) :: [] ∧ bank.busy = s.gcount ∧ x.1 ∈ [0x13, 0x14, 0x15] ∧
    ((s.core 0).crucOf 4).map (fun y => (y.kind, y.arrival, y.pa, y.core, y.id)) = some (x.1, 80, 0x41000, 0, 4) ∧
    ((s.core 0).crucOf 4).map (fun y => fld y.rec_.toNat 256 11) = some 32 ∧
    ((s.core 0).crucOf 4).map (fun y => y.data.length) = some (if x.1 = 0x15 then 0 else 32) ∧ 80 ≤ 99 ∧ s.gcount ≤ 120 ∧
    s.windowRuns (paChannel 0x41000) 120 = true ∧ fmtWidth (if x.1 = 0x15 then 10 else x.2.2) ∈ [16, 32] ∧ 32 % 4 = 0 := by decide +kernel

/-- A transfer of 5,000 bytes between the host at 0x7F00 and the scratchpad, with one request. -/
def dynState (get : Bool) (next : Nat) (l : List Req) (acc : List Access) (ph : HeatPhase) : State :=
  let near := if get then 192 else 128
  let far := if get then 128 else 192
  let r : BitVec 1024 := BitVec.ofNat 1024 ((0x7F00 + 4 * 2 ^ 60) * 2 ^ far + 0x2010 * 2 ^ near + 5000 * 2 ^ 256)
  let x : DynCmd := { id := 4, get := get, remote := false, rec_ := r, issue := 3, start := 100, next := next, reqs := l, stepOpen := true, began := true, pos := 2, seg := 7, heatId := 6 }
  let h : Heat := { heatReset with phase := ph, origin := 5, cores := [0], byTrap := true, stopS := some 90 }
  { on { coreReset with dyn := [x], acc := acc } with gcount := 104, heats := [(0, h)] }
def dynReq (todo : List Nat) (st : ReqState) : Req := ⟨0, 256, todo, 0x7F00, st, List.replicate 256 0⟩
theorem witness_DynamicRequests : ∀ x ∈ [(true, 0), (true, 256), (true, 5000), (false, 256)],
    let s := dynState x.1 x.2 (if x.2 = 256 then [dynReq [] .done] else []) [] .running
    ((s.core 0).dynOf 4).map (fun y => (y.id, y.remote, y.get, y.next)) = some (4, false, x.1, x.2) ∧ s.begins 0 100 = true ∧ s.flows 0 = true ∧
    (s.core 0).outstanding < 2048 ∧ 0x7F00 + 5000 ≤ 2 ^ 60 ∧
    ((s.core 0).dynOf 4).map (fun y => y.reqs.all (fun q => decide (q.off ≠ 256) && decide (q.off + q.len ≤ 256))) = some true := by decide +kernel
/-- A request at each of its moments, the bank free and taken; a parked one; a heat that stops. -/
theorem witness_DynamicRequests_moments : (∀ q ∈ [dynReq [] .sent, dynReq [0, 240] .sent, dynReq [] .local_, dynReq [] (.parked 2 0x7F00)],
      (((dynState true 256 [q] [] .running).core 0).dynOf 4).map (fun x => x.reqAt 0) = some (some q) ∧ q.off = 0 ∧ 0 < q.len ∧ q.data.length = q.len) ∧
    ((dynState true 256 [dynReq [] (.parked 2 0x7F00)] [] .running).core 0).parkedAt 2 = some (4, 0, 0x7F00) ∧
    ((dynState true 256 [] [] .running).core 0).parkedAt 2 = none ∧ (dynState true 256 [] [] .stopping).begins 0 100 = false ∧
    (∃ a, a ∈ ((dynState true 256 [] [⟨5, 0, 5, 0, 0xFFFF, 0, 104, 104, none, 0, 0, .sload 1⟩] .running).core 0).acc ∧ a.first ≤ 104 ∧ 104 ≤ a.last ∧
      a.banks.getLsbD (bankOf (0x2010 + 240)) = true) ∧ ((dynState true 256 [] [] .running).core 0).acc = [] ∧ 240 < 0 + 256 :=
  ⟨by decide +kernel, by decide +kernel, by decide +kernel, by decide +kernel, ⟨_, List.mem_singleton.2 rfl, by decide +kernel⟩, rfl, by decide⟩
/-- Bytes of a peer that end at the scratchpad's end, and a byte beyond it; a read of its bytes that translates and one that does not. -/
theorem witness_DynamicRequests_peer : let bs : List Byte := List.replicate 16 2
    0 < bs.length ∧ 0x5FFFF0 + bs.length = 0x600000 ∧ 0x600000 < 0x5FFFF1 + bs.length ∧ (∀ y, y ∈ (coreReset).dyn → y.id ≠ coreReset.nextId) := by decide +kernel
/-- A peer's read of two rows: its first part, with the row served or not, and its last. -/
theorem witness_DynamicRequests_peerRead : ∀ l ∈ [[0, 16], [16]],
    let q : Req := ⟨0, 24, l, 0, .sent, zeros 24⟩
    let x : DynCmd := ⟨4, false, true, BitVec.ofNat 1024 ((0x13F0 + 2 ^ 60) * 2 ^ 128 + 24 * 2 ^ 256 + 7 * 2 ^ 320), 3, 100, 24, [q], false, true, 2, 7, 6⟩
    let s := mapped (on { coreReset with dyn := [x] }) [(0x1400, 9)]
    (s.core 0).dynOf 4 = some x ∧ x.remote = true ∧ x.get = false ∧ x.reqs = [q] ∧ q.st = .sent ∧ fld x.rec_.toNat 188 4 = 1 ∧ fld x.rec_.toNat 79 1 = 0 ∧
    (s.dynTranslate 0 (s.partOf 0) (fld x.rec_.toNat 128 60 + 16) false).2 = some 0x1400 ∧ 16 ∈ q.todo ∧ q.data.length = q.len ∧
    (s.dynTranslate 0 (s.partOf 0) (fld x.rec_.toNat 128 60 + 16) false).1.served 0x1400 = true ∧ 0x1400 % 1024 + 8 ≤ 1024 ∧
    (let b : Bank := { bankReset with window := some (0, 200) }
     ({ s with chans := [(paChannel 0x1400, { channelReset with bank := [(paBank 0x1400, b)] })] } : State).served 0x1400 = false) := by decide +kernel
/-- The extents of the pooled memory device, and a tag that nothing waits under. -/
theorem witness_DynamicRequests_extents : (cxlState pourRun 1).extentAddr 0 (2 ^ 21 - 1) 1 = some (2 ^ 21 - 1) ∧ (cxlState pourRun 1).extentAddr 0 (2 ^ 21) 1 = none ∧
    ((cxlState pourRun 1).core 0).parkedAt 3 = none ∧ (∀ y ∈ ((cxlState pourRun 1).core 0).runs, y.reqs = []) := by decide +kernel
/-! The front end, the host side and the module. -/

/-- Queue 65 of partition 0, its ring at 0x5000: entry 3 is a heat's packet, entry 4 a timer's of period 4096 with TIME 1500. -/
def queueState (q : Queue → Queue) (ph : HeatPhase) : State :=
  let x : Queue := { queueReset with log2n := 4, res := true, head := 3, tail := 3, base := 0x5000 }
  let ring := Memory.writeBytes (Memory.writeBytes [] (0x5000 + 192) (bytesOf 64 heatPacket)) (0x5000 + 256)
    (bytesOf 64 (2 + 0x10000 * 2 ^ 64 + 1500 * 2 ^ 256 + 4096 * 2 ^ 320))
  { mapped (on coreReset) ring with gcount := 104, heats := [(0, { heatReset with phase := ph })], fe := { feReset with queues := [(65, q x)] } }
/-- A queue of 16 entries at its limit and one beyond it; a disabled one; one at its tail. -/
theorem witness_Doorbells : let x := (queueState id .none).queue 65
    65 < 2048 ∧ 4 ≤ x.log2n.toNat ∧ x.log2n.toNat ≤ 16 ∧ (19#32 - x.head).toNat = 2 ^ x.log2n.toNat ∧ 2 ^ x.log2n.toNat < (20#32 - x.head).toNat ∧
    x.head = 3 ∧ x.head ≠ 4 ∧ x.head = x.tail ∧ ((queueState (fun x => { x with log2n := 3 }) .none).queue 65).log2n.toNat < 4 ∧ 2047 < 2048 := by
  decide +kernel
/-- The head packet passes the launch test, or does not while the partition's heat runs. -/
theorem witness_Doorbells_launch : let s1 (ph : HeatPhase) := (queueState id ph).setQueue 65 { (queueState id ph).queue 65 with tail := 4 }
    ((s1 .none).packetAt 65 3).2 = some heatPacket ∧ ((s1 .none).packetAt 65 3).1.launchable 65 heatPacket 1 = true ∧
    ((s1 .running).packetAt 65 3).2 = some heatPacket ∧ ((s1 .running).packetAt 65 3).1.launchable 65 heatPacket 1 = false ∧
    ((s1 .none).packetAt 65 3).1.heats = (s1 .none).heats := by decide +kernel
/-- What a write of the window may be; a packet whose row is served and one whose row is not; a token's landing; an evaluation under way. -/
theorem witness_Doorbells_more : (let w : W2Write := ⟨8 * (65 % 64), bytesOf 4 20⟩
     (1 : Nat) < 32 ∧ (queueState id .none).bootFailed = false ∧ w.off = 8 * (65 % 64) ∧ 1 = 65 / 64 ∧ w.data = bytesOf 4 (20 : BitVec 32).toNat) ∧
    ¬((0x200 : Nat) < 0x200 ∧ 0x200 % 8 = 0) ∧ ({ queueState id .none with mgmt := { mgmtReset with bootstat := 0x81 } } : State).bootFailed = true ∧
    (queueState id .none).fe.evals = [] ∧ (queueState (fun x => { x with tail := 4 }) .none).packetServed 65 = true ∧
    (let s := queueState (fun x => { x with tail := 4 }) .none
     let b : Bank := { bankReset with window := some (0, 200) }
     ({ s with chans := [(paChannel 0x50C0, { channelReset with bank := [(paBank 0x50C0, b)] })] } : State).packetServed 65 = false) ∧
    (let p : Pending := ⟨104, .ctl, 90, false, false, .token 65 7⟩
     let s := queueState id .none
     ({ s with cores := [(0, { s.core 0 with pend := [p] })] } : State).core 0 = { s.core 0 with pend := [p] } ∧ p.at_ = 104) ∧
    (let v : State := { queueState (fun x => { x with tail := 4 }) .running with fe := { (queueState (fun x => { x with tail := 4 }) .running).fe with evals := [⟨65, .rewritten, true, 103, none, none⟩] } }
     v.fe.evals = [⟨65, .rewritten, true, 103, none, none⟩] ∧ 103 ≤ v.gcount ∧ v.fe.pubs = [] ∧ v.mail = [] ∧ v.fe.heldRecs = [] ∧
     { v with fe := { v.fe with evals := [] } } = queueState (fun x => { x with tail := 4 }) .running) := by decide +kernel
/-- The same for a queue whose tail stands a packet ahead already. -/
theorem witness_Doorbells_reevaluation : let s := queueState (fun x => { x with tail := 4 }) .running
    let x := s.queue 65
    2 ^ x.log2n.toNat ≥ (x.tail - x.head).toNat ∧ x.head ≠ x.tail ∧ ((s.setQueue 65 x).packetAt 65 3).2 = some heatPacket ∧
    ((s.setQueue 65 x).packetAt 65 3).1.launchable 65 heatPacket 1 = false := by decide +kernel

/-- The queue at its timer packet, its timer unarmed or due now. -/
def timerState (f : Queue → Queue) : State := queueState (fun x => f { x with head := 4, tail := 5 }) .none
def timerPacket : Nat := 2 + 0x10000 * 2 ^ 64 + 1500 * 2 ^ 256 + 4096 * 2 ^ 320
theorem witness_TimersAndLogs : (let s := timerState id
     let x := s.queue 65
     (s.packetAt 65 4).2 = some timerPacket ∧ x.head.toNat = 4 ∧ 4 ≤ x.log2n.toNat ∧ x.log2n.toNat ≤ 16 ∧ x.head ≠ x.tail ∧
     fld timerPacket 0 8 = 2 ∧ x.tarm = false ∧ fld timerPacket 320 32 ≠ 0) ∧
    (∀ r ∈ [true, false], let s := timerState (fun x => { x with tarm := true, tnext := 104, run := r, res := false })
     let x := s.queue 65
     x.tarm = true ∧ x.tnext.toNat = s.gcount ∧ (s.packetAt 65 4).2 = some timerPacket ∧ x.run = r ∧ x.res = false) ∧
    (fld (2 + 1500 * 2 ^ 256) 320 32 = 0 ∧ 104 + 4096 < 2 ^ 64) := by decide +kernel
/-- Who may write HOLD; a waiting journal record with room and without, the journal 256 bytes long. -/
theorem witness_TimersAndLogs_journal : (queueState id .none).scheduler = 0 ∧ 3 ≠ (queueState id .none).scheduler ∧ 3 ≠ 128 ∧
    (1 : Word64).getLsbD 0 = true ∧ (0 : Word64).getLsbD 0 = false ∧ (queueState id .none).fe.heldDone = [] ∧ (queueState id .none).fe.heldRecs = [] ∧
    (let s (low : Word64) : State := { queueState id .none with fe := { feReset with jbase := 0x20010, jlow := low, jtail := 64, heldRecs := [⟨1, 5, 6, none⟩] } }
     ∃ size, (s 0x40).journalSize = some size ∧ (s 0x60).journalSize = some size ∧ (s 0x40).journalRoom size 32 = true ∧
       (s 0x60).journalRoom size 32 = false) :=
  ⟨by decide +kernel, by decide +kernel, by decide, by decide, by decide, by decide +kernel, by decide +kernel, _, rfl, by decide +kernel, by decide +kernel,
    by decide +kernel⟩
/-- The head packet's row served and not; a journal record that is ready, one whose page does not map and one whose row is not served. -/
theorem witness_TimersAndLogs_served : (let s := timerState id
     let b : Bank := { bankReset with window := some (0, 200) }
     s.packetServed 65 = true ∧
     ({ s with chans := [(paChannel 0x5100, { channelReset with bank := [(paBank 0x5100, b)] })] } : State).packetServed 65 = false) ∧
    (let s (base : Word64) : State := { queueState id .none with fe := { feReset with jbase := base, jlow := 0x40, jtail := 64, heldRecs := [⟨1, 5, 6, none⟩] } }
     let b : Bank := { bankReset with window := some (0, 200) }
     let u : State := { s 0x20010 with chans := [(paChannel 0x20040, { channelReset with bank := [(paBank 0x20040, b)] })] }
     ∃ size, (s 0x20010).journalSize = some size ∧ (s 0x20010).journalReady size = true ∧ (s (2 ^ 30 + 0x20010)).journalFault size 32 ≠ none ∧
       (s (2 ^ 30 + 0x20010)).journalRoom size 32 = true ∧ u.journalServed size 32 = false ∧ u.journalFault size 32 = none ∧ u.journalRoom size 32 = true) :=
  ⟨by decide +kernel, _, rfl, by decide +kernel, by decide +kernel, by decide +kernel, by decide +kernel, by decide +kernel, by decide +kernel⟩
/-- The block of a log request, sound and with an error; a request of the management function. -/
theorem witness_TimersAndLogs_submit : (let k : Core := { coreReset with fw := { fwReset with badD := [] ++ 0x105 :: [] } }
     k.fw.badD = [] ++ 0x105 :: [] ∧ (0x100 : Word64).toNat % 2 ^ 15 ≤ 0x105 ∧ 0x105 < (0x100 : Word64).toNat % 2 ^ 15 + 32) ∧
    (coreReset).fw.badD = [] ∧ 256 ≤ 256 := by decide +kernel
/-- A log request of one page, and requests that are invalid. -/
def logState (kind pages : Nat) : State :=
  { mapped (on coreReset) [(0x5000, 7)] with gcount := 104, logq := [⟨7, 0, 0x100, kind, 0x5000, pages, 1, 0, 100, false, []⟩],
                                             flash := { State.reset.flash with tail := [(1, 8192)], seq := [(1, 5)] } }
theorem witness_TimersAndLogs_append : (∀ k ∈ [(1, 1), (3, 1), (0, 1), (4, 1), (1, 0)],
    (logState k.1 k.2).logq.find? (fun x => decide (x.id = 7)) = some ⟨7, 0, 0x100, k.1, 0x5000, k.2, 1, 0, 100, false, []⟩ ∧
    (logState k.1 k.2).servedVA 0 0x5000 (4096 * k.2) = true) ∧ (logState 1 1).moduleTakes 1 (4096 * 1) = true ∧
    (let s : State := { logState 1 1 with flash := { State.reset.flash with tail := [(1, 2 ^ 41)] } }
     s.moduleTakes 1 (4096 * 1) = false) ∧
    (∃ bs, (({ logState 1 1 with logq := [] } : State).readVA 0 0x5000 4096).2 = some bs ∧ bs.length = 4096) ∧
    0 < 256 ∧ 0x100 < 2 ^ 15 - 32 := by
  refine ⟨by decide +kernel, by decide +kernel, by decide +kernel, ?_, by decide, by decide⟩
  have h : ((({ logState 1 1 with logq := [] } : State).readVA 0 0x5000 4096).2.map List.length) = some 4096 := by decide +kernel
  cases hb : (({ logState 1 1 with logq := [] } : State).readVA 0 0x5000 4096).2 with
  | none => rw [hb] at h; cases h
  | some bs => rw [hb] at h; exact ⟨bs, rfl, Option.some.inj h⟩

/-- A request half read, and one all read; the management function's kinds. -/
theorem witness_TimersAndLogs_lines : (let s : State := { logState 1 1 with logq := [⟨7, 0, 0x100, 1, 0x5000, 1, 1, 0, 100, false, [zeros 64]⟩] }
     let m := min (64 - (0x5000 + 64) % 64) (4096 - 64)
     m = 64 ∧ s.servedVA 0 (0x5000 + 64) m = true ∧ (s.readVA 0 (0x5000 + 64) m).2 = some (zeros 64) ∧ (s.readVA 0 (2 ^ 30) 64).2 = none ∧
     (let b : Bank := { bankReset with window := some (0, 200) }
      ({ s with chans := [(paChannel 0x5040, { channelReset with bank := [(paBank 0x5040, b)] })] } : State).servedVA 0 (0x5000 + 64) m = false)) ∧
    ((List.replicate 64 (zeros 64)).map List.length).sum = 4096 ∧ 256 ≤ 256 ∧ (6 = 4 ∨ 6 = 6) := by decide +kernel
/-- The registers while a heat runs and while none does; a key slot in use; every translation named and one queue's. -/
theorem witness_Registers : (∃ p, p < 4 ∧ ((queueState id .running).heat p).phase = .running) ∧
    (∀ p, p < 4 → ((queueState id .none).heat p).phase = .none) ∧ 2047 < 2048 ∧ (1 : Word64).getLsbD 0 = true ∧ (2 : Word64).getLsbD 0 = false ∧
    (let r := sget patrolReset (patrolState 1 1 9 false []).patrol 0
     r.state ≠ 0 ∧ r.cur.toNat = 1 ∧ r.next.toNat = 2) ∧ (sget patrolReset State.reset.patrol 0).state = 0 ∧
    (let s : State := { State.reset with cache := [(1, 0, 5), (2, 0, 6)], mgmt := { mgmtReset with inval := [(1, BitVec.allOnes 64)], invalQ := [(1, [BitVec.allOnes 64, 5])] } }
     sget [] s.mgmt.invalQ 1 = BitVec.allOnes 64 :: [5] ∧ sget [] s.mgmt.invalQ 2 = [] ∧ s.fe.heldRecs = [] ∧ sget 0 s.mgmt.inval 1 = BitVec.allOnes 64 ∧ (2, 0, 6) ∈ s.cache ∧ (2, 0, 6).1 % 4 ≠ 1) :=
  ⟨⟨0, by decide, by decide +kernel⟩, by decide +kernel⟩

/-- Function 1 with its window onto partition 0. -/
def hostState (f : Bank → Bank) : State :=
  { mapped (on coreReset) [(0x40, 0xFF), (0x41, 1)] with gcount := 104, chans := [(0, { channelReset with bank := [(0, f bankReset)] })] }
/-- Reads and writes of three bytes that translate, and one that does not; a channel without a running timeline. -/
theorem witness_HostAccess : let s := hostState id
    s.mail = [] ∧ paChannel 0x40 = 0 ∧ paBank 0x40 = 0 ∧ s.paStale 0x40 = false ∧ 0 < 3 ∧ 0x40 % 1024 + 3 ≤ 1024 ∧
    s.windowAccess 1 0x40 3 true = some [(0x40, 3)] ∧ s.windowAccess 1 0x40 3 false = some [(0x40, 3)] ∧
    s.windowAccess 1 (2 ^ 38) 3 true = none ∧ s.windowAccess 1 (2 ^ 38) 3 false = none ∧ s.timelineBusy 0 = false ∧
    s.atomicTarget 1 0x40 .swap 8 = some 0x40 ∧ s.atomicTarget 1 0x40 .other 8 = none := by decide +kernel
theorem witness_HostAccess_atomics : ∀ x ∈ [(AtomicKind.fetchAdd, 4), (.swap, 8), (.cas, 8)],
    let s := hostState (fun b => { b with atomics := [⟨1, x.1, x.2, 0x40, 5, 0x1FF, 9, some .a, true⟩] })
    (s.bank 0 0).atomics = [⟨1, x.1, x.2, 0x40, 5, 0x1FF, 9, some .a, true⟩] ∧ (s.bank 0 0).window = none ∧ s.timelineBusy 0 = false ∧ 0x40 % x.2 = 0 ∧
    (x.2 = 4 ∨ x.2 = 8) ∧ x.1 ≠ .other := by decide +kernel
/-- A row that is not served, an access behind one that waits, a window that opens now, a timeline that runs, a link that falls. -/
theorem witness_HostAccess_waits : (let s := hostState (fun b => { b with window := some (104, 120) })
     s.servedAll [(0x40, 3)] = false ∧ (hostState id).servedAll [(0x40, 3)] = true ∧ (s.bank 0 0).window = some (104, 120) ∧ 104 + 1 ≤ 120 ∧
     (s.bank 0 0).busy < s.gcount ∧ (s.bank 0 0).queue = [] ∧ (s.bank 0 0).atomics = [] ∧ ((hostState id).chan 0).svc = none ∧
     s.servedAll (s.mailRanges ⟨⟨1, .a⟩, .write 0x40 [1, 2, 3]⟩) = false) ∧
    (let h : Heat := { heatReset with phase := .running, timelines := [⟨0, 900, [], []⟩] }
     let s : State := { hostState id with heats := [(0, h)] }
     s.timelineBusy 0 = true ∧ (s.bank 0 0).lentNow 104 = false ∧ s.windowComes 0 0 100 = false ∧
     (({ s with chans := [(0, { channelReset with bank := [(0, { bankReset with lent := some 150 })] })] } : State).bank 0 0).lentNow 104 = true) ∧
    ({ hostState id with mgmt := { (hostState id).mgmt with bootstat := 0x83 } } : State).bootFailed = true ∧ ¬(31 : Nat) ≥ 32 ∧
    (∀ l, (hostState id).tagGood l = true) := ⟨by decide +kernel, by decide +kernel, by decide +kernel, by decide, fun l => rfl⟩
/-- A function whose heat runs. -/
theorem witness_HostAccess_reset : let h : Heat := { heatReset with phase := .running, queue := 65, hasPacket := true, origin := 50 }
    let s : State := { hostState id with heats := [(0, h)] }
    1 < 32 ∧ s.fe.resets = [] ∧ s.parked = [] ∧ (s.heat 0).queue / 64 = 1 ∧ (s.heat 0).hasPacket = true ∧ (s.heat 0).phase = .running ∧
    (s.heat 0).origin ≤ s.gcount ∧ (∀ q, q < 4 → q ≠ 0 → (s.heat q).queue / 64 ≠ 1) := by decide +kernel
/-- A function none of whose queues launched a heat, at the top of the range; a link whose other link is up. -/
theorem witness_HostAccess_functions : 31 < 32 ∧ (∀ p, p < 4 → ((hostState id).heat p).queue / 64 ≠ 31) ∧ (hostState id).parked = [] ∧
    ({ hostState id with mgmt := { mgmtReset with linkB := 1 } } : State).mgmt.linkB ≠ 0 := by decide +kernel

/-- Nonces that wait: before an index is taken and after, with the last index and with none left. -/
def attestState (i : Nat) (tk : Option Nat) : State := { State.reset with attest := { State.reset.attest with waiting := [(1, 7)], index := i, taken := tk } }
theorem witness_Attestation : (∀ i ∈ [5, 2 ^ 20 - 1], (attestState i none).attest.waiting = (1, 7) :: [] ∧ (attestState i none).attest.taken = none ∧
      (attestState i none).attest.index < 2 ^ 20 ∧ (attestState i none).protectModule = some 0) ∧
    2 ^ 20 ≤ (attestState (2 ^ 20) none).attest.index ∧ (attestState 5 (some 4)).attest.taken = some 4 ∧ State.reset.attest.waiting = [] := by decide +kernel

/-- No firmware image in the directory, and one; a power state; the inlet's resets. -/
def moduleState (dir : List DirRec) (rst : Bool) (ring tsrc : Word64) : State :=
  { State.reset with gcount := 104, cores := [(0, { coreReset with fw := { fwReset with mode := .chilled } })], mgmt := { mgmtReset with inReset := rst },
                     flash := { State.reset.flash with dir := dir },
                     trace := { traceReset with queue := [(2, 5, 9)], base := [(2, ring)], head := [(2, 2 ^ 26 - 64)], tsrc := tsrc } }
def imageRecord : DirRec := ⟨0, BitVec.ofNat 512 (0x2F4A + 6 * 2 ^ 16 + 0x1000 * 2 ^ 128)⟩
theorem witness_ModuleEvents : newestFirmware (moduleState [] false 0 0).flash = none ∧
    (moduleState [imageRecord] false 0 0).mgmt.absentNext.contains (.flash, 0) = false ∧
    newestFirmware (moduleState [imageRecord] false 0 0).flash = some imageRecord ∧ 255 < 256 ∧ (UnitKind.core, 255) ∉ mgmtReset.absentNext ∧
    (∀ p, p < 4 → ((moduleState [] false 0 0).heat p).phase = .none) ∧ (moduleState [] false 0 0).parked = [] ∧
    (moduleState [] false 0 0).mgmt.inReset = false ∧ (moduleState [] true 0 0).mgmt.inReset = true ∧ ((moduleState [] true 0 0).core 0).fw.mode = .chilled := by
  decide +kernel
/-- A trace ring that is off, one with room and its head near the end; time sources at the ends of their range and out of it. -/
theorem witness_ModuleEvents_trace : let s := moduleState [] false 0x40000001 19
    s.trace.queue.find? (fun x => decide (x.1 = 2)) = some (2, 5, 9) ∧ (sget 0 (moduleState [] false 0 1).trace.base 2).getLsbD 0 = false ∧
    (sget 0 s.trace.base 2).getLsbD 0 = true ∧ sget 0 s.trace.pendDrop 2 = 0 ∧ sget 0 s.trace.head 2 = 2 ^ 26 - 64 ∧ (2 ^ 26 - 64) % 32 = 0 ∧
    sget 0 s.trace.tail 2 = 0 ∧ (2 ^ 26 - 64 + 32) % 2 ^ 26 ≠ 0 ∧ s.paStale (fld (0x40000001 : Nat) 26 14 * 2 ^ 26 + (2 ^ 26 - 64)) = false ∧
    s.trace.tsrc.toNat = 19 ∧ (moduleState [] false 0 1).trace.tsrc.toNat = 1 ∧ (moduleState [] false 0 0).trace.tsrc.toNat = 0 ∧
    19 < (moduleState [] false 0 20).trace.tsrc.toNat := by decide +kernel

/-! The machine as a whole. -/

/-- A core at a legal bundle and a firmware context at one, the issue of each at 110 at the head of the agenda. -/
def stepState (i : Instr) : State :=
  let hf : Half := { halfReset with valid := true, hdr := 0x1000, bundles := [goodBundle] }
  let f : FwCtx := { fwReset with mode := .running, due := 110, imem := Memory.writeBytes [] 0 (bytesOf 48 fwBundle.toNat) }
  let k : Core := { coreReset with seq := { seqReset with dom := .static, due := 110 }, half0 := hf, lq := [4], fw := f }
  { on k with gcount := 104, agenda := [⟨110, i⟩] }
theorem witness_StepRunsDecoded : let s := stepState (.bundleIssue 0)
    let s1 : State := { s with gcount := 110, agenda := [] }
    let k := s1.core 0
    s.agenda = ⟨110, .bundleIssue 0⟩ :: [] ∧ k.seq.due = s1.gcount ∧ k.issues = true ∧ k.unheld = true ∧ k.barred s1.gcount = false ∧ k.seq.bad = none ∧
    (k.half k.seq.half).rec_ = none ∧ (k.half k.seq.half).bundles[k.seq.pos]? = some goodBundle ∧ (s1.heat (s1.partOf 0)).cutK = none ∧
    (decodeHeader goodBundle).map (fun h => h.restart) = some false ∧
    (∀ p ∈ [(Slot.sca, Instr.add g0 1 2 3), (.vec, .nop .vec), (.mat, .nop .mat), (.prm, .nop .prm), (.mem, .lqpop g0 3), (.ctl, .halt g0)],
      decodeSyl p.1 (syl goodBundle p.1) = some p.2 ∧ p.2.legalCompute = true ∧ k.namesOk p.2 = true ∧
      ({ s1 with cur := { core := 0, fw := false, pos := 0, seg := 0x1000 } } : State).slotFault 0 p.2 = none) := by decide +kernel
theorem witness_StepRunsDecoded_firmware : let s := stepState (.firmwareBundleIssue 0)
    let s1 : State := { s with gcount := 110, agenda := [] }
    let f := (s1.core 0).fw
    s.agenda = ⟨110, .firmwareBundleIssue 0⟩ :: [] ∧ f.mode = .running ∧ f.due = s1.gcount ∧ s1.mgmt.inReset = false ∧
    (s1.core 0).seq.lastIssue ≠ some s1.gcount ∧ f.usedIn s1.gcount < f.fshare ∧ f.pos < 682 ∧ f.badI.contains f.pos = false ∧
    f.bundleAt f.pos = fwBundle ∧ fld fwBundle.toNat 0 32 = 0 ∧
    (∀ p ∈ [(Slot.sca, Instr.add g0 1 2 3), (.vec, .nop .vec), (.mat, .nop .mat), (.prm, .nop .prm), (.mem, .nop .mem), (.ctl, .chill g0)],
      decodeSyl p.1 (syl fwBundle p.1) = some p.2 ∧ p.2.legalFirmware = true) := by decide +kernel
/-- The same bundle marked for a restart, and one whose registers have an error; a firmware context whose target lies beyond its code. -/
theorem witness_StepRunsDecoded_marked : let b : Bundle := goodBundle ||| 0xC0
    let s : State := { stepState (.bundleIssue 0) with gcount := 110, agenda := [], cur := { core := 0, fw := false, pos := 0, seg := 0x1000 } }
    (decodeHeader b).map (fun h => h.restart) = some true ∧ s.regError 0 goodBundle = none ∧
    ({ s with cores := [(0, { s.core 0 with badReg := [(0, 2)] })] } : State).regError 0 goodBundle = some 2 ∧
    ((stepState (.firmwareBundleIssue 0)).core 0).fw.away = none := by decide +kernel
/-- No event ahead; an event that issues nothing; one that faults. -/
theorem witness_StepRunsDecoded_events : ({ stepState (.bundleIssue 0) with agenda := [] } : State).agenda = [] ∧
    (after (.inletWarning) (stepState .inletWarning)).slots = [] ∧ (after (.inletWarning) (stepState .inletWarning)).issuing = none ∧
    exec (.shli g0 1 2 64) (stepState .inletWarning) = .fault (.illFormed (.shli g0 1 2 64)) := by
  refine ⟨rfl, by decide +kernel, by decide +kernel, ?_⟩
  rfl
/-- A well-formed operation of each slot, and the word of one. -/
theorem witness_Encoding : (∀ i ∈ [Instr.add g 1 2 3, .vadd g 2 1 2 3, .mma g 1 2 3 8 0 0, .vcvt g 10 1 2 8 0 false, .vld g 1 2, .halt g],
    i.slot?.isSome = true ∧ i.wf = true) ∧ 8 < 2 ^ slotWidth .ctl ∧ decodeSyl .ctl 8 = some (.halt g0) := by decide +kernel
theorem witness_EveryInstructionAnswers : (Instr.add g 1 2 3).wf = true ∧
    (State.reset.core State.reset.cur.core).namesOk (.add g 1 2 3) = true ∧ (Instr.shli g0 1 2 64).wf = false := by decide +kernel
theorem witness_MgmtLegalKept : MgmtLegal State.reset ∧ ∃ t, step State.reset = .next t :=
  ⟨⟨by decide +kernel, by decide +kernel, fun p v h => absurd h (List.not_mem_nil), fun p v h => absurd h (List.not_mem_nil)⟩, _, rfl⟩
/-! What restarts, prefetches, waits, heats and requests may meet besides. -/

/-- A return whose branch a restart mark has shadowed, still without its target, and one whose mark came before the branch. -/
def returningMarked (b : Option (Target × Nat)) : Core :=
  { returning with shadow := some { heat := 0, seq := { seqReset with branch := b }, a := [], sched := 0, sigma := 0, segHdr := 0, y := [], bar := [], pours := [] } }
theorem witness_Branches_marked : ∀ b ∈ [some ((⟨0, 0, 0, false⟩ : Target), 2), none],
    let k := (on (returningMarked b)).core 0
    k.accOf 3 = some (oneAcc .callLoad) ∧ k.seq.branch = some (⟨0, 0, 0, false⟩, 2) ∧ k.shadow.map (fun x => x.seq.branch) = some b ∧ k.badSpad = [] := by
  decide +kernel
/-- A line of code that is read: sound, of a stale row group, with a tag that fails, in error; a walk that reads table entries. -/
theorem witness_BundleIssue_lines : let s := fetchState 0x1210 true []
    let line (m : LineMeta) : State := { s with lines := [(0x1210 / 64, m)] }
    s.walkMeets 0 0x1210 = s ∧ s.paStale 0x1210 = false ∧ (line ⟨0, some 0, .good, false, false⟩).tagGood (0x1210 / 64) = false ∧
    (line ⟨0, some 0, .good, false, false⟩).walkMeets 0 0x1210 = line ⟨0, some 0, .good, false, false⟩ ∧
    (line ⟨0, none, .uncorrectable, false, true⟩).tagGood (0x1210 / 64) = true ∧ (line ⟨0, none, .uncorrectable, false, true⟩).lineBad (0x1210 / 64) = true ∧
    (line ⟨0, none, .uncorrectable, false, true⟩).paStale 0x1210 = false ∧
    (let t : State := { s with chans := [(paChannel 0x1210, { channelReset with stale := [8192 * paBank 0x1210 + paRow 0x1210 / 8] })] }
     t.paStale 0x1210 = true ∧ t.served 0x1210 = true ∧ t.walkMeets 0 0x1210 = t ∧ t.translate 0 0x1210 false = some 0x1210 ∧ 0x1210 % 64 = 0x1210 % 64) := by
  decide +kernel
/-- A bundle that holds a parting line of cut 3, and a heat in which K = 2 stands. -/
def partingBundle : Bundle := bundle (2 ^ 7 + 3 * 2 ^ 8) [.add g0 1 2 3]
def partingState (q : Seq → Seq) (cutK : Option Nat) : State :=
  let hf : Half := { halfReset with valid := true, hdr := 0x500, bundles := [0, partingBundle, partingBundle] }
  let h : Heat := { heatReset with phase := .stopping, origin := 5, cores := [0], stopReq := some 8, cutNext := 2, cutK := cutK }
  { on { coreReset with seq := q { seqReset with dom := .static, pos := 1, due := 200 }, half0 := hf } with gcount := 116, heats := [(0, h)] }
theorem stopPoint_parting (q : Seq → Seq) (due : Nat) (r : 104 ≤ due) (a : ((partingState q (some 2)).core 0).faultAt = none)
    (b : ((partingState q (some 2)).core 0).pipelined = false) (c : ((partingState q (some 2)).core 0).bundleAt = some partingBundle)
    (d : (decodeHeader partingBundle).map (fun x => ((partingState q (some 2)).core 0).stopsAt 2 x) = some true) :
    StopPoint ((partingState q (some 2)).heat 0) ((partingState q (some 2)).core 0) due := by
  obtain ⟨x, hx, hd⟩ := Option.map_eq_some_iff.1 d
  exact ⟨a, b, ⟨8, rfl, r⟩, partingBundle, x, c, hx, hd⟩
/-- A wait that ends at the core's stop point, the core held by a fence besides or not; the deadline of one that stopped ahead. -/
theorem witness_WaitReleases_stops : let s := partingState (fun q => { q with hold := .waita 1 none }) (some 2)
    (s.heat 0).cutK.isSome = true ∧ (s.heat 0).phase = .stopping ∧ (s.core 0).issues = true ∧ (s.core 0).seq.hold = .waita 1 none ∧
    StopPoint (s.heat 0) (s.core 0) (116 + (s.core 0).nextGap) ∧
    (let k := (partingState (fun q => { q with hold := .waitd 1 (some 3) 116 0 0, dom := .stopped, stopLine := some (1, 0), stopAt := 116 }) (some 2)).core 0
     k.seq.dom = .stopped ∧ k.seq.stopLine ≠ none ∧ 116 ≤ k.seq.stopAt) :=
  ⟨by decide +kernel, by decide +kernel, by decide +kernel, by decide +kernel,
    stopPoint_parting _ _ (by decide +kernel) (by decide +kernel) (by decide +kernel) (by decide +kernel) (by decide +kernel), by decide +kernel⟩
/-- A class-9 trap in a partition in which a heat is parked, another one's parked before it. -/
theorem witness_TakingATrap_parked : let y : Heat := { heatReset with phase := .trapped, queue := 3 }
    let s : State := { on coreReset with parked := [(1, heatReset), (0, y)] }
    (s.heat 0).phase = .none ∧ s.parked = [(1, heatReset)] ++ (0, y) :: [] ∧ (∀ z ∈ [(1, heatReset)], z.1 ≠ 0) := by decide +kernel
/-- The end of a segment: the last one, one whose follower is resident and one whose follower is not; the next bundle a stop point. -/
def endState (f : Half → Half) (y : Half) : State :=
  let hf : Half := { halfReset with valid := true, hdr := 0x500, bundles := [0, 0], endOff := 40, next := 0x900 }
  { on { coreReset with seq := { seqReset with dom := .static, pos := 1 }, half0 := f hf, half1 := y } with gcount := 104 }
theorem witness_SequencerAdvance_ends : let y : Half := { halfReset with valid := true, hdr := 0x900, bundles := [goodBundle] }
    (∀ x ∈ [endState (fun h => { h with lastSeg := true }) halfReset, endState id halfReset, endState id y, endState id { y with lastSeg := true }],
      let k := x.core 0
      k.issues = true ∧ k.unheld = true ∧ k.half0.busy = false ∧ k.half0.rec_ = none ∧ k.seq.stopLine = none ∧ k.seq.branch = none ∧ k.seq.loops = [] ∧
      k.half0.bundles.length ≤ k.seq.pos + 1 + k.seq.skip ∧ (x.heat (x.partOf 0)).cutK = none ∧ k.seq.half = false) ∧
    ((endState (fun h => { h with lastSeg := true }) halfReset).core 0).half0.lastSeg = true ∧ ((endState id halfReset).core 0).half1.valid = false ∧
    ((endState id y).core 0).half1 = y ∧ y.valid = true ∧ y.busy = false ∧ y.bundles ≠ [] ∧ y.rec_ = none := by decide +kernel
theorem witness_SequencerAdvance_stops : let s := partingState (fun q => { q with pos := 1 }) (some 2)
    let t := partingState (fun q => { q with pos := 2, due := 117 + 0 }) (some 2)
    (s.core 0).issues = true ∧ (s.core 0).unheld = true ∧ 1 + 1 + 0 < (s.core 0).half0.bundles.length ∧ (s.heat 0).cutK.isSome = true ∧ (s.heat 0).phase = .stopping ∧
    (t.core 0).seq = { (s.core 0).seq with pos := 2, due := 117 } ∧ (t.core 0).half0 = (s.core 0).half0 ∧ StopPoint (t.heat 0) (t.core 0) 117 :=
  ⟨by decide +kernel, by decide +kernel, by decide +kernel, by decide +kernel, by decide +kernel, by decide +kernel, by decide +kernel,
    stopPoint_parting _ _ (by decide) (by decide +kernel) (by decide +kernel) (by decide +kernel) (by decide +kernel)⟩
/-- One breach of each rule but 15 and 19, which no single command breaks, at cycle 104 in bank 3. -/
theorem witness_TimelineRules_breaches : ∀ x ∈ [(chanWith { bankReset with act := some 70, row := some 5 }, 2, 0, 1, some 70), (chanWith { bankReset with act := some 80, row := some 5 }, 3, 0, 2, some 80),
      (chanWith { bankReset with act := some 22 }, 4, 0, 3, some 22), (chanWith { bankReset with pre := some 70 }, 6, 0, 4, some 70), (chanWith { bankReset with act := some 0 }, 1, 0, 5, some 0),
      ({ chanWith bankReset with acts0 := [100] }, 1, 0, 6, some 100), ({ chanWith bankReset with acts0 := [90, 80, 70, 65] }, 1, 0, 7, some 65),
      ({ chanWith { bankReset with row := some 5 } with rd0 := some 102, wr0 := some 101 }, 2, 0, 8, some 102), (chanWith { bankReset with rd := some 95 }, 4, 0, 9, some 95), (chanWith { bankReset with wr := some 65 }, 4, 0, 10, some 65),
      ({ chanWith { bankReset with row := some 5 } with wr0 := some 85 }, 2, 0, 11, some 85), ({ chanWith { bankReset with row := some 5 } with rd0 := some 97 }, 3, 0, 12, some 97),
      (chanWith { bankReset with ref := some 4 }, 5, 7, 13, some 4), ({ chanWith bankReset with refAt := [(8192 * 3 + 7, some 5)] }, 5, 7, 14, some 5),
      (chanWith { bankReset with row := some 6 }, 2, 0, 16, none), (chanWith { bankReset with row := some 6 }, 6, 0, 17, none), (chanWith { bankReset with window := some (90, 104) }, 7, 8, 18, none),
      (chanWith { bankReset with lent := some 104, row := some 5 }, 2, 0, 18, none), ({ chanWith { bankReset with row := some 5 } with stale := [8192 * 3 + 0] }, 3, 0, 20, none)],
    ruleBroken x.1 x.2.1 3 5 x.2.2.1 104 = some (x.2.2.2.1, x.2.2.2.2) := by decide +kernel
/-- The end of a heat beside a journal of 65,536 bytes: with room, without, and with room for one record alone; its packet names a token. -/
def journalled (low : Word64) (hold : Bool) : State :=
  let s := heatState .running 54 .halted hold (heatPacket + 9 * 2 ^ 192 + 66 * 2 ^ 224)
  { s with fe := { s.fe with jbase := 0x20010, jlow := low, jtail := 64 } }
def journalEnded (low : Word64) (hold : Bool) : State :=
  let s := journalled low hold
  s.setHeat 0 { s.heat 0 with phase := .ended, stopReq := none, cutK := none, stopS := none, quiet := none, endStatus := none }
theorem witness_HeatRuns_journal : ∀ b ∈ [true, false], let s := journalled 0x40 b
    s.journalSize = some 65536 ∧ s.fe.heldRecs = [] ∧ s.fe.hold = b ∧ s.fe.pubs = [] ∧ (s.heat 0).muted = false ∧
    (journalEnded 0x60 b).journalRoom 65536 32 = false ∧ fld (s.heat 0).packet.toNat 192 32 = 9 ∧ fld (s.heat 0).packet.toNat 224 11 = 66 := by decide +kernel
theorem witness_HeatRuns_journalReady : (journalEnded 0x40 true).journalReady 65536 = true ∧ (journalEnded 0x40 false).journalReady 65536 = true := by decide +kernel
theorem witness_HeatRuns_journalAddress : let s := journalled 0x40 false
    s.translate (s.partOf s.scheduler) (s.journalBase + 64) true = some (0x20000 + 64) ∧ s.paStale (0x20000 + 64) = false ∧ s.paStale (0x20000 + 95) = false := by decide +kernel
/-- The same after the COMPLETE record, and after all that goes before the PUBLISH record. -/
def journalCompleted (low : Word64) : State := (journalEnded low false).journalPut 65536 (hardwareRecord 2 (BitVec.ofNat 64 65) (BitVec.ofNat 64 (104 * 2 ^ 16)))
def journalCompletion : Completion := ⟨65, 0, ((journalled 0x40 false).heat 0).packet, 0, 104, 0, 0, false, false⟩
def journalTold (low : Word64) : State := (((journalCompleted low).completionWord journalCompletion).deliverToken 66 9).emit (.interrupt 1 65)
theorem witness_HeatRuns_journalTold : (journalCompleted 0x40).wordServed journalCompletion = true ∧ (journalEnded 0x80 false).journalRoom 65536 32 = true ∧
    (journalTold 0x80).journalRoom 65536 32 = false := by decide +kernel
theorem witness_HeatRuns_journalRoom : (journalTold 0x40).journalReady 65536 = true := by decide +kernel
/-- A heat to be armed, to slip to its cuts, or to be ended; a bit that waits, one of a page that is not mapped, one of a line in error, none. -/
def bitState (pa : Option Nat) (l : List (Nat × LineMeta)) : State :=
  { heatState .ended 54 .halted false heatPacket with lines := l, bits := [⟨1, 54, 2, 3, 104, none⟩] ++ ⟨0, 54, 2, 3, 104, pa⟩ :: [] }
theorem witness_HeatRuns_bits : (∀ x ∈ [(none, []), (some 0x51002, []), (some 0x51002, [(0x51002 / 64, (⟨0, none, .uncorrectable, false, true⟩ : LineMeta))])],
    let s := bitState x.1 x.2
    s.bits = [⟨1, 54, 2, 3, 104, none⟩] ++ ⟨0, 54, 2, 3, 104, x.1⟩ :: [] ∧ (∀ y ∈ ([⟨1, 54, 2, 3, 104, none⟩] : List BitWrite), ¬(y.part = 0 ∧ y.group = 2 ∧ y.iter = 3 ∧ y.at_ ≤ 104)) ∧
    s.paStale 0x51002 = false ∧ (s.hbmFault 0x51002 1).isSome = !x.2.isEmpty ∧ 104 ≤ s.gcount ∧ ∀ w ∈ s.bits, ¬(w.part = 0 ∧ w.group = 2 ∧ w.iter = 4 ∧ w.at_ ≤ 104)) := by decide +kernel
theorem witness_HeatRuns_others : (let s := heatState .arming 105 .notStarted false heatPacket
     (s.heat 0).phase = .arming ∧ (s.heat 0).image = [] ∧ ∀ w ∈ s.bits, ¬(w.part = 0 ∧ w.heat = (s.heat 0).origin)) ∧
    (let y : Heat := { heatReset with phase := .trapped, queue := 3, endStatus := some 2 }
     let s : State := { heatState .ended 105 .notStarted true heatPacket with parked := [(0, heatReset)] ++ (0, y) :: [] }
     (s.heat 0).phase = .ended ∧ s.parked = [(0, heatReset)] ++ (0, y) :: [] ∧ (∀ y ∈ [(0, heatReset)], y.1 = 0 → y.2.endStatus = none) ∧ y.endStatus = some 2 ∧
     s.journalSize = none ∧ s.fe.hold = true) ∧
    (let hf : Half := { halfReset with valid := true, hdr := 0x500, bundles := [partingBundle] }
     let s0 := heatState .armed 105 .notStarted false heatPacket
     let k : Core := { s0.core 0 with half0 := hf, task := true, startAt := 107 }
     let s : State := { s0 with cores := [(0, k)], heats := [(0, { s0.heat 0 with stopReq := some 8, cutNext := 2, cutK := some 2 })] }
     (s.heat 0).stopReq.isSome = true ∧ (s.heat 0).cutK.isSome = true ∧ (s.heat 0).cores.Nodup ∧ (∀ c ∈ (s.heat 0).cores, s.partOf c = 0) ∧
     (s.core 0).seq.dom = .notStarted ∧ (s.core 0).task = true ∧ StopPoint (s.heat 0) (s.core 0) ((s.core 0).startAt + (s.core 0).nextGap)) := by
  refine ⟨by decide +kernel, by decide +kernel, ?_⟩
  exact ⟨by decide +kernel, by decide +kernel, by decide +kernel, by decide +kernel, by decide +kernel, by decide +kernel, by decide +kernel, by decide +kernel,
    ⟨8, rfl, by decide +kernel⟩, partingBundle, ⟨3, true, false, 0⟩, by decide +kernel, by decide +kernel, by decide +kernel⟩
theorem witness_Arming_tags : ∀ l, ((heatState .arming 2000 .notStarted false heatPacket).readImage 0 0x10000 maxRows []).1.tagGood l = true := by
  intro l
  have h : ((heatState .arming 2000 .notStarted false heatPacket).readImage 0 0x10000 maxRows []).1.lines = [] := by decide +kernel
  simp only [State.tagGood, h, sfind]
/-- The cut reaches a core whose next bundle is its stop point; a save area that waits for its row's service. -/
theorem witness_HeatStops_points : let s := { partingState id none with gcount := 104 }
    (s.heat 0).stopReq = some 8 ∧ (s.heat 0).phase = .stopping ∧ (s.heat 0).cores.Nodup ∧ (s.core 0).nextDue = some 200 ∧
    (s.core 0).seq.lastIssue.getD (8 + 96) = 104 ∧ StopPoint (s.heat 0) (s.core 0) 200 ∧ ¬StopPoint (s.heat 0) (s.core 0) 103 :=
  ⟨by decide +kernel, by decide +kernel, by decide +kernel, by decide +kernel, by decide +kernel,
    ⟨by decide +kernel, by decide +kernel, ⟨8, rfl, by decide⟩, partingBundle, ⟨3, true, false, 0⟩, by decide +kernel, by decide +kernel, by decide +kernel⟩,
    fun h => by obtain ⟨r, hr, hd⟩ := h.2.2.1; cases hr; omega⟩
/-- A heat at its cut whose image has a task, for which a save area is written, and whose row is not served. -/
def oneTask : List Byte :=
  bytesOf 64 (0x7E485358 + 2 ^ 32 + 0xABC * 2 ^ 64 + 2 ^ 96 + 2000 * 2 ^ 128 + 2 ^ 192 + 2 * 2 ^ 208) ++ bytesOf 32 (1 + 96 * 2 ^ 64)
theorem foldl_grows (f : Nat → Nat → Nat) (h : ∀ a c, a ≤ f a c) (l : List Nat) : ∀ a, a ≤ l.foldl f a := by
  induction l with
  | nil => exact fun a => Nat.le_refl a
  | cons c l ih => exact fun a => Nat.le_trans (h a c) (ih _)
theorem saveSize_oneTask : 65536 ≤ saveSize oneTask := by
  have h0 : (imgCores oneTask).contains 0 = true := by decide +kernel
  have hr : List.range Config.cores = 0 :: (List.range 255).map Nat.succ := by decide +kernel
  have hx : ∀ x, 65536 ≤ x → 65536 ≤ (x + 65535) / 65536 * 65536 := by omega
  apply hx
  rw [hr, List.foldl_cons]
  exact Nat.le_trans (by simp only [h0, if_true]; omega) (foldl_grows _ (fun a c => by dsimp only; omega) _ _)
theorem witness_HeatStops_save : let s0 := stopState (fun h => { h with phase := .stopping, packet := BitVec.ofNat 512 ((0x10000 + 2 ^ 60) * 2 ^ 448), quiet := some 104, image := oneTask }) .stopped .halted
    let b : Bank := { bankReset with window := some (0, 200) }
    let s : State := { mapped s0 [] with chans := [(paChannel 0x10000, { channelReset with bank := [(paBank 0x10000, b)] })] }
    (s.heat 0).byTrap = false ∧ fld (s.heat 0).packet.toNat 508 4 = 1 ∧ s.fe.saves = [] ∧ (s.heat 0).image = oneTask ∧ 65536 ≤ saveSize oneTask ∧
    (s.clearQueues (s.heat 0)).servedVA (s.ringPart (s.heat 0).queue) 0x10000 (min 65536 (1024 - 0x10000 % 1024)) = false :=
  ⟨rfl, by decide +kernel, rfl, rfl, saveSize_oneTask, by decide +kernel⟩
theorem witness_HeatGoesOn_lines : ∀ l, (markedState .trapped (some mark) []).lineBad l = false := by
  intro l
  rfl
/-! The requests, the front end and the module, in what the statements say besides. -/

/-- A pour from the host whose bytes count at a barrier, updated in this cycle or before; a request that is late, and one on time. -/
def countingRun (late : Bool) : PourRun := { pourRun with bar := some 3, flying := 24, asked := 48, reqs := [⟨24, 24, 40, 24, some 0x1028, 2, late⟩] }
theorem witness_PourArrivals_counts : ∀ b ∈ [true, false],
    let s := pouring (countingRun b) (pourDesc 2 0 3) .running
    (s.core 0).pour 4 = some (countingRun b, pourDesc 2 0 3) ∧ (countingRun b).id = 4 ∧ s.begins 0 54 = true ∧ s.flows 0 = true ∧
    (pourDesc 2 0 3).isStatic = false ∧ (pourDesc 2 0 3).point = 3 ∧ (countingRun b).bar = some 3 ∧
    (countingRun b).reqs.any (fun q => q.late && decide (q.off = 24)) = b ∧
    (∀ x ∈ [{ barrierReset with count := -48, at_ := 104, delta := -8 }, { barrierReset with count := -48, at_ := 90, delta := -8, post := true }],
      ({ s.core 0 with bar := [(3, x)] } : Core).rb 3 = x ∧ (x.at_ < 104 ∨ x.at_ = 104)) := by decide +kernel
/-- A parked request of a pour that leads into its extent now, to be sent again or given up; and a pour from HBM, which names no barrier. -/
theorem witness_PourArrivals_parked : let e : PourReq := ⟨0, 24, 0, 24, none, 2, true⟩
    let s := cxlState { pourRun with reqs := [e] } 1
    (s.core 0).pour 4 = some ({ pourRun with reqs := [e] }, pourDesc 3 0 3) ∧ (s.core 0).pourParked e.tag = some ({ pourRun with reqs := [e] }, e) ∧
    e.at_ = none ∧ (s.core 0).parkedAt e.tag = none ∧
    s.extentAddr (s.partOf 0) (fld (pourDesc 3 0 3).src 0 60 + (pourDesc 3 0 3).streamEnd 0) ((pourDesc 3 0 3).streamEnd (0 + 24) - (pourDesc 3 0 3).streamEnd 0) ≠ none ∧
    (pourDesc 1 0 3).isStatic = true ∧ pourRun.bar = none ∧ pourRun.waitsFor (pourDesc 1 0 3) 24 = false ∧ pourRun.waitsFor (pourDesc 1 0 3) 0 = false := by decide +kernel
/-- A piece whose error is due while work flows, and once it does not. -/
theorem witness_BlockRemovals_trapPiece : ∀ x ∈ [(HeatPhase.running, true), (.stopping, false)],
    let s0 := pieceState 1030 true true []
    let s : State := { s0 with heats := [(0, { heatReset with phase := x.1, cores := [0], byTrap := true, stopS := some 90 })] }
    (s.core 0).pieces.map (fun y => (y.id, y.trap)) = [(7, true)] ∧ s.flows 0 = x.2 := by decide +kernel

/-- A transfer of 5,000 bytes between the word `far` of a tier, or of peer 5, and the word `near`, with its requests. -/
def wideState (get : Bool) (far near next : Nat) (l : List Req) : State :=
  let r : BitVec 1024 := BitVec.ofNat 1024 (far * 2 ^ (if get then 128 else 192) + near * 2 ^ (if get then 192 else 128) + 5000 * 2 ^ 256 + 5 * 2 ^ 320 + 3 * 2 ^ 72 + 2 ^ 79)
  let x : DynCmd := { id := 4, get := get, remote := false, rec_ := r, issue := 3, start := 100, next := next, reqs := l, stepOpen := true, began := true, pos := 2, seg := 7, heatId := 6 }
  let s := mapped (on { coreReset with dyn := [x] }) []
  { s with gcount := 104, heats := [(0, { heatReset with phase := .running, origin := 5, cores := [0] })],
           mgmt := { s.mgmt with priv := 1, linkbActive := true, extents := [(0, BitVec.ofNat 64 (1 + 1 * 2 ^ 44))] } }
def tier (n a : Nat) : Nat := n * 2 ^ 60 + a
/-- The next request of a `PUT` or `GET` to or from the host, flash and the pooled device, at the scratchpad and at HBM: both ends lead; the
far end does not, the near end does not. -/
theorem witness_DynamicRequests_ends : ∀ x ∈ [(true, 4, 0x7F00, 0, 0x2010, true, true), (false, 4, 0x7F00, 1, 0x13F0, true, true), (true, 2, 0x8000, 1, 0x13F0, true, true),
      (true, 3, 0x7F00, 0, 0x2010, true, true), (false, 3, 0x7F00, 1, 0x13F0, true, true), (true, 3, 0x200000, 0, 0x2010, false, true), (false, 5, 0x7F00, 0, 0x2010, false, true),
      (true, 4, 0x7F00, 1, 0x40000000, true, false)],
    let s := wideState x.1 (tier x.2.1 x.2.2.1) (tier x.2.2.2.1 x.2.2.2.2.1) 0 []
    let n := min (4096 - x.2.2.1 % 4096) 5000
    ((s.core 0).dynOf 4).map (fun y => (y.id, y.remote, y.get, y.next)) = some (4, false, x.1, 0) ∧ s.begins 0 100 = true ∧ s.flows 0 = true ∧
    (x.2.1 ∈ [3, 4, 5] ∨ (x.1 = true ∧ x.2.1 = 2)) ∧ x.2.2.2.1 ≤ 1 ∧ x.2.2.1 + 5000 ≤ 2 ^ 60 ∧
    x.2.2.2.2.1 + 5000 ≤ (if x.2.2.2.1 = 1 then 2 ^ 60 else 0x600000) ∧ (s.farAddr (s.partOf 0) 5 (tier x.2.1 x.2.2.1) n).isSome = x.2.2.2.2.2.1 ∧
    ((if x.2.2.2.1 = 1 then (s.dynRange 0 (s.partOf 0) x.1 3 x.2.2.2.2.1 n).2.1 else none).isNone = x.2.2.2.2.2.2) := by decide +kernel
theorem witness_DynamicRequests_tags : ∀ l, (wideState true (tier 4 0x7F00) (tier 1 0x13F0) 0 []).tagGood l = true := fun _ => rfl
/-- A request at each of its moments; a part whose bank is free; one parked, at either end, with parts left and without. -/
theorem witness_DynamicRequests_parts : (∀ x ∈ [(true, [], ReqState.sent, 4), (false, [], .local_, 4), (true, [0, 240], .sent, 4), (false, [0], .sent, 4), (false, [0, 240], .sent, 4),
      (true, [], .parked 2 0x7F00, 4), (false, [0, 240], .parked 2 0x7F00, 4), (false, [], .parked 2 0x200000, 3)],
      let q : Req := ⟨0, 256, x.2.1, 0x7F00, x.2.2.1, List.replicate 256 7⟩
      let s := wideState x.1 (tier x.2.2.2 (if x.2.2.2 = 3 then 0x200000 else 0x7F00)) (tier 0 0x2010) 256 [q]
      ((s.core 0).dynOf 4).map (fun y => (y.reqAt q.off, y.reqs)) = some (some q, [q]) ∧ (s.core 0).acc = [] ∧ (s.core 0).badSpad = [] ∧ q.data.length = q.len ∧
      (∀ t ∈ [2], ((s.core 0).parkedAt t).isSome = (match q.st with | .parked _ _ => true | _ => false)) ∧
      (s.farAddr (s.partOf 0) 5 (tier x.2.2.2 (if x.2.2.2 = 3 then 0x200000 else 0x7F00)) 256).isSome = decide (x.2.2.2 = 4)) := by decide +kernel

/-- A part of a request in HBM at 0x13F0: read, written, of a core's own command and of a peer's; its row served or not; its page mapped or not. -/
def partState (get remote : Bool) (near : Nat) (l : List Nat) (w : Option (Nat × Nat)) : State :=
  let q : Req := ⟨0, 24, l, 0x7F00, .sent, List.replicate 24 7⟩
  let r : BitVec 1024 := BitVec.ofNat 1024 (tier 4 0x7F00 * 2 ^ (if get then 128 else 192) + tier 1 near * 2 ^ (if get then 192 else 128) + 24 * 2 ^ 256)
  let x : DynCmd := ⟨4, get, remote, r, 3, 100, 24, [q], true, true, 2, 7, 6⟩
  let s := mapped (on { coreReset with dyn := [x] }) [(0x1400, 9)]
  { s with gcount := 104, chans := [(paChannel 0x1400, { channelReset with bank := [(paBank 0x1400, { bankReset with window := w })] })] }
theorem witness_DynamicRequests_hbm : ∀ x ∈ [(true, false, [0, 16]), (true, false, [16]), (false, false, [0, 16]), (false, false, [16]), (true, true, [16]), (false, true, [16])],
    let get := x.1
    let remote := x.2.1
    let l := x.2.2
    let s := partState get remote 0x13F0 l none
    ((s.core 0).dynOf 4).map (fun x => (x.id, x.get, x.remote)) = some (4, get, remote) ∧ ((s.core 0).dynOf 4).bind (fun x => x.reqAt 16) = some ⟨0, 24, l, 0x7F00, .sent, List.replicate 24 7⟩ ∧
    (s.dynTranslate 0 (s.partOf 0) (0x13F0 + 16) get).2 = some 0x1400 ∧ s.served 0x1400 = true ∧ s.paStale 0x1400 = false ∧ (s.hbmFault 0x1400 8).isNone = true ∧
    0x1400 % 1024 + min (1024 - (0x13F0 + 16) % 1024) (0 + 24 - 16) ≤ 1024 := by decide +kernel
theorem witness_DynamicRequests_hbmOthers : (partState true false 0x13F0 [16] (some (0, 200))).served 0x1400 = false ∧
    (∀ remote ∈ [true, false], (let s := partState true remote 0x40000000 [16] none
      (s.dynTranslate 0 (s.partOf 0) (0x40000000 + 16) true).2) = none) := by decide +kernel
theorem witness_DynamicRequests_hbmTags : ∀ l, (partState true false 0x13F0 [16] none).tagGood l = true := fun _ => rfl
/-- Bytes of a peer for HBM, at the end of the address space; none at all. -/
theorem witness_DynamicRequests_arrival : 0 < ([2, 2] : List Byte).length ∧ 2 ^ 60 - 1 < 2 ^ 60 ∧ ([] : List Byte).length = 0 ∧ (∀ y, y ∈ (coreReset).dyn → y.id ≠ coreReset.nextId) := by decide +kernel

/-- A fall of HOLD whose completions are still to be published; a doorbell and a token behind an earlier evaluation of the queue. -/
def released : Completion := ⟨65, 0, BitVec.ofNat 512 heatPacket, 0, 100, 0, 0, false, true⟩
theorem witness_Doorbells_releasing : let s := queueState id .none
    ({ s with fe := { s.fe with pubs := [released] } } : State).releasing = true ∧ s.releasing = false ∧
    (let v : State := { queueState (fun x => { x with tail := 4 }) .running with fe := { (queueState (fun x => { x with tail := 4 }) .running).fe with evals := [⟨65, .read, true, 120, none, none⟩, ⟨65, .written 5, true, 104, none, none⟩] } }
     { v with fe := { v.fe with evals := [] } } = queueState (fun x => { x with tail := 4 }) .running ∧ v.gcount < 120) ∧
    (let x := (queueState (fun x => { x with tail := 20 }) .none).queue 65
     2 ^ x.log2n.toNat < (x.tail - x.head).toNat) := by decide +kernel
/-- A packet that may be launched and whose image's header waits for its row. -/
theorem witness_Doorbells_header : let s0 := queueState (fun x => { x with tail := 4 }) .none
    let s : State := { s0 with chans := [(paChannel 0x10000, { channelReset with bank := [(paBank 0x10000, { bankReset with window := some (0, 200) })] })] }
    s.packetServed 65 = true ∧ (s.packetAt 65 3).2 = some heatPacket ∧ (s.packetAt 65 3).1.launchable 65 heatPacket 1 = true ∧
    (s.packetAt 65 3).1.headerServed 65 heatPacket = false ∧ (s0.packetAt 65 3).1.headerServed 65 heatPacket = true ∧ (s0.packetAt 65 3).1.lines = [] := by decide +kernel
/-- A release that waits for completions, for its packet, tested or not, and for its image's header. -/
theorem witness_TimersAndLogs_releases : ∀ r ∈ [true, false], let s := timerState (fun x => { x with tarm := true, tnext := 104, run := r })
    let b : Bank := { bankReset with window := some (0, 200) }
    let x := s.queue 65
    let u : State := { s with chans := [(paChannel 0x5100, { channelReset with bank := [(paBank 0x5100, b)] })] }
    x.tarm = true ∧ x.tnext.toNat = s.gcount ∧ s.fe.releases = [] ∧ s.releasing = false ∧ ({ s with fe := { s.fe with pubs := [released] } } : State).releasing = true ∧
    x.run = r ∧ u.packetServed 65 = false ∧ s.packetServed 65 = true ∧ (s.packetAt 65 4).2 = some timerPacket ∧ (s.packetAt 65 4).1.launchable 65 timerPacket 2 = true ∧
    (s.packetAt 65 4).1.headerServed 65 timerPacket = true ∧
    (let w : State := { s with chans := [(paChannel 0x10000, { channelReset with bank := [(paBank 0x10000, b)] })] }
     w.packetServed 65 = true ∧ (w.packetAt 65 4).1.headerServed 65 timerPacket = false) := by decide +kernel
/-- HOLD falls with completions held, and with one whose publication had begun. -/
theorem witness_TimersAndLogs_hold : let s := queueState id .none
    let t : State := { s with fe := { s.fe with hold := true, pubs := [released] } }
    t.fe.hold = true ∧ t.fe.pubs ≠ [] ∧ s.fe.evals = [] ∧ s.fe.saves = [] ∧ s.mail = [] ∧ (0 : Word64).getLsbD 0 = false := by decide +kernel
/-- A request of the management function whose block is still to be read: served, waiting and not mapped; the same once it is read. -/
def mgmtLog (block : Nat) (unread : Bool) (kind : Nat) (w : Option (Nat × Nat)) : State :=
  { logState 1 1 with logq := [⟨7, 256, block, kind, 0x5000, 1, 1, 0, 104, unread, []⟩],
                      chans := [(paChannel 0x9000, { channelReset with bank := [(paBank 0x9000, { bankReset with window := w })] })] }
theorem witness_TimersAndLogs_block : (∀ u ∈ [true, false], let s := mgmtLog 0x9000 u 4 none
     s.logq.find? (fun x => decide (x.id = 7)) = some ⟨7, 256, 0x9000, 4, 0x5000, 1, 1, 0, 104, u, []⟩ ∧ s.servedVA 0 0x9000 32 = true ∧ s.servedVA 0 (0x9000 + 24) 8 = true ∧
     (s.readVA 0 0x9000 32).2.map List.length = some 32 ∧ s.translate 0 (0x9000 + 24) true = some 0x9018 ∧ s.paStale 0x9018 = false ∧ s.paStale 0x901F = false) ∧
    (let s := mgmtLog 0x9000 true 4 (some (0, 200))
     s.servedVA 0 0x9000 32 = false ∧ s.servedVA 0 (0x9000 + 24) 8 = false) ∧
    ((mgmtLog 0x40000000 true 4 none).readVA 0 0x40000000 32).2 = none ∧ (mgmtLog 0x9000 true 4 none).homeOf 32 = 0 := by decide +kernel
/-- After a failed boot: a read of ERRLOG and a nonce of a virtual function, and of the management function. -/
theorem witness_Registers_boot : ({ State.reset with mgmt := { mgmtReset with bootstat := 0x81 } } : State).bootFailed = true ∧ State.reset.bootFailed = false ∧ 31 < 32 ∧ 32 ≤ 32 := by decide +kernel
/-- A slot that opens now and lends the bank of an AtomicOp, after an earlier window of the bank. -/
theorem witness_HostAccess_slot : let s0 := hostState (fun b => { b with window := some (50, 60), lent := some 120 })
    let s : State := { s0 with chans := [(0, { s0.chan 0 with svc := some (104, 17, 1) })] }
    (s.chan 0).svc = some (s.gcount, 17, 1) ∧ (s.bank 0 0).lentNow 104 = true ∧ (s.bank 0 0).window = some (50, 60) ∧ 60 < s.gcount ∧
    s.atomicTarget 1 0x40 .swap 8 = some 0x40 ∧ s.bootFailed = false := by decide +kernel
theorem witness_HostAccess_tags : ∀ l, (hostState id).tagGood l = true := fun _ => rfl
/-- A full ring, which drops its two oldest records, one with two records dropped before, and the row of the record behind the gap record. -/
theorem witness_ModuleEvents_gap : let ring (head tail drop : Nat) : State :=
      let t : Trace := { traceReset with queue := [(2, 5, 9)], base := [(2, 0x40000001)], head := [(2, head)], tail := [(2, tail)], pendDrop := [(2, drop)] }
      { State.reset with gcount := 104, trace := t }
    (∀ x ∈ [(1024 - 32, 1024, 0), (0, 0, 3)], let s := ring x.1 x.2.1 x.2.2
      s.trace.queue.find? (fun x => decide (x.1 = 2)) = some (2, 5, 9) ∧ (sget 0 s.trace.base 2).getLsbD 0 = true ∧ s.traceServed 2 = true ∧ x.1 % 32 = 0 ∧ x.2.1 % 32 = 0 ∧
      sget 0 s.trace.pendDrop 2 = x.2.2 ∧ (x.2.2 = 0 → (x.1 + 32) % 2 ^ 26 = x.2.1) ∧ (x.2.2 = 3 → (x.1 + 32) % 2 ^ 26 ≠ x.2.1 ∧ (x.1 + 64) % 2 ^ 26 ≠ x.2.1) ∧
      s.paStale (0x40000000 + x.1) = false ∧ s.paStale (0x40000000 + x.1 + 32) = false ∧ s.served (0x40000000 + x.1 + 32) = true) ∧
    (let s : State := { ring 992 1024 0 with chans := [(paChannel 0x40000400, { channelReset with bank := [(paBank 0x40000400, { bankReset with window := some (0, 200) })] })] }
     s.traceServed 2 = true ∧ s.served 0x40000400 = false) := by decide +kernel

end Sys2Proof.Tests
end

section
/-! The plain statements: the mesh, the streams, the register files and the reset state. -/

namespace Sys2Proof.Machine
open Sys2Proof.Safety

/-- The model's distance of two numbers is that of the integers. -/
theorem distance_eq_natAbs (a b : Nat) : distance a b = ((a : Int) - b).natAbs := by
  unfold distance
  split <;> omega

/-- Settles O14: the die's multiple of 64 drops out of the column and of the row. -/
theorem meshHops : Obligations.MeshHops := by
  intro d e n m hn hm
  have col : ∀ x y : Nat, (64 * x + y) % 8 = y % 8 := by omega
  have row : ∀ x y : Nat, y < 64 → (64 * x + y) % 64 / 8 = y / 8 := by omega
  simp only [hops, distance_eq_natAbs, col, row d n hn, row e m hm]
  exact ⟨by push_cast; rfl, by simp⟩

/-! Streams (R20, R21, R110, R251). -/

theorem bankOf_lt {x : Nat} (h : x < 0x600000) : bankOf x < 16 := by
  simp only [bankOf, Config.groupBytes]; omega

/-- A stream's address lies in its group (R20). -/
theorem streamAddr_div (k : Core) (n st : Nat) : k.streamAddr n st / 0x180000 = fld (k.ra n).toNat 114 2 := by
  simp only [Core.streamAddr, strField, Config.groupBytes]
  omega

theorem streamAddr_lt (k : Core) (n st : Nat) : k.streamAddr n st < 0x600000 := by
  have h : fld (k.ra n).toNat 114 2 < 4 := Nat.mod_lt _ (by decide)
  have := streamAddr_div k n st
  omega

/-- The extent a stream wraps at is positive, EXT 0 being a whole group. -/
theorem extent_pos (a : Nat) : 0 < (if fld a 84 21 = 0 then 0x180000 else fld a 84 21) := by
  split <;> omega

/-- The index of a level that runs (R110). -/
theorem loopIdx_active {k : Core} {lvl : Nat} {l : LoopRec} (st : Nat) (hl : lvl ≤ 5)
    (h : k.seq.loops.find? (fun r => decide (r.lvl = lvl)) = some l) :
    ((k.loopIdx lvl st : Nat) : Int) = ((l.ibase : Int) + (if 1 < l.s then (l.j : Int) - st else l.j) * l.istep) % 2 ^ 64 := by
  have h6 : ¬6 ≤ lvl := by omega
  have pos : ∀ z : Int, 0 ≤ z % 2 ^ 64 := fun z => Int.emod_nonneg _ (by decide)
  simp only [Core.loopIdx, h6, if_false, Core.levelLoop, h]
  split
  · exact Int.toNat_of_nonneg (pos _)
  · exact Int.toNat_of_nonneg (pos _)

/-- The index of a level that does not run is the one kept. -/
theorem loopIdx_idle {k : Core} {lvl : Nat} (st : Nat) (hl : lvl ≤ 5)
    (h : k.seq.loops.find? (fun r => decide (r.lvl = lvl)) = none) : k.loopIdx lvl st = sget 0 k.seq.idx lvl := by
  have h6 : ¬6 ≤ lvl := by omega
  simp only [Core.loopIdx, h6, if_false, Core.levelLoop, h]

/-- Stage enables of the innermost loop, resumed at iteration `j0` (R251). -/
theorem enable_cons {k : Core} {l : LoopRec} {rest : List LoopRec} (st : Nat) (h : k.seq.loops = l :: rest) :
    k.enable st = decide (st < l.s ∧ l.j0 + st ≤ l.j ∧ (l.j : Int) ≤ (st : Int) + l.n - 1) := by
  have : l.j + 1 ≤ st + l.n ↔ (l.j : Int) ≤ (st : Int) + l.n - 1 := by omega
  simp only [Core.enable, h, Bool.decide_and, this, Bool.and_assoc]

/-- Settles O13: each clause is the equation of one function of the operands. -/
theorem streamAddressesAndIndices : Obligations.StreamAddressesAndIndices := by
  intro k n st lvl l rest hl a group ext term off
  have hext : (0 : Int) < ext := by exact_mod_cast extent_pos a
  exact ⟨rfl, Int.emod_nonneg _ (by omega), Int.emod_lt_of_pos _ hext, streamAddr_lt k n st, streamAddr_div k n st,
    fun x hx => ⟨rfl, bankOf_lt hx⟩, fun h _ => loopIdx_active st hl h, loopIdx_idle st hl, rfl, rfl, enable_cons st⟩

/-! The register files (R17). -/

/-- A predicate bit after a write of a bit. -/
theorem getLsbD_setBit16 (q : BitVec 16) (n m : Nat) (v : Bool) (hm : m < 16) :
    (setBit16 q n v).getLsbD m = if m = n then v else q.getLsbD m := by
  have one : (BitVec.ofNat 16 (2 ^ n)).getLsbD m = decide (n = m) := by
    rw [BitVec.getLsbD_ofNat, Nat.testBit_two_pow]; simp [hm]
  have low : ∀ b : Bool, (decide (m < 16) && b) = b := by simp [hm]
  cases v
  · simp only [setBit16, Bool.false_eq_true, if_false, BitVec.getLsbD_and, BitVec.getLsbD_not, one, low]
    by_cases h : n = m <;> simp [h, eq_comm]
  · simp only [setBit16, if_true, BitVec.getLsbD_or, one]
    by_cases h : n = m <;> simp [h, eq_comm]

theorem Core.rq_wq (k : Core) (n m : Nat) (v : Bool) (hm : m < 16) :
    (k.wq n v).rq m = if m = 0 then true else if m = n then v else k.rq m := by
  by_cases h0 : n = 0
  · subst h0; by_cases hm0 : m = 0 <;> simp [hm0]
  · by_cases hm0 : m = 0 <;> simp [Core.rq, Core.wq, h0, hm0, getLsbD_setBit16 _ _ _ _ hm]

/-- Settles O26: a read after a write of each file, and the frames of the writes. -/
theorem registerFiles : Obligations.RegisterFiles := by
  intro k n m v q x w t a y
  refine ⟨rfl, rfl, rfl, rfl, rfl, rfl, fun hn => ⟨?_, ?_, fun h => ?_⟩, ?_, ?_, ?_, ?_, ?_,
    fun hm => ⟨?_, ?_, fun h h' => ?_, ?_, ?_, ?_, ?_, ?_⟩, ?_, ?_, ?_, rfl, rfl, rfl, rfl, rfl⟩
  · simp [Core.rs_ws, hn]
  · simp [Core.rw_ww, hn]
  · simp [Core.rq_wq, h, hn]
  · simp [Core.rv_wv]
  · simp [Core.rk_wk]
  · simp [Core.rm_wm]
  · simp [Core.ra_wa]
  · simp [Core.ry_wy]
  · rw [Core.rs_ws]; by_cases h0 : m = 0 <;> simp [h0, hm]
  · rw [Core.rw_ww]; by_cases h0 : m = 0 <;> simp [h0, hm]
  · rw [Core.rq_wq _ _ _ _ h']; by_cases h0 : m = 0 <;> simp [h0, hm]
  · simp [Core.rv_wv, hm]
  · simp [Core.rk_wk, hm]
  · simp [Core.rm_wm, hm]
  · simp [Core.ra_wa, hm]
  · simp [Core.ry_wy, hm]
  · unfold Core.ws; split <;> rfl
  · unfold Core.wq; split <;> rfl
  · unfold Core.ww; split <;> rfl

/-! The reset state. -/

/-- A carry register at reset holds the identity in every column (R62). -/
theorem carryReset_column : ∀ j, j < 32 → carryReset.extractLsb' (65 * j) 65 = 0x3F800000 := by decide +kernel

theorem streamReset_fields : strField streamReset 111 3 = 2 ∧ strField streamReset 108 3 = 1 ∧
    strField streamReset 0 108 = 0 ∧ strField streamReset 114 14 = 0 := by decide

/-- Nothing stands in the legal form's way at reset (R315, R341). -/
theorem reset_mgmtLegal : MgmtLegal State.reset :=
  ⟨by decide, by decide, fun _ _ h => absurd h List.not_mem_nil, fun _ _ h => absurd h List.not_mem_nil⟩

theorem rs_coreReset (n : Nat) : coreReset.rs n = 0 := by unfold Core.rs; split <;> rfl
theorem rq_coreReset (n : Nat) : coreReset.rq n = decide (n = 0) := by
  unfold Core.rq; split
  · next h => simp [h]
  · next h => simp [h, coreReset]
theorem rs_fwReset (n : Nat) : fwReset.rs n = 0 := by unfold FwCtx.rs; split <;> rfl
theorem rq_fwReset (n : Nat) : fwReset.rq n = decide (n = 0) := by
  unfold FwCtx.rq; split
  · next h => simp [h]
  · next h => simp [h, fwReset]

/-- Settles O54: every table of the reset state is empty, so each read gives its default. -/
theorem resetState : Obligations.ResetState := by
  unfold Obligations.ResetState
  obtain ⟨hbm, host, peer, cxl, flash, spad, imem, dmem⟩ := reset_memories_wf
  obtain ⟨lv2, lv1, low, top⟩ := streamReset_fields
  refine ⟨rfl, rfl, rfl, rfl, rfl, rfl, rfl, rfl, rfl, rfl, rfl, reset_mgmtLegal,
    fun _ => ⟨rfl, rfl, rfl, rfl, rfl⟩, hbm, host, peer, cxl, flash, rfl, fun _ => rfl, rfl, rfl, rfl, rfl, rfl, rfl, rfl, rfl, rfl, rfl, rfl, rfl, rfl, rfl,
    rfl, rfl, rfl, rfl, rfl, rfl, rfl, rfl, rfl, rfl, rfl, rfl,
    fun _ => ⟨rfl, rfl, rfl, rfl, rfl, rfl, rfl⟩, rfl, rfl, rfl, rfl, fun _ => ⟨rfl, rfl, rfl, rfl, rfl⟩, fun _ => rfl,
    fun _ => rfl, fun _ => rfl, fun _ _ => rfl, fun c => ?_⟩
  exact ⟨rfl, rfl, rfl, rfl, rfl, rfl, rfl, rfl, rfl, rfl, rfl, rfl, rfl, spad, fun _ => rfl, rfl, rfl,
    fun n => ⟨rs_coreReset n, rfl, rfl, rq_coreReset n, rfl, rfl, rfl, rfl, lv2, lv1, low, top, carryReset_column⟩,
    rfl, rfl, rfl, rfl, rfl, rfl, rfl, rfl, rfl, rfl, rfl, imem, dmem, rfl, rfl,
    fun n => ⟨rs_fwReset n, rq_fwReset n, rfl, rfl⟩⟩

end Sys2Proof.Machine
end

section
/-! Every instruction answers (R32, R74, R238): an event by a next state, a slot operation too unless it is ill-formed. -/

namespace Sys2Proof.Machine
open Sys2Proof.Safety

/-- Every branch of an event's meaning ends in a next state. -/
theorem exec_event_next (i : Instr) (s : State) (h : i.slot? = none) : ∃ t, exec i s = .next t := by
  cases i <;> try (cases h; done)
  all_goals dsimp only [exec, timelineOp, execBundleIssue, execCodeLineFetch, execBankAccess, execDynamicBankAccess,
    execWaitdDeadline, execWaitaRelease, execAlignPointReached, execHoldWrite, execHeatStopRequest, execHeatResume,
    execHeatRestart, execPatrolStartScrub, execPatrolRotate, execPatrolStop, execTimerArm, execVstnArrival,
    execLoadQueuePush, execCopyTile, execCfenceRelease, execFenceRelease, execFirmwareAccessComplete,
    execFirmwareBundleIssue, execFirmwareCauseTaken, execCompletionBitWrite, execPourRequest, execPourArrival,
    execBlockExpansion, execBlockRemoval, execExpansionPiece, execCodebookDelivery, execCrucibleSend,
    execCrucibleArrival, execCrucibleExecute, execHostAtomicExecute, execDynamicRequestIssue,
    execDynamicRequestPerform, execAct, execRd, execWr, execPre, execRefpb, execWopen, execSvc, execRowGroupStale,
    execPatrolLine, execLogAppend, execHeatArm, execLaunchCheck, execTaskStart, execHeatCompletion,
    execTimerRelease, execStopCycle, execCutReduction, execQuiescence, execInvalComplete, execTraceWrite,
    execDoorbell, execLinkDown, execLinkTrain, execErrlogRead, execAttreq, execPmodeWrite, execKeySlotLoad,
    execRegisterWrite, execUnitMapOut, execTimeSync, execPeerGetRequest, execRemoteArrival,
    execParkedRequestReplay, execParkedRequestAbandon, execReevaluationPort, execControllerRunRefresh,
    execAttestationQuote, execReset, execInletRecover]
  all_goals (repeat' split)
  all_goals exact ⟨_, rfl⟩

/-- What a slot operation may answer: a next state, or the stop of an operation that is ill-formed or names no register. -/
def Lawful (i : Instr) (s : State) (r : Result) : Prop :=
  (∃ t, r = .next t) ∨ r = .fault (.illFormed i) ∧ (i.wf = false ∨ (s.core s.cur.core).namesOk i = false)

theorem Lawful.next {i : Instr} {s t : State} : Lawful i s (.next t) := .inl ⟨t, rfl⟩

theorem runOp_lawful {i : Instr} {vec : Bool} {g : Gate} {s : State} {f : State → Result} (h : Lawful i s (f s)) :
    Lawful i s (runOp i vec g s f) := by
  unfold runOp
  split
  · next hw => exact .inr ⟨rfl, .inl (by simpa using hw)⟩
  · split
    · exact h
    · exact .next

theorem withV_lawful {i : Instr} {s : State} {f : VField} {k : Nat → Result} (hf : f ∈ vfieldsOf i)
    (h : ∀ n, Lawful i s (k n)) : Lawful i s (withV i s f k) := by
  unfold withV
  split
  · exact h _
  · next hn =>
    refine .inr ⟨rfl, .inr ?_⟩
    simp only [Core.namesOk, List.all_eq_false]
    exact ⟨f, hf, by simp [hn]⟩

section
variable {i : Instr} {vec : Bool} {g : Gate} {s : State} {a b d : VField}

theorem runOp_lawful₀ {k : State → State} : Lawful i s (runOp i vec g s fun s => .next (k s)) := runOp_lawful .next

/-- An operation with one vector name. -/
theorem runOp_lawful₁ {k : State → Nat → State} (h : vfieldsOf i = [a] := by rfl) :
    Lawful i s (runOp i vec g s fun s => withV i s a fun x => .next (k s x)) :=
  runOp_lawful (withV_lawful (by simp [h]) fun _ => .next)

theorem runOp_lawful₂ {k : State → Nat → Nat → State} (h : vfieldsOf i = [d, a] := by rfl) :
    Lawful i s (runOp i vec g s fun s => withV i s d fun x => withV i s a fun y => .next (k s x y)) :=
  runOp_lawful (withV_lawful (by simp [h]) fun _ => withV_lawful (by simp [h]) fun _ => .next)

theorem runOp_lawful₃ {k : State → Nat → Nat → Nat → State} (h : vfieldsOf i = [d, a, b] := by rfl) :
    Lawful i s (runOp i vec g s fun s => withV i s d fun x => withV i s a fun y => withV i s b fun z => .next (k s x y z)) :=
  runOp_lawful (withV_lawful (by simp [h]) fun _ => withV_lawful (by simp [h]) fun _ =>
    withV_lawful (by simp [h]) fun _ => .next)
end

theorem ctlOp_lawful (i : Instr) (s : State) (h : i.slot? = some .ctl) : Lawful i s (exec i s) := by
  cases i <;> try (cases h; done)
  case nop => exact .next
  all_goals dsimp only [exec, execBr, execCall, execBri, execCalli, execRet, execLoop, execLexit, execHalt, execTrig,
    execWaitd, execWaita, execAlign, execTrap, execChill, execFret, runChecked]
  all_goals refine runOp_lawful ?_
  all_goals (repeat' split)
  all_goals exact .next

theorem scaOp_lawful (i : Instr) (s : State) (h : i.slot? = some .sca) : Lawful i s (exec i s) := by
  cases i <;> try (cases h; done)
  case nop => exact .next
  all_goals dsimp only [exec, execAdd, execSub, execAnd, execOr, execXor, execShl, execShr, execSar, execMin, execMax,
    execMinu, execMaxu, execAddi, execAndi, execOri, execXori, execShli, execShri, execSari, execCati, execMul,
    execMulh, execMulhu, execDiv, execDivu, execRem, execRemu, execXs, execXv, execCmpeq, execCmpne, execCmplt,
    execCmpltu, execCmple, execCmpleu, execCmpeqi, execCmpnei, execCmplti, execCmpltui, execCmplei, execCmpleui,
    execQand, execQor, execQxor, execQandn, execAset, execSrd, execSwr, execGcrdHeat, execGcrdGcount, execLxrd,
    execFsrd, execFswr, scalarOp, scalarImm, scalarCmp, scalarCmpi, predOp, State.landS, State.landQ]
  case xs | xv => exact runOp_lawful₁
  all_goals exact runOp_lawful₀

theorem vecOp_lawful (i : Instr) (s : State) (h : i.slot? = some .vec) : Lawful i s (exec i s) := by
  cases i <;> try (cases h; done)
  case nop => exact .next
  all_goals dsimp only [exec, execVadd, execVaddVs, execVsub, execVsubVs, execVmul, execVmulVs, execVmulh, execVmulhVs,
    execVmin, execVminVs, execVmax, execVmaxVs, execVand, execVandVs, execVor, execVorVs, execVxor, execVxorVs,
    execVshl, execVshlVs, execVshr, execVshrVs, execVsar, execVsarVs, execVadds, execVaddsVs, execVsubs,
    execVsubsVs, execVabs, execVneg, execVnot, execVmov, execVmovi, execVsel, execVfadd, execVfaddVs, execVfsub,
    execVfsubVs, execVfmul, execVfmulVs, execVfma, execVfmin, execVfminVs, execVfmax, execVfmaxVs, execVfabs,
    execVfneg, execVexp2, execVlog2, execVrcp, execVrsq, execVcmpeq, execVcmpeqVs, execVcmpne, execVcmpneVs,
    execVcmplt, execVcmpltVs, execVcmple, execVcmpleVs, execVrsum, execVrmax, execVrmin, execVpsum, execWand,
    execWor, execWxor, execWnot, execWandn, vecVV, vecVS, vecV1, vecReduce, vecCmp, vecCmpS, maskOp]
  case vadd | vsub | vmul | vmulh | vmin | vmax | vand | vor | vxor | vshl | vshr | vsar | vadds | vsubs | vfmin | vfmax |
      vsel | vfadd | vfsub | vfmul | vfma => exact runOp_lawful₃
  case wand | wor | wxor | wandn | wnot => exact runOp_lawful₀
  case vmovi | vcmpeqVs | vcmpneVs | vcmpltVs | vcmpleVs => exact runOp_lawful₁
  all_goals exact runOp_lawful₂

theorem prmOp_lawful (i : Instr) (s : State) (h : i.slot? = some .prm) : Lawful i s (exec i s) := by
  cases i <;> try (cases h; done)
  case nop => exact .next
  all_goals dsimp only [exec, execPack, execUnpk, execVcvt, execScale, execQnt, execLdsc, execStsc, execPerm, execSlide,
    execShuf, execRot,
    permuteOp]
  case pack | perm | slide | shuf => exact runOp_lawful₃
  case unpk | vcvt | scale | qnt => exact runOp_lawful₂
  case rot =>
    refine runOp_lawful (withV_lawful ?_ fun _ => withV_lawful ?_ fun _ => withV_lawful ?_ fun _ => .next) <;> simp [vfieldsOf]
  all_goals exact runOp_lawful₀

theorem matOp_lawful (i : Instr) (s : State) (h : i.slot? = some .mat) : Lawful i s (exec i s) := by
  cases i <;> try (cases h; done)
  case nop => exact .next
  all_goals dsimp only [exec, execMma, execMmaz, execMmaa, execMmaaz, execMgain, execMrd, execMwr, execMzero, execMclrp,
    execAscan, execMsvc, execMldc, stepOp]
  case mgain | mrd | mwr | msvc | mldc => exact runOp_lawful₁
  all_goals exact runOp_lawful₀

theorem memOp_lawful (i : Instr) (s : State) (h : i.slot? = some .mem) : Lawful i s (exec i s) := by
  cases i <;> try (cases h; done)
  case nop => exact .next
  all_goals dsimp only [exec, execVld, execVst, execSld, execSst, execVgth, execVsct, execVstn, execAtom, execRed, execLqpop,
    execCopy, execPour, execTake, execCred, execCaxpy, execCfill, execPut, execGet, execCfence, execFence,
    execBpost, execQrd, execKscan, execKclr, execJapp, engineOp, runChecked, State.fwMemOp]
  case vgth | vsct => exact runOp_lawful₂
  case vld | vst | vstn => exact runOp_lawful₁
  all_goals refine runOp_lawful ?_
  all_goals (repeat' split)
  all_goals exact .next

/-- Settles O59: by the slot of the operation, or none for an event. -/
theorem everyInstructionAnswers : Obligations.EveryInstructionAnswers := by
  intro i s
  have lawful : (∃ t, exec i s = .next t) ∨ exec i s = .fault (.illFormed i) ∧ i.slot?.isSome = true ∧
      (i.wf = false ∨ (s.core s.cur.core).namesOk i = false) := by
    cases hs : i.slot? with
    | none => exact .inl (exec_event_next i s hs)
    | some sl =>
      refine Or.imp_right (fun ⟨hf, hc⟩ => ⟨hf, rfl, hc⟩) (?_ : Lawful i s (exec i s))
      cases sl with
      | ctl => exact ctlOp_lawful i s hs
      | sca => exact scaOp_lawful i s hs
      | vec => exact vecOp_lawful i s hs
      | prm => exact prmOp_lawful i s hs
      | mat => exact matOp_lawful i s hs
      | mem => exact memOp_lawful i s hs
  rcases lawful with ⟨t, ht⟩ | ⟨hf, hs, hc⟩
  · exact ⟨fun r hr => by simp [ht] at hr, fun f hf => by simp [ht] at hf, fun _ _ => ⟨t, ht⟩⟩
  · refine ⟨fun r hr => by simp [hf] at hr, fun f h => ?_, fun hw hn => ?_⟩
    · rw [hf] at h
      cases h
      exact ⟨rfl, hs, hc⟩
    · simp [hw, hn] at hc

end Sys2Proof.Machine
end

section
/-! Frames: writing a part twice, the states of which only one core differs from another's, and what an agenda holds. -/

namespace Sys2Proof

/-- Of two writes of one key the later stands. -/
theorem sset_sset {α : Type} [DecidableEq α] (d : α) (m : Sparse α) (k : Nat) (v w : α) :
    sset d (sset d m k v) k w = sset d m k w := by
  have below : (sset d m k v).filter (fun p => decide (p.1 < k)) = m.filter (fun p => decide (p.1 < k)) := by
    have mid : (if v = d then ([] : Sparse α) else [(k, v)]).filter (fun p => decide (p.1 < k)) = [] := by
      split <;> simp
    have up : ∀ p : Nat × α, (decide (p.1 < k) && decide (k < p.1)) = false := by
      intro p; simp only [Bool.and_eq_false_iff, decide_eq_false_iff_not]; omega
    simp [sset, List.filter_filter, mid, up]
  have above : (sset d m k v).filter (fun p => decide (k < p.1)) = m.filter (fun p => decide (k < p.1)) := by
    have mid : (if v = d then ([] : Sparse α) else [(k, v)]).filter (fun p => decide (k < p.1)) = [] := by
      split <;> simp
    have up : ∀ p : Nat × α, (decide (k < p.1) && decide (p.1 < k)) = false := by
      intro p; simp only [Bool.and_eq_false_iff, decide_eq_false_iff_not]; omega
    simp [sset, List.filter_filter, mid, up]
  rw [sset, below, above]; rfl

namespace Machine
open Sys2Proof.Safety

@[simp] theorem State.setCore_setCore (s : State) (c : Nat) (k l : Core) : (s.setCore c k).setCore c l = s.setCore c l := by
  simp only [State.setCore, sset_sset]

@[simp] theorem State.modCore_setCore (s : State) (c : Nat) (k : Core) (f : Core → Core) :
    (s.setCore c k).modCore c f = s.setCore c (f k) := by
  simp only [State.modCore, State.core_setCore, State.setCore_setCore]

@[simp] theorem State.setCore_modCore (s : State) (c : Nat) (k : Core) (f : Core → Core) :
    (s.modCore c f).setCore c k = s.setCore c k := State.setCore_setCore s c _ k

@[simp] theorem State.modCore_modCore (s : State) (c : Nat) (f g : Core → Core) :
    (s.modCore c f).modCore c g = s.modCore c (fun k => g (f k)) := State.modCore_setCore s c _ g

end Machine

namespace Safety
open Machine

theorem OnlyCore.refl (s : State) (c : Nat) : OnlyCore s s c := ⟨rfl, fun _ _ => rfl⟩

theorem OnlyCore.trans {s t u : State} {c : Nat} (h : OnlyCore s t c) (k : OnlyCore t u c) : OnlyCore s u c := by
  refine ⟨?_, fun d hd => (k.2 d hd).trans (h.2 d hd)⟩
  have e : ({ ({ u with cores := t.cores, agenda := t.agenda } : State) with cores := s.cores, agenda := s.agenda } : State) = s := by
    rw [k.1]; exact h.1
  exact e

theorem OnlyCore.setCore (s : State) (c : Nat) (k : Core) : OnlyCore s (s.setCore c k) c :=
  ⟨rfl, fun d hd => State.core_setCore_ne s c d k hd⟩

theorem OnlyCore.modCore (s : State) (c : Nat) (f : Core → Core) : OnlyCore s (s.modCore c f) c :=
  OnlyCore.setCore s c _

theorem OnlyCore.at (s : State) (c n : Nat) (i : Instr) : OnlyCore s (s.at n i) c := ⟨rfl, fun _ _ => rfl⟩

theorem OnlyCore.atOnce (s : State) (c n : Nat) (i : Instr) : OnlyCore s (s.atOnce n i) c := by
  unfold State.atOnce
  split
  · exact .refl s c
  · exact .at s c n i

theorem OnlyCore.gcount {s t : State} {c : Nat} (h : OnlyCore s t c) : t.gcount = s.gcount := by rw [← h.1]

theorem Adds.refl (s : State) : Adds s s [] := fun x => by simp

theorem Adds.at {s t : State} {l : List Event} {n : Nat} {i : Instr} (h : Adds s t l) (hn : t.gcount ≤ n) :
    Adds s (t.at n i) (l ++ [⟨n, i⟩]) := fun x => by
  rw [State.mem_at, h x, Nat.max_eq_left hn, List.mem_append, List.mem_singleton, or_assoc]

theorem Adds.atOnce {s t : State} {l : List Event} {n : Nat} {i : Instr} (h : Adds s t l) (hn : t.gcount ≤ n) :
    Adds s (t.atOnce n i) (l ++ [⟨n, i⟩]) := fun x => by
  rw [State.mem_atOnce _ _ _ _ hn, h x, List.mem_append, List.mem_singleton, or_assoc]

/-- Only the agenda of a state counts. -/
theorem Adds.of_agenda {s t u : State} {l : List Event} (h : Adds s t l) (e : u.agenda = t.agenda) : Adds s u l :=
  fun x => by rw [e]; exact h x

/-- What has landed when core `c` alone was written. -/
theorem landed_setCore (s : State) (c : Nat) (k : Core) :
    Landed s (s.setCore c { k with pend := (s.core c).pend.filter (fun x => decide (s.gcount < x.at_)) }) c k :=
  ⟨State.core_setCore s c _, .setCore s c _, rfl⟩

end Safety
end Sys2Proof
end

section
/-! The landing of results (R26, R27): what an update does to its core, and which of those due in a cycle take effect. -/

namespace Sys2Proof.Machine
open Sys2Proof.Safety

/-- A listed key reads one of its entries. -/
theorem sget_mem {α : Type} (d : α) (m : Sparse α) (k : Nat) (h : k ∈ m.map Prod.fst) : (k, sget d m k) ∈ m := by
  induction m with
  | nil => simp at h
  | cons p m ih =>
    obtain ⟨k', v⟩ := p
    by_cases e : k' = k
    · simp [sget, e]
    · have hk : k ∈ m.map Prod.fst := by simpa [Ne.symm e] using h
      simp [sget, e, ih hk]

/-- A barrier with nothing of an earlier cycle to apply is left alone (R200). -/
theorem settleBar_quiet {s : State} {c b : Nat} (hq : Quiet s c) (hb : b ∈ (s.core c).bar.map Prod.fst) :
    s.settleBar c b = s := by
  unfold State.settleBar
  exact if_neg (hq _ (sget_mem barrierReset _ b hb))

theorem settleAll_quiet {s : State} {c : Nat} (hq : Quiet s c) : s.settleAll c = s := by
  have fold : ∀ l : List Nat, (∀ b ∈ l, b ∈ (s.core c).bar.map Prod.fst) → l.foldl (fun acc b => acc.settleBar c b) s = s := by
    intro l
    induction l with
    | nil => exact fun _ => rfl
    | cons b l ih =>
      intro h
      rw [List.foldl_cons, settleBar_quiet hq (h b (by simp))]
      exact ih fun x hx => h x (by simp [hx])
  exact fold _ fun _ h => h

/-! What an update does to its core. -/

/-- The update reaches its core alone: no firmware system register, no barrier, no token. -/
def Pending.isLocal (p : Pending) : Bool :=
  match p.eff with
  | .fwreg .. | .post .. | .token .. => false
  | _ => true

/-- A step that adds to an accumulator without an uncorrectable error, or any other update (R239). -/
def Pending.sound (p : Pending) (k : Core) : Prop := ∀ t id, p.eff = .step t id false → (5, t) ∉ k.badReg

/-- The tile of a step and its IOVF written (R44). -/
def Core.putStep (k : Core) (t : Nat) (x : Tile × Bool) : Core :=
  let k1 := k.wm t x.1
  if x.2 then k1.setFlag flagIovf else k1

theorem putStep_pend (k : Core) (t : Nat) (x : Tile × Bool) (l : List Pending) :
    Core.putStep { k with pend := l } t x = { k.putStep t x with pend := l } := by
  obtain ⟨x, b⟩ := x
  cases b <;> rfl

@[simp] theorem putStep_badReg (k : Core) (t : Nat) (x : Tile × Bool) : (k.putStep t x).badReg = k.badReg := by
  obtain ⟨x, b⟩ := x
  cases b <;> rfl

/-- A step landed on its tile (R166). -/
def Core.landStep (k : Core) (t id : Nat) (zeroing : Bool) : Core :=
  match sget none k.steps id with
  | some r => k.putStep t (stepTile r zeroing (k.rm t))
  | none => k

theorem landStep_pend (k : Core) (t id : Nat) (zeroing : Bool) (l : List Pending) :
    Core.landStep { k with pend := l } t id zeroing = { k.landStep t id zeroing with pend := l } := by
  unfold Core.landStep
  cases sget none k.steps id with
  | none => rfl
  | some r => exact putStep_pend k t _ l

@[simp] theorem landStep_badReg (k : Core) (t id : Nat) (zeroing : Bool) : (k.landStep t id zeroing).badReg = k.badReg := by
  unfold Core.landStep
  split
  · exact putStep_badReg k t _
  · rfl

/-- The core as an update finds it: its register clean, and GUFL set by a flushing scan. -/
def Pending.mark (p : Pending) (k : Core) : Core := if p.gufl then (k.writtenReg p).setFlag flagGufl else k.writtenReg p

theorem mark_pend (p : Pending) (k : Core) (l : List Pending) : p.mark { k with pend := l } = { p.mark k with pend := l } := by
  unfold Pending.mark Core.writtenReg
  cases writtenOf p <;> cases p.gufl <;> rfl

/-- What a local update does to its core, its flags included (R27, R44). -/
def Pending.onCore (p : Pending) (k : Core) : Core :=
  let k1 := p.mark k
  match p.eff with
  | .sreg n v => if p.fw then { k1 with fw := k1.fw.ws n v } else k1.ws n v
  | .qreg n v => if p.fw then { k1 with fw := k1.fw.wq n v } else k1.wq n v
  | .vreg n mask v => k1.wv n (mergeGroups mask (k1.rv n) v)
  | .kreg n v => k1.wk n v
  | .wreg n mask v => k1.ww n ((v &&& mask) ||| (k1.rw n &&& ~~~mask))
  | .stream n fsel v => k1.wa n (setStream (k1.ra n) fsel v)
  | .step t id zeroing => k1.landStep t id zeroing
  | .rows t rg v => k1.wm t (setRowGroup (k1.rm t) rg v)
  | .tileSet t v => k1.wm t v
  | .tileClear t => k1.wm t { k1.rm t with poison := 0 }
  | .carry n v => k1.wy n v
  | .sysreg n v => k1.swr n v
  | .fwreg .. | .post .. | .token .. => k1

/-- A sound update meets no error of its accumulator. -/
theorem accError_sound {s : State} {c : Nat} {p : Pending} (h : p.sound (s.core c)) : s.accError c p = s := by
  unfold State.accError
  split
  · next t id he =>
    have := h t id he
    split <;> simp [this]
  · rfl

/-- A local update writes its core and nothing else, but for the trap of a step that reads an error (R239). -/
theorem applyEff_modCore (s : State) (c : Nat) (p : Pending) (hl : p.isLocal = true) :
    s.applyEff c p = (s.accError c p).modCore c p.onCore := by
  unfold State.applyEff
  generalize s.accError c p = s
  have mark : (if p.gufl then s.modCore c (fun k => (k.writtenReg p).setFlag flagGufl) else
      s.modCore c (fun k => k.writtenReg p)) = s.modCore c p.mark := by
    unfold Pending.mark; cases p.gufl <;> rfl
  simp only [State.modCore_modCore, mark]
  unfold Pending.onCore
  unfold Pending.isLocal at hl
  cases he : p.eff with
  | sreg | qreg => cases p.fw <;> simp
  | step t id zeroing =>
    simp only [State.core_modCore, Core.landStep]
    cases hr : sget none (p.mark (s.core c)).steps id with
    | none => simp [State.modCore, hr]
    | some r => simp [State.modCore, Core.putStep, hr]
  | fwreg | post | token => simp [he] at hl
  | _ => simp

theorem applyEff_local (s : State) (c : Nat) (p : Pending) (k : Core) (hl : p.isLocal = true) (hs : p.sound k) :
    (s.setCore c k).applyEff c p = s.setCore c (p.onCore k) := by
  rw [applyEff_modCore _ c p hl, accError_sound (by simpa using hs), State.modCore_setCore]

/-- A landing clears errors of registers and makes none (log entry 63). -/
theorem onCore_badReg (p : Pending) (k : Core) : (p.onCore k).badReg = (k.writtenReg p).badReg := by
  have mark : (p.mark k).badReg = (k.writtenReg p).badReg := by
    unfold Pending.mark; split <;> rfl
  unfold Pending.onCore
  cases p.eff with
  | sreg | qreg => cases p.fw <;> simp [mark]
  | sysreg n =>
    match n with
    | 0 | 1 | 2 | 3 | _ + 4 => exact mark
  | _ => simp [mark]

theorem writtenReg_badReg_subset (p : Pending) (k : Core) : ∀ x ∈ (k.writtenReg p).badReg, x ∈ k.badReg := by
  intro x hx
  unfold Core.writtenReg at hx
  split at hx
  · exact (List.mem_filter.1 hx).1
  · exact hx

/-- An update stays sound as others of its cycle land. -/
theorem Pending.sound.onCore {p : Pending} {k : Core} (h : p.sound k) (q : Pending) : p.sound (q.onCore k) := by
  intro t id he hm
  rw [onCore_badReg] at hm
  exact h t id he (writtenReg_badReg_subset q k _ hm)

theorem foldl_applyEff (s : State) (c : Nat) (l : List Pending) (k : Core) (h : ∀ p ∈ l, p.isLocal = true ∧ p.sound k) :
    l.foldl (fun acc p => acc.applyEff c p) (s.setCore c k) = s.setCore c (l.foldl (fun k p => p.onCore k) k) := by
  induction l generalizing k with
  | nil => rfl
  | cons p l ih =>
    obtain ⟨hp, hs⟩ := h p (by simp)
    rw [List.foldl_cons, List.foldl_cons, applyEff_local s c p k hp hs]
    exact ih _ fun q hq => ⟨(h q (by simp [hq])).1, (h q (by simp [hq])).2.onCore p⟩

/-! A landing cycle. -/

/-- An update neither reads nor writes the list of those under way. -/
theorem onCore_pend (p : Pending) (k : Core) (l : List Pending) :
    p.onCore { k with pend := l } = { p.onCore k with pend := l } := by
  unfold Pending.onCore
  rw [mark_pend]
  generalize p.mark k = x
  cases p.eff with
  | sreg n | qreg n => cases p.fw <;> cases n <;> rfl
  | wreg n => cases n <;> rfl
  | sysreg n =>
    match n with
    | 0 | 1 | 2 | 3 | _ + 4 => rfl
  | step t id zeroing => exact landStep_pend x t id zeroing l
  | _ => rfl

/-- A core after a landing cycle in which `landing` left the list, `due` of it was not void and `won` took effect, but for the
list of those under way. -/
def Core.afterLanding (k : Core) (landing due won : List Pending) : Core :=
  let k1 := landing.foldl (fun k p => dropStep p k) (won.foldl (fun k p => p.onCore k) k)
  if due.any (fun p => !wins due p && !p.fw) then k1.setFlag flagWconf else k1

theorem dropStep_pend (p : Pending) (k : Core) (l : List Pending) :
    dropStep p { k with pend := l } = { dropStep p k with pend := l } := by
  unfold dropStep; split <;> rfl

theorem foldl_onCore_pend (won : List Pending) (k : Core) (l : List Pending) :
    won.foldl (fun k p => p.onCore k) { k with pend := l } = { won.foldl (fun k p => p.onCore k) k with pend := l } := by
  induction won generalizing k with
  | nil => rfl
  | cons p won ih => rw [List.foldl_cons, onCore_pend, ih]; rfl

theorem foldl_dropStep_pend (due : List Pending) (k : Core) (l : List Pending) :
    due.foldl (fun k p => dropStep p k) { k with pend := l } = { due.foldl (fun k p => dropStep p k) k with pend := l } := by
  induction due generalizing k with
  | nil => rfl
  | cons p due ih => rw [List.foldl_cons, dropStep_pend, ih]; rfl

theorem afterLanding_pend (k : Core) (landing due won l : List Pending) :
    Core.afterLanding { k with pend := l } landing due won = { k.afterLanding landing due won with pend := l } := by
  simp only [Core.afterLanding, foldl_onCore_pend, foldl_dropStep_pend]
  split <;> rfl

/-- A landing cycle whose updates are local and sound writes its core and nothing else. -/
theorem resultLand_local {s : State} {c : Nat} {landing due won : List Pending} (hq : Quiet s c)
    (hland : (s.core c).pend.filter (fun x => decide (x.at_ ≤ s.gcount)) = landing)
    (hdue : landing.filter (fun p => !(s.core c).voidStep p) = due) (hwon : due.filter (wins due) = won)
    (hord : won.filter isClear ++ won.filter (fun p => !isClear p) = won)
    (hl : ∀ p ∈ won, p.isLocal = true ∧ p.sound (s.core c)) :
    Answers (.resultLand c) s (fun t => Landed s t c ((s.core c).afterLanding landing due won)) := by
  let rest := (s.core c).pend.filter (fun p => decide (s.gcount < p.at_))
  have start : s.modCore c (fun k => { k with pend := k.pend.filter (fun p => decide (s.gcount < p.at_)) }) =
      s.setCore c { s.core c with pend := rest } := rfl
  have sound : ∀ p ∈ won, p.isLocal = true ∧ p.sound { s.core c with pend := rest } := hl
  have run : exec (.resultLand c) s =
      .next (s.setCore c (Core.afterLanding { s.core c with pend := rest } landing due won)) := by
    rw [exec_resultLand]
    simp only [execResultLand, settleAll_quiet hq, hland, hdue, hwon, hord]
    rw [start, foldl_applyEff s c won _ sound, State.modCore_setCore]
    rfl
  rw [afterLanding_pend] at run
  exact ⟨_, run, landed_setCore s c _⟩

/-- A landing cycle none of whose updates is void. -/
theorem resultLand_valid {s : State} {c : Nat} {due won : List Pending} (hq : Quiet s c)
    (hdue : (s.core c).pend.filter (fun x => decide (x.at_ ≤ s.gcount)) = due)
    (hv : ∀ p ∈ due, (s.core c).voidStep p = false) (hwon : due.filter (wins due) = won)
    (hord : won.filter isClear ++ won.filter (fun p => !isClear p) = won)
    (hl : ∀ p ∈ won, p.isLocal = true ∧ p.sound (s.core c)) :
    Answers (.resultLand c) s (fun t => Landed s t c ((s.core c).afterLanding due due won)) :=
  resultLand_local hq hdue (List.filter_eq_self.2 fun p hp => by simp [hv p hp]) hwon hord hl

/-- No update beats itself. -/
theorem beats_self (p : Pending) : beats p p = false := by simp [beats]

/-- An update that lands alone takes effect. -/
theorem wins_alone (p : Pending) : wins [p] p = true := by simp [wins, beats_self]

/-- An update that lands alone. -/
theorem resultLand_alone {s : State} {c : Nat} {p : Pending} (h : DueAlone s c p)
    (hv : (s.core c).voidStep p = false) (hl : p.isLocal = true) (hs : p.sound (s.core c)) :
    Answers (.resultLand c) s (fun t => Landed s t c (dropStep p (p.onCore (s.core c)))) := by
  have hw : [p].filter (wins [p]) = [p] := by simp [wins_alone]
  have hord : [p].filter isClear ++ [p].filter (fun p => !isClear p) = [p] := by cases hc : isClear p <;> simp [hc]
  have := resultLand_valid h.1 h.2 (by simpa using hv) hw hord (by simpa using ⟨hl, hs⟩)
  simpa [Core.afterLanding, wins_alone] using this

/-! Updates other than steps. -/

/-- The update is no step. -/
def Pending.noStep (p : Pending) : Prop := ∀ t id z, p.eff ≠ .step t id z

theorem Pending.noStep.sound {p : Pending} (h : p.noStep) (k : Core) : p.sound k :=
  fun t id he => absurd he (h t id false)

theorem Pending.noStep.voidStep {p : Pending} (h : p.noStep) (k : Core) : k.voidStep p = false := by
  unfold Core.voidStep
  split
  · next he => exact absurd he (h _ _ _)
  · rfl

theorem Pending.noStep.dropStep {p : Pending} (h : p.noStep) (k : Core) : Machine.dropStep p k = k := by
  unfold Machine.dropStep
  split
  · next he => exact absurd he (h _ _ _)
  · rfl

theorem landed_noStep {s : State} {c : Nat} {p : Pending} (h : DueAlone s c p) (hn : p.noStep) (hl : p.isLocal = true) :
    Answers (.resultLand c) s (fun t => Landed s t c (p.onCore (s.core c))) := by
  have := resultLand_alone h (hn.voidStep _) hl (hn.sound _)
  rwa [hn.dropStep] at this

/-! What each kind of update does to the core, whose register is clean after it (log entry 63). -/

/-- The flag of a flushing scan (R27). -/
def Pending.flag (p : Pending) (k : Core) : Core := if p.gufl then k.setFlag 2 else k

/-- The registers in error without one. -/
def Core.cleanOf (k : Core) (file n : Nat) : List (Nat × Nat) := k.badReg.filter (fun r => decide (r ≠ (file, n)))

section
variable {p : Pending} (k : Core) {n : Nat} {v : Word64}

theorem onCore_sreg (he : p.eff = .sreg n v) (hf : p.fw = false) :
    p.onCore k = { p.flag (k.ws n v) with badReg := k.cleanOf 0 n } := by
  simp only [Pending.onCore, Pending.mark, Core.writtenReg, writtenOf, he, hf, Pending.flag]
  cases p.gufl <;> cases n <;> rfl

theorem onCore_qreg {v : Bool} (he : p.eff = .qreg n v) (hf : p.fw = false) :
    p.onCore k = { p.flag (k.wq n v) with badReg := k.cleanOf 1 n } := by
  simp only [Pending.onCore, Pending.mark, Core.writtenReg, writtenOf, he, hf, Pending.flag]
  cases p.gufl <;> cases n <;> rfl

theorem onCore_vreg {mask : BitVec 256} {v : VReg} (he : p.eff = .vreg n mask v) (hf : p.fw = false) :
    p.onCore k = { p.flag (k.wv n (mergeGroups mask (k.rv n) v)) with badReg := k.cleanOf 2 n } := by
  simp only [Pending.onCore, Pending.mark, Core.writtenReg, writtenOf, he, hf, Pending.flag]
  cases p.gufl <;> rfl

theorem onCore_kreg (he : p.eff = .kreg n v) (hf : p.fw = false) :
    p.onCore k = { p.flag (k.wk n v) with badReg := k.cleanOf 3 n } := by
  simp only [Pending.onCore, Pending.mark, Core.writtenReg, writtenOf, he, hf, Pending.flag]
  cases p.gufl <;> rfl

theorem onCore_wreg {mask v : BitVec 256} (he : p.eff = .wreg n mask v) (hf : p.fw = false) :
    p.onCore k = { p.flag (k.ww n ((v &&& mask) ||| (k.rw n &&& ~~~mask))) with badReg := k.cleanOf 4 n } := by
  simp only [Pending.onCore, Pending.mark, Core.writtenReg, writtenOf, he, hf, Pending.flag]
  cases p.gufl <;> cases n <;> rfl

theorem onCore_stream {fsel : Nat} (he : p.eff = .stream n fsel v) (hf : p.fw = false) :
    p.onCore k = p.flag (k.wa n (setStream (k.ra n) fsel v)) := by
  simp only [Pending.onCore, Pending.mark, Core.writtenReg, writtenOf, he, hf, Pending.flag]
  cases p.gufl <;> rfl

theorem onCore_rows {rg : Nat} {v : VReg} (he : p.eff = .rows n rg v) (hf : p.fw = false) :
    p.onCore k = { p.flag (k.wm n (setRowGroup (k.rm n) rg v)) with badReg := k.cleanOf 5 n } := by
  simp only [Pending.onCore, Pending.mark, Core.writtenReg, writtenOf, he, hf, Pending.flag]
  cases p.gufl <;> rfl

theorem onCore_tileSet {x : Tile} (he : p.eff = .tileSet n x) (hf : p.fw = false) :
    p.onCore k = { p.flag (k.wm n x) with badReg := k.cleanOf 5 n } := by
  simp only [Pending.onCore, Pending.mark, Core.writtenReg, writtenOf, he, hf, Pending.flag]
  cases p.gufl <;> rfl

theorem onCore_tileClear (he : p.eff = .tileClear n) (hf : p.fw = false) :
    p.onCore k = { p.flag (k.wm n { k.rm n with poison := 0 }) with badReg := k.cleanOf 5 n } := by
  simp only [Pending.onCore, Pending.mark, Core.writtenReg, writtenOf, he, hf, Pending.flag]
  cases p.gufl <;> rfl

theorem onCore_carry {v : BitVec 2080} (he : p.eff = .carry n v) (hf : p.fw = false) :
    p.onCore k = { p.flag (k.wy n v) with badReg := k.cleanOf 6 n } := by
  simp only [Pending.onCore, Pending.mark, Core.writtenReg, writtenOf, he, hf, Pending.flag]
  cases p.gufl <;> rfl

theorem onCore_sysreg (he : p.eff = .sysreg n v) (hf : p.fw = false) : p.onCore k = (p.flag k).swr n v := by
  simp only [Pending.onCore, Pending.mark, Core.writtenReg, writtenOf, he, hf, Pending.flag]
  cases p.gufl <;> rfl

theorem onCore_sreg_fw (he : p.eff = .sreg n v) (hf : p.fw = true) :
    p.onCore k = { p.flag k with fw := k.fw.ws n v } := by
  simp only [Pending.onCore, Pending.mark, Core.writtenReg, writtenOf, he, hf, Pending.flag]
  cases p.gufl <;> rfl

theorem onCore_qreg_fw {v : Bool} (he : p.eff = .qreg n v) (hf : p.fw = true) :
    p.onCore k = { p.flag k with fw := k.fw.wq n v } := by
  simp only [Pending.onCore, Pending.mark, Core.writtenReg, writtenOf, he, hf, Pending.flag]
  cases p.gufl <;> rfl
end

end Sys2Proof.Machine
end

section
/-! Results that land in the register files (R26, R27, R33, R130, R325). -/

namespace Sys2Proof.Machine
open Sys2Proof.Safety

/-! The values that land. -/

/-- A group of the register takes the new value where the mask has a 1 (R33). -/
theorem elem_mergeGroups (mask : BitVec 256) (old new : VReg) (j : Nat) (hj : j < 256) :
    elem 32 (mergeGroups mask old new).toNat j = if mask.getLsbD j then elem 32 new.toNat j else elem 32 old.toNat j := by
  unfold mergeGroups
  split
  · next h => rw [h, BitVec.getLsbD_allOnes, decide_eq_true hj, if_pos rfl]
  · have low : ∀ x, elem 32 x j % 2 ^ 32 = elem 32 x j := fun x => Nat.mod_eq_of_lt (elem_lt 32 x j)
    rw [elem_ofNat_packList _ _ _ (by simp) (by simpa using hj)]
    simp only [List.getElem_map, List.getElem_range]
    split <;> exact low _

theorem getLsbD_mergeMask (mask v old : BitVec 256) (j : Nat) (hj : j < 256) :
    ((v &&& mask) ||| (old &&& ~~~mask)).getLsbD j = if mask.getLsbD j then v.getLsbD j else old.getLsbD j := by
  simp only [BitVec.getLsbD_or, BitVec.getLsbD_and, BitVec.getLsbD_not, hj, decide_true, Bool.true_and]
  cases mask.getLsbD j <;> simp

/-- The bits of a number with a field replaced. -/
theorem testBit_putField (x lo len v j : Nat) :
    (putField x lo len v).testBit j =
      if j < lo then x.testBit j else if j < lo + len then v.testBit (j - lo) else x.testBit j := by
  have e : putField x lo len v = 2 ^ lo * (2 ^ len * (x / 2 ^ (lo + len)) + v % 2 ^ len) + x % 2 ^ lo := by
    rw [putField, Nat.mul_add, ← Nat.mul_assoc, ← Nat.pow_add, Nat.mul_comm (2 ^ (lo + len)), Nat.mul_comm (2 ^ lo) (v % _)]
    omega
  rw [e, Nat.testBit_two_pow_mul_add _ (Nat.mod_lt _ (Nat.two_pow_pos _)),
    Nat.testBit_two_pow_mul_add _ (Nat.mod_lt _ (Nat.two_pow_pos _))]
  by_cases h1 : j < lo
  · simp [h1]
  · by_cases h2 : j < lo + len
    · have : j - lo < len := by omega
      simp [h1, h2, this]
    · have : ¬j - lo < len := by omega
      have e2 : lo + len + (j - lo - len) = j := by omega
      simp [h1, h2, this, Nat.testBit_div_two_pow, e2, Nat.add_comm]

/-- The field just written. -/
theorem fld_putField (x lo len v : Nat) : fld (putField x lo len v) lo len = v % 2 ^ len := by
  refine Nat.eq_of_testBit_eq fun j => ?_
  simp only [fld, Nat.testBit_mod_two_pow, Nat.testBit_div_two_pow, testBit_putField]
  by_cases h : j < len
  · have h1 : ¬lo + j < lo := by omega
    have h2 : lo + j < lo + len := by omega
    simp [h, Nat.add_comm j lo, h2]
  · simp [h]

theorem putField_lt (x lo len v n : Nat) (hx : x < 2 ^ n) (h : lo + len ≤ n) : putField x lo len v < 2 ^ n := by
  refine Nat.lt_pow_two_of_testBit _ fun j hj => ?_
  have h1 : ¬j < lo := by omega
  have h2 : ¬j < lo + len := by omega
  rw [testBit_putField, if_neg h1, if_neg h2]
  exact Nat.testBit_lt_two_pow (Nat.lt_of_lt_of_le hx (Nat.pow_le_pow_right (by decide) hj))

/-- Where a field of a stream stands (R130). -/
def streamLo (fsel : Nat) : Nat := if fsel = 5 then 105 else 21 * fsel
def streamLen (fsel : Nat) : Nat := if fsel = 5 then 11 else 21

theorem stream_fits {fsel : Nat} (h : fsel ≤ 5) : streamLo fsel + streamLen fsel ≤ 128 := by
  unfold streamLo streamLen; split <;> omega

theorem toNat_setStream (a : BitVec 128) {fsel : Nat} (v : Word64) (h : fsel ≤ 5) :
    (setStream a fsel v).toNat = putField a.toNat (streamLo fsel) (streamLen fsel) v.toNat := by
  have e : setStream a fsel v = BitVec.ofNat 128 (putField a.toNat (streamLo fsel) (streamLen fsel) v.toNat) := by
    match fsel with
    | 0 | 1 | 2 | 3 | 4 | 5 => rfl
    | n + 6 => omega
  rw [e, BitVec.toNat_ofNat, Nat.mod_eq_of_lt (putField_lt _ _ _ _ 128 a.isLt (stream_fits h))]

/-- A field of a stream is written and every other bit kept (R130). -/
theorem setStream_bits (a : BitVec 128) {fsel : Nat} (v : Word64) (h : fsel ≤ 5) (j : Nat)
    (hj : j < streamLo fsel ∨ streamLo fsel + streamLen fsel ≤ j) : (setStream a fsel v).getLsbD j = a.getLsbD j := by
  rw [BitVec.getLsbD, toNat_setStream a v h, testBit_putField]
  rcases hj with hj | hj
  · rw [if_pos hj]; rfl
  · rw [if_neg (by omega), if_neg (by omega)]; rfl

/-- Settles O27: each kind of result is one update of its core. -/
theorem registerLanding : Obligations.RegisterLanding := by
  refine ⟨fun s c n p h hf => ?_, fun s c n p h hf hg => ?_⟩
  · intro k flagged lands becomes
    have alone := fun hn hl => landed_noStep (p := p) h hn hl
    refine ⟨fun v he => ?_, fun v he => ?_, fun v he => ?_, fun v he => ?_, fun mask v he => ?_, fun mask v he => ?_,
      fun fsel v he hsel => ?_⟩
    all_goals have done := alone (by simp [Pending.noStep, he]) (by simp [Pending.isLocal, he])
    · rwa [onCore_sreg _ he hf] at done
    · rwa [onCore_qreg _ he hf] at done
    · rwa [onCore_kreg _ he hf] at done
    · rwa [onCore_carry _ he hf] at done
    · rw [onCore_vreg _ he hf] at done
      exact done.imp fun t ht => ⟨ht.1, _, ht.2, fun j hj => elem_mergeGroups mask _ v j hj⟩
    · rw [onCore_wreg _ he hf] at done
      exact done.imp fun t ht => ⟨ht.1, _, ht.2, fun j hj => getLsbD_mergeMask mask v _ j hj⟩
    · rw [onCore_stream _ he hf] at done
      refine done.imp fun t ht => ⟨ht.1, _, ht.2, ?_, fun j _ => setStream_bits _ v hsel j⟩
      rw [toNat_setStream _ v hsel]
      exact fld_putField _ _ _ _
  · have alone := fun hn hl => landed_noStep (p := p) h hn hl
    have plain : p.flag (s.core c) = s.core c := by simp [Pending.flag, hg]
    refine ⟨fun v he => ?_, fun v he => ?_⟩
    all_goals have done := alone (by simp [Pending.noStep, he]) (by simp [Pending.isLocal, he])
    · rwa [onCore_sreg_fw _ he hf, plain] at done
    · rwa [onCore_qreg_fw _ he hf, plain] at done

end Sys2Proof.Machine
end

section
/-! Two results of one register in one cycle (R27). -/

namespace Sys2Proof.Machine
open Sys2Proof.Safety

/-- The slots in the order of R27. -/
theorem slotRank_eq_idxOf (x : Slot) : slotRank x = [Slot.mem, .prm, .mat, .vec, .sca, .ctl].idxOf x := by
  cases x <;> rfl

/-- What R27 says of the update that takes effect. -/
theorem beats_iff (p q : Pending) : beats p q = true ↔
    [Slot.mem, .prm, .mat, .vec, .sca, .ctl].idxOf p.slot < [Slot.mem, .prm, .mat, .vec, .sca, .ctl].idxOf q.slot ∨
      (p.slot = q.slot ∧ q.issued < p.issued) := by
  simp only [beats, Bool.or_eq_true, Bool.and_eq_true, decide_eq_true_eq, slotRank_eq_idxOf]

theorem beats_asymm {p q : Pending} (h : beats p q = true) : beats q p = false := by
  simp only [beats, Bool.or_eq_true, Bool.and_eq_true, decide_eq_true_eq, Bool.or_eq_false_iff, Bool.and_eq_false_iff,
    decide_eq_false_iff_not] at h ⊢
  rcases h with h | ⟨h, h'⟩
  · exact ⟨by omega, .inl fun e => by rw [e] at h; omega⟩
  · exact ⟨by rw [h]; omega, .inr (by omega)⟩

/-- Of two updates of one unit the one that beats the other takes effect. -/
theorem wins_pair {p q : Pending} (hs : (unitOf p).isSome = true) (hu : unitOf q = unitOf p) (hb : beats p q = true)
    {due : List Pending} (hd : due = [p, q] ∨ due = [q, p]) : wins due p = true ∧ wins due q = false := by
  have hn : (unitOf p).isNone = false := by simpa using hs
  rcases hd with rfl | rfl <;> simp [wins, hn, hu, hb, beats_asymm hb, beats_self]

/-- Two updates of one unit land: the one that beats the other takes effect, and WCONF is set. -/
theorem landed_pair {s : State} {c : Nat} {p q : Pending} (hq : Quiet s c)
    (hdue : (s.core c).pend.filter (fun x => decide (x.at_ ≤ s.gcount)) = [p, q] ∨
      (s.core c).pend.filter (fun x => decide (x.at_ ≤ s.gcount)) = [q, p])
    (hfw : q.fw = false) (hb : beats p q = true) (hn : p.noStep) (hl : p.isLocal = true)
    (hs : (unitOf p).isSome = true) (hu : unitOf q = unitOf p) (hv : (s.core c).voidStep q = false) :
    Answers (.resultLand c) s (fun t => Landed s t c ((dropStep q (p.onCore (s.core c))).setFlag 0)) := by
  obtain ⟨hw, hlost⟩ := wins_pair hs hu hb hdue
  have hc : ∀ b : Bool, isClear p = b → [p].filter isClear ++ [p].filter (fun p => !isClear p) = [p] := by
    intro b h; cases b <;> simp [h]
  rcases hdue with hdue | hdue
  · rw [hdue] at hw hlost
    have := resultLand_valid (won := [p]) hq hdue (by simpa [hn.voidStep] using hv) (by simp [hw, hlost]) (hc _ rfl)
      (by simpa using ⟨hl, hn.sound _⟩)
    simpa [Core.afterLanding, hw, hlost, hfw, hn.dropStep, flagWconf] using this
  · rw [hdue] at hw hlost
    have := resultLand_valid (won := [p]) hq hdue (by simpa [hn.voidStep] using hv) (by simp [hw, hlost]) (hc _ rfl)
      (by simpa using ⟨hl, hn.sound _⟩)
    simpa [Core.afterLanding, hw, hlost, hfw, hn.dropStep, flagWconf] using this

/-- A step both of whose operands have been read takes part in its landing cycle (R23). -/
theorem voidStep_read {p : Pending} {k : Core} {t id : Nat} {z : Bool} {r : StepRun} (he : p.eff = .step t id z)
    (hr : sget none k.steps id = some r) (ha : r.a ≠ none) (hb : r.b ≠ none) : k.voidStep p = false := by
  obtain ⟨a, ha⟩ := Option.ne_none_iff_exists'.1 ha
  obtain ⟨b, hb⟩ := Option.ne_none_iff_exists'.1 hb
  simp [Core.voidStep, he, hr, ha, hb]

/-- A write of s0, which does no more than clear its error (R17, log entry 63). -/
theorem onCore_zero {p : Pending} (k : Core) (h : p.fw = false ∧ p.gufl = false ∧ ∃ v, p.eff = .sreg 0 v) :
    p.onCore k = { k with badReg := k.cleanOf 0 0 } := by
  obtain ⟨hf, hg, v, he⟩ := h
  rw [onCore_sreg k he hf]
  simp only [Pending.flag, hg]
  rfl

/-- Two writes of s0 take no part in a collision (R17). -/
theorem landed_zeros {s : State} {c : Nat} {a b : Pending} (hq : Quiet s c)
    (hdue : (s.core c).pend.filter (fun x => decide (x.at_ ≤ s.gcount)) = [a, b])
    (ha : a.fw = false ∧ a.gufl = false ∧ ∃ v, a.eff = .sreg 0 v) (hb : b.fw = false ∧ b.gufl = false ∧ ∃ v, b.eff = .sreg 0 v) :
    Answers (.resultLand c) s (fun t => Landed s t c { s.core c with badReg := (s.core c).cleanOf 0 0 }) := by
  have na : a.noStep := by obtain ⟨-, -, v, he⟩ := ha; simp [Pending.noStep, he]
  have nb : b.noStep := by obtain ⟨-, -, v, he⟩ := hb; simp [Pending.noStep, he]
  have free : ∀ {p : Pending}, (p.fw = false ∧ p.gufl = false ∧ ∃ v, p.eff = .sreg 0 v) →
      p.isLocal = true ∧ isClear p = false ∧ ∀ due, wins due p = true := by
    rintro p ⟨-, -, v, he⟩
    simp [Pending.isLocal, isClear, wins, unitOf, he]
  obtain ⟨la, ca, wa⟩ := free ha
  obtain ⟨lb, cb, wb⟩ := free hb
  have done := resultLand_valid (won := [a, b]) hq hdue (by simp [na.voidStep, nb.voidStep]) (by simp [wa, wb])
    (by simp [ca, cb]) (by simpa using ⟨⟨la, na.sound _⟩, lb, nb.sound _⟩)
  simpa [Core.afterLanding, wa, wb, na.dropStep, nb.dropStep, onCore_zero _ ha, onCore_zero _ hb, Core.cleanOf,
    List.filter_filter] using done

/-- Settles O29: the winner lands as if alone, and WCONF is set. -/
theorem simultaneousWrites : Obligations.SimultaneousWrites := by
  intro s c n p q hquiet hdue hp hq k order flagged lands wins_ hord
  have hb : beats p q = true := (beats_iff p q).2 hord
  have pair := fun hn hl => landed_pair (p := p) hquiet hdue hq hb hn hl
  -- two updates of registers
  have plain : ∀ (x : Core), (p.isLocal = true ∧ p.noStep ∧ q.noStep ∧ (unitOf p).isSome = true ∧ unitOf q = unitOf p) →
      p.onCore k = x → Answers (.resultLand c) s (fun t => Landed s t c (x.setFlag 0)) := by
    rintro x ⟨hl, hn, hnq, hs, hu⟩ rfl
    have := pair hn hl hs hu (hnq.voidStep _)
    rwa [hnq.dropStep] at this
  refine ⟨fun v w he he' hn => ?_, fun v w he he' hn => ?_, fun v w he he' => ?_, fun v w he he' => ?_,
    fun mask v any w he he' => ?_, fun mask v any w he he' hn => ?_, fun x he => ⟨fun h => ?_, fun id z r he' hr ha hb' => ?_⟩,
    fun he h => ?_, fun hg hg' v w he he' => ?_⟩
  · exact plain _ (by simp [Pending.isLocal, Pending.noStep, unitOf, he, he', hp, hq, hn]) (onCore_sreg k he hp)
  · exact plain _ (by simp [Pending.isLocal, Pending.noStep, unitOf, he, he', hp, hq, hn]) (onCore_qreg k he hp)
  · exact plain _ (by simp [Pending.isLocal, Pending.noStep, unitOf, he, he', hp, hq]) (onCore_kreg k he hp)
  · exact plain _ (by simp [Pending.isLocal, Pending.noStep, unitOf, he, he', hp, hq]) (onCore_carry k he hp)
  · refine (plain _ (by simp [Pending.isLocal, Pending.noStep, unitOf, he, he', hp, hq]) (onCore_vreg k he hp)).imp
      fun t ht => ⟨ht.1, _, ht.2, fun j hj => elem_mergeGroups mask _ v j hj⟩
  · refine (plain _ (by simp [Pending.isLocal, Pending.noStep, unitOf, he, he', hp, hq, hn]) (onCore_wreg k he hp)).imp
      fun t ht => ⟨ht.1, _, ht.2, fun j hj => getLsbD_mergeMask mask v _ j hj⟩
  · refine plain _ ?_ (onCore_tileSet k he hp)
    rcases h with h | ⟨y, h⟩ | ⟨rg, v, h⟩ <;> simp [Pending.isLocal, Pending.noStep, unitOf, he, h, hp, hq]
  · have hr : sget none (s.core c).steps id = some r := hr
    have done := pair (by simp [Pending.noStep, he]) (by simp [Pending.isLocal, he]) (by simp [unitOf, he])
      (by simp [unitOf, he, he', hp, hq]) (voidStep_read he' hr ha hb')
    have e : (dropStep q (p.onCore k)).setFlag 0 =
        { flagged { k.wm n x with steps := sset none k.steps id none } with badReg := k.cleanOf 5 n } := by
      rw [onCore_tileSet k he hp]
      simp only [dropStep, he', Pending.flag, flagged]
      cases p.gufl <;> rfl
    rwa [e] at done
  · refine plain _ ?_ (onCore_tileClear k he hp)
    rcases h with ⟨y, h⟩ | ⟨rg, v, h⟩ <;> simp [Pending.isLocal, Pending.noStep, unitOf, he, h, hp, hq]
  · rcases hdue with hdue | hdue
    · exact landed_zeros hquiet hdue ⟨hp, hg, v, he⟩ ⟨hq, hg', w, he'⟩
    · exact landed_zeros hquiet hdue ⟨hq, hg', w, he'⟩ ⟨hp, hg, v, he⟩

end Sys2Proof.Machine
end

section
/-! What events and traps do to the core they name (R238 to R242, R252): they write its sequencer, its firmware context and
the mark of a recorded trap, and leave the rest of the compute context alone. -/

namespace Sys2Proof.Machine
open Sys2Proof.Safety

@[simp] theorem State.core_later (s : State) (n : Nat) (i : Instr) (c : Nat) : (s.later n i).core c = s.core c := rfl

@[simp] theorem State.core_traceRaw (s : State) (die g core typ cut heat payload c : Nat) :
    (s.traceRaw die g core typ cut heat payload).core c = s.core c := by
  unfold State.traceRaw
  dsimp only
  split <;> rfl

@[simp] theorem State.core_traceCore (s : State) (d g typ payload c : Nat) :
    (s.traceCore d g typ payload).core c = s.core c := State.core_traceRaw ..

@[simp] theorem State.core_pokeFw (s : State) (d c : Nat) : (s.pokeFw d).core c = s.core c := by
  unfold State.pokeFw
  dsimp only
  split
  · exact State.core_atOnce ..
  · rfl

/-- A wake sets a pending cause (R326). -/
@[simp] theorem State.core_wake (s : State) (c n : Nat) : (s.wake c n).core c =
    { s.core c with fw := { (s.core c).fw with fpend := (s.core c).fw.fpend ||| BitVec.ofNat 7 (2 ^ n) } } := by
  simp [State.wake]

theorem State.core_wake_ne (s : State) (c n d : Nat) (h : d ≠ c) : (s.wake c n).core d = s.core d := by
  simp [State.wake, State.core_modCore_ne _ _ _ _ h]

/-- An event of a core writes its firmware context and leaves the event cause pending (R252). -/
theorem State.event_core (s : State) (c typ aux payload tp : Nat) : ∃ f, (s.event c typ aux payload tp).core c =
    { s.core c with fw := f } ∧ f.fpend = (s.core c).fw.fpend ||| 4#7 := by
  simp [State.event, State.fwStore]

theorem State.event_core_ne (s : State) (c typ aux payload tp d : Nat) (h : d ≠ c) :
    (s.event c typ aux payload tp).core d = s.core d := by
  simp [State.event, State.fwStore, State.core_wake_ne _ _ _ _ h, State.core_modCore_ne _ _ _ _ h]

/-- An event leaves its cause pending. -/
theorem State.event_pending (s : State) (c typ aux payload tp : Nat) :
    ((s.event c typ aux payload tp).core c).fw.fpend.getLsbD 2 = true := by
  obtain ⟨f, h, hf⟩ := s.event_core c typ aux payload tp
  rw [h, hf, BitVec.getLsbD_or]
  simp

/-- A core of which a record of the sequencer was written keeps the rest. -/
theorem foldl_modCore_seq (f : Seq → Seq) (g : Core → Prop) [DecidablePred g] (l : List Nat) (s : State) (c : Nat) : ∃ q,
    (l.foldl (fun s d => s.modCore d (fun k => if g k then k else { k with seq := f k.seq })) s).core c =
      { s.core c with seq := q } := by
  induction l generalizing s with
  | nil => exact ⟨_, rfl⟩
  | cons d l ih =>
    obtain ⟨q, h⟩ := ih (s.modCore d (fun k => if g k then k else { k with seq := f k.seq }))
    refine ⟨q, ?_⟩
    rw [List.foldl_cons, h]
    by_cases e : c = d
    · subst e
      rw [State.core_modCore]
      split <;> rfl
    · rw [State.core_modCore_ne _ _ _ _ e]

/-- The stop of a heat writes no more of a core than its sequencer (R241). -/
theorem State.fixStop_core (s : State) (p : Nat) (l : List Nat) (e : Option Nat) (c : Nat) :
    ∃ q, (s.fixStop p l e).core c = { s.core c with seq := q } := by
  exact foldl_modCore_seq (fun q => { q with stopLine := none }) (fun k => k.seq.dom = .stopped) _ _ c

theorem State.heatTrap_core (s : State) (d cls c : Nat) : ∃ q, (s.heatTrap d cls).core c = { s.core c with seq := q } := by
  have same : ∀ t : State, t.core c = s.core c → ∃ q, t.core c = { s.core c with seq := q } := fun t h => ⟨_, h⟩
  unfold State.heatTrap
  dsimp only
  split
  · exact s.fixStop_core ..
  · split
    · exact same _ rfl
    · exact s.fixStop_core ..
  all_goals
    split
    · first
        | exact same _ (by simp)
        | split
          · exact same _ (by simp; rfl)
          · exact same _ rfl
    · exact same _ rfl

/-- The trap record writes the firmware context and the mark of the span (R240). -/
theorem State.recordTrap_core (s : State) (c : Nat) (stop : Int) (t : TrapInfo) : ∃ f, (s.recordTrap c stop t).core c =
    { s.core c with fw := f, spanTrap := true } := by
  unfold State.recordTrap
  dsimp only
  split
  · next h => exact ⟨(s.core c).fw, by rw [← h]⟩
  · exact ⟨_, by simp [State.fwStore]; rfl⟩

theorem State.takeTrap_core (s : State) (c : Nat) (t : TrapInfo) : ∃ q f, (s.takeTrap c t).core c =
    { s.core c with seq := q, fw := f, spanTrap := true } := by
  obtain ⟨q, hq⟩ := s.heatTrap_core c t.cls c
  have record : ∀ stop, ∃ f, ((s.heatTrap c t.cls).recordTrap c stop t).core c =
      { s.core c with seq := q, fw := f, spanTrap := true } := fun stop => by
    obtain ⟨f, hf⟩ := (s.heatTrap c t.cls).recordTrap_core c stop t
    exact ⟨f, by rw [hf, hq]⟩
  exact ⟨q, record _⟩

/-- A trap of committed work leaves its record behind and bars the core's issue (R238, R240, R241). -/
theorem State.raiseTrap_core (s : State) (c : Nat) (t : TrapInfo) : ∃ q f, (s.raiseTrap c t).core c =
    { s.core c with seq := q, fw := f, spanTrap := true } ∧ q.stopFrom ≠ none := by
  obtain ⟨q, f, h⟩ := s.takeTrap_core c t
  refine ⟨{ q with stopFrom := some (q.stopFrom.getD (s.gcount + 1)) }, f, ?_, by simp⟩
  unfold State.raiseTrap
  rw [State.core_modCore, h]

end Sys2Proof.Machine
end

section
/-! What lands in a tile, the step sums, and the system registers (R28, R44, R65, R166 to R171). -/

namespace Sys2Proof.Machine
open Sys2Proof.Safety

/-! Row groups. -/

theorem testBit_elem (w x j i : Nat) : (elem w x j).testBit i = (decide (i < w) && x.testBit (w * j + i)) := by
  rw [elem, Nat.testBit_mod_two_pow, Nat.testBit_div_two_pow, Nat.add_comm]

theorem setRowGroup_bits (x : Tile) {rg : Nat} (v : VReg) (h : rg < 8) :
    (setRowGroup x rg v).bits.toNat = putField x.bits.toNat (8192 * rg) 8192 v.toNat := by
  rw [setRowGroup, BitVec.toNat_ofNat, Nat.mod_eq_of_lt (putField_lt _ _ _ _ 65536 x.bits.isLt (by omega))]

/-- A row group written: its elements are the lanes of the register, and the others stay (R65). -/
theorem elem_setRowGroup (x : Tile) {rg j : Nat} (v : VReg) (h : rg < 8) :
    elem 32 (setRowGroup x rg v).bits.toNat j =
      if j / 256 = rg then elem 32 v.toNat (j % 256) else elem 32 x.bits.toNat j := by
  rw [setRowGroup_bits x v h]
  refine Nat.eq_of_testBit_eq fun i => ?_
  rw [testBit_elem, testBit_putField, apply_ite (fun n => Nat.testBit n i), testBit_elem, testBit_elem]
  by_cases hi : i < 32
  · by_cases he : j / 256 = rg
    · have h1 : ¬32 * j + i < 8192 * rg := by omega
      have h2 : 32 * j + i < 8192 * rg + 8192 := by omega
      have h3 : 32 * j + i - 8192 * rg = 32 * (j % 256) + i := by omega
      rw [if_neg h1, if_pos h2, if_pos he, h3]
    · by_cases h1 : 32 * j + i < 8192 * rg
      · rw [if_pos h1, if_neg he]
      · have h2 : ¬32 * j + i < 8192 * rg + 8192 := by omega
        rw [if_neg h1, if_neg h2, if_neg he]
  · simp [hi]

/-- The poison of a row group is cleared with its write (R170). -/
theorem poison_setRowGroup (x : Tile) {rg j : Nat} (v : VReg) (h : rg < 8) :
    (setRowGroup x rg v).poison.getLsbD j = (x.poison.getLsbD j && decide (j / 256 ≠ rg)) := by
  rw [setRowGroup, BitVec.getLsbD, BitVec.toNat_ofNat,
    Nat.mod_eq_of_lt (putField_lt _ _ _ _ 2048 x.poison.isLt (by omega)), testBit_putField]
  by_cases he : j / 256 = rg
  · have h1 : ¬j < 256 * rg := by omega
    have h2 : j < 256 * rg + 256 := by omega
    simp [he, h1, h2]
  · have hx : (x.poison.getLsbD j && decide (j / 256 ≠ rg)) = x.poison.toNat.testBit j := by
      simp only [he, ne_eq, not_false_eq_true, decide_true, Bool.and_true]; rfl
    rw [hx]
    by_cases h1 : j < 256 * rg
    · rw [if_pos h1]
    · have h2 : ¬j < 256 * rg + 256 := by omega
      rw [if_neg h1, if_neg h2]

/-! The sums of a step. -/

/-- A table written row after row, read at row i and column j. -/
theorem getElem?_flatMap_map {α β γ : Type} (f : α → β → γ) (rows : List α) (cols : List β) (i j : Nat)
    (hj : j < cols.length) :
    (rows.flatMap (fun r => cols.map (f r)))[cols.length * i + j]? = rows[i]?.map (fun r => f r cols[j]) := by
  induction rows generalizing i with
  | nil => simp
  | cons r rows ih =>
    rw [List.flatMap_cons]
    cases i with
    | zero =>
      rw [List.getElem?_append_left (by simpa using hj)]
      simp [hj]
    | succ i =>
      have e : cols.length * (i + 1) + j - (cols.map (f r)).length = cols.length * i + j := by
        rw [List.length_map, Nat.mul_succ]; omega
      rw [List.getElem?_append_right (by rw [List.length_map, Nat.mul_succ]; omega), e, ih]
      simp

/-- The elements of a tile packed from a list of as many. -/
theorem elem_ofNat_packList_tile (l : List Nat) (j : Nat) (hl : l.length ≤ 2048) (h : j < l.length) :
    elem 32 (BitVec.ofNat 65536 (packList 32 l)).toNat j = l[j] % 2 ^ 32 := by
  rw [BitVec.toNat_ofNat, Nat.mod_eq_of_lt
    (Nat.lt_of_lt_of_le (packList_lt 32 l) (Nat.pow_le_pow_right (by omega) (by omega)))]
  exact elem_packList 32 l j h

section
variable (r : StepRun) (a b : VReg) (zeroing : Bool) (old : Tile)

/-- The exact sum of a step at row i and column j (R45). -/
def stepSum (i j : Nat) : XVal :=
  exactDot ((operandRuns r.fmt 64 a.toNat r.scaleA).getD i []) ((operandRuns r.fmt 32 b.toNat r.scaleB).getD j [])

/-- The sums of a step, row after row. -/
def stepSums : List XVal :=
  (operandRuns r.fmt 64 a.toNat r.scaleA).flatMap (fun row =>
    (operandRuns r.fmt 32 b.toNat r.scaleB).map (fun col => exactDot row col))

@[simp] theorem length_operandRuns (f n x : Nat) (sc : List (Option (BitVec 8))) : (operandRuns f n x sc).length = n := by
  simp [operandRuns]

theorem length_stepSums : (stepSums r a b).length = 2048 := by simp [stepSums, List.length_flatMap]

theorem getElem_stepSums {i j : Nat} (hi : i < 64) (hj : j < 32) (h : 32 * i + j < (stepSums r a b).length) :
    (stepSums r a b)[32 * i + j] = stepSum r a b i j := by
  have hrow : i < (operandRuns r.fmt 64 a.toNat r.scaleA).length := by simpa using hi
  have hcol : j < (operandRuns r.fmt 32 b.toNat r.scaleB).length := by simpa using hj
  have := getElem?_flatMap_map exactDot (operandRuns r.fmt 64 a.toNat r.scaleA) (operandRuns r.fmt 32 b.toNat r.scaleB)
    i j hcol
  rw [length_operandRuns, List.getElem?_eq_getElem hrow, Option.map_some] at this
  refine Option.some.inj ((List.getElem?_eq_getElem h).symm.trans (this.trans ?_))
  rw [stepSum, List.getD_eq_getElem _ _ hrow, List.getD_eq_getElem _ _ hcol]

/-- What a step makes of its elements (R166). -/
def stepOut : List (Nat × Bool) := List.zipWith (stepElem r.fmt zeroing) (elems 32 2048 old.bits.toNat) (stepSums r a b)

theorem length_stepOut : (stepOut r a b zeroing old).length = 2048 := by simp [stepOut, length_stepSums]

theorem getElem_stepOut {i j : Nat} (hi : i < 64) (hj : j < 32) (h : 32 * i + j < (stepOut r a b zeroing old).length) :
    (stepOut r a b zeroing old)[32 * i + j] =
      stepElem r.fmt zeroing (elem 32 old.bits.toNat (32 * i + j)) (stepSum r a b i j) := by
  simp [stepOut, getElem_elems, getElem_stepSums r a b hi hj]

variable {r a b}

theorem stepTile_read (ha : r.a = some a) (hb : r.b = some b) : stepTile r zeroing old =
    ({ bits := BitVec.ofNat 65536 (packList 32 ((stepOut r a b zeroing old).map Prod.fst)),
       poison := if r.poison then BitVec.allOnes 2048 else if zeroing then 0 else old.poison },
     (stepOut r a b zeroing old).any Prod.snd) := by
  rw [stepTile, ha, hb]; rfl

/-- An element of the tile after a step (R46, R166). -/
theorem elem_stepTile (ha : r.a = some a) (hb : r.b = some b) {i j : Nat} (hi : i < 64) (hj : j < 32) :
    elem 32 (stepTile r zeroing old).1.bits.toNat (32 * i + j) =
      (stepElem r.fmt zeroing (elem 32 old.bits.toNat (32 * i + j)) (stepSum r a b i j)).1 % 2 ^ 32 := by
  have hlen := length_stepOut r a b zeroing old
  rw [stepTile_read zeroing old ha hb,
    elem_ofNat_packList_tile _ _ (by rw [List.length_map, hlen]) (by rw [List.length_map, hlen]; omega),
    List.getElem_map, getElem_stepOut r a b zeroing old hi hj]

/-- A poisoned step poisons every element; a step that replaces leaves no poison of its own (R170). -/
theorem poison_stepTile (ha : r.a = some a) (hb : r.b = some b) {j : Nat} (hj : j < 2048) :
    (stepTile r zeroing old).1.poison.getLsbD j = (r.poison || (!zeroing && old.poison.getLsbD j)) := by
  rw [stepTile_read zeroing old ha hb]
  cases r.poison
  · cases zeroing <;> simp
  · rw [if_pos rfl, BitVec.getLsbD_allOnes, decide_eq_true hj, Bool.true_or]

/-- IOVF of a step (R44). -/
theorem overflow_stepTile (ha : r.a = some a) (hb : r.b = some b) : (stepTile r zeroing old).2 = true ↔
    ∃ i j, i < 64 ∧ j < 32 ∧
      (stepElem r.fmt zeroing (elem 32 old.bits.toNat (32 * i + j)) (stepSum r a b i j)).2 = true := by
  have hlen := length_stepOut r a b zeroing old
  rw [stepTile_read zeroing old ha hb, List.any_eq_true]
  constructor
  · rintro ⟨x, hx, ht⟩
    obtain ⟨n, hn, rfl⟩ := List.getElem_of_mem hx
    have e : 32 * (n / 32) + n % 32 = n := Nat.div_add_mod n 32
    have hi : n / 32 < 64 := by omega
    have hj : n % 32 < 32 := by omega
    refine ⟨n / 32, n % 32, hi, hj, ?_⟩
    rw [← getElem_stepOut r a b zeroing old hi hj (by omega)]
    simpa only [e] using ht
  · rintro ⟨i, j, hi, hj, ht⟩
    refine ⟨_, List.getElem_mem (n := 32 * i + j) (by omega), ?_⟩
    rwa [getElem_stepOut r a b zeroing old hi hj]
end

theorem wrapInt_mod (w : Nat) (x : Int) : wrapInt w x % 2 ^ w = wrapInt w x := by
  unfold wrapInt
  have h1 := Int.emod_nonneg x (show ((2 : Int) ^ w) ≠ 0 by positivity)
  have h2 := Int.emod_lt_of_pos x (show (0 : Int) < 2 ^ w by positivity)
  refine Nat.mod_eq_of_lt ?_
  zify
  rwa [Int.toNat_of_nonneg h1]

/-- The new bits of an element (R44, R46). -/
theorem stepElem_bits (f : Nat) (zeroing : Bool) (acc : Nat) (sum : XVal) : (stepElem f zeroing acc sum).1 % 2 ^ 32 =
    if f ≤ 1 then ((((if zeroing then 0 else signedVal 32 acc) + intOf sum) % 2 ^ 32).toNat)
    else if zeroing then roundF32 sum % 2 ^ 32
    else roundF32 (xadd 0 (widen 10 acc) (widen 10 (roundF32 sum))) % 2 ^ 32 := by
  by_cases hf : f ≤ 1
  · simp only [stepElem, stepInt, hf, decide_true, if_true]
    exact wrapInt_mod 32 _
  · simp only [stepElem, stepInt, hf, decide_false, if_false, Bool.false_eq_true]
    cases zeroing <;> rfl

theorem stepElem_overflow (f : Nat) (zeroing : Bool) (acc : Nat) (sum : XVal) : (stepElem f zeroing acc sum).2 = true ↔
    f ≤ 1 ∧ ((if zeroing then 0 else signedVal 32 acc) + intOf sum < -(2 ^ 31) ∨
      2 ^ 31 - 1 < (if zeroing then 0 else signedVal 32 acc) + intOf sum) := by
  by_cases hf : f ≤ 1
  · simp only [stepElem, stepInt, hf, decide_true, if_true, int32Overflow, Bool.or_eq_true, decide_eq_true_eq, true_and]
  · simp [stepElem, stepInt, hf]

end Sys2Proof.Machine
end

section
/-! The landings of a step, and of results that land together (R23, R27, R44, R166). -/

namespace Sys2Proof.Machine
open Sys2Proof.Safety

/-! A step that lands alone. -/

section
variable {s : State} {c n id : Nat} {p : Pending} {zeroing : Bool} {r : StepRun}

/-- A step one of whose reads met a conflict leaves the list and writes nothing (R23). -/
theorem landed_voidStep (h : DueAlone s c p) (he : p.eff = .step n id zeroing)
    (hr : sget none (s.core c).steps id = some r) (hv : r.a = none ∨ r.b = none) :
    Answers (.resultLand c) s (fun t => Landed s t c { s.core c with steps := sset none (s.core c).steps id none }) := by
  have void : (s.core c).voidStep p = true := by
    simp only [Core.voidStep, he, hr, Bool.or_eq_true, Option.isNone_iff_eq_none]; exact hv
  have done := resultLand_local (due := []) (won := []) h.1 h.2 (by simp [void]) rfl rfl (by simp)
  simpa [Core.afterLanding, dropStep, he] using done

/-- What a step that lands does to its core (R44, R166). -/
theorem onCore_step (k : Core) (hg : p.gufl = false) (hf : p.fw = false) (he : p.eff = .step n id zeroing)
    (hr : sget none k.steps id = some r) : dropStep p (p.onCore k) =
      { k.putStep n (stepTile r zeroing (k.rm n)) with steps := sset none k.steps id none, badReg := k.cleanOf 5 n } := by
  have mark : p.mark k = { k with badReg := k.cleanOf 5 n } := by
    simp only [Pending.mark, hg, Core.writtenReg, writtenOf, hf, he]; rfl
  simp only [Pending.onCore, mark, dropStep, he, Core.landStep, hr]
  generalize hx : stepTile r zeroing (k.rm n) = x
  have hx' : stepTile r zeroing (Core.rm { k with badReg := k.cleanOf 5 n } n) = x := hx
  rw [hx']
  obtain ⟨x, b⟩ := x
  cases b <;> rfl

/-- A landing leaves the sequencer and the mark of a trap alone. -/
theorem onCore_step_trap (k : Core) (he : p.eff = .step n id zeroing) :
    (p.onCore k).spanTrap = k.spanTrap ∧ (p.onCore k).seq = k.seq := by
  have mark : (p.mark k).spanTrap = k.spanTrap ∧ (p.mark k).seq = k.seq := by
    unfold Pending.mark Core.writtenReg; cases writtenOf p <;> cases p.gufl <;> exact ⟨rfl, rfl⟩
  have put : ∀ (k : Core) x, (k.putStep n x).spanTrap = k.spanTrap ∧ (k.putStep n x).seq = k.seq := by
    rintro k ⟨x, b⟩; cases b <;> exact ⟨rfl, rfl⟩
  have land : ∀ k : Core, (k.landStep n id zeroing).spanTrap = k.spanTrap ∧ (k.landStep n id zeroing).seq = k.seq := by
    intro k
    unfold Core.landStep
    split
    · exact put k _
    · exact ⟨rfl, rfl⟩
  simp only [Pending.onCore, he, land, mark, and_self]

/-- A step that adds to an accumulator in error traps (R239). -/
theorem landed_badStep (h : DueAlone s c p) (hv : (s.core c).voidStep p = false) (he : p.eff = .step n id false)
    (hr : sget none (s.core c).steps id = some r) (hb : (5, n) ∈ (s.core c).badReg) :
    Answers (.resultLand c) s (fun t => (t.core c).spanTrap = true ∧ (t.core c).seq.stopFrom ≠ none) := by
  let s1 := s.modCore c (fun k => { k with pend := k.pend.filter (fun q => decide (s.gcount < q.at_)) })
  have order : [p].filter isClear ++ [p].filter (fun p => !isClear p) = [p] := by simp [isClear, he]
  have run : exec (.resultLand c) s = .next ((s1.applyEff c p).modCore c (dropStep p)) := by
    rw [exec_resultLand]
    simp [execResultLand, settleAll_quiet h.1, h.2, hv, wins_alone, order, s1]
  let trap : TrapInfo := { cls := 8, cause := 1, fmask := 0, bundle := some (r.pos, r.seg), detail := n }
  have error : s1.accError c p = s1.raiseTrap c trap := by
    simp [State.accError, he, s1, hr, hb, trap]
  obtain ⟨q, f, ht, hq⟩ := s1.raiseTrap_core c trap
  refine ⟨_, run, ?_⟩
  rw [applyEff_modCore _ c p (by simp [Pending.isLocal, he]), error, State.modCore_modCore]
  beta_reduce
  rw [State.core_modCore]
  obtain ⟨h1, h2⟩ := onCore_step_trap ((s1.raiseTrap c trap).core c) he
  have drop : ∀ k : Core, (dropStep p k).spanTrap = k.spanTrap ∧ (dropStep p k).seq = k.seq := by
    intro k; simp [dropStep, he]
  rw [(drop _).1, (drop _).2, h1, h2, ht]
  exact ⟨rfl, hq⟩

end

/-! Results of one operation that land together. -/

section
variable {s : State} {c n m t : Nat} {p q r : Pending} {v : VReg} {x : Word64} {g h : Tile} {y : BitVec 2080}

/-- The elements and the scales of a `QNT` (R159). -/
theorem landed_elements_scales (hq : Quiet s c) (hdue : (s.core c).pend.filter (fun x => decide (x.at_ ≤ s.gcount)) = [p, q])
    (hp : p.fw = false) (hq' : q.fw = false) (gp : p.gufl = false) (gq : q.gufl = false)
    (he : p.eff = .vreg n (BitVec.allOnes 256) v) (he' : q.eff = .kreg m x) :
    Answers (.resultLand c) s (fun u => Landed s u c
      { ((s.core c).wv n v).wk m x with
        badReg := ((s.core c).cleanOf 2 n).filter (fun w => decide (w ≠ (3, m))) }) := by
  have np : p.noStep := by simp [Pending.noStep, he]
  have nq : q.noStep := by simp [Pending.noStep, he']
  have all : ∀ z ∈ [p, q], wins [p, q] z = true := by simp [wins, unitOf, he, he', hp, hq', beats_self]
  have done := resultLand_valid (won := [p, q]) hq hdue (by simp [np.voidStep, nq.voidStep])
    (List.filter_eq_self.2 all) (by simp [isClear, he, he'])
    (by simpa [Pending.isLocal, he, he'] using ⟨np.sound _, nq.sound _⟩)
  have core : (s.core c).afterLanding [p, q] [p, q] [p, q] = { ((s.core c).wv n v).wk m x with
      badReg := ((s.core c).cleanOf 2 n).filter (fun w => decide (w ≠ (3, m))) } := by
    have whole : mergeGroups (BitVec.allOnes 256) ((s.core c).rv n) v = v := by simp [mergeGroups]
    have none_lost : [p, q].any (fun z => !wins [p, q] z && !z.fw) = false := by
      simp only [List.any_eq_false]; intro z hz; simp [all z hz]
    simp only [Core.afterLanding, none_lost, List.foldl_cons, List.foldl_nil, np.dropStep, nq.dropStep,
      onCore_vreg _ he hp, onCore_kreg _ he' hq', whole, Pending.flag, gp, gq]
    rfl
  rwa [core] at done

/-- The core with the registers in error replaced. -/
def Core.withBad (k : Core) (l : List (Nat × Nat)) : Core := { k with badReg := l }

theorem withBad_wm (k : Core) (l : List (Nat × Nat)) : (k.withBad l).wm t g = (k.wm t g).withBad l := rfl

theorem withBad_wy (k : Core) (l : List (Nat × Nat)) : (k.withBad l).wy n y = (k.wy n y).withBad l := rfl

theorem withBad_setFlag (k : Core) (l : List (Nat × Nat)) : (k.withBad l).setFlag n = (k.setFlag n).withBad l := rfl

theorem withBad_withBad (k : Core) (l l' : List (Nat × Nat)) : (k.withBad l).withBad l' = k.withBad l' := rfl

theorem withBad_cleanOf (k : Core) (l : List (Nat × Nat)) (file : Nat) :
    (k.withBad l).cleanOf file n = l.filter (fun w => decide (w ≠ (file, n))) := rfl

theorem setFlag_wm (k : Core) : (k.setFlag n).wm t g = (k.wm t g).setFlag n := rfl

theorem setFlag_wy (k : Core) : (k.setFlag m).wy n y = (k.wy n y).setFlag m := rfl

theorem setFlag_setFlag (k : Core) : (k.setFlag n).setFlag n = k.setFlag n := by
  simp [Core.setFlag, BitVec.or_assoc]

theorem foldl_scan (k : Core) (hp : p.fw = false) (hq' : q.fw = false) (hr : r.fw = false) (he : p.eff = .tileSet t g)
    (he' : q.eff = .tileSet (t + 1) h) (he'' : r.eff = .carry n y) (gq : p.gufl = q.gufl) (gr : q.gufl = r.gufl) :
    [p, q, r].foldl (fun k z => z.onCore k) k = (p.flag (((k.wm t g).wm (t + 1) h).wy n y)).withBad
      (((k.cleanOf 5 t).filter (fun w => decide (w ≠ (5, t + 1)))).filter (fun w => decide (w ≠ (6, n)))) := by
  have hp' : ∀ k, p.onCore k = (p.flag (k.wm t g)).withBad (k.cleanOf 5 t) := fun k => onCore_tileSet k he hp
  have hq'' : ∀ k, q.onCore k = (q.flag (k.wm (t + 1) h)).withBad (k.cleanOf 5 (t + 1)) :=
    fun k => onCore_tileSet k he' hq'
  have hr' : ∀ k, r.onCore k = (r.flag (k.wy n y)).withBad (k.cleanOf 6 n) := fun k => onCore_carry k he'' hr
  simp only [List.foldl_cons, List.foldl_nil, hp', hq'', hr', withBad_wm, withBad_wy, withBad_cleanOf, Pending.flag,
    ← gr, ← gq]
  cases p.gufl
  · rfl
  · simp only [if_true, withBad_wy, withBad_setFlag, withBad_withBad, setFlag_wm, setFlag_wy, setFlag_setFlag]

/-- The two tiles and the carry of an `ASCAN`, with GUFL where a composition flushed (R169, R171). -/
theorem landed_scan (hq : Quiet s c) (hdue : (s.core c).pend.filter (fun x => decide (x.at_ ≤ s.gcount)) = [p, q, r])
    (hp : p.fw = false) (hq' : q.fw = false) (hr : r.fw = false) (he : p.eff = .tileSet t g)
    (he' : q.eff = .tileSet (t + 1) h) (he'' : r.eff = .carry n y) (gq : p.gufl = q.gufl) (gr : q.gufl = r.gufl) :
    Answers (.resultLand c) s (fun u => Landed s u c
      { p.flag ((((s.core c).wm t g).wm (t + 1) h).wy n y) with
        badReg := (((s.core c).cleanOf 5 t).filter (fun w => decide (w ≠ (5, t + 1)))).filter
          (fun w => decide (w ≠ (6, n))) }) := by
  have np : p.noStep := by simp [Pending.noStep, he]
  have nq : q.noStep := by simp [Pending.noStep, he']
  have nr : r.noStep := by simp [Pending.noStep, he'']
  have all : ∀ z ∈ [p, q, r], wins [p, q, r] z = true := by simp [wins, unitOf, he, he', he'', hp, hq', hr, beats_self]
  have done := resultLand_valid (won := [p, q, r]) hq hdue (by simp [np.voidStep, nq.voidStep, nr.voidStep])
    (List.filter_eq_self.2 all) (by simp [isClear, he, he', he''])
    (by simpa [Pending.isLocal, he, he', he''] using ⟨np.sound _, nq.sound _, nr.sound _⟩)
  have core : (s.core c).afterLanding [p, q, r] [p, q, r] [p, q, r] =
      [p, q, r].foldl (fun k z => z.onCore k) (s.core c) := by
    have none_lost : [p, q, r].any (fun z => !wins [p, q, r] z && !z.fw) = false := by
      simp only [List.any_eq_false]; intro z hz; simp [all z hz]
    simp only [Core.afterLanding, none_lost, List.foldl_cons, List.foldl_nil, np.dropStep, nq.dropStep, nr.dropStep]
    rfl
  rwa [core, foldl_scan _ hp hq' hr he he' he'' gq gr] at done
end

/-! System registers. -/

/-- A flag written 1 is cleared, and only the four flags stand (R28, R131). -/
theorem sstatAfter_clear (old v : Word64) : sstatAfter old v 0 = old &&& ~~~v &&& 0xF := by
  simp [sstatAfter]

/-- Settles O28: each landing is one update of its core; a step's elements are read off its list of sums. -/
theorem tileAndSystemLanding : Obligations.TileAndSystemLanding := by
  refine ⟨fun s c n p h hf => ?_, fun s c n m t p q r v x g h y hquiet hp hq hr => ⟨?_, ?_⟩, fun s c p v h hf hg => ?_⟩
  · intro k old clean flagged lands
    have alone := fun hn hl => landed_noStep (p := p) h hn hl
    refine ⟨fun rg v he hrg => ?_, fun x he => ?_, fun he => ?_, fun id z r he hr hv => landed_voidStep h he hr hv,
      fun id r he hr ha hb hbad => landed_badStep h (voidStep_read he hr ha hb) he hr hbad,
      fun id z r a b he hr ha hb hg hbad => ?_⟩
    · have done := alone (by simp [Pending.noStep, he]) (by simp [Pending.isLocal, he])
      rw [onCore_rows _ he hf] at done
      exact done.imp fun t ht => ⟨ht.1, _, ht.2, fun j _ => ⟨elem_setRowGroup _ v hrg, poison_setRowGroup _ v hrg⟩⟩
    · have done := alone (by simp [Pending.noStep, he]) (by simp [Pending.isLocal, he])
      rwa [onCore_tileSet _ he hf] at done
    · have done := alone (by simp [Pending.noStep, he]) (by simp [Pending.isLocal, he])
      rwa [onCore_tileClear _ he hf] at done
    · intro sum acc full
      have sound : p.sound k := by
        intro t id' he'
        rw [he] at he'
        cases he'
        simpa using hbad
      have done := resultLand_alone h (voidStep_read he hr (by simp [ha]) (by simp [hb])) (by simp [Pending.isLocal, he]) sound
      rw [onCore_step _ hg hf he hr] at done
      have flag := overflow_stepTile z old ha hb
      simp only [stepElem_overflow] at flag
      refine done.imp fun t ht => ⟨ht.1, (stepTile r z old).1, fun i j hi hj => ⟨?_, ?_⟩, fun wide => ?_, fun fits => ?_⟩
      · rw [elem_stepTile z old ha hb hi hj, stepElem_bits]; rfl
      · exact poison_stepTile z old ha hb (by omega)
      · have hx : (stepTile r z old).2 = true := by
          obtain ⟨hr, i, j, hi, hj, ho⟩ := wide
          exact flag.2 ⟨i, j, hi, hj, hr, ho⟩
        have := ht.2
        rw [Core.putStep, hx] at this
        exact this
      · have hx : (stepTile r z old).2 = false := by
          rw [Bool.eq_false_iff, ne_eq, flag]
          rintro ⟨i, j, hi, hj, hr, ho⟩
          rcases fits with h1 | h1
          · omega
          · have := h1 i j hi hj
            simp only [full, acc, sum] at this
            simp only [stepSum] at ho
            omega
        have := ht.2
        rw [Core.putStep, hx] at this
        exact this
  · intro hdue gp gq he he'
    exact landed_elements_scales hquiet hdue hp hq gp gq he he'
  · intro hdue he he' he'' gq gr
    exact landed_scan hquiet hdue hp hq hr he he' he'' gq gr
  · intro k stack
    have alone := fun hn hl => landed_noStep (p := p) h hn hl
    have plain : p.flag k = k := by simp [Pending.flag, hg]
    refine ⟨fun he => ?_, fun he => ?_, fun he => ?_, fun he => ?_⟩
    all_goals
      have done := alone (by simp [Pending.noStep, he]) (by simp [Pending.isLocal, he])
      rw [onCore_sysreg _ he hf, plain] at done
    · rwa [Core.swr, sstatAfter_clear] at done
    · exact done
    · exact done
    · exact done

end Sys2Proof.Machine
end

section
/-! The issue of MEM operations: remote stores, fences and posts, read-modify-writes and the load queue (R25, R29 to R31, R179
to R181, R195, R200, R202). -/

namespace Sys2Proof.Safety
open Machine

theorem OnlyCore.setCore_at (s : State) (c n : Nat) (k : Core) (i : Instr) : OnlyCore s ((s.setCore c k).at n i) c :=
  (OnlyCore.setCore s c k).trans (.at _ c n i)

theorem Adds.setCore (s : State) (c : Nat) (k : Core) : Adds s (s.setCore c k) [] := (Adds.refl s).of_agenda rfl

theorem Adds.trans {s t u : State} {l m : List Event} (h : Adds s t l) (k : Adds t u m) : Adds s u (l ++ m) := fun x => by
  rw [k x, h x, List.mem_append, or_assoc]

end Sys2Proof.Safety

namespace Sys2Proof.Machine
open Sys2Proof.Safety

theorem rs_compute {s : State} (h : s.cur.fw = false) (n : Nat) : s.rs n = (s.core s.cur.core).rs n := by
  simp [State.rs, h]

/-- A hold of a core's sequencer and the event that looks at it (R202). -/
theorem modCore_at (s : State) (c : Nat) (f : Core → Core) {n : Nat} (i : Instr) (h : s.gcount ≤ n) :
    ((s.modCore c f).at n i).core c = f (s.core c) ∧ Adds s ((s.modCore c f).at n i) [⟨n, i⟩] ∧
      OnlyCore s ((s.modCore c f).at n i) c :=
  ⟨by simp, (Adds.setCore s _ _).at h, .setCore_at s _ n _ i⟩

/-- Settles O17: each operation at its issue, read off its meaning. -/
theorem remoteStoresAndFences : Obligations.RemoteStoresAndFences := by
  refine ⟨fun s g v sa target n hok hon hname => ?_, fun s g sa r b scope hok hon hfw => ?_⟩
  · intro c t k gap h when_ addr
    have delay : when_ = s.gcount + vstnDelay c t := by
      simp only [when_, h, gap, vstnDelay, hops, distance_eq_natAbs, Nat.mod_mod_of_dvd _ (show 8 ∣ 64 by decide)]
    have on : Enabled (.vstn g v sa target) false g s := ⟨hok, hon⟩
    refine ⟨_, by rw [exec_vstn, execVstn, runOp_on _ on, withV_some _ hname], ?_, ?_, ?_⟩
    · rw [State.core_at, State.core_at, State.core_setCore, delay]; rfl
    · rw [delay]
      exact ((Adds.setCore s _ _).at (Nat.le_add_right _ _)).at (Nat.le_add_right _ _)
    · exact (OnlyCore.setCore_at s _ _ _ _).trans (.at _ _ _ _)
  · intro c k addr
    refine ⟨?_, fun hs => ?_, fun hs => ?_, fun hs hsa => ?_⟩
    · have on : Enabled (.bpost g r b) false g s := ⟨hok, hon⟩
      have count : fld (s.rs r.toNat).toNat 0 40 = (k.rs r.toNat).toNat % 2 ^ 40 := by simp [fld, rs_compute hfw, k, c]
      refine ⟨_, by rw [exec_bpost, execBpost, runOp_on _ on], ?_⟩
      rw [count]
      exact State.landIn_lands _ _ _ _ _
    · have on : Enabled (.fence g scope) false g s := ⟨by simp [Instr.wf, hok, hs], hon⟩
      refine ⟨_, ?_, modCore_at s c (fun k => { k with seq := { k.seq with
        memHold := .fence s.gcount (decide (scope.toNat = 1)) } }) (.fenceRelease c false) (Nat.le_add_right s.gcount 1)⟩
      rw [exec_fence, execFence, runOp_on _ on]
      simp only [hfw]
      rfl
    · have on : Enabled (.cfence g sa scope) false g s := ⟨by simp [Instr.wf, hok, hs], hon⟩
      have word : scope.toNat < 2 := by omega
      obtain ⟨hcore, hev, hrest⟩ := State.access_opens s codeMem (rangeBanks addr 8) addr 2 2 (.fenceWord scope.toNat)
      obtain ⟨hcore', hev', hrest'⟩ := modCore_at (s.access codeMem (rangeBanks addr 8) addr 2 2 (.fenceWord scope.toNat)) c
        (fun k => { k with seq := { k.seq with memHold := .cfence s.gcount scope.toNat none } }) (n := s.gcount + 3)
        (.cfenceRelease c) (Nat.le_add_right s.gcount 3)
      refine ⟨_, ?_, hcore'.trans (by rw [hcore]; rfl), hev.trans hev', hrest.trans hrest'⟩
      rw [exec_cfence, execCfence, runOp_on _ on]
      simp only [word, if_true]
      rfl
    · have on : Enabled (.cfence g sa scope) false g s := ⟨by simp [Instr.wf, hok, hs, hsa], hon⟩
      refine ⟨_, ?_, modCore_at s c (fun k => { k with seq := { k.seq with memHold := .cfence s.gcount 2 none } })
        (.cfenceRelease c) (Nat.le_add_right s.gcount 3)⟩
      rw [exec_cfence, execCfence, runOp_on _ on]
      simp only [hs]
      rfl

end Sys2Proof.Machine
end

section
/-! Read-modify-writes and the load queue (R29 to R31, R180, R181). -/

namespace Sys2Proof.Machine
open Sys2Proof.Safety

theorem Core.load_eq (k : Core) (a n : Nat) : k.load a n = (List.range n).map (fun i => k.spad.read (a + i)) :=
  k.spad.readBytes_eq a n

/-! Accesses in the list. -/

theorem accOf_id {k : Core} {id : Nat} {a : Access} (h : k.accOf id = some a) : a.id = id := by
  simpa using List.find?_some h

/-- An access changed in place, its number kept. -/
theorem accOf_map {k : Core} {id : Nat} {a : Access} (f : Access → Access) (hf : ∀ x, (f x).id = x.id)
    (h : k.accOf id = some a) : Core.accOf { k with acc := k.acc.map f } id = some (f a) := by
  have e : (fun x : Access => decide (x.id = id)) ∘ f = fun x => decide (x.id = id) := by
    funext x; simp [hf]
  simp only [Core.accOf, List.find?_map, e]
  rw [show k.acc.find? (fun x => decide (x.id = id)) = some a from h, Option.map_some]

/-- Bytes none of which has an uncorrectable error are read without a trap (R239). -/
theorem spadReadError_clean {s : State} {c : Nat} {reads : Nat → Bool} (bundle : Option (Nat × Nat))
    (h : ∀ x, x ∈ (s.core c).badSpad → reads x = false) : s.spadReadError c reads bundle = s := by
  have : (s.core c).badSpad.find? reads = none := List.find?_eq_none.2 fun x hx => by simp [h x hx]
  simp [State.spadReadError, this]

/-- The first byte in error raises the ECC trap (R239). -/
theorem spadReadError_bad {s : State} {c : Nat} {reads : Nat → Bool} (bundle : Option (Nat × Nat)) {x : Nat}
    (h : (s.core c).badSpad.find? reads = some x) :
    s.spadReadError c reads bundle = s.raiseTrap c { cls := 8, cause := 2, fmask := 0, bundle := bundle, detail := x } := by
  simp [State.spadReadError, h]

/-! The checks of R238 on an operation run alone. -/

/-- An enabled operation that passes its check runs its meaning. -/
theorem runChecked_pass {i : Instr} {g : Gate} {s : State} (f : State → Result) (h : Enabled i false g s)
    (hf : s.slotFault s.cur.core i = none) : runChecked i g s f = f s := by
  rw [runChecked, runOp_on _ h]
  rw [hf]
  cases s.cur.fw <;> rfl

/-- An enabled operation that fails its check raises its trap and does nothing else. -/
theorem runChecked_fail {i : Instr} {g : Gate} {s : State} (f : State → Result) {rank cls cause detail : Nat} {sl : Slot}
    (h : Enabled i false g s) (hfw : s.cur.fw = false) (hs : i.slot? = some sl)
    (hf : s.slotFault s.cur.core i = some (rank, cls, cause, detail)) : runChecked i g s f =
      .next (s.issueTrap s.cur.core ⟨cls, cause, 2 ^ slotBit sl, some (s.cur.pos, s.cur.seg), detail⟩) := by
  rw [runChecked, runOp_on _ h]
  rw [hf, hfw, hs]
  rfl

/-! The values of a read-modify-write. -/

theorem intVal_signed (x : Nat) : intVal true 32 x = signedVal 32 x := rfl

theorem intVal_unsigned {x : Nat} (h : x < 2 ^ 32) : intVal false 32 x = x := by
  simp only [intVal, Bool.false_eq_true, if_false, Nat.mod_eq_of_lt h]

/-- A 32-bit value is that of its two's complement. -/
theorem signedVal_inj {x y : Nat} (hx : x < 2 ^ 32) (hy : y < 2 ^ 32) (h : signedVal 32 x = signedVal 32 y) : x = y := by
  simp only [signedVal, Nat.mod_eq_of_lt hx, Nat.mod_eq_of_lt hy] at h
  split at h <;> split at h <;> omega

theorem fmtPick_int {f w : Nat} {sg : Bool} (hf : floatFmt f = none) (hi : intFmt f = some (sg, w)) (x y : Nat) :
    fmtPick f false x y = (if intVal sg w x < intVal sg w y then x else y) ∧
      fmtPick f true x y = (if intVal sg w x < intVal sg w y then y else x) := by
  simp only [fmtPick, hf, hi]
  by_cases h : intVal sg w x < intVal sg w y <;> simp [h]

theorem atomOp_signed {old x : Nat} (ho : old < 2 ^ 32) (hx : x < 2 ^ 32) :
    atomOp 2 1 old x = (if signedVal 32 old ≤ signedVal 32 x then old else x) ∧
      atomOp 2 2 old x = (if signedVal 32 x ≤ signedVal 32 old then old else x) := by
  obtain ⟨hmin, hmax⟩ := fmtPick_int (f := 2) rfl rfl old x
  rw [intVal_signed, intVal_signed] at hmin hmax
  refine ⟨hmin.trans ?_, hmax.trans ?_⟩
  · by_cases e : signedVal 32 old = signedVal 32 x
    · rw [signedVal_inj ho hx e, ite_self, ite_self]
    · split <;> split <;> first | rfl | omega
  · split <;> split <;> first | rfl | omega

theorem atomOp_unsigned {old x : Nat} (ho : old < 2 ^ 32) (hx : x < 2 ^ 32) :
    atomOp 5 1 old x = min old x ∧ atomOp 5 2 old x = max old x := by
  obtain ⟨hmin, hmax⟩ := fmtPick_int (f := 5) rfl rfl old x
  rw [intVal_unsigned ho, intVal_unsigned hx] at hmin hmax
  refine ⟨hmin.trans ?_, hmax.trans ?_⟩ <;> split <;> omega

/-! Their moments. -/

/-- The load queue after a push (R29): nothing where no value was read, or where a conflict came in the first two cycles. -/
def loadQueueAfter (lq : List Word64) (old : Option (BitVec 32)) (conflict : Option Nat) (first : Nat) : List Word64 :=
  match old, conflict with
  | some o, none => lq ++ [o.setWidth 64]
  | some o, some n => if n ≤ first + 1 then lq else lq ++ [o.setWidth 64]
  | none, _ => lq

section
variable {s : State} {c id f op : Nat} {isAtom : Bool} {x : BitVec 32} {old : Option (BitVec 32)} {a : Access}

/-- The read part of a read-modify-write (R29, R180). -/
theorem bankAccess_read (ha : (s.core c).accOf id = some a) (hop : a.op = .atom isAtom f op x old)
    (hc : a.conflictAt = none)
    (hbad : ∀ x, x ∈ (s.core c).badSpad → ¬(a.addr ≤ x ∧ x < a.addr + 4)) :
    Answers (.bankAccess c id .read) s (fun t => (t.core c).accOf id = some { a with
        op := .atom isAtom f op x (some (BitVec.ofNat 32 (natOf ((List.range 4).map (fun i => (s.core c).spad.read (a.addr + i)))))) } ∧
      { t.core c with acc := (s.core c).acc } = s.core c ∧ OnlyCore s t c ∧ t.agenda = s.agenda) := by
  have clean : s.readError c a = s := spadReadError_clean _ fun y hy => by
    have := hbad y hy
    simp only [Access.readsByte, hop, Bool.and_eq_false_iff, decide_eq_false_iff_not]
    omega
  have run : exec (.bankAccess c id .read) s = .next (s.atomRead c id) := by
    rw [exec_bankAccess, execBankAccess, ha]
    simp [hc, clean]
  refine ⟨_, run, ?_, ?_, OnlyCore.modCore s c _, rfl⟩
  · rw [State.atomRead, State.core_modCore, accOf_map _ _ ha]
    · simp only [hop, accOf_id ha, if_true, Core.load_eq]
    · intro y
      split
      · split <;> rfl
      · rfl
  · rw [State.atomRead, State.core_modCore]

/-- The old value reaches the tail of the load queue, unless a conflict of its first two cycles voided the access (R29, R23). -/
theorem loadQueuePush_answers (ha : (s.core c).accOf id = some a) (hop : a.op = .atom true f op x old) :
    Answers (.loadQueuePush c id) s (fun t => t.core c = { s.core c with
        acc := (s.core c).acc.filter (fun y => decide (y.id ≠ id))
        lqOut := (s.core c).lqOut - 1
        lq := loadQueueAfter (s.core c).lq old a.conflictAt a.first } ∧ OnlyCore s t c ∧ t.agenda = s.agenda) := by
  refine ⟨_, ?_, State.core_setCore s c _, OnlyCore.setCore s c _, rfl⟩
  simp only [exec_loadQueuePush, execLoadQueuePush, ha, hop]
  cases old with
  | none => cases a.conflictAt <;> rfl
  | some o =>
    cases a.conflictAt with
    | none => rfl
    | some n => by_cases h : n ≤ a.first + 1 <;> simp [h, Core.closeAccess, loadQueueAfter]
end

/-! Their issue. -/

section
variable {s : State} {g : Gate} {f : BitVec 5} {r : SReg} {sa : StreamReg} {op : BitVec 3}

/-- The access and the events of a read-modify-write (R29, R180). -/
theorem rmwOp_opens (isAtom : Bool) (hfw : s.cur.fw = false) :
    let c := s.cur.core
    let k := s.core c
    let addr := k.streamAddr sa.toNat (g.stage.toNat - 1) / 4 * 4
    let t := (rmwOp isAtom f r g sa op s).1
    (rmwOp isAtom f r g sa op s).2 = k.nextId ∧
    t.core c = { k with nextId := k.nextId + 1, acc := k.acc ++ [opened s 4 (rangeBanks addr 4) addr 2 4
      (.atom isAtom f.toNat op.toNat ((k.rs r.toNat).setWidth 32) none)] } ∧
    Adds s t [⟨s.gcount + 2, .bankAccess c k.nextId .occupy⟩, ⟨s.gcount + 2, .bankAccess c k.nextId .read⟩,
      ⟨s.gcount + 4, .bankAccess c k.nextId .perform⟩] ∧ OnlyCore s t c := by
  refine ⟨rfl, ?_, ?_, ?_⟩
  · simp only [rmwOp, State.openAccess, State.core_at, State.core_setCore, rs_compute hfw]
    rfl
  · exact (((Adds.setCore s _ _).at (Nat.le_add_right _ _)).at (Nat.le_add_right _ _)).at (Nat.le_add_right _ _)
  · exact ((OnlyCore.setCore_at s _ _ _ _).trans (.at _ _ _ _)).trans (.at _ _ _ _)
end

/-- Settles O16: the issue of each operation, its moments, its values, and the load queue. -/
theorem readModifyWrites : Obligations.ReadModifyWrites := by
  refine ⟨fun s g f r sa op hok hcls hon hfw => ?_, fun s c id f op isAtom x old a ha hop => ?_, fun f old x ho hx => ?_,
    fun s g r hok hon hfw => ?_⟩
  · intro c k addr acc ev
    refine ⟨fun hop => ?_, fun hop hroom => ?_, fun hop hfull => ?_⟩
    · have on : Enabled (.red g f r sa op) false g s := ⟨by simp [Instr.wf, hok, hcls, hop], hon⟩
      obtain ⟨-, hcore, hev, hrest⟩ := rmwOp_opens (s := s) (g := g) (f := f) (r := r) (sa := sa) (op := op) false hfw
      exact ⟨_, by rw [exec_red, execRed, runOp_on _ on], hcore, hev, hrest⟩
    · have on : Enabled (.atom g f r sa op) false g s := ⟨by simp [Instr.wf, hok, hcls, hop], hon⟩
      have pass : s.slotFault c (.atom g f r sa op) = none := by
        have : ¬64 ≤ k.lq.length + k.lqOut := by omega
        simp [State.slotFault, k, this]
      obtain ⟨-, hcore, hev, hrest⟩ := rmwOp_opens (s := s) (g := g) (f := f) (r := r) (sa := sa) (op := op) true hfw
      refine ⟨_, by rw [exec_atom, execAtom, runChecked_pass _ on pass], ?_, ?_, ?_⟩
      · rw [State.core_at, State.core_modCore, hcore]
      · exact (hev.trans (Adds.setCore _ _ _)).at (Nat.le_add_right s.gcount 7)
      · exact hrest.trans (.setCore_at _ _ _ _ _)
    · have on : Enabled (.atom g f r sa op) false g s := ⟨by simp [Instr.wf, hok, hcls, hop], hon⟩
      have fail : s.slotFault c (.atom g f r sa op) = some (1, 11, 0, k.lq.length + k.lqOut) := by
        simp [State.slotFault, k, hon, hfull]
      rw [exec_atom, execAtom, runChecked_fail _ on hfw rfl fail]
      rfl
  · refine ⟨fun hc hbad => bankAccess_read ha hop hc hbad, ?_⟩
    rintro rfl
    exact loadQueuePush_answers ha hop
  · refine ⟨?_, ?_, ?_, ?_, rfl⟩
    · rintro (rfl | rfl) <;> exact ⟨rfl, rfl, rfl, rfl⟩
    · rintro rfl; exact atomOp_signed ho hx
    · rintro rfl; exact atomOp_unsigned ho hx
    · rintro rfl; rfl
  · intro c k
    have on : Enabled (.lqpop g r) false g s := ⟨hok, hon⟩
    refine ⟨fun x rest hq => ?_, fun hq => ?_⟩
    · have pass : s.slotFault c (.lqpop g r) = none := by simp [State.slotFault, k, hq]
      obtain ⟨hcore, hev, hrest⟩ := State.landIn_lands (s.modCore c (fun k => { k with lq := k.lq.drop 1 })) 2 .mem
        (.sreg r.toNat x) false
      refine ⟨_, ?_, hcore.trans ?_, (Adds.setCore s _ _).trans hev, (OnlyCore.modCore s c _).trans hrest⟩
      · rw [exec_lqpop, execLqpop, runChecked_pass _ on pass]
        simp only [State.me, show (s.core s.cur.core).lq = x :: rest from hq, List.headD_cons]
        rfl
      · rw [State.modCore_cur, State.core_modCore, show (s.core c).lq = x :: rest from hq]
        rfl
    · have fail : s.slotFault c (.lqpop g r) = some (2, 12, 0, 0) := by simp [State.slotFault, k, hon, hq]
      rw [exec_lqpop, execLqpop, runChecked_fail _ on hfw rfl fail]
      rfl

end Sys2Proof.Machine
end

section
/-! Bytes of the scratchpad: what a run of stores leaves behind, and the elements that a gather reads (R177, R178). -/

namespace Sys2Proof.Machine
open Sys2Proof.Safety

/-! Bytes of numbers. -/

/-- Byte n of element j. -/
theorem elem_elem (w x j n : Nat) (hw : 8 * (w / 8) = w) (hn : n < w / 8) :
    elem 8 x (w / 8 * j + n) = elem 8 (elem w x j) n := by
  refine Nat.eq_of_testBit_eq fun i => ?_
  rw [testBit_elem, testBit_elem, testBit_elem]
  by_cases hi : i < 8
  · have h1 : 8 * n + i < w := by omega
    have h2 : 8 * (w / 8 * j + n) + i = w * j + (8 * n + i) := by
      rw [Nat.mul_add, ← Nat.mul_assoc, hw, Nat.add_assoc]
    rw [h2, decide_eq_true h1, Bool.true_and]
  · simp [hi]

/-- Byte n of the number that bytes hold. -/
theorem elem_natOf (bs : List Byte) (n : Nat) (h : n < bs.length) : elem 8 (natOf bs) n = bs[n].toNat := by
  induction bs generalizing n with
  | nil => exact absurd h (Nat.not_lt_zero n)
  | cons b bs ih =>
    have hb : b.toNat < 256 := b.isLt
    cases n with
    | zero => simp only [elem, natOf, List.getElem_cons_zero]; omega
    | succ n =>
      have hn : n < bs.length := by simpa using h
      have split : 2 ^ (8 * (n + 1)) = 256 * 2 ^ (8 * n) := by rw [Nat.mul_succ, Nat.pow_add, Nat.mul_comm]
      rw [List.getElem_cons_succ, ← ih n hn, natOf, elem, elem, split, ← Nat.div_div_eq_div_mul,
        Nat.add_mul_div_left _ _ (by decide), Nat.div_eq_of_lt hb, Nat.zero_add]

/-! A store, and stores one after another. -/

section
variable (k : Core) (a x : Nat) (bs : List Byte)

theorem store_frame : { k.store a bs with spad := k.spad, badSpad := k.badSpad } = k := rfl

theorem store_acc : (k.store a bs).acc = k.acc := rfl

/-- A byte stored has no error any more (log entry 63). -/
theorem mem_store_badSpad : x ∈ (k.store a bs).badSpad ↔ x ∈ k.badSpad ∧ ¬(a ≤ x ∧ x < a + bs.length) := by
  simp only [Core.store, List.mem_filter, Bool.or_eq_true, decide_eq_true_eq]
  refine and_congr_right fun _ => ?_
  omega

theorem read_store_in {i : Nat} (h : i < bs.length) : (k.store a bs).spad.read (a + i) = bs[i] :=
  Memory.read_writeBytes_in k.spad a bs i h

theorem read_store_out (h : ¬(a ≤ x ∧ x < a + bs.length)) : (k.store a bs).spad.read x = k.spad.read x :=
  Memory.read_writeBytes_out k.spad a bs x (by omega)

/-- The bytes after a store. -/
theorem read_store {byte : Nat → Nat} (hb : ∀ i (h : i < bs.length), bs[i].toNat = byte i) :
    ((k.store a bs).spad.read x).toNat =
      if a ≤ x ∧ x < a + bs.length then byte (x - a) else (k.spad.read x).toNat := by
  by_cases h : a ≤ x ∧ x < a + bs.length
  · obtain ⟨i, rfl⟩ := Nat.exists_eq_add_of_le h.1
    have hi : i < bs.length := by omega
    rw [read_store_in k a bs hi, if_pos h, Nat.add_sub_cancel_left, hb i hi]
  · rw [read_store_out k a x bs h, if_neg h]
end

/-- n stores one after another, the j-th of bytes `b j` at `f j`. -/
def storesOf (f : Nat → Nat) (b : Nat → List Byte) (n : Nat) (k : Core) : Core :=
  (List.range n).foldl (fun k j => k.store (f j) (b j)) k

section
variable (f : Nat → Nat) (b : Nat → List Byte) (k : Core)

theorem storesOf_succ (n : Nat) : storesOf f b (n + 1) k = (storesOf f b n k).store (f n) (b n) := by
  simp [storesOf, List.range_succ]

theorem storesOf_frame (n : Nat) : { storesOf f b n k with spad := k.spad, badSpad := k.badSpad } = k := by
  induction n with
  | zero => rfl
  | succ n ih => rw [storesOf_succ]; exact ih

theorem storesOf_acc (n : Nat) : (storesOf f b n k).acc = k.acc := by
  induction n with
  | zero => rfl
  | succ n ih => rw [storesOf_succ]; exact ih

theorem mem_storesOf_badSpad (n x : Nat) : x ∈ (storesOf f b n k).badSpad ↔
    x ∈ k.badSpad ∧ ∀ j, j < n → ¬(f j ≤ x ∧ x < f j + (b j).length) := by
  induction n with
  | zero => simp [storesOf]
  | succ n ih => rw [storesOf_succ, mem_store_badSpad, ih, Nat.forall_lt_succ_right, and_assoc]

theorem read_storesOf_out (n x : Nat) (h : ∀ j, j < n → ¬(f j ≤ x ∧ x < f j + (b j).length)) :
    (storesOf f b n k).spad.read x = k.spad.read x := by
  induction n with
  | zero => rfl
  | succ n ih =>
    rw [storesOf_succ, read_store_out _ _ _ _ (h n (Nat.lt_succ_self n)), ih fun j hj => h j (Nat.lt_succ_of_lt hj)]

/-- A byte holds what the last store to it wrote. -/
theorem read_storesOf_last (n j i : Nat) (hj : j < n) (hi : i < (b j).length)
    (h : ∀ m, j < m → m < n → ¬(f m ≤ f j + i ∧ f j + i < f m + (b m).length)) :
    (storesOf f b n k).spad.read (f j + i) = (b j)[i] := by
  induction n with
  | zero => omega
  | succ n ih =>
    rw [storesOf_succ]
    by_cases e : j = n
    · subst e; exact read_store_in _ _ _ hi
    · rw [read_store_out _ _ _ _ (h n (by omega) (Nat.lt_succ_self n))]
      exact ih (by omega) fun m hm hmn => h m hm (by omega)
end

/-! Gathers and scatters. -/

/-- Where element j of a gather or scatter stands (R178). -/
def windowAt (w window : Nat) (idx : VReg) (j : Nat) : Nat := window + elem w idx.toNat j % (131072 / w) * (w / 8)

theorem scatterElems_eq (k : Core) (w window : Nat) (v idx : VReg) : scatterElems k w window v idx =
    storesOf (windowAt w window idx) (fun j => bytesOf (w / 8) (elem w v.toNat j)) (8192 / w) k := by
  simp only [scatterElems, elems, List.zip_map', List.foldl_map, storesOf, windowAt]

/-- An element index of 16 or 32 bits stays within its window. -/
theorem windowAt_fits {w : Nat} (hw : w = 16 ∨ w = 32) (t : Nat) : t % (131072 / w) * (w / 8) + w / 8 ≤ 16384 := by
  rcases hw with rfl | rfl <;> omega

/-- Elements at different places share no byte. -/
theorem windowAt_apart {w : Nat} (hw : w = 16 ∨ w = 32) (window : Nat) (idx : VReg) {j m n : Nat} (hn : n < w / 8)
    (h : windowAt w window idx m ≠ windowAt w window idx j) :
    ¬(windowAt w window idx m ≤ windowAt w window idx j + n ∧
      windowAt w window idx j + n < windowAt w window idx m + w / 8) := by
  simp only [windowAt] at h ⊢
  rcases hw with rfl | rfl <;> omega

/-- Byte n of element j that a gather reads (R178). -/
theorem elem_gatherElems (k : Core) {w : Nat} (hw : w = 16 ∨ w = 32) (window : Nat) (idx : VReg) {j n : Nat}
    (hj : j < 8192 / w) (hn : n < w / 8) : elem 8 (gatherElems k w window idx).toNat (w / 8 * j + n) =
      (k.spad.read (windowAt w window idx j + n)).toNat := by
  have whole : 8 * (w / 8) = w := by rcases hw with rfl | rfl <;> rfl
  have regs : w * (8192 / w) ≤ 8192 := Nat.mul_div_le _ _
  have fits := windowAt_fits hw (elem w idx.toNat j)
  rw [elem_elem w _ _ _ whole hn, gatherElems,
    elem_ofNat_packList w _ _ (by simpa using regs) (by simpa using hj)]
  simp only [List.getElem_map, getElem_elems]
  rw [Nat.mod_eq_of_lt, elem_natOf]
  · simp only [List.getElem_take, List.getElem_drop, Core.load_eq, List.getElem_map, List.getElem_range, windowAt,
      Nat.add_assoc]
  · simp only [List.length_take, List.length_drop, Core.load_eq, List.length_map, List.length_range]
    omega
  · refine Nat.lt_of_lt_of_le (natOf_lt _) ?_
    rw [show (256 : Nat) = 2 ^ 8 from rfl, ← Nat.pow_mul]
    refine Nat.pow_le_pow_right (by decide) ?_
    rw [List.length_take]
    omega

/-- The bytes that a gather reads (R178). -/
theorem gather_readsByte {w : Nat} (hw : w = 16 ∨ w = 32) (k : Core) (a : Access) (d : Nat) (idx : VReg)
    (hop : a.op = .gather d w idx) (x : Nat) : a.readsByte k x = true ↔
      ∃ j n, j < 8192 / w ∧ n < w / 8 ∧ x = windowAt w a.addr idx j + n := by
  have pos : 0 < w / 8 := by rcases hw with rfl | rfl <;> decide
  simp only [Access.readsByte, hop, Bool.and_eq_true, decide_eq_true_eq, List.any_eq_true, elems, List.mem_map,
    List.mem_range, windowAt]
  constructor
  · rintro ⟨⟨h1, h2⟩, t, ⟨j, hj, rfl⟩, ht⟩
    refine ⟨j, (x - a.addr) % (w / 8), hj, Nat.mod_lt _ pos, ?_⟩
    have := Nat.div_add_mod (x - a.addr) (w / 8)
    rw [ht, Nat.mul_comm]
    omega
  · rintro ⟨j, n, hj, hn, rfl⟩
    have fits := windowAt_fits hw (elem w idx.toNat j)
    refine ⟨⟨by omega, by omega⟩, _, ⟨j, hj, rfl⟩, ?_⟩
    rw [Nat.add_assoc, Nat.add_sub_cancel_left, Nat.mul_comm, Nat.mul_add_div pos, Nat.div_eq_of_lt hn, Nat.add_zero]

end Sys2Proof.Machine
end

section
/-! What plain accesses do when they perform, and what a void one does (R22, R23, R26, R177 to R182, R239). -/

namespace Sys2Proof.Machine
open Sys2Proof.Safety

section
variable {s : State} {c id : Nat} {a : Access}

/-! The cycle in which an access performs. -/

/-- An access but a read-modify-write reads, with the trap of an error among its bytes, performs, and is over (R22, R26, R239). -/
theorem bankAccess_perform (ha : (s.core c).accOf id = some a) (hc : a.conflictAt = none)
    (hop : ∀ isAtom f op v o, a.op ≠ .atom isAtom f op v o) : exec (.bankAccess c id .perform) s =
      .next (((s.readError c a).performAccess c a).modCore c (fun k => k.closeAccess id)) := by
  rw [exec_bankAccess, execBankAccess, ha]
  simp only [Access.stays, hc]
  cases he : a.op with
  | atom isAtom f op v o => exact absurd he (hop isAtom f op v o)
  | _ => rfl

theorem bankAccess_perform_clean (ha : (s.core c).accOf id = some a) (hc : a.conflictAt = none)
    (hop : ∀ isAtom f op v o, a.op ≠ .atom isAtom f op v o)
    (hbad : ∀ x, x ∈ (s.core c).badSpad → a.readsByte (s.core c) x = false) : exec (.bankAccess c id .perform) s =
      .next ((s.performAccess c a).modCore c (fun k => k.closeAccess id)) := by
  rw [bankAccess_perform ha hc hop, State.readError, spadReadError_clean _ hbad]

/-- A read-modify-write writes its word; an `ATOM` stays until its moment at the load queue (R29, R180). -/
theorem bankAccess_perform_atom (ha : (s.core c).accOf id = some a) (hc : a.conflictAt = none) {isAtom : Bool}
    {f op : Nat} {x : BitVec 32} {old : Option (BitVec 32)} (he : a.op = .atom isAtom f op x old) :
    exec (.bankAccess c id .perform) s =
      .next (if isAtom then s.performPlain c a else (s.performPlain c a).modCore c (fun k => k.closeAccess id)) := by
  rw [exec_bankAccess, execBankAccess, ha]
  simp only [Access.stays, State.performAccess, hc, he]
  cases isAtom <;> rfl

/-- A void access is over without a read or a write (R23). -/
theorem bankAccess_perform_void (ha : (s.core c).accOf id = some a) {n : Nat} (hc : a.conflictAt = some n) :
    exec (.bankAccess c id .perform) s =
      .next (if a.stays then s else s.modCore c (fun k => k.closeAccess id)) := by
  rw [exec_bankAccess, execBankAccess, ha]
  simp only [hc]
  cases a.op <;> rfl

theorem closeAccess_answers {i : Instr} (h : exec i s = .next (s.modCore c (fun k => k.closeAccess id))) :
    Answers i s (fun t => t.core c = { s.core c with acc := (s.core c).acc.filter (fun y => decide (y.id ≠ id)) } ∧
      OnlyCore s t c ∧ t.agenda = s.agenda) :=
  ⟨_, h, by rw [State.core_modCore]; rfl, OnlyCore.modCore s c _, rfl⟩

/-! Loads. -/

/-- A result sent on its way by an access that is then over (R26). -/
theorem landAt_close (s : State) (c id n issued : Nat) (slot : Slot) (e : Eff) (hn : s.gcount ≤ n) :
    let t := (s.landAt c n issued slot e).modCore c (fun k => k.closeAccess id)
    t.core c = { s.core c with
      acc := (s.core c).acc.filter (fun y => decide (y.id ≠ id))
      pend := (s.core c).pend ++ [{ at_ := n, slot := slot, issued := issued, fw := false, gufl := false, eff := e }] } ∧
    Adds s t [⟨n, .resultLand c⟩] ∧ OnlyCore s t c := by
  refine ⟨?_, ?_, ?_⟩
  · simp [State.landAt, Core.closeAccess]
  · exact ((Adds.setCore s _ _).atOnce hn).trans (Adds.setCore _ _ _)
  · exact ((OnlyCore.modCore s c _).trans (.atOnce _ _ _ _)).trans (.modCore _ _ _)

/-! Stores. -/

/-- What a store leaves behind: exactly its bytes written, no error in them, and nothing else changed but the list of
accesses. -/
structure Stored (s t : State) (c : Nat) (left : List Access) (a n : Nat) (byte : Nat → Nat) : Prop where
  frame : { t.core c with spad := (s.core c).spad, badSpad := (s.core c).badSpad } = { s.core c with acc := left }
  clean : ∀ x, x ∈ (t.core c).badSpad ↔ x ∈ (s.core c).badSpad ∧ ¬(a ≤ x ∧ x < a + n)
  bytes : ∀ x, ((t.core c).spad.read x).toNat =
    if a ≤ x ∧ x < a + n then byte (x - a) else ((s.core c).spad.read x).toNat
  rest : OnlyCore s t c
  agenda : t.agenda = s.agenda

theorem stored_setCore (s : State) (c addr : Nat) (bs : List Byte) (left : List Access) {byte : Nat → Nat}
    (hb : ∀ i (h : i < bs.length), bs[i].toNat = byte i) :
    Stored s (s.setCore c { (s.core c).store addr bs with acc := left }) c left addr bs.length byte where
  frame := by rw [State.core_setCore]; rfl
  clean := fun x => by rw [State.core_setCore]; exact mem_store_badSpad _ _ _ _
  bytes := fun x => by rw [State.core_setCore]; exact read_store _ _ _ _ hb
  rest := OnlyCore.setCore s c _
  agenda := rfl

/-- A number stored, byte by byte. -/
theorem stored_bytesOf (s : State) (c addr n v : Nat) (left : List Access) :
    Stored s (s.setCore c { (s.core c).store addr (bytesOf n v) with acc := left }) c left addr n (elem 8 v) := by
  have := stored_setCore s c addr (bytesOf n v) left (getElem_bytesOf n v)
  rwa [length_bytesOf] at this

theorem store_close (s : State) (c id : Nat) (k : Core) :
    (s.setCore c k).modCore c (fun k => k.closeAccess id) =
      s.setCore c { k with acc := k.acc.filter (fun y => decide (y.id ≠ id)) } := by
  rw [State.modCore_setCore]; rfl

/-- The bytes of a call's return record (R105). -/
theorem callRecord_bytes (hdr idx i : Nat) (h : i < (bytesOf 8 hdr ++ bytesOf 2 idx ++ zeros 6).length) :
    (bytesOf 8 hdr ++ bytesOf 2 idx ++ zeros 6)[i].toNat =
      if i < 8 then elem 8 hdr i else if i < 10 then elem 8 idx (i - 8) else 0 := by
  by_cases h1 : i < 8
  · rw [List.getElem_append_left (by simp; omega), List.getElem_append_left (by simpa using h1), getElem_bytesOf, if_pos h1]
  · rw [if_neg h1]
    by_cases h2 : i < 10
    · rw [List.getElem_append_left (by simp; omega), List.getElem_append_right (by simpa using h1), getElem_bytesOf, if_pos h2]
      simp
    · rw [List.getElem_append_right (by simp; omega), if_neg h2]
      simp only [zeros, List.getElem_replicate]
      rfl
/-- A scatter writes the bytes of its elements, of two at one place those of the later (R178). -/
theorem scatter_answers (ha : (s.core c).accOf id = some a) (hc : a.conflictAt = none) {v idx : VReg} {w : Nat}
    (he : a.op = .scatter v w idx) (hw : w = 16 ∨ w = 32) : Answers (.bankAccess c id .perform) s (fun t =>
      let k := s.core c
      let at_ := windowAt w a.addr idx
      { t.core c with spad := k.spad, badSpad := k.badSpad } =
        { k with acc := k.acc.filter (fun y => decide (y.id ≠ id)) } ∧ OnlyCore s t c ∧ t.agenda = s.agenda ∧
      (∀ x, x ∈ (t.core c).badSpad ↔ x ∈ k.badSpad ∧ ∀ j n, j < 8192 / w → n < w / 8 → x ≠ at_ j + n) ∧
      (∀ j n, j < 8192 / w → n < w / 8 → (∀ m, j < m → m < 8192 / w → at_ m ≠ at_ j) →
        ((t.core c).spad.read (at_ j + n)).toNat = elem 8 (elem w v.toNat j) n) ∧
      (∀ x, (∀ j n, j < 8192 / w → n < w / 8 → x ≠ at_ j + n) → (t.core c).spad.read x = k.spad.read x)) := by
  let k := s.core c
  let at_ := windowAt w a.addr idx
  let bs := fun j => bytesOf (w / 8) (elem w v.toNat j)
  let gone := k.acc.filter (fun y => decide (y.id ≠ id))
  have run : exec (.bankAccess c id .perform) s = .next (s.setCore c { storesOf at_ bs (8192 / w) k with acc := gone }) := by
    rw [bankAccess_perform_clean ha hc (by simp [he]) (by simp [Access.readsByte, he])]
    simp only [State.performAccess, State.performPlain, he, scatterElems_eq]
    refine congrArg _ ((store_close s c id _).trans ?_)
    rw [storesOf_acc]
  have apart : ∀ x, (∀ j n, j < 8192 / w → n < w / 8 → x ≠ at_ j + n) ↔
      ∀ j, j < 8192 / w → ¬(at_ j ≤ x ∧ x < at_ j + (bs j).length) := by
    intro x
    simp only [bs, length_bytesOf]
    constructor
    · exact fun h j hj hx => h j (x - at_ j) hj (by omega) (by omega)
    · rintro h j n hj hn rfl
      exact h j hj (by omega)
  refine ⟨_, run, ?_, OnlyCore.setCore s c _, rfl, fun x => ?_, fun j n hj hn hlast => ?_, fun x hx => ?_⟩
  · rw [State.core_setCore]
    exact congrArg (fun x : Core => { x with acc := gone }) (storesOf_frame at_ bs k (8192 / w))
  · rw [State.core_setCore]
    exact (mem_storesOf_badSpad at_ bs k _ x).trans (and_congr_right fun _ => (apart x).symm)
  · rw [State.core_setCore, ← getElem_bytesOf (w / 8) _ n (by simpa using hn)]
    refine congrArg BitVec.toNat (read_storesOf_last at_ bs k _ j n hj (by simpa [bs] using hn) fun m hm hmn => ?_)
    rw [length_bytesOf]
    exact windowAt_apart hw _ _ hn (hlast m hm hmn)
  · rw [State.core_setCore]
    exact read_storesOf_out at_ bs k _ x ((apart x).1 hx)
end

/-- Settles O19: loads, the bytes read and their errors, void accesses, and stores. -/
theorem accessPerform : Obligations.AccessPerform := by
  refine ⟨fun s c id a ha hc hlast hbad => ?_, fun s c id a ha => ?_, fun s c id n a ha hc => ?_, fun s c id a ha hc => ?_⟩
  · intro k word comes
    have load : ∀ (lat : Nat) (slot : Slot) (x : Eff) (P : Eff → Prop), P x →
        (∀ isAtom f op v o, a.op ≠ .atom isAtom f op v o) →
        s.performAccess c a = s.landAt c (a.last + lat) a.issue slot x → comes lat slot P := by
      intro lat slot x P hx hop hp
      have run := bankAccess_perform_clean ha hc hop hbad
      rw [hp] at run
      exact ⟨_, run, x, hx, landAt_close s c id _ a.issue slot x (by omega)⟩
    have whole : ∀ n, natOf (k.load a.addr n) = word n := fun n => by rw [Core.load_eq]
    refine ⟨fun d he => load _ _ _ _ rfl (by simp [he]) ?_, fun d he => load _ _ _ _ rfl (by simp [he]) ?_,
      fun d he => load _ _ _ _ rfl (by simp [he]) ?_, fun d w idx he hw => load _ _ (.vreg d _ (gatherElems k w a.addr idx)) _
        ⟨_, rfl, fun j hj n hn => elem_gatherElems k hw a.addr idx hj hn⟩ (by simp [he]) ?_⟩
    · simp only [State.performAccess, State.performPlain, he]; rw [whole]
    · simp only [State.performAccess, State.performPlain, he]; rw [whole]
    · simp only [State.performAccess, State.performPlain, he]; rw [whole]
    · simp only [State.performAccess, State.performPlain, he]
      rfl
  · intro k reads trapped
    have range : ∀ n x, (decide (a.addr ≤ x) && decide (x < a.addr + n)) = decide (a.addr ≤ x ∧ x < a.addr + n) :=
      fun n x => (Bool.decide_and _ _).symm
    refine ⟨fun d he x => ?_, fun d he x => ?_, fun n he x => ?_, fun he x => ?_, fun isAtom f op v o he x => ?_,
      fun n r he hr x => ?_, fun n r he hr x => ?_, fun v he x => ?_, fun d w idx he hw x => gather_readsByte hw k a d idx he x,
      fun x hc hx hop => ?_, fun x isAtom f op v o hc hx he => ?_⟩
    · simp only [Access.readsByte, he, range]
    · rcases he with he | he | he <;> simp only [Access.readsByte, he, range]
    · simp only [Access.readsByte, he, range]
    · simp only [Access.readsByte, he, range]
    · simp only [Access.readsByte, he, range]
    · simp only [Access.readsByte, he, hr, range]; rfl
    · simp only [Access.readsByte, he, hr, range]; rfl
    · simp only [Access.readsByte, he]
    · rw [bankAccess_perform ha hc hop, State.readError, spadReadError_bad _ hx]
    · have bad : s.readError c a = trapped x := spadReadError_bad _ hx
      rw [exec_bankAccess, execBankAccess, ha]
      simp only [hc, bad]
      rfl
  · intro k gone ends
    refine ⟨?_, ?_, fun hop => ?_, fun f op x o he => ?_⟩
    · rw [exec_bankAccess, execBankAccess, ha]
      simp only [hc]
      rfl
    · refine closeAccess_answers ?_
      rw [exec_vstnArrival, execVstnArrival, ha]
      simp only [hc]
      rfl
    · refine closeAccess_answers ?_
      have gone : a.stays = false := by
        unfold Access.stays
        split
        · next he => exact absurd he (hop _ _ _ _)
        · rfl
      rw [bankAccess_perform_void ha hc, gone]
      rfl
    · rw [bankAccess_perform_void ha hc, Access.stays, he]
      rfl
  · intro k gone puts here stores
    have stored : ∀ {i : Instr} {left : List Access} {n : Nat} {byte : Nat → Nat} {t : State}, exec i s = .next t →
        Stored s t c left a.addr n byte → puts i left n byte :=
      fun run h => ⟨_, run, h.frame, h.clean, h.bytes, h.rest, h.agenda⟩
    have plain : (∀ isAtom f op v o, a.op ≠ .atom isAtom f op v o) → (∀ x, a.readsByte k x = false) →
        ∀ bs, s.performAccess c a = s.setCore c (k.store a.addr bs) →
        exec here s = .next (s.setCore c { k.store a.addr bs with acc := gone }) := by
      intro hop hr bs hp
      rw [bankAccess_perform_clean ha hc hop fun x _ => hr x, hp, store_close]
      rfl
    refine ⟨fun v he => ?_, fun v he => ?_, fun v he => ?_, fun v he => ?_, fun f op x o he => ?_, fun f op x o he => ?_,
      fun v w idx he hw => ?_, fun hdr idx he => ?_⟩
    · exact stored (plain (by simp [he]) (by simp [Access.readsByte, he]) _
        (by simp only [State.performAccess, State.performPlain, he]; rfl)) (stored_bytesOf ..)
    · exact stored (plain (by simp [he]) (by simp [Access.readsByte, he]) _
        (by simp only [State.performAccess, State.performPlain, he]; rfl)) (stored_bytesOf ..)
    · exact stored (plain (by simp [he]) (by simp [Access.readsByte, he]) _
        (by simp only [State.performAccess, State.performPlain, he]; rfl)) (stored_bytesOf ..)
    · refine stored ?_ (stored_bytesOf s c a.addr 1024 v.toNat gone)
      rw [exec_vstnArrival, execVstnArrival, ha]
      simp only [hc, State.performPlain, he]
      exact congrArg _ (store_close s c id _)
    · refine stored ?_ (stored_bytesOf s c a.addr 4 (atomOp f op o.toNat x.toNat) gone)
      rw [bankAccess_perform_atom ha hc he]
      simp only [State.performPlain, he]
      exact congrArg _ (store_close s c id _)
    · refine stored ?_ (stored_bytesOf s c a.addr 4 (atomOp f op o.toNat x.toNat) k.acc)
      rw [bankAccess_perform_atom ha hc he]
      simp only [State.performPlain, he]
      rfl
    · exact scatter_answers ha hc he hw
    · exact stored (plain (by simp [he]) (by simp [Access.readsByte, he]) _
        (by simp only [State.performAccess, State.performPlain, he]; rfl))
        (stored_setCore s c a.addr _ gone (callRecord_bytes hdr idx))

end Sys2Proof.Machine
end

section
/-! Bank conflicts (R23, R174, R188). -/

namespace Sys2Proof.Machine
open Sys2Proof.Safety

/-- The source of a tile of a copy and the destination of the tile before it (R188). -/
def CopyPair (a b : Access) : Prop := ∃ i n, a.op = .copySrc i (n + 1) ∧ b.op = .copyDst i n

/-- Two accesses that share a bank and may not (R23). -/
def Clash (a b : Access) : Prop := a.id ≠ b.id ∧ a.banks &&& b.banks ≠ 0 ∧ ¬CopyPair a b ∧ ¬CopyPair b a

theorem copyPair_iff (a b : Access) : copyPair a.op b.op = true ↔ CopyPair a b := by
  unfold copyPair CopyPair
  constructor
  · intro h
    split at h
    · next i m j n ha hb =>
      simp only [Bool.and_eq_true, decide_eq_true_eq] at h
      obtain ⟨rfl, rfl⟩ := h
      exact ⟨i, n, ha, hb⟩
    · cases h
  · rintro ⟨i, n, ha, hb⟩
    simp [ha, hb]

theorem clash_iff (a b : Access) : clash a b = true ↔ Clash a b := by
  simp [clash, Clash, ← copyPair_iff, and_assoc]

theorem clash_self (a : Access) : clash a a = false := by simp [clash]

theorem clash_comm (a b : Access) : clash a b = clash b a := by
  simp only [clash, BitVec.and_comm a.banks, Bool.or_comm (copyPair a.op b.op), ne_comm (a := a.id)]

/-- The accesses active in the present cycle that meet a conflict. -/
def State.involved (s : State) (c : Nat) : List Access :=
  ((s.core c).active s.gcount).filter (fun a => ((s.core c).active s.gcount).any (fun b => clash a b))

theorem mem_involved (s : State) (c : Nat) (a : Access) : a ∈ s.involved c ↔
    a ∈ (s.core c).active s.gcount ∧ ∃ b, b ∈ (s.core c).active s.gcount ∧ Clash a b := by
  simp only [State.involved, List.mem_filter, List.any_eq_true, clash_iff]

/-- The access void from this cycle on where it is one of those named (R23). -/
def voidAt (ids : List Nat) (g : Nat) (a : Access) : Access :=
  if ids.contains a.id && a.conflictAt.isNone then { a with conflictAt := some g } else a

/-- The accesses of a core that meet a conflict marked. -/
def State.voided (s : State) (c : Nat) (ids : List Nat) : State :=
  s.modCore c (fun k => { k with acc := k.acc.map (voidAt ids s.gcount) })

/-- Those of some accesses in conflict that meet at a bank. -/
def meetAt (l : List Access) (n : Nat) : List Access :=
  l.filter (fun a => a.banks.getLsbD n && l.any (fun b => clash a b && b.banks.getLsbD n))

/-- The lowest bank at which accesses meet, and the first two of them (R23). -/
def firstPair (l : List Access) : Option (Nat × Access × Access) :=
  ((List.range 16).find? (fun n => !(meetAt l n).isEmpty)).bind fun n =>
    (leastReq (meetAt l n)).bind fun a =>
      (leastReq ((meetAt l n).filter (fun x => decide (x.id ≠ a.id)))).map fun b => (n, a, b)

/-- The trap of a conflict (R174). -/
def State.conflictTrap (s : State) (c n : Nat) (a b : Access) : TrapInfo :=
  { cls := 4, cause := 0, fmask := 0, bundle := conflictBundle c a b,
    detail := conflictDetail (s.heat (s.partOf c)).origin (s.heatCycle c) n a b }

/-- What the detection of conflicts does. -/
theorem detect_eq (s : State) (c : Nat) : s.detect c =
    if (s.involved c).any (fun a => decide (a.first = s.gcount) && a.conflictAt.isNone) then
      let s1 := s.voided c ((s.involved c).map (fun a => a.id))
      match firstPair (s.involved c) with
      | some (n, a, b) => s1.raiseTrap c (s1.conflictTrap c n a b)
      | none => s1
    else s := by
  unfold State.detect
  dsimp only
  refine ite_congr rfl (fun _ => ?_) fun _ => rfl
  unfold firstPair
  show (match (List.range 16).find? (fun n => !(meetAt (s.involved c) n).isEmpty) with | some n => _ | none => _) = _
  cases (List.range 16).find? (fun n => !(meetAt (s.involved c) n).isEmpty) with
  | none => rfl
  | some n =>
    simp only [Option.bind_some]
    show (match leastReq (meetAt (s.involved c) n) with | some a => _ | none => _) = _
    cases leastReq (meetAt (s.involved c) n) with
    | none => rfl
    | some a =>
      simp only [Option.bind_some]
      show (match leastReq ((meetAt (s.involved c) n).filter (fun x => decide (x.id ≠ a.id))) with
        | some b => _ | none => _) = _
      cases leastReq ((meetAt (s.involved c) n).filter (fun x => decide (x.id ≠ a.id))) with
      | none => rfl
      | some b => rfl

/-- The order of requesters (R23). -/
theorem reqBefore_iff (a b : Access) : reqBefore a b = true ↔
    a.code < b.code ∨ (a.code = b.code ∧ (a.issue < b.issue ∨ (a.issue = b.issue ∧ a.src < b.src))) := by
  simp [reqBefore]

/-! Two accesses. -/

section
variable {a b : Access} {l : List Access} {n : Nat}

theorem meetAt_pair (hl : l = [a, b] ∨ l = [b, a]) (hc : clash a b = true) (n : Nat) :
    meetAt l n = if a.banks.getLsbD n && b.banks.getLsbD n then l else [] := by
  have hc' : clash b a = true := by rw [clash_comm]; exact hc
  rcases hl with rfl | rfl <;> cases ha : a.banks.getLsbD n <;> cases hb : b.banks.getLsbD n <;>
    simp [meetAt, clash_self, hc, hc', ha, hb]

/-- Of two accesses in conflict the record names the lowest shared bank, and the first of them in the order of R23. -/
theorem firstPair_pair (hl : (l = [a, b] ∧ reqBefore b a = false) ∨ (l = [b, a] ∧ reqBefore a b = true))
    (hc : clash a b = true) (hn : n < 16) (ha : a.banks.getLsbD n = true) (hb : b.banks.getLsbD n = true)
    (hlow : ∀ m, m < n → (a.banks.getLsbD m && b.banks.getLsbD m) = false) : firstPair l = some (n, a, b) := by
  have hl' : l = [a, b] ∨ l = [b, a] := hl.imp And.left And.left
  have meets : meetAt l n = l := by rw [meetAt_pair hl' hc, ha, hb]; rfl
  have lowest : (List.range 16).find? (fun n => !(meetAt l n).isEmpty) = some n := by
    rw [List.find?_range_eq_some]
    refine ⟨?_, by simpa using hn, fun m hm => ?_⟩
    · rw [meets]; rcases hl' with rfl | rfl <;> rfl
    · rw [meetAt_pair hl' hc, hlow m hm]; rfl
  have hid : a.id ≠ b.id := ((clash_iff a b).1 hc).1
  have least : leastReq l = some a := by
    rcases hl with ⟨rfl, h⟩ | ⟨rfl, h⟩ <;> simp [leastReq, h]
  have other : l.filter (fun x => decide (x.id ≠ a.id)) = [b] := by
    rcases hl' with rfl | rfl <;> simp [hid.symm]
  rw [firstPair, lowest, Option.bind_some, meets, least, Option.bind_some, other]
  rfl
end

/-- Settles O20: the detection looks at the accesses in conflict, voids them, and raises the trap of the first pair. -/
theorem bankConflicts : Obligations.BankConflicts := by
  intro s c id x hx g k active pair clash' before fresh both
  have occupies : both (fun i => exec i s = .next (s.detect c)) := by
    refine ⟨?_, ?_⟩
    · show exec _ s = _
      rw [exec_bankAccess, execBankAccess, hx]
    · show exec _ s = _
      rw [exec_vstnArrival, execVstnArrival, hx]
  refine ⟨fun none_ => ?_, fun a b n hact hclash hfresh hn ha hb hlow => ?_, fun a ha hfresh hb => ?_⟩
  · have quiet : s.involved c = [] := by
      refine List.eq_nil_iff_forall_not_mem.2 fun a ha => ?_
      obtain ⟨ha, b, hb, h⟩ := (mem_involved s c a).1 ha
      exact none_ a ha b hb h
    have same : s.detect c = s := by rw [detect_eq, quiet]; rfl
    rwa [same] at occupies
  · have hc : clash a b = true := (clash_iff a b).2 hclash
    have hc' : clash b a = true := by rw [clash_comm]; exact hc
    have order : (active = [a, b] ∧ reqBefore b a = false) ∨ (active = [b, a] ∧ reqBefore a b = true) := by
      simpa only [← Bool.not_eq_true, reqBefore_iff] using hact
    have all : s.involved c = active := by
      show active.filter (fun a => active.any (fun b => clash a b)) = active
      refine List.filter_eq_self.2 ?_
      rcases order with ⟨h, -⟩ | ⟨h, -⟩ <;> simp [h, hc, hc']
    have first : (active.any fun a => decide (a.first = s.gcount) && a.conflictAt.isNone) = true := by
      simp only [List.any_eq_true, Bool.and_eq_true, decide_eq_true_eq, Option.isNone_iff_eq_none]
      rcases hfresh with h | h
      · exact ⟨a, by rcases order with ⟨e, -⟩ | ⟨e, -⟩ <;> simp [e], h⟩
      · exact ⟨b, by rcases order with ⟨e, -⟩ | ⟨e, -⟩ <;> simp [e], h⟩
    have void : ∀ y, voidAt (active.map (fun a => a.id)) g y =
        if (y.id = a.id ∨ y.id = b.id) ∧ y.conflictAt = none then { y with conflictAt := some g } else y := by
      intro y
      refine ite_congr (propext ?_) (fun _ => rfl) fun _ => rfl
      rcases order with ⟨e, -⟩ | ⟨e, -⟩ <;> simp [e, or_comm]
    intro s1 rel detail bundle
    have voided : s.voided c (active.map (fun a => a.id)) = s1 := by
      simp only [State.voided, State.modCore, s1]
      refine congrArg (fun l => s.setCore c { k with acc := l }) ?_
      exact List.map_congr_left fun y _ => void y
    have origin : ∀ n : Nat, cycle64 ((n : Int) - (s1.heat (s1.partOf c)).origin) = rel n := fun _ => rfl
    have record : s1.conflictTrap c n a b = ⟨4, 0, 0, bundle, detail⟩ := by
      simp only [State.conflictTrap, bundle, conflictBundle, Bool.and_eq_true, decide_eq_true_eq, TrapInfo.mk.injEq,
        true_and]
      exact ⟨rfl, rfl⟩
    have trap : s.detect c = s1.raiseTrap c ⟨4, 0, 0, bundle, detail⟩ := by
      rw [detect_eq, all, if_pos first]
      simp only [firstPair_pair order hc hn ha hb hlow, voided, record]
    rwa [trap] at occupies
  · let ids := (s.involved c).map (fun a => a.id)
    have first : ((s.involved c).any fun a => decide (a.first = s.gcount) && a.conflictAt.isNone) = true := by
      simp only [List.any_eq_true, Bool.and_eq_true, decide_eq_true_eq, Option.isNone_iff_eq_none]
      exact ⟨a, (mem_involved s c a).2 ⟨ha, hb⟩, hfresh⟩
    have keeps : ∀ tr : TrapInfo, (((s.voided c ids).raiseTrap c tr).core c).spad = k.spad ∧
        (((s.voided c ids).raiseTrap c tr).core c).acc = k.acc.map (voidAt ids g) := by
      intro tr
      obtain ⟨q, f, h, -⟩ := (s.voided c ids).raiseTrap_core c tr
      rw [h, State.voided, State.core_modCore]
      exact ⟨rfl, rfl⟩
    have result : (s.detect c).core c = (s.voided c ids).core c ∨ ∃ tr, s.detect c = (s.voided c ids).raiseTrap c tr := by
      rw [detect_eq, if_pos first]
      dsimp only
      split
      · exact .inr ⟨_, rfl⟩
      · exact .inl rfl
    have core : ((s.detect c).core c).spad = k.spad ∧ ((s.detect c).core c).acc = k.acc.map (voidAt ids g) := by
      rcases result with h | ⟨tr, h⟩
      · rw [h, State.voided, State.core_modCore]
        exact ⟨rfl, rfl⟩
      · rw [h]; exact keeps tr
    have hits : ∀ y : Access, ((∃ z, z ∈ active ∧ z.id = y.id ∧ ∃ b, b ∈ active ∧ clash' z b) ∧ y.conflictAt = none) ↔
        (ids.contains y.id && y.conflictAt.isNone) = true := by
      intro y
      simp only [ids, Bool.and_eq_true, List.contains_iff_mem, List.mem_map, mem_involved, Option.isNone_iff_eq_none,
        and_assoc]
      refine and_congr_left' (exists_congr fun z => and_congr_right fun _ => ?_)
      rw [and_comm]
      rfl
    have hit : ∀ y, _ → voidAt ids g y = { y with conflictAt := some g } := fun y h => if_pos ((hits y).1 h)
    have miss : ∀ y, ¬_ → voidAt ids g y = y := fun y h => if_neg (mt (hits y).2 h)
    have marks := fun y => And.intro (hit y) (miss y)
    exact ⟨⟨_, occupies.1, core.1, voidAt ids g, core.2, marks⟩, ⟨_, occupies.2, core.1, voidAt ids g, core.2, marks⟩⟩

end Sys2Proof.Machine
end

section
/-! The copy engine (R22, R182, R185 to R188, R239, R242). -/

namespace Sys2Proof.Safety
open Machine

/-- Events are added as a set. -/
theorem Adds.congr {s t : State} {l m : List Event} (h : Adds s t l) (e : ∀ x, x ∈ l ↔ x ∈ m) : Adds s t m :=
  fun x => by rw [h x, e x]

theorem Adds.at_max {s t : State} {l : List Event} (n : Nat) {i : Instr} (h : Adds s t l) :
    Adds s (t.at n i) (l ++ [⟨max n t.gcount, i⟩]) := fun x => by
  rw [State.mem_at, h x, List.mem_append, List.mem_singleton, or_assoc]

/-- An event added where a condition holds. -/
theorem Adds.at_if {s t : State} {l : List Event} (b : Prop) [Decidable b] (n : Nat) {i : Instr} (h : Adds s t l) :
    Adds s (if b then t.at n i else t) (l ++ if b then [⟨max n t.gcount, i⟩] else []) := by
  split
  · exact h.at_max n
  · rw [List.append_nil]; exact h

end Sys2Proof.Safety

namespace Sys2Proof.Machine
open Sys2Proof.Safety

/-! Banks. -/

theorem getLsbD_bankBits (l : List Nat) (n : Nat) (hn : n < 16) : (bankBits l).getLsbD n = true ↔ n ∈ l := by
  have fold : ∀ acc : BitVec 16, (l.foldl (fun acc b => acc ||| BitVec.ofNat 16 (2 ^ b)) acc).getLsbD n = true ↔
      acc.getLsbD n = true ∨ n ∈ l := by
    induction l with
    | nil => simp
    | cons b l ih =>
      intro acc
      have bit : (BitVec.ofNat 16 (2 ^ b)).getLsbD n = true ↔ n = b := by
        rw [BitVec.getLsbD_ofNat, decide_eq_true hn, Bool.true_and, Nat.testBit_two_pow, decide_eq_true_iff, eq_comm]
      rw [List.foldl_cons, ih, BitVec.getLsbD_or, Bool.or_eq_true, bit, List.mem_cons, or_assoc]
  rw [bankBits, fold]
  simp

/-- The banks of bytes are those that hold one of them (R22). -/
theorem banksOfBytes_unique {l : List Nat} {banks : BitVec 16}
    (h : ∀ n, n < 16 → (banks.getLsbD n = true ↔ ∃ y, y ∈ l ∧ bankOf y = n)) : banksOfBytes l = banks := by
  refine BitVec.eq_of_getLsbD_eq fun n hn => Bool.eq_iff_iff.2 ?_
  rw [banksOfBytes, getLsbD_bankBits _ _ hn, h n hn, List.mem_map]

/-! An access of an engine. -/

section
variable (s : State) (c issue pos seg : Nat) (banks : BitVec 16) (addr last : Nat) (op : BankOp)

theorem engineAccess_core : (s.engineAccess c issue pos seg banks addr last op).core c = { s.core c with
    acc := (s.core c).acc ++
      [⟨(s.core c).nextId, 6, issue, c, banks, addr, s.gcount, last, none, pos, seg, op⟩]
    nextId := (s.core c).nextId + 1 } := by
  rw [State.engineAccess, State.core_at, State.core_setCore]; rfl

theorem engineAccess_adds : Adds s (s.engineAccess c issue pos seg banks addr last op)
    [⟨s.gcount, .bankAccess c (s.core c).nextId .occupy⟩] := (Adds.setCore s c _).at le_rfl

theorem engineAccess_only : OnlyCore s (s.engineAccess c issue pos seg banks addr last op) c :=
  OnlyCore.setCore_at s c _ _ _
end

/-! The list of copies. -/

theorem modCopy_copyOf {k : Core} {id : Nat} {x : CopyRun} (f : CopyRun → CopyRun) (hf : ∀ y, (f y).id = y.id)
    (h : k.copyOf id = some x) : (k.modCopy id f).copyOf id = some (f x) := by
  have hid : x.id = id := by simpa using List.find?_some h
  have e : (fun y : CopyRun => decide (y.id = id)) ∘ (fun y => if y.id = id then f y else y) =
      fun y => decide (y.id = id) := by
    funext y
    by_cases hy : y.id = id <;> simp [hy, hf]
  simp only [Core.copyOf, Core.modCopy, List.find?_map, e]
  rw [show k.copies.find? (fun y => decide (y.id = id)) = some x from h, Option.map_some, if_pos hid]

/-! Conflicts of an access named by its operation. -/

/-- Of accesses of different operations one is void exactly when it met a conflict. -/
theorem voided_iff {k : Core} (h : ∀ a b, a ∈ k.acc → b ∈ k.acc → a.op = b.op → a = b) (op : BankOp) :
    k.voided op = true ↔ ∃ a, a ∈ k.acc ∧ a.op = op ∧ a.conflictAt ≠ none := by
  unfold Core.voided Core.accWith
  constructor
  · intro hv
    split at hv
    · next a ha =>
      refine ⟨a, List.mem_of_find?_eq_some ha, by simpa using List.find?_some ha, ?_⟩
      rwa [Option.isSome_iff_ne_none] at hv
    · cases hv
  · rintro ⟨a, ha, rfl, hc⟩
    cases hf : k.acc.find? (fun b => decide (b.op = a.op)) with
    | none => simpa using List.find?_eq_none.1 hf a ha
    | some b =>
      have : b = a := h b a (List.mem_of_find?_eq_some hf) ha (by simpa using List.find?_some hf)
      rw [this]
      exact Option.isSome_iff_ne_none.2 hc

/-! The bytes of a tile put into the scratchpad. -/

/-- Bits put into bytes, one byte after another (R186). -/
def Core.putBytes (k : Core) (l : List (Nat × Byte × Byte)) : Core :=
  l.foldl (fun k p => k.store p.1 [(k.spad.read p.1 &&& ~~~p.2.1) ||| p.2.2]) k

theorem putBytes_cons (k : Core) (p : Nat × Byte × Byte) (l : List (Nat × Byte × Byte)) :
    k.putBytes (p :: l) = (k.store p.1 [(k.spad.read p.1 &&& ~~~p.2.1) ||| p.2.2]).putBytes l := rfl

theorem putBytes_frame (k : Core) (l : List (Nat × Byte × Byte)) :
    { k.putBytes l with spad := k.spad, badSpad := k.badSpad } = k := by
  induction l generalizing k with
  | nil => rfl
  | cons p l ih =>
    have := ih (k.store p.1 [(k.spad.read p.1 &&& ~~~p.2.1) ||| p.2.2])
    rw [putBytes_cons]
    exact congrArg (fun x : Core => { x with spad := k.spad, badSpad := k.badSpad }) this

theorem putBytes_acc (k : Core) (l : List (Nat × Byte × Byte)) : (k.putBytes l).acc = k.acc := by
  have := congrArg Core.acc (putBytes_frame k l)
  exact this

theorem putBytes_outq (k : Core) (l : List (Nat × Byte × Byte)) : (k.putBytes l).outq = k.outq := by
  have := congrArg Core.outq (putBytes_frame k l)
  exact this

theorem putBytes_read_out (k : Core) (l : List (Nat × Byte × Byte)) (a : Nat) (h : ∀ y, y ∈ l → y.1 ≠ a) :
    (k.putBytes l).spad.read a = k.spad.read a := by
  induction l generalizing k with
  | nil => rfl
  | cons p l ih =>
    have hp := h p (by simp)
    rw [putBytes_cons, ih _ fun y hy => h y (by simp [hy]), read_store_out]
    simp only [List.length_singleton]
    omega

theorem putBytes_read (k : Core) (u v : List (Nat × Byte × Byte)) (y : Nat × Byte × Byte)
    (h : ∀ z, z ∈ u ++ v → z.1 ≠ y.1) :
    (k.putBytes (u ++ y :: v)).spad.read y.1 = (k.spad.read y.1 &&& ~~~y.2.1) ||| y.2.2 := by
  have split : k.putBytes (u ++ y :: v) = (k.putBytes u).putBytes (y :: v) := List.foldl_append ..
  rw [split, putBytes_cons, putBytes_read_out _ _ _ fun z hz => h z (by simp [hz]),
    putBytes_read_out k u _ fun z hz => h z (by simp [hz])]
  exact read_store_in _ y.1 [_] (i := 0) (by simp)

theorem mem_putBytes_badSpad (k : Core) (l : List (Nat × Byte × Byte)) (y : Nat) :
    y ∈ (k.putBytes l).badSpad ↔ y ∈ k.badSpad ∧ ∀ z, z ∈ l → z.1 ≠ y := by
  induction l generalizing k with
  | nil => simp [Core.putBytes]
  | cons p l ih =>
    rw [putBytes_cons, ih, mem_store_badSpad, and_assoc, List.forall_mem_cons]
    refine and_congr_right fun _ => and_congr_left fun _ => ?_
    simp only [List.length_singleton]
    omega

/-! The parts of a tile. -/

section
variable {s : State} {c id tile : Nat} {x : CopyRun}

/-- The next tile of a copy follows 16 cycles on (R187). -/
def State.nextTile (s : State) (c id tile : Nat) (x : CopyRun) : State :=
  if tile + 1 < x.tiles then s.at (s.gcount + 16) (.copyTile c id (tile + 1) .occupy) else s

/-- The later parts of a tile: its read at `n`, its destination banks and its bytes (R187). -/
def State.tileParts (s : State) (c id tile n : Nat) (x : CopyRun) : State :=
  let s1 := s.at n (.copyTile c id tile .read)
  let s2 := if wordSpace (copyDst x.rec_.toNat) = 0 then
    s1.at (copyPerform x tile - 15) (.copyTile c id tile .reserve) else s1
  s2.at (copyPerform x tile) (.copyTile c id tile .perform)

/-- The first cycle of a tile (R187). -/
theorem copyTile_occupy (hx : (s.core c).copyOf id = some x) (hb : s.begins c x.start = true) :
    exec (.copyTile c id tile .occupy) s = .next (
      if wordSpace (copySrc x.rec_.toNat) = 0 then
        ((s.nextTile c id tile x).engineAccess c x.issue x.pos x.seg (banksOfBytes (tileSource x.rec_.toNat tile)) 0
          (s.gcount + 15) (.copySrc id tile)).tileParts c id tile s.gcount x
      else (s.nextTile c id tile x).tileParts c id tile (s.gcount + 80) x) := by
  rw [exec_copyTile, execCopyTile, hx]
  simp only [hb, Bool.not_true, Bool.false_eq_true, if_false, decide_eq_true_eq]
  by_cases h : wordSpace (copySrc x.rec_.toNat) = 0
  · simp only [if_pos h]; rfl
  · simp only [if_neg h]; rfl

theorem nextTile_agenda (s : State) (c id tile : Nat) (x : CopyRun) :
    { s.nextTile c id tile x with agenda := s.agenda } = s := by
  unfold State.nextTile; split <;> rfl

theorem nextTile_adds (s : State) (c id tile : Nat) (x : CopyRun) : Adds s (s.nextTile c id tile x)
    (if tile + 1 < x.tiles then [⟨s.gcount + 16, .copyTile c id (tile + 1) .occupy⟩] else []) := by
  have := (Adds.refl s).at_if (tile + 1 < x.tiles) (s.gcount + 16) (i := .copyTile c id (tile + 1) .occupy)
  rwa [Nat.max_eq_left (Nat.le_add_right _ _)] at this

theorem tileParts_agenda (s : State) (c id tile n : Nat) (x : CopyRun) :
    { s.tileParts c id tile n x with agenda := s.agenda } = s := by
  unfold State.tileParts; dsimp only; split <;> rfl

theorem tileParts_adds (s : State) (c id tile n : Nat) (x : CopyRun) (hn : s.gcount ≤ n) :
    Adds s (s.tileParts c id tile n x) ([⟨n, .copyTile c id tile .read⟩] ++
      ((if wordSpace (copyDst x.rec_.toNat) = 0 then
          [⟨max (copyPerform x tile - 15) s.gcount, .copyTile c id tile .reserve⟩] else []) ++
        [⟨max (copyPerform x tile) s.gcount, .copyTile c id tile .perform⟩])) := by
  have read := (Adds.refl s).at hn (i := .copyTile c id tile .read)
  unfold State.tileParts
  by_cases h : wordSpace (copyDst x.rec_.toNat) = 0
  · simp only [if_pos h]
    exact (read.at_max _).at_max _
  · simp only [if_neg h]
    exact read.at_max _

/-- A state that differs in its agenda has the same cores. -/
theorem core_of_agenda {t : State} (h : { t with agenda := s.agenda } = s) (d : Nat) : t.core d = s.core d := by
  rw [← h]; rfl

theorem gcount_of_agenda {t : State} (h : { t with agenda := s.agenda } = s) : t.gcount = s.gcount := by
  rw [← h]

theorem onlyCore_of_agenda {t : State} (h : { t with agenda := s.agenda } = s) (c : Nat) : OnlyCore s t c := by
  refine ⟨?_, fun d _ => core_of_agenda h d⟩
  rw [← h]

/-- A tile whose source bytes are read (R187, R239). -/
theorem copyTile_read (hx : (s.core c).copyOf id = some x) : exec (.copyTile c id tile .read) s =
    .next ((if wordSpace (copySrc x.rec_.toNat) = 0 then
      s.spadReadError c (tileSource x.rec_.toNat tile).contains (some (x.pos, x.seg)) else s).modCore c
        (fun k => k.modCopy id (fun y => { y with read := sset [] y.read tile (s.tileBytes c x.rec_.toNat tile) }))) := by
  rw [exec_copyTile, execCopyTile, hx]

/-- The copies after a tile of one, which is over with its last (R187). -/
def copiesAfter (l : List CopyRun) (id tile tiles : Nat) : List CopyRun :=
  let l1 := l.map (fun y => if y.id = id then { y with read := sset [] y.read tile [] } else y)
  if tile + 1 = tiles then l1.filter (fun y => decide (y.id ≠ id)) else l1

/-- A tile that has performed leaves the accesses, and the last one the copy (R187). -/
def Core.afterTile (k : Core) (id tile tiles : Nat) : Core :=
  { k with
    acc := k.acc.filter (fun a => decide (a.op ≠ .copySrc id tile) && decide (a.op ≠ .copyDst id tile))
    copies := copiesAfter k.copies id tile tiles }

theorem afterTile_eq (k : Core) (id tile tiles : Nat) :
    (let k1 := ((k.dropAcc (.copySrc id tile)).dropAcc (.copyDst id tile)).modCopy id (fun y =>
      { y with read := sset [] y.read tile [] })
    if tile + 1 = tiles then { k1 with copies := k1.copies.filter (fun y => decide (y.id ≠ id)) } else k1) =
      k.afterTile id tile tiles := by
  have acc : (k.acc.filter (fun a => decide (a.op ≠ .copySrc id tile))).filter (fun a => decide (a.op ≠ .copyDst id tile)) =
      k.acc.filter (fun a => decide (a.op ≠ .copySrc id tile) && decide (a.op ≠ .copyDst id tile)) := by
    rw [List.filter_filter]
    simp only [Bool.and_comm]
  unfold Core.afterTile copiesAfter
  rw [← acc]
  by_cases h : tile + 1 = tiles
  · simp only [if_pos h]; rfl
  · simp only [if_neg h]; rfl

theorem copyTile_perform (hx : (s.core c).copyOf id = some x) : exec (.copyTile c id tile .perform) s =
    .next ((if (s.core c).voided (.copySrc id tile) || (s.core c).voided (.copyDst id tile) || s.quietNow c then s
      else s.performTile c x.rec_.toNat (sget [] x.read tile)).modCore c (fun k => k.afterTile id tile x.tiles)) := by
  rw [exec_copyTile, execCopyTile, hx]
  simp only [afterTile_eq]

theorem afterTile_copyOf (k : Core) (id tile : Nat) : (k.afterTile id tile (tile + 1)).copyOf id = none := by
  simp [Core.afterTile, copiesAfter, Core.copyOf]

/-- What a tile that has performed leaves: its accesses are over, and its copy after the last one. -/
structure TileOver (s t : State) (c id tile tiles : Nat) : Prop where
  rest : { t with cores := s.cores } = s
  others : ∀ d, d ≠ c → t.core d = s.core d
  acc : (t.core c).acc = (s.core c).acc.filter (fun a =>
    decide (a.op ≠ .copySrc id tile) && decide (a.op ≠ .copyDst id tile))
  last : tile + 1 = tiles → (t.core c).copyOf id = none
  frame : { t.core c with
    acc := (s.core c).acc
    copies := (s.core c).copies
    spad := (s.core c).spad
    badSpad := (s.core c).badSpad
    outq := (s.core c).outq } = s.core c

/-- The state after a tile, `t` being that after its bytes. -/
theorem tileOver_afterTile {t : State} (hrest : { t with cores := s.cores } = s)
    (hothers : ∀ d, d ≠ c → t.core d = s.core d) (hacc : (t.core c).acc = (s.core c).acc)
    (hframe : { t.core c with
      copies := (s.core c).copies
      spad := (s.core c).spad
      badSpad := (s.core c).badSpad
      outq := (s.core c).outq } = s.core c) :
    TileOver s (t.modCore c (fun k => k.afterTile id tile x.tiles)) c id tile x.tiles where
  rest := hrest
  others := fun d hd => (State.core_modCore_ne t c d _ hd).trans (hothers d hd)
  acc := by rw [State.core_modCore, ← hacc]; rfl
  last := fun h => by rw [State.core_modCore, ← h, afterTile_copyOf]
  frame := by
    rw [State.core_modCore]
    refine Eq.trans ?_ hframe
    rw [← hacc]
    rfl

/-- The end of a tile writes no byte. -/
theorem afterTile_bytes (t : State) (c id tile tiles : Nat) :
    ((t.modCore c (fun k => k.afterTile id tile tiles)).core c).spad = (t.core c).spad ∧
    ((t.modCore c (fun k => k.afterTile id tile tiles)).core c).badSpad = (t.core c).badSpad ∧
    ((t.modCore c (fun k => k.afterTile id tile tiles)).core c).outq = (t.core c).outq := by
  rw [State.core_modCore]
  exact ⟨rfl, rfl, rfl⟩

/-- A tile read without an error, or from HBM (R187). -/
theorem copyTile_read_clean (hx : (s.core c).copyOf id = some x) (hbad : wordSpace (copySrc x.rec_.toNat) = 0 →
    ∀ y, y ∈ (s.core c).badSpad → y ∉ tileSource x.rec_.toNat tile) : exec (.copyTile c id tile .read) s =
      .next (s.modCore c (fun k => k.modCopy id (fun y =>
        { y with read := sset [] y.read tile (s.tileBytes c x.rec_.toNat tile) }))) := by
  have clean : (if wordSpace (copySrc x.rec_.toNat) = 0 then
      s.spadReadError c (tileSource x.rec_.toNat tile).contains (some (x.pos, x.seg)) else s) = s := by
    split
    · next hsp => exact spadReadError_clean _ fun y hy => by simpa using hbad hsp y hy
    · rfl
  rw [copyTile_read hx, clean]

/-- A tile with a source byte in error (R239). -/
theorem copyTile_read_bad (hx : (s.core c).copyOf id = some x) (hsp : wordSpace (copySrc x.rec_.toNat) = 0) {y : Nat}
    {u v : List Nat} (hbad : (s.core c).badSpad = u ++ y :: v) (hu : ∀ z, z ∈ u → z ∉ tileSource x.rec_.toNat tile)
    (hy : y ∈ tileSource x.rec_.toNat tile) : exec (.copyTile c id tile .read) s =
      .next ((s.raiseTrap c ⟨8, 2, 0, some (x.pos, x.seg), y⟩).modCore c (fun k => k.modCopy id (fun y =>
        { y with read := sset [] y.read tile (s.tileBytes c x.rec_.toNat tile) }))) := by
  have none_ : u.find? (tileSource x.rec_.toNat tile).contains = none :=
    List.find?_eq_none.2 fun z hz => by simpa using hu z hz
  have first : (s.core c).badSpad.find? (tileSource x.rec_.toNat tile).contains = some y := by
    rw [hbad, List.find?_append, none_, List.find?_cons]
    simp [hy]
  rw [copyTile_read hx, if_pos hsp, spadReadError_bad _ first]
end

end Sys2Proof.Machine
end

section
/-! The values of a copy, and the copy engine as a whole (R185, R186). -/

namespace Sys2Proof.Machine
open Sys2Proof.Safety

theorem foldl_add (l : List Int) (a : Int) : l.foldl (· + ·) a = a + l.sum := by
  induction l generalizing a with
  | nil => simp
  | cons x l ih => rw [List.foldl_cons, ih, List.sum_cons, Int.add_assoc]

/-- Where a tuple stands, as a sum (R186). -/
theorem copyAt_eq_sum (str : Nat → Int) (t : List Nat) :
    copyAt str t = (t.zipIdx.map (fun p => (p.1 : Int) * str p.2)).sum := by
  rw [copyAt, foldl_add, Int.zero_add]

theorem copyIsValid_iff (r : Nat) (t : List Nat) :
    copyIsValid r t = true ↔ ∀ d n, t[d]? = some n → n < fld r (96 * d + 336) 16 := by
  simp only [copyIsValid, List.all_eq_true, decide_eq_true_eq, Prod.forall, List.mem_zipIdx_iff_getElem?]
  exact forall_comm

theorem copyIsBit_iff (r : Nat) : copyIsBit r = true ↔ fld r 256 5 = fld r 261 5 ∧ fld r 269 8 = 0x7F := by
  simp only [copyIsBit, Bool.and_eq_true, decide_eq_true_eq]
  rfl

/-- A field of a field. -/
theorem fld_fld (r a n b m : Nat) (h : b + m ≤ n) : fld (fld r a n) b m = fld r (a + b) m := by
  refine Nat.eq_of_testBit_eq fun i => ?_
  simp only [fld, Nat.testBit_mod_two_pow, Nat.testBit_div_two_pow]
  by_cases hi : i < m
  · have : i + b < n := by omega
    simp only [hi, this, decide_true, Bool.true_and]
    congr 1
    omega
  · simp [hi]

theorem wordSpace_copySrc (r : Nat) : wordSpace (copySrc r) = fld r 188 4 := fld_fld r 128 64 60 4 (by decide)

theorem wordAddr_copySrc (r : Nat) : wordAddr (copySrc r) = fld r 128 60 := fld_fld r 128 64 0 60 (by decide)

/-- An element of the scratchpad (R185). -/
theorem copyElem_spad (s : State) (c w f : Nat) (e : Int) (hw : wordSpace w = 0) (h : 0 ≤ elemBit (wordAddr w) f e) :
    let lo := (elemBit (wordAddr w) f e).toNat
    s.copyElem c w f e = natOf ((List.range ((lo + fmtWidth f - 1) / 8 + 1 - lo / 8)).map
      (fun i => (s.core c).spad.read (lo / 8 + i))) / 2 ^ (lo % 8) % 2 ^ fmtWidth f := by
  intro lo
  have bytes : elemBytes (wordAddr w) f e =
      some ((List.range ((lo + fmtWidth f - 1) / 8 + 1 - lo / 8)).map (fun i => lo / 8 + i)) := if_neg (by omega)
  rw [State.copyElem, bytes, hw, Option.getD_some, List.map_map, elem, Nat.mul_zero, Nat.pow_zero, Nat.div_one]
  rfl

/-- A tile read with an error: its bytes are kept, and the trap is raised (R239). -/
theorem copyTile_bad_answers {s : State} {c id tile : Nat} {x : CopyRun} (hx : (s.core c).copyOf id = some x)
    (hsp : wordSpace (copySrc x.rec_.toNat) = 0) {y : Nat} {u v : List Nat} (hbad : (s.core c).badSpad = u ++ y :: v)
    (hu : ∀ z, z ∈ u → z ∉ tileSource x.rec_.toNat tile) (hy : y ∈ tileSource x.rec_.toNat tile) :
    Answers (.copyTile c id tile .read) s (fun t =>
      (t.core c).copyOf id = some { x with read := sset [] x.read tile (s.tileBytes c x.rec_.toNat tile) } ∧
      let e := s.raiseTrap c ⟨8, 2, 0, some (x.pos, x.seg), y⟩
      { t with cores := e.cores } = e ∧ (∀ d, d ≠ c → t.core d = e.core d) ∧
      { t.core c with copies := (s.core c).copies } = e.core c) := by
  obtain ⟨q, f, he, -⟩ := s.raiseTrap_core c ⟨8, 2, 0, some (x.pos, x.seg), y⟩
  have copies := congrArg Core.copies he
  refine ⟨_, copyTile_read_bad hx hsp hbad hu hy, ?_, ?_⟩
  · rw [State.core_modCore]
    exact modCopy_copyOf _ (fun _ => rfl) ((congrArg (List.find? _) copies).trans hx)
  · intro e
    refine ⟨rfl, (OnlyCore.modCore e c _).2, ?_⟩
    rw [State.core_modCore]
    exact congrArg (fun l => { e.core c with copies := l }) copies.symm

section
variable {s : State} {c id tile : Nat} {x : CopyRun}

/-- A tile is void where its heat is quiescent or one of its accesses met a conflict (R23, R242). -/
def TileVoid (s : State) (c id tile : Nat) : Prop :=
  ((s.heat (s.partOf c)).phase = .stopping ∧ (s.heat (s.partOf c)).quiet = some s.gcount) ∨
    ∃ a, a ∈ (s.core c).acc ∧ (a.op = .copySrc id tile ∨ a.op = .copyDst id tile) ∧ a.conflictAt ≠ none

theorem tileVoid_iff (h : ∀ a b, a ∈ (s.core c).acc → b ∈ (s.core c).acc → a.op = b.op → a = b) :
    ((s.core c).voided (.copySrc id tile) || (s.core c).voided (.copyDst id tile) || s.quietNow c) = true ↔
      TileVoid s c id tile := by
  simp only [Bool.or_eq_true, voided_iff h, State.quietNow, Bool.and_eq_true, decide_eq_true_eq, TileVoid]
  rw [or_comm]
  refine or_congr_right ?_
  rw [← exists_or]
  exact exists_congr fun a => by tauto

/-- A void tile writes nothing (R23, R242). -/
theorem copyTile_void (hx : (s.core c).copyOf id = some x)
    (h : ∀ a b, a ∈ (s.core c).acc → b ∈ (s.core c).acc → a.op = b.op → a = b) (hv : TileVoid s c id tile) :
    Answers (.copyTile c id tile .perform) s (fun t => TileOver s t c id tile x.tiles ∧
      (t.core c).spad = (s.core c).spad ∧ (t.core c).badSpad = (s.core c).badSpad ∧ (t.core c).outq = (s.core c).outq) :=
  ⟨_, (copyTile_perform hx).trans (by rw [if_pos ((tileVoid_iff h).2 hv)]),
    tileOver_afterTile rfl (fun _ _ => rfl) rfl rfl, afterTile_bytes s c id tile x.tiles⟩

/-- A tile into the scratchpad (R187). -/
theorem copyTile_spad (hx : (s.core c).copyOf id = some x)
    (h : ∀ a b, a ∈ (s.core c).acc → b ∈ (s.core c).acc → a.op = b.op → a = b) (hv : ¬TileVoid s c id tile)
    (hsp : wordSpace (copyDst x.rec_.toNat) = 0) :
    Answers (.copyTile c id tile .perform) s (fun t => TileOver s t c id tile x.tiles ∧
      (t.core c).spad = ((s.core c).putBytes (sget [] x.read tile)).spad ∧
      (t.core c).badSpad = ((s.core c).putBytes (sget [] x.read tile)).badSpad ∧ (t.core c).outq = (s.core c).outq) := by
  let k := s.core c
  let l := sget [] x.read tile
  have ht : s.performTile c x.rec_.toNat l = s.setCore c (k.putBytes l) := if_pos hsp
  have run := copyTile_perform (tile := tile) hx
  rw [if_neg (mt (tileVoid_iff h).1 hv), ht] at run
  have frame := putBytes_frame k l
  have core := State.core_setCore s c (k.putBytes l)
  obtain ⟨hspad, hbad, houtq⟩ := afterTile_bytes (s.setCore c (k.putBytes l)) c id tile x.tiles
  rw [core] at hspad hbad houtq
  refine ⟨_, run, tileOver_afterTile rfl (OnlyCore.setCore s c _).2 ?_ ?_, hspad, hbad,
    houtq.trans (putBytes_outq k l)⟩
  · rw [core]; exact putBytes_acc k l
  · rw [core]
    exact congrArg (fun z : Core => { z with copies := k.copies, outq := k.outq }) frame

/-- A tile into HBM goes to the writes (R187, R290). -/
theorem copyTile_hbm (hx : (s.core c).copyOf id = some x)
    (h : ∀ a b, a ∈ (s.core c).acc → b ∈ (s.core c).acc → a.op = b.op → a = b) (hv : ¬TileVoid s c id tile)
    (hsp : wordSpace (copyDst x.rec_.toNat) ≠ 0) :
    Answers (.copyTile c id tile .perform) s (fun t => TileOver s t c id tile x.tiles ∧
      (t.core c).spad = (s.core c).spad ∧ (t.core c).badSpad = (s.core c).badSpad ∧
      (t.core c).outq = (s.core c).outq ++ (sget [] x.read tile).filterMap (fun y =>
        ((s.heat (s.partOf c)).pinned y.1).map (fun pa => (⟨s.gcount, pa, y.2.1, y.2.2⟩ : OutByte)))) := by
  let k := s.core c
  let l := sget [] x.read tile
  let out := l.filterMap (fun y => ((s.heat (s.partOf c)).pinned y.1).map (fun pa =>
    (⟨s.gcount, pa, y.2.1, y.2.2⟩ : OutByte)))
  have ht : s.performTile c x.rec_.toNat l = s.setCore c { k with outq := k.outq ++ out } := if_neg hsp
  have run := copyTile_perform (tile := tile) hx
  rw [if_neg (mt (tileVoid_iff h).1 hv), ht] at run
  have core := State.core_setCore s c { k with outq := k.outq ++ out }
  have bytes := afterTile_bytes (s.setCore c { k with outq := k.outq ++ out }) c id tile x.tiles
  rw [core] at bytes
  refine ⟨_, run, tileOver_afterTile rfl (OnlyCore.setCore s c _).2 ?_ ?_, bytes⟩ <;> rw [core]
end

/-- Settles O43: the parts of a tile, and the value of a position. -/
theorem copyEngine : Obligations.CopyEngine := by
  refine ⟨fun s c id tile x hx => ?_, fun s c r t => ?_⟩
  · intro k g r P fromSpad toSpad takes next rest l others h void readTile leaves
    refine ⟨fun hb hsp banks hbanks => ?_, fun hb hsp => ?_, fun hb => ?_, fun hbad => ?_, fun y u v hsp hbad hu hy => ?_,
      fun banks hbanks => ?_, fun huniq => ?_⟩
    · have run := copyTile_occupy (tile := tile) hx hb
      rw [if_pos (show wordSpace (copySrc x.rec_.toNat) = 0 from hsp), banksOfBytes_unique hbanks] at run
      let s1 := s.nextTile c id tile x
      have h1 : { s1 with agenda := s.agenda } = s := nextTile_agenda s c id tile x
      let s2 := s1.engineAccess c x.issue x.pos x.seg banks 0 (g + 15) (.copySrc id tile)
      have h2 := tileParts_agenda s2 c id tile g x
      have hg1 : s1.gcount = g := gcount_of_agenda h1
      have hg : s2.gcount = g := hg1
      have access := engineAccess_core s1 c x.issue x.pos x.seg banks 0 (g + 15) (.copySrc id tile)
      have event := engineAccess_adds s1 c x.issue x.pos x.seg banks 0 (g + 15) (.copySrc id tile)
      rw [core_of_agenda h1, gcount_of_agenda h1] at access event
      have parts := tileParts_adds s2 c id tile g x hg.le
      rw [hg] at parts
      refine ⟨_, run, ((onlyCore_of_agenda h1 c).trans (engineAccess_only ..)).trans (onlyCore_of_agenda h2 c),
        (((nextTile_adds s c id tile x).trans event).trans parts).congr fun y => ?_, (core_of_agenda h2 c).trans access⟩
      simp only [List.mem_append, List.mem_cons, List.not_mem_nil, or_false, next, rest]
      tauto
    · have run := copyTile_occupy (tile := tile) hx hb
      rw [if_neg (show ¬wordSpace (copySrc x.rec_.toNat) = 0 from hsp)] at run
      let s1 := s.nextTile c id tile x
      have h1 : { s1 with agenda := s.agenda } = s := nextTile_agenda s c id tile x
      have hg : s1.gcount = g := gcount_of_agenda h1
      have parts := tileParts_adds s1 c id tile (g + 80) x (by omega)
      rw [hg] at parts
      refine ⟨_, run, ?_, ?_⟩
      · have := (nextTile_adds s c id tile x).trans parts
        rwa [← List.append_assoc] at this
      · have := congrArg (fun u : State => { u with agenda := s.agenda }) (tileParts_agenda s1 c id tile (g + 80) x)
        exact this.trans h1
    · have run : exec (.copyTile c id tile .occupy) s =
          .next (s.modCore c (fun k => { k with copies := k.copies.filter (fun y => decide (y.id ≠ id)) })) := by
        rw [exec_copyTile, execCopyTile, hx]
        simp only [hb]
        rfl
      exact ⟨_, run, OnlyCore.modCore s c _, rfl, State.core_modCore s c _⟩
    · refine ⟨_, copyTile_read_clean hx hbad, OnlyCore.modCore s c _, rfl, ?_, ?_⟩
      · exact (congrArg (Core.copyOf · id) (State.core_modCore s c _)).trans (modCopy_copyOf _ (fun _ => rfl) hx)
      · rw [State.core_modCore]; rfl
    · exact copyTile_bad_answers hx hsp hbad hu hy
    · have run : exec (.copyTile c id tile .reserve) s = .next (s.engineAccess c x.issue x.pos x.seg
          (banksOfBytes (tileDest r tile)) 0 (g + 15) (.copyDst id tile)) := by
        rw [exec_copyTile, execCopyTile, hx]
      rw [banksOfBytes_unique hbanks] at run
      exact ⟨_, run, engineAccess_only .., engineAccess_adds s c _ _ _ _ _ _ _, engineAccess_core ..⟩
    · refine ⟨fun hv => ?_, fun hv hsp => ?_, fun hv hsp => ?_⟩
      · obtain ⟨t, run, over_, bytes⟩ := copyTile_void hx huniq hv
        exact ⟨t, run, ⟨over_.rest, over_.others, over_.acc, over_.last, over_.frame⟩, bytes⟩
      · obtain ⟨t, run, over_, hspad, hbad, houtq⟩ := copyTile_spad hx huniq hv hsp
        refine ⟨t, run, ⟨over_.rest, over_.others, over_.acc, over_.last, over_.frame⟩, houtq, fun a ha => ?_,
          fun u y v hl hy => ?_, fun y => ?_⟩
        · rw [hspad]; exact putBytes_read_out k l a ha
        · rw [hspad, show sget [] x.read tile = u ++ y :: v from hl]; exact putBytes_read k u v y hy
        · rw [hbad]; exact mem_putBytes_badSpad k l y
      · obtain ⟨t, run, over_, bytes⟩ := copyTile_hbm hx huniq hv hsp
        exact ⟨t, run, ⟨over_.rest, over_.others, over_.acc, over_.last, over_.frame⟩, bytes⟩
  · intro valid sfmt dfmt scale w base pos first byte bits
    have at_ : elemBit (wordAddr (copySrc r)) (copySfmt r) (copyAt (copySstr r) t) = first := by
      rw [elemBit, wordAddr_copySrc, copyAt_eq_sum]; rfl
    have source : fld r 188 4 = 0 → 0 ≤ first →
        s.copyElem c (copySrc r) (copySfmt r) (copyAt (copySstr r) t) = bits first.toNat w := by
      intro hsp hpos
      have := copyElem_spad s c (copySrc r) (copySfmt r) (copyAt (copySstr r) t)
        (by rw [wordSpace_copySrc, hsp]) (by rw [at_]; exact hpos)
      rw [at_] at this
      exact this
    refine ⟨fun hv => ?_, fun hv hsp hpos hf hs => ?_, fun hv hsp hpos hne => ?_⟩
    · have : copyIsValid r t = false := by rw [← Bool.not_eq_true, copyIsValid_iff]; exact hv
      rw [State.copyResult, this]
      rfl
    · rw [State.copyResult, (copyIsValid_iff r t).2 hv, (copyIsBit_iff r).2 ⟨hf, hs⟩]
      exact source hsp hpos
    · have : copyIsBit r = false := by
        rw [← Bool.not_eq_true, copyIsBit_iff]
        rintro ⟨h1, h2⟩
        exact hne.elim (· h1) (· h2)
      rw [State.copyResult, (copyIsValid_iff r t).2 hv, this]
      simp only [source hsp hpos]
      rfl

end Sys2Proof.Machine
end

section
/-! The removal of a block from the tundish (R263 to R271, R280). -/

namespace Sys2Proof.Machine
open Sys2Proof.Safety

/-! What an event does to the agenda: it takes nothing away. -/

/-- Nothing ahead of `s` is lost in `t`, and no time passes. -/
structure Later (s t : State) : Prop where
  gcount : t.gcount = s.gcount
  agenda : ∀ e, e ∈ s.agenda → e ∈ t.agenda

theorem Later.refl (s : State) : Later s s := ⟨rfl, fun _ h => h⟩

theorem Later.trans {s t u : State} (h : Later s t) (k : Later t u) : Later s u :=
  ⟨k.gcount.trans h.gcount, fun e he => k.agenda e (h.agenda e he)⟩

theorem Later.at (s : State) (n : Nat) (i : Instr) : Later s (s.at n i) :=
  ⟨rfl, fun e he => (State.mem_at s n i e).2 (.inl he)⟩

theorem Later.atOnce (s : State) (n : Nat) (i : Instr) : Later s (s.atOnce n i) := by
  unfold State.atOnce
  split
  · exact .refl s
  · exact .at s n i

theorem Later.modCore (s : State) (c : Nat) (f : Core → Core) : Later s (s.modCore c f) := ⟨rfl, fun _ h => h⟩

theorem Later.later (s : State) (n : Nat) (i : Instr) : Later s (s.later n i) :=
  ⟨rfl, fun e he => (State.mem_at s _ i e).2 (.inl he)⟩

theorem Later.pokeFw (s : State) (c : Nat) : Later s (s.pokeFw c) := by
  unfold State.pokeFw
  dsimp only
  split
  · exact .atOnce ..
  · exact .refl _

theorem Later.wake (s : State) (c n : Nat) : Later s (s.wake c n) := by
  unfold State.wake
  exact (Later.modCore s c _).trans (.pokeFw _ c)

theorem Later.traceRaw (s : State) (die g core typ cut heat payload : Nat) :
    Later s (s.traceRaw die g core typ cut heat payload) := by
  unfold State.traceRaw
  dsimp only
  split
  · exact ⟨rfl, (Later.later _ _ _).agenda⟩
  · exact .refl s

theorem Later.event (s : State) (c typ aux payload tp : Nat) : Later s (s.event c typ aux payload tp) :=
  (((Later.modCore s c _).trans (.modCore _ c _)).trans (.wake _ c 2)).trans (.traceRaw ..)

/-! Runs in the list. -/

theorem runOf_id {k : Core} {id : Nat} {r : PourRun} (h : k.runOf id = some r) : r.id = id := by
  simpa using List.find?_some h

theorem modRun_runOf {k : Core} {id : Nat} {r : PourRun} (f : PourRun → PourRun) (hf : ∀ y, (f y).id = y.id)
    (h : k.runOf id = some r) : (k.modRun id f).runOf id = some (f r) := by
  have e : (fun y : PourRun => decide (y.id = id)) ∘ (fun y => if y.id = id then f y else y) =
      fun y => decide (y.id = id) := by
    funext y
    by_cases hy : y.id = id <;> simp [hy, hf]
  simp only [Core.runOf, Core.modRun, List.find?_map, e]
  rw [show k.runs.find? (fun y => decide (y.id = id)) = some r from h, Option.map_some, if_pos (runOf_id h)]

theorem pour_runOf {k : Core} {id : Nat} {r : PourRun} {p : PourDesc} (h : k.pour id = some (r, p)) :
    k.runOf id = some r := by
  unfold Core.pour at h
  split at h
  · next r' hr =>
    obtain ⟨q, -, he⟩ := Option.map_eq_some_iff.1 h
    rw [hr, show r' = r from congrArg Prod.fst he]
  · cases h

/-! The pieces of a block. -/

/-- A state in which core `c` has been given a piece run at most. -/
structure PiecesOnly (s t : State) (c : Nat) : Prop where
  later : Later s t
  others : ∀ d, d ≠ c → t.core d = s.core d
  core : { t.core c with pieces := (s.core c).pieces, nextId := (s.core c).nextId } = s.core c

/-- The events of pieces in consecutive cycles. -/
theorem pieceEvents (c id first n : Nat) (s : State) :
    let t := (List.range n).foldl (fun s q =>
      (s.at (first + q) (.expansionPiece c id q .occupy)).at (first + q) (.expansionPiece c id q .perform)) s
    (∀ d, t.core d = s.core d) ∧ Later s t ∧ (s.gcount ≤ first → ∀ i, i < n →
      ({ at_ := first + i, instr := .expansionPiece c id i .occupy } : Event) ∈ t.agenda ∧
      ({ at_ := first + i, instr := .expansionPiece c id i .perform } : Event) ∈ t.agenda) := by
  induction n with
  | zero => exact ⟨fun _ => rfl, .refl s, fun _ i hi => absurd hi (Nat.not_lt_zero i)⟩
  | succ n ih =>
    obtain ⟨hcore, hlater, hev⟩ := ih
    rw [List.range_succ, List.foldl_append, List.foldl_cons, List.foldl_nil]
    generalize (List.range n).foldl _ s = t at hcore hlater hev
    have step : Later t ((t.at (first + n) (.expansionPiece c id n .occupy)).at (first + n)
        (.expansionPiece c id n .perform)) := (Later.at ..).trans (.at ..)
    refine ⟨hcore, hlater.trans step, fun hg i hi => ?_⟩
    by_cases e : i = n
    · subst e
      have time : max (first + i) t.gcount = first + i := by rw [hlater.gcount]; omega
      refine ⟨?_, ?_⟩
      · rw [State.mem_at, State.mem_at, time]; exact .inl (.inr rfl)
      · rw [State.mem_at, State.at_gcount, time]; exact .inr rfl
    · obtain ⟨h1, h2⟩ := hev hg i (by omega)
      exact ⟨step.agenda _ h1, step.agenda _ h2⟩

/-- The expanded bytes of a block on their way (R263). -/
structure PiecesStarted (s t : State) (c : Nat) (u : Take) (allow : Nat) (out : List Byte) (poison : Bool) : Prop where
  only : PiecesOnly s t c
  started : let np := (out.length + 1023) / 1024
    0 < np → np ≤ allow + 1 → ∃ x, (t.core c).pieces = (s.core c).pieces ++ [x] ∧ x.dst = u.dst ∧ x.bytes = out ∧ x.np = np ∧
      x.poison = poison ∧ x.trap = false ∧ ∀ i, i < np →
        ({ at_ := s.gcount + allow + 1 - np + i, instr := .expansionPiece c x.id i .occupy } : Event) ∈ t.agenda ∧
        ({ at_ := s.gcount + allow + 1 - np + i, instr := .expansionPiece c x.id i .perform } : Event) ∈ t.agenda

theorem startPieces_started (s : State) (c : Nat) (u : Take) (allow : Nat) (out : List Byte) (poison : Bool)
    (err produced tag : Nat) :
    PiecesStarted s (s.startPieces c u allow out poison err produced false tag) c u allow out poison := by
  unfold State.startPieces
  dsimp only
  by_cases h0 : (out.length + 1023) / 1024 = 0
  · rw [if_pos h0]
    exact ⟨⟨.refl s, fun _ _ => rfl, rfl⟩, fun h => absurd h0 (by omega)⟩
  · rw [if_neg h0]
    let np := (out.length + 1023) / 1024
    let x : PieceRun := ⟨(s.core c).nextId, u.dst, out, s.gcount + allow + 1 - np, np, poison, err, produced, false, tag,
      u.issue, u.pos, u.seg⟩
    let s1 := s.setCore c { s.core c with pieces := (s.core c).pieces ++ [x], nextId := (s.core c).nextId + 1 }
    obtain ⟨hcore, hlater, hev⟩ := pieceEvents c x.id x.first np s1
    have core := (hcore c).trans (State.core_setCore s c _)
    refine ⟨⟨⟨hlater.gcount, hlater.agenda⟩, fun d hd => (hcore d).trans (State.core_setCore_ne s c d _ hd), ?_⟩,
      fun _ hnp => ⟨x, ?_, rfl, rfl, rfl, rfl, rfl, hev (by show s.gcount ≤ s.gcount + allow + 1 - np; omega)⟩⟩
    · exact congrArg (fun k : Core => { k with pieces := (s.core c).pieces, nextId := (s.core c).nextId }) core
    · exact congrArg Core.pieces core

end Sys2Proof.Machine
end

section
/-! The removal of a block at the core: its policies (R263, R264, R267, R268, R280). -/

namespace Sys2Proof.Machine
open Sys2Proof.Safety

/-- Block j has left a run of a core: its bytes are freed, and the next block is the one after it (R259, R267). -/
def BlockGone (k : Core) (id j : Nat) (r : PourRun) (p : PourDesc) : Prop :=
  ∃ x, k.runOf id = some x ∧ x.next = j + 1 ∧ x.closed = decide (p.nblk ≤ j + 1) ∧
    (∀ a, p.toff (j + 1) ≤ a → x.entered.read a = r.entered.read a) ∧ (∀ u, u ∈ x.takes ↔ u ∈ r.takes ∧ u.block ≠ j) ∧
    x.got = r.got ∧ x.books = r.books ∧ x.tables = r.tables

/-- Only the runs of a core count. -/
theorem BlockGone.of_runs {k k' : Core} {id j : Nat} {r : PourRun} {p : PourDesc} (h : BlockGone k id j r p)
    (e : k'.runs = k.runs) : BlockGone k' id j r p := by
  obtain ⟨x, hx, rest⟩ := h
  exact ⟨x, by rw [Core.runOf, e]; exact hx, rest⟩

/-- The state after the removal of block j of a run, `k` being the core before it. -/
structure Removed (s t : State) (c id j : Nat) (r : PourRun) (p : PourDesc) : Prop where
  gone : BlockGone (t.core c) id j r p
  later : Later s t
  next : j + 1 < p.nblk →
    ({ at_ := max (r.removal p (j + 1)) s.gcount, instr := .blockRemoval c id (j + 1) } : Event) ∈ t.agenda
  others : ∀ d, d ≠ c → t.core d = s.core d
  core : { t.core c with runs := (s.core c).runs } = s.core c

theorem Removed.spad {s t : State} {c id j : Nat} {r : PourRun} {p : PourDesc} (h : Removed s t c id j r p) :
    (t.core c).spad = (s.core c).spad := by
  have := congrArg Core.spad h.core
  exact this

theorem Removed.pieces {s t : State} {c id j : Nat} {r : PourRun} {p : PourDesc} (h : Removed s t c id j r p) :
    (t.core c).pieces = (s.core c).pieces := by
  have := congrArg Core.pieces h.core
  exact this

section
variable {s : State} {c id j : Nat} {r : PourRun} {p : PourDesc}

/-- The removal of a block of a pour from HBM without a barrier. -/
theorem afterRemoval_removed (hr : (s.core c).runOf id = some r) (hbar : r.bar = none) (hstatic : p.isStatic = true) :
    Removed s (s.afterRemoval c r p j) c id j r p := by
  let f : PourRun → PourRun := fun r' => { r' with
    next := j + 1
    asked := max r'.asked (p.toff (j + 1))
    closed := decide (p.nblk ≤ j + 1)
    entered := r'.entered.filter (fun x => decide (p.toff (j + 1) ≤ x.1))
    expanded := sset none r'.expanded j none
    reqs := r'.reqs.filter (fun q => q.late || decide (p.soff (j + 1) < q.src + q.srcLen))
    takes := r'.takes.filter (fun t => decide (t.block ≠ j)) }
  let s1 := s.modRun c id f
  have eq : s.afterRemoval c r p j =
      if j + 1 < p.nblk then s1.at (r.removal p (j + 1)) (.blockRemoval c id (j + 1)) else s1 := by
    unfold State.afterRemoval
    simp only [hbar, hstatic, runOf_id hr, if_true]
    rfl
  have core : ∀ d, (s.afterRemoval c r p j).core d = s1.core d := by
    intro d; rw [eq]; split <;> rfl
  have mine : s1.core c = (s.core c).modRun id f := State.core_modCore s c _
  refine ⟨⟨f r, ?_, rfl, rfl, fun a ha => ?_, fun u => ?_, rfl, rfl, rfl⟩, ?_, fun hj => ?_, fun d hd => ?_, ?_⟩
  · rw [core, mine]
    exact modRun_runOf f (fun _ => rfl) hr
  · exact sget_filter_keep _ (fun x => decide (p.toff (j + 1) ≤ x)) r.entered a (by simpa using ha)
  · simp only [f, List.mem_filter, decide_eq_true_eq]
  · rw [eq]
    split
    · exact ⟨rfl, (Later.at s1 _ _).agenda⟩
    · exact ⟨rfl, fun _ h => h⟩
  · rw [eq, if_pos hj]
    exact (State.mem_at s1 _ _ _).2 (.inr rfl)
  · rw [core]; exact State.core_modCore_ne s c d _ hd
  · rw [core, mine]; rfl

/-- What follows a removal leaves the run and the next removal as they are. -/
theorem Removed.trans {t u : State} (h : Removed s t c id j r p) (hl : Later t u) (ho : ∀ d, d ≠ c → u.core d = t.core d)
    (hr : (u.core c).runs = (t.core c).runs) (hs : (u.core c).spad = (t.core c).spad) :
    BlockGone (u.core c) id j r p ∧
    (j + 1 < p.nblk →
      ({ at_ := max (r.removal p (j + 1)) s.gcount, instr := .blockRemoval c id (j + 1) } : Event) ∈ u.agenda) ∧
    (u.core c).spad = (s.core c).spad ∧ ∀ d, d ≠ c → u.core d = s.core d :=
  ⟨h.gone.of_runs hr, fun hj => hl.agenda _ (h.next hj), hs.trans h.spad, fun d hd => (ho d hd).trans (h.others d hd)⟩

/-- An operand of a block is still on its way (R280). -/
def OperandMissed (r : PourRun) (p : PourDesc) (j : Nat) : Prop :=
  (p.method j = 1 ∨ p.method j = 2) ∧ ∃ i, i ∈ r.preload ∧ p.method i = p.method j + 2 ∧ p.slot i = p.slot j

/-- The bytes of a block in the tundish. -/
def blockBytes (r : PourRun) (p : PourDesc) (j : Nat) : List Byte := r.entered.readBytes (p.toff j) (p.tsize j)

/-- The removal of a block whose expander stands at the core: what has arrived, the check of the block, its operand, and
the block itself, in this order (R267, R268, R280). -/
theorem blockRemoval_eq (hp : (s.core c).pour id = some (r, p)) (hnext : r.next = j) (hclosed : r.closed = false)
    (hbegins : s.begins c r.start = true) (hflows : s.flows c = true) (hpoint : p.point = 3) :
    exec (.blockRemoval c id j) s =
      let s1 := s.afterRemoval c r p j
      let take := r.takes.find? (fun t => decide (t.block = j))
      let bs := blockBytes r p j
      .next (if r.present p j < p.tsize j then s1.blankBlock c r p j true false 0 (p.tsize j - r.present p j) take
        else if p.reason j bs ≠ 0 then s1.blankBlock c r p j false false (p.reason j bs) 0 take
        else if (decide (p.method j = 1) || decide (p.method j = 2)) &&
            r.preload.any (fun i => decide (p.method i = p.method j + 2) && decide (p.slot i = p.slot j)) then
          s1.blankBlock c r p j false true 0 0 take
        else s1.soundBlock c r p j bs take) := by
  have hr := pour_runOf hp
  rw [exec_blockRemoval, execBlockRemoval, hp]
  simp only [hnext, hclosed, hbegins, hflows, hpoint, lt_irrefl, false_and, if_false, ne_eq, not_true_eq_false, false_or,
    Bool.false_eq_true, Bool.true_eq_false, List.range_zero, List.foldl_nil, hr, if_true, decide_eq_true_eq]
  rfl

theorem operandMissed_iff : ((decide (p.method j = 1) || decide (p.method j = 2)) &&
    r.preload.any (fun i => decide (p.method i = p.method j + 2) && decide (p.slot i = p.slot j))) = true ↔
      OperandMissed r p j := by
  simp [OperandMissed]

/-- A block that is not complete and sound, or whose operand is on its way, is left to the policy: cause 7 for what has not
arrived or is corrupt, cause 8 for the operand (R267, R268, R280). -/
theorem blockRemoval_fails (hp : (s.core c).pour id = some (r, p)) (hnext : r.next = j) (hclosed : r.closed = false)
    (hbegins : s.begins c r.start = true) (hflows : s.flows c = true) (hpoint : p.point = 3)
    (h : ¬p.tsize j ≤ r.present p j ∨ ¬p.reason j (blockBytes r p j) = 0 ∨ OperandMissed r p j) :
    ∃ late missed reason missing, exec (.blockRemoval c id j) s = .next ((s.afterRemoval c r p j).blankBlock c r p j late
      missed reason missing (r.takes.find? (fun t => decide (t.block = j)))) ∧
      (missed = true ↔ p.tsize j ≤ r.present p j ∧ p.reason j (blockBytes r p j) = 0) := by
  have run := blockRemoval_eq hp hnext hclosed hbegins hflows hpoint
  dsimp only at run
  by_cases hlate : r.present p j < p.tsize j
  · rw [if_pos hlate] at run
    exact ⟨_, _, _, _, run, by simp only [Bool.false_eq_true, false_iff]; omega⟩
  · rw [if_neg hlate] at run
    by_cases hs : p.reason j (blockBytes r p j) = 0
    · have missed := (h.resolve_left (not_not.2 (Nat.not_lt.1 hlate))).resolve_left (not_not.2 hs)
      rw [if_neg (not_not.2 hs), if_pos (operandMissed_iff.2 missed)] at run
      exact ⟨_, _, _, _, run, by simp only [true_iff]; exact ⟨Nat.not_lt.1 hlate, hs⟩⟩
    · rw [if_pos hs] at run
      exact ⟨_, _, _, _, run, by simp [hs]⟩

/-- A complete and sound block with its operand. -/
theorem blockRemoval_sound (hp : (s.core c).pour id = some (r, p)) (hnext : r.next = j) (hclosed : r.closed = false)
    (hbegins : s.begins c r.start = true) (hflows : s.flows c = true) (hpoint : p.point = 3)
    (h : ¬(¬p.tsize j ≤ r.present p j ∨ ¬p.reason j (blockBytes r p j) = 0 ∨ OperandMissed r p j)) :
    exec (.blockRemoval c id j) s = .next ((s.afterRemoval c r p j).soundBlock c r p j (blockBytes r p j)
      (r.takes.find? (fun t => decide (t.block = j)))) := by
  obtain ⟨hc, hs, hmiss⟩ : p.tsize j ≤ r.present p j ∧ p.reason j (blockBytes r p j) = 0 ∧ ¬OperandMissed r p j := by
    tauto
  have run := blockRemoval_eq hp hnext hclosed hbegins hflows hpoint
  dsimp only at run
  rwa [if_neg (Nat.not_lt.2 hc), if_neg (not_not.2 hs), if_neg (mt operandMissed_iff.1 hmiss)] at run

theorem soundBlock_untaken (s1 : State) (bs : List Byte) (hpoint : p.point = 3) (hm : p.method j < 3) :
    s1.soundBlock c r p j bs none = s1 := by
  have hm' : ¬3 ≤ p.method j := by omega
  rw [State.soundBlock, if_neg hm']
  cases sget none r.expanded j with
  | none => rfl
  | some e => simp [hpoint]

/-- A raw block is its bytes without the header, cut or filled to XSIZE (R274). -/
theorem soundBlock_raw (s1 : State) (bs : List Byte) (u : Take) (hpoint : p.point = 3) (hm : p.method j = 0) :
    s1.soundBlock c r p j bs (some u) = s1.startPieces c u p.allow (exactly (p.xsize j) (bs.drop 16)) false 0
      (bs.drop 16).length false (blockTag r j) := by
  simp only [State.soundBlock, hpoint, if_true, PourRun.expand, hm, expandBlock]
  rfl

theorem blankBlock_trap (s1 : State) (late missed : Bool) (reason missing : Nat) (take : Option Take)
    (h : p.trapPolicy = true) : s1.blankBlock c r p j late missed reason missing take =
      s1.raiseTrap c ⟨5, if missed then 8 else 7, 0, take.map (fun t => (t.pos, t.seg)), j + r.intake * 2 ^ 64⟩ := by
  rw [State.blankBlock, if_pos h]; rfl

theorem blankBlock_untaken (s1 : State) (late missed : Bool) (reason missing : Nat) (h : p.trapPolicy = false)
    (hm : p.method j < 3) : s1.blankBlock c r p j late missed reason missing none = s1 := by
  have hm' : ¬(3 ≤ p.method j ∧ p.point = 3) := by omega
  rw [State.blankBlock, h]
  simp only [Bool.false_eq_true, if_false, if_neg hm']

/-- A blanked block that a `TAKE` names becomes zeros in poisoned granules, with an event (R268). -/
theorem blankBlock_taken (s1 : State) (late missed : Bool) (reason missing : Nat) (u : Take) (h : p.trapPolicy = false)
    (hm : p.method j < 3) : ∃ typ aux payload tp, s1.blankBlock c r p j late missed reason missing (some u) =
      (s1.event c typ aux payload tp).startPieces c u p.allow (zeros (p.xsize j)) true 0 0 false (blockTag r j) := by
  have hm' : ¬(3 ≤ p.method j ∧ p.point = 3) := by omega
  have hm'' : ¬3 ≤ p.method j := by omega
  rw [State.blankBlock, h]
  simp only [Bool.false_eq_true, if_false, if_neg hm', if_neg hm'', State.pourEvent]
  cases late
  · exact ⟨_, _, _, _, rfl⟩
  · exact ⟨_, _, _, _, rfl⟩

theorem length_exactly (n : Nat) (bs : List Byte) : (exactly n bs).length = n := by
  simp only [exactly, List.length_append, List.length_take, List.length_replicate]; omega

theorem getD_exactly (n : Nat) (bs : List Byte) (i : Nat) (h : i < n) : (exactly n bs).getD i 0 = bs.getD i 0 := by
  by_cases hi : i < bs.length
  · have : i < (bs.take n).length := by rw [List.length_take]; omega
    rw [exactly, List.getD_append _ _ _ _ this, List.getD_eq_getElem _ _ this, List.getElem_take,
      List.getD_eq_getElem _ _ hi]
  · have : (bs.take n).length ≤ i := by rw [List.length_take]; omega
    rw [exactly, List.getD_append_right _ _ _ _ this, List.getD_eq_default _ _ (by omega : bs.length ≤ i)]
    rw [List.getD_eq_getElem?_getD, List.getElem?_replicate]
    split <;> rfl
end

end Sys2Proof.Machine
end

section
/-! The pieces of an expanded block, and the removals as a whole (R22, R242, R263, R264, R270). -/

namespace Sys2Proof.Machine
open Sys2Proof.Safety

theorem mem_setIndex_on (l : List Nat) (i y : Nat) : y ∈ setIndex l i true ↔ y = i ∨ y ∈ l := by
  simp only [setIndex, List.mem_append, List.mem_filter, if_true, List.mem_singleton, decide_eq_true_eq]
  constructor
  · rintro ((⟨h, -⟩ | h) | ⟨h, -⟩)
    · exact .inr h
    · exact .inl h
    · exact .inr h
  · rintro (h | h)
    · exact .inl (.inr h)
    · rcases Nat.lt_trichotomy y i with hy | hy | hy
      · exact .inl (.inl ⟨h, hy⟩)
      · exact .inl (.inr hy)
      · exact .inr ⟨h, hy⟩

theorem mem_setIndex_off (l : List Nat) (i y : Nat) : y ∈ setIndex l i false ↔ y ≠ i ∧ y ∈ l := by
  simp only [setIndex, List.mem_append, List.mem_filter, Bool.false_eq_true, if_false, List.not_mem_nil, or_false,
    decide_eq_true_eq]
  constructor
  · rintro (⟨h, hy⟩ | ⟨h, hy⟩) <;> exact ⟨by omega, h⟩
  · rintro ⟨hy, h⟩
    rcases Nat.lt_or_gt_of_ne hy with hy | hy
    · exact .inl ⟨h, hy⟩
    · exact .inr ⟨h, hy⟩

/-! A piece. -/

section
variable {s : State} {c id n : Nat} {x : PieceRun}

/-- The bytes of a piece and where they go (R263). -/
def PieceRun.part (x : PieceRun) (n : Nat) : List Byte := (x.bytes.drop (1024 * n)).take 1024
def PieceRun.place (x : PieceRun) (n : Nat) : Nat := x.dst + 1024 * n

/-- The poison of the scratchpad after a piece (R264). -/
def PieceRun.poisonAfter (x : PieceRun) (n : Nat) (l : List Nat) : List Nat :=
  if x.poison then setIndex l (x.place n / 1024) true
  else if (x.part n).length = 1024 then setIndex l (x.place n / 1024) false
  else l

/-- The core after a piece without a size error to report: its access is over, its bytes are written unless it is void (R23),
and the last one ends its block. -/
def PieceRun.onCore (x : PieceRun) (n : Nat) (k : Core) : Core :=
  let void := k.voided (.piece x.id n)
  let stored := k.store (x.place n) (x.part n)
  { k with
    acc := k.acc.filter (fun y => decide (y.op ≠ .piece x.id n))
    pieces := if n + 1 < x.np then k.pieces else k.pieces.filter (fun y => decide (y.id ≠ x.id))
    spad := if void then k.spad else stored.spad
    badSpad := if void then k.badSpad else stored.badSpad
    poison := if void then k.poison else x.poisonAfter n k.poison }

theorem pieceRun_id (hx : (s.core c).pieces.find? (fun y => decide (y.id = id)) = some x) : x.id = id := by
  simpa using List.find?_some hx

/-- A piece in its cycle (R263). -/
theorem expansionPiece_perform (hx : (s.core c).pieces.find? (fun y => decide (y.id = id)) = some x)
    (ht : x.trap = false) (he : x.err = 0 ∨ n + 1 < x.np) :
    exec (.expansionPiece c id n .perform) s = .next (s.setCore c (x.onCore n (s.core c))) := by
  have hid := pieceRun_id hx
  have writes : ∀ k : Core, (
      let k1 := k.dropAcc (.piece id n)
      if k.voided (.piece id n) then k1
      else
        let k2 := k1.store (x.place n) (x.part n)
        if x.poison then { k2 with poison := setIndex k2.poison (x.place n / 1024) true }
        else if (x.part n).length = 1024 then { k2 with poison := setIndex k2.poison (x.place n / 1024) false }
        else k2) = { x.onCore n k with pieces := k.pieces } := by
    intro k
    unfold PieceRun.onCore PieceRun.poisonAfter
    rw [hid]
    dsimp only
    cases k.voided (.piece id n) with
    | true => rfl
    | false =>
      cases x.poison with
      | true => rfl
      | false => by_cases h : (x.part n).length = 1024 <;> simp only [h] <;> rfl
  rw [exec_expansionPiece, execExpansionPiece, hx]
  simp only [ht, Bool.false_eq_true, if_false]
  by_cases h : n + 1 < x.np
  · have all : { x.onCore n (s.core c) with pieces := (s.core c).pieces } = x.onCore n (s.core c) := by
      simp only [PieceRun.onCore, if_pos h]
    rw [if_pos h, ← all]
    exact congrArg (fun k => Host.Outcome.next (s.setCore c k)) (writes (s.core c))
  · have he : ¬x.err ≠ 0 := not_not.2 (he.resolve_right h)
    have all : { x.onCore n (s.core c) with pieces := (s.core c).pieces.filter (fun y => decide (y.id ≠ id)) } =
        x.onCore n (s.core c) := by
      simp only [PieceRun.onCore, if_neg h, hid]
    rw [if_neg h, if_neg he, ← all]
    refine congrArg _ ((congrArg (fun k => (s.setCore c k).modCore c _) (writes (s.core c))).trans ?_)
    exact State.modCore_setCore ..

/-- A void piece writes nothing (R23). -/
theorem onCore_void (k : Core) (h : k.voided (.piece x.id n) = true) :
    (x.onCore n k).spad = k.spad ∧ (x.onCore n k).badSpad = k.badSpad ∧ (x.onCore n k).poison = k.poison :=
  ⟨if_pos h, if_pos h, if_pos h⟩

/-- What a piece makes of the scratchpad (R22, R263, R264). -/
theorem onCore_bytes (k : Core) (h : ¬k.voided (.piece x.id n) = true) :
    (x.onCore n k).spad = (k.store (x.place n) (x.part n)).spad ∧
    (x.onCore n k).badSpad = (k.store (x.place n) (x.part n)).badSpad ∧
    (x.onCore n k).poison = x.poisonAfter n k.poison :=
  ⟨if_neg h, if_neg h, if_neg h⟩

/-- The first moment of a piece takes its banks (R22). -/
theorem expansionPiece_occupy (hx : (s.core c).pieces.find? (fun y => decide (y.id = id)) = some x) :
    exec (.expansionPiece c id n .occupy) s = .next (s.engineAccess c x.issue x.pos x.seg
      (rangeBanks (x.place n) (x.part n).length) (x.place n) s.gcount (.piece id n)) := by
  rw [exec_expansionPiece, execExpansionPiece, hx]
  rfl

/-- A block whose size error is due traps while work begins (R242, R270). -/
theorem expansionPiece_trap (hx : (s.core c).pieces.find? (fun y => decide (y.id = id)) = some x) (ht : x.trap = true) :
    exec (.expansionPiece c id n .perform) s = .next ((if s.flows c then
      s.pourTrap c 9 (some (x.pos, x.seg)) (x.tag % 2 ^ 32) (x.tag / 2 ^ 32 % 2) else s).modCore c
        (fun k => { k with pieces := k.pieces.filter (fun y => decide (y.id ≠ id)) })) := by
  rw [exec_expansionPiece, execExpansionPiece, hx]
  simp only [ht, if_true]
end

/-! A removal. -/

section
variable {s : State} {c id j : Nat} {r : PourRun} {p : PourDesc}

/-- A removal that leaves nothing but the block's place. -/
theorem removes_plain {s1 : State} (h : Removed s s1 c id j r p) (run : exec (.blockRemoval c id j) s = .next s1) :
    Answers (.blockRemoval c id j) s (fun t => BlockGone (t.core c) id j r p ∧
      (j + 1 < p.nblk →
        ({ at_ := max (r.removal p (j + 1)) s.gcount, instr := .blockRemoval c id (j + 1) } : Event) ∈ t.agenda) ∧
      (t.core c).spad = (s.core c).spad ∧ (∀ d, d ≠ c → t.core d = s.core d) ∧ (t.core c).pieces = (s.core c).pieces) :=
  ⟨s1, run, h.gone, h.next, h.spad, h.others, h.pieces⟩

/-- A removal whose block becomes pieces, `s2` being the state in which they are started. -/
theorem removes_pieces {s1 s2 t : State} {u : Take} {out : List Byte} {poison : Bool} (h : Removed s s1 c id j r p)
    (h2 : Later s1 s2) (ho : ∀ d, d ≠ c → s2.core d = s1.core d) {f : FwCtx}
    (hc : s2.core c = { s1.core c with fw := f }) (hs : PiecesStarted s2 t c u p.allow out poison) :
    (BlockGone (t.core c) id j r p ∧
      (j + 1 < p.nblk →
        ({ at_ := max (r.removal p (j + 1)) s.gcount, instr := .blockRemoval c id (j + 1) } : Event) ∈ t.agenda) ∧
      (t.core c).spad = (s.core c).spad ∧ ∀ d, d ≠ c → t.core d = s.core d) ∧
    (let np := (out.length + 1023) / 1024
    0 < np → np ≤ p.allow + 1 → ∃ x, (t.core c).pieces = (s.core c).pieces ++ [x] ∧ x.dst = u.dst ∧ x.bytes = out ∧
      x.np = np ∧ x.poison = poison ∧ x.trap = false ∧ ∀ i, i < np →
        ({ at_ := s.gcount + p.allow + 1 - np + i, instr := .expansionPiece c x.id i .occupy } : Event) ∈ t.agenda ∧
        ({ at_ := s.gcount + p.allow + 1 - np + i, instr := .expansionPiece c x.id i .perform } : Event) ∈ t.agenda) ∧
    (t.core c).fw = f := by
  have runs := congrArg Core.runs hs.only.core
  have spad := congrArg Core.spad hs.only.core
  have fw := congrArg Core.fw hs.only.core
  have pieces : (s2.core c).pieces = (s.core c).pieces := by rw [hc]; exact h.pieces
  have gcount : s2.gcount = s.gcount := h2.gcount.trans h.later.gcount
  refine ⟨h.trans (h2.trans hs.only.later) (fun d hd => (hs.only.others d hd).trans (ho d hd)) ?_ ?_, ?_, ?_⟩
  · exact runs.trans (by rw [hc])
  · exact spad.trans (by rw [hc])
  · have := hs.started
    rwa [pieces, gcount] at this
  · exact fw.trans (by rw [hc])
end

/-- Settles O45: the removal and its policies, and the pieces of an expanded block. -/
theorem blockRemovals : Obligations.BlockRemovals := by
  refine ⟨fun s c id j r p hp hid hbar hnext hclosed hbegins hflows hpoint hstatic hm => ?_, fun s c id n x hx => ?_⟩
  · intro k g bs complete sound missed fails take gone nextOne removes pieces trapped
    have removed := afterRemoval_removed (j := j) (pour_runOf hp) hbar hstatic
    have clean := blockRemoval_sound hp hnext hclosed hbegins hflows hpoint
    have blank := blockRemoval_fails hp hnext hclosed hbegins hflows hpoint
    generalize s.afterRemoval c r p j = s1 at removed clean blank
    have traps : fails → p.trapPolicy = true → ∃ missed_, (missed_ = true ↔ complete ∧ sound) ∧
        trapped (if missed_ then 8 else 7) (take.map (fun u => (u.pos, u.seg))) := by
      intro hf ht
      obtain ⟨late, mis, reason, missing, run, hmis⟩ := blank hf
      rw [blankBlock_trap _ _ _ _ _ _ ht] at run
      exact ⟨mis, hmis, s1, removed.gone, removed.spad, run⟩
    refine ⟨fun hf htake => ?_, fun u hf htake hm0 => ?_, fun hf ht => ?_, fun hc hs hmiss ht => ?_, fun hf ht htake => ?_,
      fun u hf ht htake => ?_⟩
    · have run := clean hf
      rw [show r.takes.find? _ = none from htake, soundBlock_untaken _ _ hpoint hm] at run
      exact removes_plain removed run
    · have run := clean hf
      rw [show r.takes.find? _ = some u from htake, soundBlock_raw _ _ _ hpoint hm0] at run
      obtain ⟨⟨h1, h2, h3, h4⟩, h5, -⟩ := removes_pieces removed (.refl s1) (fun _ _ => rfl) rfl
        (startPieces_started s1 c u p.allow (exactly (p.xsize j) (bs.drop 16)) false 0 (bs.drop 16).length (blockTag r j))
      exact ⟨_, run, h1, h2, h3, h4, exactly (p.xsize j) (bs.drop 16), length_exactly _ _, getD_exactly _ _, h5⟩
    · obtain ⟨mis, hmis, h⟩ := traps (by tauto) ht
      have : mis = false := by rw [← Bool.not_eq_true, hmis]; tauto
      rwa [this] at h
    · obtain ⟨mis, hmis, h⟩ := traps (.inr (.inr hmiss)) ht
      rwa [hmis.2 ⟨hc, hs⟩] at h
    · obtain ⟨late, mis, reason, missing, run, -⟩ := blank hf
      rw [show r.takes.find? _ = none from htake, blankBlock_untaken _ _ _ _ _ ht hm] at run
      exact removes_plain removed run
    · obtain ⟨late, mis, reason, missing, run, -⟩ := blank hf
      obtain ⟨typ, aux, payload, tp, hblank⟩ := blankBlock_taken (c := c) (r := r) s1 late mis reason missing u ht hm
      rw [show r.takes.find? _ = some u from htake, hblank] at run
      obtain ⟨f, hcore, -⟩ := s1.event_core c typ aux payload tp
      obtain ⟨⟨h1, h2, h3, h4⟩, h5, hfw⟩ := removes_pieces removed (.event s1 c typ aux payload tp)
        (fun d hd => s1.event_core_ne c typ aux payload tp d hd) hcore
        (startPieces_started (s1.event c typ aux payload tp) c u p.allow (zeros (p.xsize j)) true 0 0 (blockTag r j))
      have pending := s1.event_pending c typ aux payload tp
      rw [hcore] at pending
      refine ⟨_, run, h1, h2, h3, h4, ?_, h5⟩
      rw [hfw]
      exact pending
  · intro k g bs a left void
    have hid := pieceRun_id hx
    refine ⟨?_, fun ht hf => ?_, fun ht hf => ?_, fun ht he huniq => ?_⟩
    · exact ⟨_, expansionPiece_occupy hx, engineAccess_only .., engineAccess_adds s c _ _ _ _ _ _ _, engineAccess_core ..⟩
    · have run := expansionPiece_trap (n := n) hx ht
      rw [if_pos hf] at run
      obtain ⟨q, f, h, -⟩ := s.raiseTrap_core c ⟨5, 9, 0, some (x.pos, x.seg),
        x.tag % 2 ^ 32 + x.tag / 2 ^ 32 % 2 * 2 ^ 64⟩
      refine ⟨_, run, ?_⟩
      beta_reduce
      rw [State.core_modCore, State.pourTrap, h]
      exact ⟨rfl, rfl, rfl⟩
    · have run := expansionPiece_trap (n := n) hx ht
      rw [if_neg (by simp [hf])] at run
      exact ⟨_, run, OnlyCore.modCore s c _, rfl, State.core_modCore s c _⟩
    · have run := expansionPiece_perform hx ht he
      have core := State.core_setCore s c (x.onCore n k)
      have over_ : left (s.setCore c (x.onCore n k)) := by
        refine ⟨OnlyCore.setCore s c _, rfl, ?_, ?_, ?_⟩ <;> rw [core]
        · rw [PieceRun.onCore, hid]
        · rw [PieceRun.onCore, hid]
        · rfl
      have void_iff : k.voided (.piece x.id n) = true ↔ void := by
        rw [hid]; exact voided_iff huniq _
      refine ⟨fun hv => ⟨_, run, over_, ?_⟩, fun hv => ⟨_, run, over_, ?_⟩⟩
      · rw [core]; exact onCore_void k (void_iff.2 hv)
      · obtain ⟨hspad, hbad, hpoison⟩ := onCore_bytes (x := x) (n := n) k (mt void_iff.1 hv)
        rw [core]
        refine ⟨fun i hi => ?_, fun y hy => ?_, fun y => ?_, fun h y => ?_, fun h hl y => ?_, fun h hl => ?_⟩
        · rw [hspad, List.getD_eq_getElem _ _ hi]
          exact read_store_in k a bs hi
        · rw [hspad]
          exact read_store_out k a y bs (by omega)
        · rw [hbad]
          refine (mem_store_badSpad k a y bs).trans (and_congr_right fun _ => ?_)
          omega
        · rw [hpoison, PieceRun.poisonAfter, h]
          exact mem_setIndex_on ..
        · rw [hpoison, PieceRun.poisonAfter, h, if_pos (show (x.part n).length = 1024 from hl)]
          exact mem_setIndex_off ..
        · rw [hpoison, PieceRun.poisonAfter, h, if_neg (show (x.part n).length ≠ 1024 from hl)]
          rfl

end Sys2Proof.Machine
end

section
/-! The requests of `PUT` and `GET` (R197, R198, R200): a command's own bytes may end the step of another command. -/

namespace Sys2Proof.Machine
open Sys2Proof.Safety

/-! A barrier whose update of an earlier cycle is still due is settled before bytes count at it (R200), and where that completes
its phase the steps of every command at the barrier end (R198). -/

/-- A request of 256 bytes of the scratchpad, both of its parts still to read. -/
def partsLeft : Req := ⟨0, 256, [0, 240], 0x7F00, .sent, List.replicate 256 0⟩

/-- A `PUT` of 256 bytes at 0x2010 to the host at 0x7F00, which counts at barrier 3 and whose step is open. -/
def putAtBarrier (id : Nat) (l : List Req) : DynCmd :=
  { id := id, get := false, remote := false,
    rec_ := BitVec.ofNat 1024 ((0x7F00 + 4 * 2 ^ 60) * 2 ^ 192 + 0x2010 * 2 ^ 128 + 256 * 2 ^ 256 + 3 * 2 ^ 72 + 2 ^ 79),
    issue := 3, start := 100, next := 256, reqs := l, stepOpen := true, began := true, heatId := 6, pos := 2, seg := 7 }

/-- Two such commands at core 0, and barrier 3 one arrival of the last cycle away from its completion. -/
def twoPuts : State :=
  { State.reset with
      gcount := 104
      agenda := []
      cores := [(0, { coreReset with
        dyn := [putAtBarrier 4 [partsLeft], putAtBarrier 5 []]
        bar := [(3, { barrierReset with posted := true, count := 1, at_ := 103, delta := -1 })] })] }

/-- Whether the step of a command of core 0 is open after an instruction. -/
def stepOpenAfter (r : Result) (id : Nat) : Option Bool :=
  match r with
  | .next t => ((t.core 0).dynOf id).map (fun y => y.stepOpen)
  | _ => none

/-- The first part of command 4 ends the step of command 5. -/
theorem part_ends_other_step : stepOpenAfter (exec (.dynamicBankAccess 0 4 0) twoPuts) 5 = some false ∧
    ((twoPuts.core 0).dynOf 5).map (fun y => y.stepOpen) = some true := by decide +kernel

/-- Refutes O47: a part of a `PUT` that counts at a barrier is said to leave every other command of its core as it was. But the
barrier's update of an earlier cycle, which the statement's own `counts` provides for, is settled first; where it completes the
phase, the open steps of the other commands at that barrier end, as the step of command 5 of `twoPuts` does. The statement lacks
the hypothesis that nothing of the barrier is due (in a run of the machine the cycle's landing settles it before its parts). -/
theorem not_dynamicRequests : ¬ Obligations.DynamicRequests := by
  unfold Obligations.DynamicRequests
  intro h
  obtain ⟨-, -, -, -, -, parts, -⟩ := h.1 twoPuts 0 4 (putAtBarrier 4 [partsLeft]) (by decide +kernel) rfl rfl
  obtain ⟨-, -, read⟩ := parts partsLeft 0 (by decide +kernel) (by decide +kernel) rfl (by decide)
  obtain ⟨t, run, -, -, -, -, -, -, y, q', ⟨-, others, -⟩, -⟩ :=
    read (fun ⟨a, ha, _⟩ => absurd ha List.not_mem_nil) rfl List.length_replicate (fun a ha => absurd ha List.not_mem_nil)
  obtain ⟨after, before⟩ := part_ends_other_step
  rw [run] at after
  have kept : stepOpenAfter (.next t) 5 = some true := (congrArg (Option.map _) (others 5 (by decide))).trans before
  rw [after] at kept
  cases kept

end Sys2Proof.Machine
end

section
/-! The issue of a matrix step and the reads of its operands (R47, R163 to R166, R264). -/

namespace Sys2Proof.Safety
open Machine

/-- An access adds its two moments to what has been added before it. -/
theorem Adds.access {s t : State} {l : List Event} (h : Adds s t l) {id : Nat} (hcur : t.cur = s.cur)
    (hg : t.gcount = s.gcount) (hid : (t.core s.cur.core).nextId = id) (code : Nat) (banks : BitVec 16)
    (addr first last : Nat) (op : BankOp) : Adds s (t.access code banks addr first last op) (l ++
      [{ at_ := s.gcount + first, instr := .bankAccess s.cur.core id .occupy },
        { at_ := s.gcount + last, instr := .bankAccess s.cur.core id .perform }]) := by
  have opens := (State.access_opens t code banks addr first last op).events
  rw [hcur, hg, hid] at opens
  exact h.trans opens

end Sys2Proof.Safety

namespace Sys2Proof.Machine
open Sys2Proof.Safety

/-! The issue. -/

/-- Access `m` of step `id`: it takes its banks and performs two cycles on (R22, R166). -/
def State.stepAccess (s : State) (id m code addr : Nat) (op : BankOp) : Access :=
  { opened s code (groupBanks (groupOf addr)) addr 2 2 op with id := id + m }

/-- The state a step leaves at its issue (R163, R166): its record, its two accesses, and its landing. -/
def State.stepIssue (s : State) (run : StepRun) (aAddr bAddr : Nat) (e : Eff) : State :=
  let k := s.core s.cur.core
  (((s.setCore s.cur.core { k with steps := sset none k.steps k.nextId (some run), nextId := k.nextId + 1 }).access
    codeMatA (groupBanks (groupOf aAddr)) aAddr 2 2 (.stepA k.nextId)).access
    codeMatB (groupBanks (groupOf bAddr)) bAddr 2 2 (.stepB k.nextId)).landIn 10 .mat e

section
variable (s : State) (run : StepRun) (aAddr bAddr : Nat) (e : Eff)

theorem stepIssue_core : (s.stepIssue run aAddr bAddr e).core s.cur.core =
    (let k := s.core s.cur.core
     { k with
       steps := sset none k.steps k.nextId (some run), nextId := k.nextId + 3,
       acc := k.acc ++ [s.stepAccess k.nextId 1 codeMatA aAddr (.stepA k.nextId)] ++
         [s.stepAccess k.nextId 2 codeMatB bAddr (.stepB k.nextId)],
       pend := k.pend ++ [onItsWay s 10 .mat false e] }) := by
  simp [State.stepIssue, State.access, State.openAccess, State.landIn, onItsWay, State.stepAccess, opened]

theorem stepIssue_adds : Adds s (s.stepIssue run aAddr bAddr e)
    (let k := s.core s.cur.core
     [{ at_ := s.gcount + 2, instr := .bankAccess s.cur.core (k.nextId + 1) .occupy },
      { at_ := s.gcount + 2, instr := .bankAccess s.cur.core (k.nextId + 1) .perform },
      { at_ := s.gcount + 2, instr := .bankAccess s.cur.core (k.nextId + 2) .occupy },
      { at_ := s.gcount + 2, instr := .bankAccess s.cur.core (k.nextId + 2) .perform },
      { at_ := s.gcount + 10, instr := .resultLand s.cur.core }]) := by
  have record := Adds.setCore s s.cur.core { s.core s.cur.core with
    steps := sset none (s.core s.cur.core).steps (s.core s.cur.core).nextId (some run),
    nextId := (s.core s.cur.core).nextId + 1 }
  have readA := record.access rfl rfl (congrArg Core.nextId (State.core_setCore s _ _)) codeMatA
    (groupBanks (groupOf aAddr)) aAddr 2 2 (.stepA (s.core s.cur.core).nextId)
  have readB := readA.access rfl rfl (id := (s.core s.cur.core).nextId + 2) (by simp [State.access, State.openAccess])
    codeMatB (groupBanks (groupOf bAddr)) bAddr 2 2 (.stepB (s.core s.cur.core).nextId)
  exact readB.trans (State.landIn_lands _ 10 .mat e false).events

theorem stepIssue_only : OnlyCore s (s.stepIssue run aAddr bAddr e) s.cur.core :=
  (((OnlyCore.setCore s s.cur.core _).trans (State.access_opens _ _ _ _ _ _ _).rest).trans
    (State.access_opens _ _ _ _ _ _ _).rest).trans (State.landIn_lands _ _ _ _ _).rest

end

/-- An enabled step is at its issue. -/
theorem stepOp_issues {ins : Instr} {g : Gate} {dst : Nat} {zeroing : Bool} {sa sb : StreamReg} {f : BitVec 5}
    {ka kb : KReg} {s : State} (h : Enabled ins false g s) :
    stepOp ins g dst zeroing sa sb f ka kb s = .next (s.stepIssue
      (let k := s.core s.cur.core
       let n := k.loopIdx (strField (k.ra sa.toNat) 105 3) (stageNo g)
       { fmt := f.toNat, scaleA := operandScales k f.toNat ka.toNat 8 64 n,
         scaleB := operandScales k f.toNat kb.toNat 4 32 n, a := none, b := none, poison := false, pos := s.cur.pos,
         seg := s.cur.seg })
      (s.addrOf g sa (stepAlignA f.toNat)) (s.addrOf g sb (stepAlignB f.toNat))
      (.step dst (s.core s.cur.core).nextId zeroing)) :=
  runOp_on _ h

/-! The reads. -/

/-- A step with operand A, or B, as read and its poison (R164, R166, R264). -/
def Core.withOperand (k : Core) (r : StepRun) (addr : Nat) (isA : Bool) : StepRun :=
  let n := if isA then stepBytesA r.fmt else stepBytesB r.fmt
  let v : VReg := BitVec.ofNat 8192 (natOf (k.load addr n))
  { (if isA then { r with a := some v } else { r with b := some v }) with poison := r.poison || k.poisoned addr n }

theorem stepRead_eq {s : State} {c n : Nat} {a : Access} {r : StepRun} (hr : sget none (s.core c).steps n = some r)
    (isA : Bool) : s.stepRead c a n isA = s.setCore c { s.core c with
      steps := sset none (s.core c).steps n (some ((s.core c).withOperand r a.addr isA)) } := by
  simp only [State.stepRead, hr]
  rfl

/-- An operand read in its cycle (R166, R264): the access is over and the step holds the operand. -/
theorem stepRead_answers {s : State} {c id n : Nat} {a : Access} {r : StepRun} (ha : (s.core c).accOf id = some a)
    (hc : a.conflictAt = none) (hbad : ∀ x, x ∈ (s.core c).badSpad → a.readsByte (s.core c) x = false)
    (hr : sget none (s.core c).steps n = some r) {isA : Bool} (hop : a.op = if isA then .stepA n else .stepB n) :
    Answers (.bankAccess c id .perform) s (fun t => t.core c = { s.core c with
      acc := (s.core c).acc.filter (fun y => decide (y.id ≠ id)),
      steps := sset none (s.core c).steps n (some ((s.core c).withOperand r a.addr isA)) } ∧
      OnlyCore s t c ∧ t.agenda = s.agenda) := by
  have noAtom : ∀ isAtom f op v o, a.op ≠ .atom isAtom f op v o := by rw [hop]; cases isA <;> simp
  have perform : s.performAccess c a = s.stepRead c a n isA := by
    cases isA <;> simp [State.performAccess, State.performPlain, hop]
  refine ⟨_, bankAccess_perform_clean ha hc noAtom hbad, ?_⟩
  rw [perform, stepRead_eq hr, State.modCore_setCore]
  exact ⟨State.core_setCore s c _, OnlyCore.setCore s c _, rfl⟩

/-- Settles O11: the issue of the four steps is one operation, and so is the read of either operand. -/
theorem matrixStepIssue : Obligations.MatrixStepIssue := by
  refine ⟨fun s g t sa sb f ka kb hg hf hsc hon _ => ?_, fun s c id n a r ha hc hbad hr => ?_⟩
  · intro c k st aAddr bAddr n scales run acc issue
    have issued : ∀ (i : Instr) (dst : Nat) (zeroing : Bool), i.wf = true →
        exec i s = stepOp i g dst zeroing sa sb f ka kb s → issue i dst zeroing := fun i dst zeroing hwf hexec =>
      ⟨_, hexec.trans (stepOp_issues ⟨hwf, hon⟩), stepIssue_core s _ _ _ _, stepIssue_adds s _ _ _ _,
        stepIssue_only s _ _ _ _⟩
    have hwf : (g.ok && clsMat f && scalesOk f ka kb) = true := by simp [hg, hf, hsc]
    refine ⟨issued _ _ _ hwf (exec_mma s), issued _ _ _ hwf (exec_mmaz s), fun ht h2 => ?_⟩
    have hpair : (g.ok && clsMat f && scalesOk f ka kb && evenTile t && decide (2 ≤ f.toNat)) = true := by
      simp [hg, hf, hsc, evenTile, ht, h2]
    exact ⟨issued _ _ _ hpair (exec_mmaa s), issued _ _ _ hpair (exec_mmaaz s)⟩
  · intro k bytes poison takes lenA lenB
    have read : ∀ (isA : Bool) (len : Nat), (if isA then stepBytesA r.fmt else stepBytesB r.fmt) = len →
        k.withOperand r a.addr isA = { (if isA then { r with a := some (BitVec.ofNat 8192 (bytes len)) }
          else { r with b := some (BitVec.ofNat 8192 (bytes len)) }) with poison := r.poison || poison len } := by
      rintro isA len rfl
      simp only [Core.withOperand, Core.load_eq, Core.poisoned, bytes, poison, Bool.decide_and]
    refine ⟨fun hop => ?_, fun hop => ?_⟩
    · have h := stepRead_answers (isA := true) ha hc hbad hr hop
      rw [read true lenA rfl] at h
      exact h
    · have h := stepRead_answers (isA := false) ha hc hbad hr hop
      rw [read false lenB rfl] at h
      exact h

end Sys2Proof.Machine
end

section
/-! Rounding to an integer (R35, R50, R51): what the shift of the model computes is the rounding of the spec. -/

namespace Sys2Proof.Machine
open Sys2Proof.Safety

/-- `n` is the integer to which mode `rm` rounds a / p: `Rounds` without fractions, d being p · (a / p − n). -/
def RoundsDiv (rm : Nat) (a p n d : Int) : Prop :=
  match rm with
  | 0 => (-p ≤ 2 * d ∧ 2 * d ≤ p) ∧ (2 * d = p ∨ 2 * d = -p → n % 2 = 0)
  | 1 => (0 ≤ a → 0 ≤ d ∧ d < p) ∧ (a < 0 → -p < d ∧ d ≤ 0)
  | 2 => -p < d ∧ d ≤ 0
  | _ => 0 ≤ d ∧ d < p

theorem rounds_of_div {rm : Nat} {a p n d : Int} (hp : 0 < p) (hd : a = n * p + d) (h : RoundsDiv rm a p n d) :
    Rounds rm ((a : ℚ) / p) n := by
  have hp' : (0 : ℚ) < p := by exact_mod_cast hp
  have split : (a : ℚ) / p = n + d / p := by rw [hd]; push_cast; field_simp
  have nonneg : (0 : ℚ) ≤ d / p ↔ 0 ≤ d := by rw [le_div_iff₀ hp', zero_mul]; exact_mod_cast Iff.rfl
  have nonpos : (d : ℚ) / p ≤ 0 ↔ d ≤ 0 := by rw [div_le_iff₀ hp', zero_mul]; exact_mod_cast Iff.rfl
  have below : (d : ℚ) / p < 1 ↔ d < p := by rw [div_lt_iff₀ hp', one_mul]; exact_mod_cast Iff.rfl
  have above : -1 < (d : ℚ) / p ↔ -p < d := by rw [lt_div_iff₀ hp', neg_one_mul]; exact_mod_cast Iff.rfl
  have sign : (0 : ℚ) ≤ a / p ↔ 0 ≤ a := by rw [le_div_iff₀ hp', zero_mul]; exact_mod_cast Iff.rfl
  match rm with
  | 0 =>
    obtain ⟨⟨low, high⟩, tie⟩ := h
    have low' : (-p : ℚ) ≤ 2 * d := by exact_mod_cast low
    have high' : (2 * d : ℚ) ≤ p := by exact_mod_cast high
    have dist : 2 * ((a : ℚ) / p - n) = 2 * d / p := by rw [split]; ring
    simp only [Rounds, dist, abs_le, abs_eq (zero_le_one' ℚ), le_div_iff₀ hp', div_le_iff₀ hp', div_eq_iff hp'.ne',
      one_mul, neg_one_mul]
    exact ⟨⟨low', high'⟩, fun e => tie (e.imp (fun e => by exact_mod_cast e) fun e => by exact_mod_cast e)⟩
  | 1 =>
    obtain ⟨pos, neg⟩ := h
    have sign' : (a : ℚ) / p < 0 ↔ a < 0 := by rw [← not_le, sign, not_le]
    rw [Rounds, sign, sign', split]
    exact ⟨fun ha => ⟨by linarith [nonneg.2 (pos ha).1], by linarith [below.2 (pos ha).2]⟩,
      fun ha => ⟨by linarith [above.2 (neg ha).1], by linarith [nonpos.2 (neg ha).2]⟩⟩
  | 2 =>
    rw [Rounds, split]
    exact ⟨by linarith [above.2 h.1], by linarith [nonpos.2 h.2]⟩
  | _ + 3 =>
    rw [Rounds, split]
    · exact ⟨by linarith [nonneg.2 h.1], by linarith [below.2 h.2]⟩
    all_goals simp

theorem rounds_int (rm : Nat) (n : Int) : Rounds rm (n : ℚ) n := by
  match rm with
  | 0 => simp [Rounds]
  | 1 => simp [Rounds]
  | 2 => simp [Rounds]
  | _ + 3 => simp [Rounds]

/-- An integer with the sign of a value. -/
def signedNat (neg : Bool) (n : Nat) : Int := if neg then -(n : Int) else n

/-- `roundShift` on a value with its sign: the cut-off quotient q, or q + 1, of the magnitude q · 2^sh + r. -/
theorem roundShift_rounds {rm : Nat} (hrm : rm < 4) (neg : Bool) (m : Nat) {sh : Nat} (hsh : 0 < sh) :
    RoundsDiv rm (signedNat neg m) (2 ^ sh) (signedNat neg (roundShift rm neg m sh))
      (signedNat neg m - signedNat neg (roundShift rm neg m sh) * 2 ^ sh) := by
  have hr : m % 2 ^ sh < 2 ^ sh := Nat.mod_lt _ (Nat.two_pow_pos sh)
  have hm := Nat.div_add_mod' m (2 ^ sh)
  have hp : ((2 : Int) ^ sh) = (2 ^ sh : Nat) := by push_cast; rfl
  simp only [roundShift, Nat.shiftRight_eq_div_pow, hsh, hp]
  generalize 2 ^ sh = p at *
  generalize m / p = q at *
  generalize m % p = r at *
  have hX : (q : Int) * p = (q * p : Nat) := by push_cast; rfl
  generalize q * p = X at *
  subst hm
  match rm, hrm with
  | 0, _ =>
    split <;> cases neg <;> simp_all [RoundsDiv, signedNat, add_mul]
    all_goals omega
  | 1, _ =>
    cases neg <;> simp [RoundsDiv, signedNat, hX]
    all_goals omega
  | 2, _ =>
    split <;> cases neg <;> simp_all [RoundsDiv, signedNat, add_mul]
    all_goals omega
  | 3, _ =>
    split <;> cases neg <;> simp_all [RoundsDiv, signedNat, add_mul]
    all_goals omega

theorem numOf_eq (neg : Bool) (m : Nat) (e : Int) : numOf neg m e = (signedNat neg m : ℚ) * 2 ^ e := by
  cases neg <;> simp [numOf, signedNat]

theorem numOf_div (neg : Bool) (m : Nat) (e q : Int) : numOf neg m e / 2 ^ q = numOf neg m (e - q) := by
  rw [numOf_eq, numOf_eq, zpow_sub₀ two_ne_zero, mul_div_assoc]

/-- The magnitude to which a finite value is rounded. -/
def roundNat (rm : Nat) (neg : Bool) (m : Nat) (e : Int) : Nat :=
  if 0 ≤ e then m * 2 ^ e.toNat else roundShift rm neg m (-e).toNat

theorem roundInt_eq (rm : Nat) (neg : Bool) (m : Nat) (e : Int) :
    roundInt rm neg m e = signedNat neg (roundNat rm neg m e) := rfl

theorem abs_signedNat (neg : Bool) (n : Nat) : |((signedNat neg n : Int) : ℚ)| = n := by
  cases neg <;> simp [signedNat]

theorem signedNat_mul (neg : Bool) (m n : Nat) : signedNat neg (m * n) = signedNat neg m * n := by
  cases neg <;> simp [signedNat]

theorem exponent_cases (e : Int) : ∃ k : Nat, e = k ∨ (e = -(k : Int) ∧ 0 < k) := by
  rcases Int.lt_or_le e 0 with h | h
  · exact ⟨(-e).toNat, .inr ⟨by omega, by omega⟩⟩
  · exact ⟨e.toNat, .inl (by omega)⟩

theorem roundNat_natCast (rm : Nat) (neg : Bool) (m k : Nat) : roundNat rm neg m k = m * 2 ^ k := by
  simp [roundNat]

theorem roundNat_neg (rm : Nat) (neg : Bool) (m : Nat) {k : Nat} (hk : 0 < k) :
    roundNat rm neg m (-(k : Int)) = roundShift rm neg m k := by
  have h : ¬0 ≤ -(k : Int) := by omega
  simp only [roundNat, if_neg h, neg_neg, Int.toNat_natCast]

/-- R35, R51: a finite value is rounded as its mode says. -/
theorem roundInt_rounds {rm : Nat} (hrm : rm < 4) (neg : Bool) (m : Nat) (e : Int) :
    Rounds rm (numOf neg m e) (roundInt rm neg m e) := by
  rw [numOf_eq, roundInt_eq]
  obtain ⟨k, rfl | ⟨rfl, hk⟩⟩ := exponent_cases e
  · have whole : (signedNat neg m : ℚ) * 2 ^ (k : Int) = (signedNat neg (m * 2 ^ k) : Int) := by
      rw [signedNat_mul]; push_cast; rw [zpow_natCast]
    rw [whole, roundNat_natCast]
    exact rounds_int rm _
  · have quot : (signedNat neg m : ℚ) * 2 ^ (-(k : Int)) = (signedNat neg m : ℚ) / ((2 ^ k : Int) : ℚ) := by
      rw [zpow_neg, zpow_natCast]; push_cast; rw [div_eq_mul_inv]
    rw [quot, roundNat_neg _ _ _ hk]
    exact rounds_of_div (by positivity) (add_sub_cancel _ _).symm (roundShift_rounds hrm neg m hk)

/-- A rounded shift is the cut-off quotient or one more. -/
theorem roundShift_bounds (rm : Nat) (neg : Bool) (m sh : Nat) :
    m / 2 ^ sh ≤ roundShift rm neg m sh ∧ roundShift rm neg m sh ≤ m / 2 ^ sh + 1 := by
  have step : ∀ (up : Bool) (q : Nat), q ≤ (if up then q + 1 else q) ∧ (if up then q + 1 else q) ≤ q + 1 := by
    intro up q; cases up <;> simp
  rw [← Nat.shiftRight_eq_div_pow]
  exact step _ _

theorem mul_zpow_neg (m k : Nat) : (m : ℚ) * 2 ^ (-(k : Int)) = (m : ℚ) / (2 ^ k : Nat) := by
  rw [zpow_neg, zpow_natCast, div_eq_mul_inv]; push_cast; rfl

/-- Rounding to whole units keeps every bound that is a whole number of units. -/
theorem roundNat_le (rm : Nat) (neg : Bool) {m n : Nat} {e : Int} (h : (m : ℚ) * 2 ^ e < n) :
    roundNat rm neg m e ≤ n := by
  obtain ⟨k, rfl | ⟨rfl, hk⟩⟩ := exponent_cases e
  · rw [roundNat_natCast]
    rw [zpow_natCast] at h
    exact_mod_cast h.le
  · rw [mul_zpow_neg, div_lt_iff₀ (by positivity)] at h
    have below : m / 2 ^ k < n := (Nat.div_lt_iff_lt_mul (Nat.two_pow_pos k)).2 (by exact_mod_cast h)
    rw [roundNat_neg _ _ _ hk]
    have := (roundShift_bounds rm neg m k).2
    omega

theorem le_roundNat (rm : Nat) (neg : Bool) {m n : Nat} {e : Int} (h : (n : ℚ) ≤ m * 2 ^ e) :
    n ≤ roundNat rm neg m e := by
  obtain ⟨k, rfl | ⟨rfl, hk⟩⟩ := exponent_cases e
  · rw [roundNat_natCast]
    rw [zpow_natCast] at h
    exact_mod_cast h
  · rw [mul_zpow_neg, le_div_iff₀ (by positivity)] at h
    rw [roundNat_neg _ _ _ hk]
    exact ((Nat.le_div_iff_mul_le (Nat.two_pow_pos k)).2 (by exact_mod_cast h)).trans (roundShift_bounds rm neg m k).1

end Sys2Proof.Machine
end

section
/-! The floating formats (R38, R39, R50): rounding to their precision, and the numbers of their encodings. -/

namespace Sys2Proof.Machine
open Sys2Proof.Safety

/-- The exponent of the lowest unit of a format (R38). -/
def FloatFmt.qmin (p : FloatFmt) : Int := 1 - p.bias - p.mbits

/-- The exponent of the last place kept of m · 2^e (R50). -/
def FloatFmt.unit (p : FloatFmt) (m : Nat) (e : Int) : Int := max (e + (Nat.log2 m : Int) - p.mbits) p.qmin

theorem roundMag_eq (p : FloatFmt) (rm : Nat) (neg : Bool) {m : Nat} (e : Int) (hm : m ≠ 0) :
    roundMag p rm neg m e = (p.unit m e - p.qmin).toNat * 2 ^ p.mbits + roundNat rm neg m (e - p.unit m e) := by
  simp only [roundMag, if_neg hm, roundNat, FloatFmt.unit, FloatFmt.qmin, sub_nonneg, neg_sub]

theorem two_zpow_log2_le {m : Nat} (hm : m ≠ 0) (e : Int) : (2 : ℚ) ^ (e + Nat.log2 m) ≤ m * 2 ^ e := by
  have h : ((2 ^ Nat.log2 m : Nat) : ℚ) ≤ m := by exact_mod_cast Nat.log2_self_le hm
  rw [zpow_add₀ two_ne_zero, mul_comm]
  push_cast at h
  rw [zpow_natCast]
  exact mul_le_mul_of_nonneg_right h (by positivity)

theorem lt_two_zpow_log2 (m : Nat) (e : Int) : (m : ℚ) * 2 ^ e < 2 ^ (e + Nat.log2 m + 1) := by
  have h : (m : ℚ) < (2 ^ (Nat.log2 m + 1) : Nat) := by exact_mod_cast Nat.lt_log2_self
  rw [add_assoc, zpow_add₀ two_ne_zero, mul_comm]
  push_cast at h
  exact mul_lt_mul_of_pos_left (by exact_mod_cast h) (by positivity)

section
variable (p : FloatFmt) (m : Nat) (e : Int)

theorem qmin_le_unit : p.qmin ≤ p.unit m e := le_max_right _ _

theorem lt_unit : (m : ℚ) * 2 ^ e < 2 ^ (p.unit m e + p.mbits + 1) := by
  refine (lt_two_zpow_log2 m e).trans_le (zpow_le_zpow_right₀ one_le_two ?_)
  have : e + (Nat.log2 m : Int) - p.mbits ≤ p.unit m e := le_max_left _ _
  omega

theorem unit_le (hm : m ≠ 0) : p.unit m e = p.qmin ∨ (2 : ℚ) ^ (p.unit m e + p.mbits) ≤ m * 2 ^ e := by
  rcases max_choice (e + (Nat.log2 m : Int) - p.mbits) p.qmin with h | h
  · right
    rw [FloatFmt.unit, h, sub_add_cancel]
    exact two_zpow_log2_le hm e
  · exact .inl h

end

/-- The units of a rounded value fill at most the precision of the format, and all of it above the lowest exponent (R50). -/
theorem roundNat_unit_bounds (p : FloatFmt) (rm : Nat) (neg : Bool) {m : Nat} (e : Int) (hm : m ≠ 0) :
    roundNat rm neg m (e - p.unit m e) ≤ 2 ^ (p.mbits + 1) ∧
      (p.unit m e = p.qmin ∨ 2 ^ p.mbits ≤ roundNat rm neg m (e - p.unit m e)) := by
  have units : (m : ℚ) * 2 ^ (e - p.unit m e) = m * 2 ^ e / 2 ^ p.unit m e := by rw [zpow_sub₀ two_ne_zero, mul_div_assoc]
  have upos : (0 : ℚ) < 2 ^ p.unit m e := by positivity
  refine ⟨roundNat_le rm neg ?_, (unit_le p m e hm).imp_right fun h => le_roundNat rm neg ?_⟩
  · rw [units, div_lt_iff₀ upos]
    refine (lt_unit p m e).trans_eq ?_
    rw [add_assoc, add_comm, zpow_add₀ two_ne_zero]
    push_cast
    exact congrArg (· * _) (zpow_natCast 2 (p.mbits + 1))
  · rw [units, le_div_iff₀ upos]
    refine Eq.trans_le ?_ h
    rw [add_comm, zpow_add₀ two_ne_zero, zpow_natCast]
    push_cast
    rfl

/-! The encodings of a floating format (R38). -/

/-- The number that a magnitude encoding stands for. -/
def FloatFmt.magVal (p : FloatFmt) (k : Nat) : ℚ :=
  if k / 2 ^ p.mbits = 0 then (k % 2 ^ p.mbits : Nat) * 2 ^ p.qmin
  else (2 ^ p.mbits + k % 2 ^ p.mbits : Nat) * 2 ^ (p.qmin + (k / 2 ^ p.mbits : Nat) - 1)

section
variable (p : FloatFmt)

/-- Every magnitude encoding is N units of the exponent d above the lowest. -/
theorem magVal_units {d n : Nat} (hn : n ≤ 2 ^ (p.mbits + 1)) (hd : d = 0 ∨ 2 ^ p.mbits ≤ n) :
    p.magVal (d * 2 ^ p.mbits + n) = n * 2 ^ (p.qmin + d) := by
  have pos := Nat.two_pow_pos p.mbits
  have shape : (d = 0 ∧ n < 2 ^ p.mbits) ∨ (∃ r, r < 2 ^ p.mbits ∧ n = 2 ^ p.mbits + r) ∨
      n = 2 ^ p.mbits + 2 ^ p.mbits := by
    rw [pow_succ] at hn
    by_cases h : n < 2 ^ p.mbits
    · exact .inl ⟨by omega, h⟩
    · by_cases h' : n < 2 ^ p.mbits + 2 ^ p.mbits
      · exact .inr (.inl ⟨n - 2 ^ p.mbits, by omega, by omega⟩)
      · exact .inr (.inr (by omega))
  rcases shape with ⟨rfl, h⟩ | ⟨r, hr, rfl⟩ | rfl
  · simp [FloatFmt.magVal, Nat.div_eq_of_lt h, Nat.mod_eq_of_lt h]
  · have hdiv : (d * 2 ^ p.mbits + (2 ^ p.mbits + r)) / 2 ^ p.mbits = d + 1 := by
      rw [← add_assoc, ← Nat.succ_mul, mul_comm, Nat.mul_add_div pos, Nat.div_eq_of_lt hr]
    have hmod : (d * 2 ^ p.mbits + (2 ^ p.mbits + r)) % 2 ^ p.mbits = r := by
      rw [← add_assoc, ← Nat.succ_mul, mul_comm, Nat.mul_add_mod, Nat.mod_eq_of_lt hr]
    rw [FloatFmt.magVal, hdiv, hmod, if_neg (Nat.succ_ne_zero d)]
    push_cast
    congr 2
    ring
  · have hdiv : (d * 2 ^ p.mbits + (2 ^ p.mbits + 2 ^ p.mbits)) / 2 ^ p.mbits = d + 2 := by
      rw [← two_mul, ← Nat.add_mul, Nat.mul_div_cancel _ pos]
    have hmod : (d * 2 ^ p.mbits + (2 ^ p.mbits + 2 ^ p.mbits)) % 2 ^ p.mbits = 0 := by
      rw [← two_mul, ← Nat.add_mul, Nat.mul_mod_left]
    rw [FloatFmt.magVal, hdiv, hmod, if_neg (Nat.succ_ne_zero _)]
    push_cast
    rw [show p.qmin + ((d : Int) + 2) - 1 = p.qmin + d + 1 by ring, zpow_add_one₀ two_ne_zero]
    ring

theorem units_of_mag (k : Nat) :
    ∃ d n, k = d * 2 ^ p.mbits + n ∧ n < 2 ^ (p.mbits + 1) ∧ (d = 0 ∨ 2 ^ p.mbits ≤ n) := by
  have h := Nat.div_add_mod' k (2 ^ p.mbits)
  have hr := Nat.mod_lt k (Nat.two_pow_pos p.mbits)
  rw [pow_succ]
  rcases Nat.eq_zero_or_eq_succ_pred (k / 2 ^ p.mbits) with h0 | h1
  · exact ⟨0, k, by simp, by rw [h0] at h; omega, .inl rfl⟩
  · rw [h1, Nat.succ_mul] at h
    exact ⟨(k / 2 ^ p.mbits).pred, 2 ^ p.mbits + k % 2 ^ p.mbits, by omega, by omega, .inr (by omega)⟩

/-- The encodings of magnitudes stand in the order of their numbers. -/
theorem magVal_strictMono : StrictMono p.magVal := by
  refine strictMono_nat_of_lt_succ fun k => ?_
  obtain ⟨d, n, rfl, hn, hd⟩ := units_of_mag p k
  rw [magVal_units p hn.le hd, add_assoc, magVal_units p (Nat.succ_le_of_lt hn) (hd.imp_right (·.trans (Nat.le_succ n)))]
  exact mul_lt_mul_of_pos_right (by push_cast; linarith) (by positivity)

theorem qmin_add_unit (m : Nat) (e : Int) : p.qmin + ((p.unit m e - p.qmin).toNat : Int) = p.unit m e := by
  have := qmin_le_unit p m e
  omega

/-- The number of the encoding that a finite value is rounded to (R50). -/
theorem magVal_roundMag (rm : Nat) (neg : Bool) {m : Nat} (e : Int) (hm : m ≠ 0) :
    p.magVal (roundMag p rm neg m e) = |((roundInt rm neg m (e - p.unit m e) : Int) : ℚ)| * 2 ^ p.unit m e := by
  obtain ⟨le, full⟩ := roundNat_unit_bounds p rm neg e hm
  rw [roundMag_eq p rm neg e hm, magVal_units p le (full.imp_left fun h => by rw [h]; simp), qmin_add_unit, roundInt_eq,
    abs_signedNat]

end

/-! A format as a whole (R38, R39). -/

/-- The encodings of a format fit in its width, and that of an infinity lies above the finite ones. -/
structure FloatFmt.Sound (p : FloatFmt) : Prop where
  pos : 0 < p.width
  fits : p.maxEnc < 2 ^ (p.width - 1)
  infs : ∀ i, p.inf = some i → p.maxEnc < i ∧ i < 2 ^ (p.width - 1)

theorem two_pow_half {w : Nat} (h : 0 < w) : 2 ^ w = 2 ^ (w - 1) + 2 ^ (w - 1) := by
  rw [← two_mul, ← pow_succ', Nat.sub_add_cancel h]

theorem withSign_mag {p : FloatFmt} (neg : Bool) {k : Nat} (hk : k < 2 ^ (p.width - 1)) :
    withSign p neg k % 2 ^ (p.width - 1) = k := by
  cases neg <;> simp [withSign, Nat.mod_eq_of_lt hk]

section
variable {p : FloatFmt} (h : p.Sound)
include h

theorem FloatFmt.Sound.sign (neg : Bool) {k : Nat} (hk : k < 2 ^ (p.width - 1)) :
    decide (2 ^ (p.width - 1) ≤ withSign p neg k % 2 ^ p.width) = neg := by
  have double := two_pow_half h.pos
  cases neg <;> simp only [withSign, if_true, if_false, Bool.false_eq_true, decide_eq_false_iff_not, decide_eq_true_eq]
  all_goals rw [Nat.mod_eq_of_lt (by omega)]; omega

/-- An encoding up to the largest finite one, read back. -/
theorem FloatFmt.Sound.widen_fin (neg : Bool) {k : Nat} (hk : k ≤ p.maxEnc) :
    ∃ m e, widenFloat p (withSign p neg k) = .fin neg m e ∧ (m : ℚ) * 2 ^ e = p.magVal k := by
  have hkw := hk.trans_lt h.fits
  simp only [widenFloat, withSign_mag neg hkw, h.sign neg hkw, if_neg (not_lt.2 hk)]
  by_cases h0 : k / 2 ^ p.mbits = 0
  · rw [if_pos h0]
    exact ⟨_, _, rfl, by simp [FloatFmt.magVal, h0, FloatFmt.qmin]⟩
  · rw [if_neg h0]
    refine ⟨_, _, rfl, ?_⟩
    rw [FloatFmt.magVal, if_neg h0, FloatFmt.qmin]
    congr 2
    ring

theorem FloatFmt.Sound.widen_inf (neg : Bool) {i : Nat} (hi : p.inf = some i) :
    widenFloat p (withSign p neg i) = .inf neg := by
  obtain ⟨above, hw⟩ := h.infs i hi
  simp only [widenFloat, withSign_mag neg hw, h.sign neg hw, if_pos above, hi, if_true]

end

/-- The encoding of a value beyond the largest finite one (R50). -/
def FloatFmt.overflow (p : FloatFmt) (rm : Nat) (ov neg : Bool) : Nat :=
  if ov then
    match p.inf with
    | some i =>
      if rm = 0 ∨ (rm = 2 ∧ neg = false) ∨ (rm = 3 ∧ neg = true) then withSign p neg i else withSign p neg p.maxEnc
    | none => if p.ovNan then p.nan else withSign p neg p.maxEnc
  else withSign p neg p.maxEnc

theorem toFloat_fin (p : FloatFmt) (rm : Nat) (ov neg : Bool) (m : Nat) (e : Int) : toFloat p rm ov (.fin neg m e) =
    if roundMag p rm neg m e ≤ p.maxEnc then withSign p neg (roundMag p rm neg m e) else p.overflow rm ov neg := rfl

section
variable {t : Nat} {p : FloatFmt} (hp : floatFmt t = some p)
include hp

theorem floatFmt_code : t = 6 ∨ t = 7 ∨ t = 8 ∨ t = 9 ∨ t = 10 ∨ t = 13 := by
  unfold floatFmt at hp
  split at hp <;> simp_all

theorem floatFmt_sound : p.Sound := by
  rcases floatFmt_code hp with rfl | rfl | rfl | rfl | rfl | rfl <;> cases hp <;>
    exact ⟨by decide, by decide, by simp⟩

/-- The largest finite value (R38, R39). -/
theorem magVal_maxEnc : p.magVal p.maxEnc = if t = 13 then 6 else if t = 6 then 448 else if t = 7 then 57344
    else if t = 8 then (2 ^ 8 - 1) * 2 ^ 120 else if t = 9 then 65504 else (2 ^ 24 - 1) * 2 ^ 104 := by
  rcases floatFmt_code hp with rfl | rfl | rfl | rfl | rfl | rfl <;> cases hp <;>
    norm_num [FloatFmt.magVal, FloatFmt.qmin, zpow_ofNat]

theorem floatFmt_nan : p.nan = if t = 13 then 0 else if t = 6 then 0x7F else if t = 7 then 0x7E else if t = 8 then 0x7FC0
    else if t = 9 then 0x7E00 else 0x7FC00000 := by
  rcases floatFmt_code hp with rfl | rfl | rfl | rfl | rfl | rfl <;> cases hp <;> rfl

theorem floatFmt_inf (h7 : 7 ≤ t) (h10 : t ≤ 10) : ∃ i, p.inf = some i := by
  interval_cases t <;> cases hp <;> exact ⟨_, rfl⟩

theorem widen_float (x : Nat) : widen t x = widenFloat p x := by simp only [widen, hp]

theorem convertValue_float (rm : Nat) (ov : Bool) (v : XVal) : convertValue t rm ov v = toFloat p rm ov v := by
  simp only [convertValue, hp]

/-- Beyond the largest finite value without an infinity (R50). -/
theorem saturates {rm : Nat} {ov : Bool} {neg : Bool} (h : ov = false ∨ t = 13) :
    toFloat p rm ov (.inf neg) = withSign p neg p.maxEnc ∧ p.overflow rm ov neg = withSign p neg p.maxEnc := by
  rcases h with rfl | rfl
  · exact ⟨rfl, rfl⟩
  · cases hp; cases ov <;> exact ⟨rfl, rfl⟩

end

section
variable {t : Nat} {p : FloatFmt} (hp : floatFmt t = some p) (rm : Nat)
include hp

theorem widen_largest (neg : Bool) : ∃ m e, widen t (withSign p neg p.maxEnc) = .fin neg m e ∧
    (m : ℚ) * 2 ^ e = p.magVal p.maxEnc := by
  rw [widen_float hp]
  exact (floatFmt_sound hp).widen_fin neg le_rfl

/-- A zero keeps its sign (R50). -/
theorem toFloat_zero (ov neg : Bool) (e : Int) : ∃ e1, widen t (toFloat p rm ov (.fin neg 0 e)) = .fin neg 0 e1 := by
  obtain ⟨m1, e1, hw, hv⟩ := (floatFmt_sound hp).widen_fin neg (Nat.zero_le p.maxEnc)
  have zero : (m1 : ℚ) * 2 ^ e1 = 0 := hv.trans (by simp [FloatFmt.magVal])
  obtain rfl : m1 = 0 := by simpa [zpow_ne_zero] using zero
  exact ⟨e1, (widen_float hp _).trans hw⟩

/-- A finite value is rounded to the format's precision, and is encoded or has overflowed (R50). -/
theorem toFloat_rounded (ov neg : Bool) {m : Nat} (e : Int) (hm : m ≠ 0) :
    (|((roundInt rm neg m (e - p.unit m e) : Int) : ℚ)| * 2 ^ p.unit m e ≤ p.magVal p.maxEnc →
      ∃ m1 e1, widen t (toFloat p rm ov (.fin neg m e)) = .fin neg m1 e1 ∧
        (m1 : ℚ) * 2 ^ e1 = |((roundInt rm neg m (e - p.unit m e) : Int) : ℚ)| * 2 ^ p.unit m e) ∧
    (p.magVal p.maxEnc < |((roundInt rm neg m (e - p.unit m e) : Int) : ℚ)| * 2 ^ p.unit m e →
      toFloat p rm ov (.fin neg m e) = p.overflow rm ov neg) := by
  rw [← magVal_roundMag p rm neg e hm, (magVal_strictMono p).le_iff_le, (magVal_strictMono p).lt_iff_lt, toFloat_fin]
  refine ⟨fun le => ?_, fun lt => if_neg (not_le.2 lt)⟩
  rw [if_pos le, widen_float hp]
  exact (floatFmt_sound hp).widen_fin neg le

section
variable (h7 : 7 ≤ t) (h10 : t ≤ 10)
include h7 h10

theorem toFloat_inf (neg : Bool) : widen t (toFloat p rm true (.inf neg)) = .inf neg := by
  obtain ⟨i, hi⟩ := floatFmt_inf hp h7 h10
  rw [widen_float hp, toFloat, if_pos rfl, hi]
  exact (floatFmt_sound hp).widen_inf neg hi

/-- An overflow under IEEE: away from zero to infinity, toward it to the largest finite value (R50). -/
theorem overflow_ieee (neg : Bool) :
    (rm = 0 ∨ (rm = 2 ∧ neg = false) ∨ (rm = 3 ∧ neg = true) → widen t (p.overflow rm true neg) = .inf neg) ∧
    (rm = 1 ∨ (rm = 2 ∧ neg = true) ∨ (rm = 3 ∧ neg = false) →
      p.overflow rm true neg = withSign p neg p.maxEnc) := by
  obtain ⟨i, hi⟩ := floatFmt_inf hp h7 h10
  rw [widen_float hp, FloatFmt.overflow, if_pos rfl, hi]
  refine ⟨fun away => ?_, fun toward => ?_⟩
  · simp only [if_pos away]
    exact (floatFmt_sound hp).widen_inf neg hi
  · have stays : ¬(rm = 0 ∨ (rm = 2 ∧ neg = false) ∨ (rm = 3 ∧ neg = true)) := by
      rcases toward with rfl | ⟨rfl, rfl⟩ | ⟨rfl, rfl⟩ <;> simp
    simp only [if_neg stays]

end

end

end Sys2Proof.Machine
end

section
/-! Conversions into integer and MX formats and into E8M0 (R51, R52). -/

namespace Sys2Proof.Machine
open Sys2Proof.Safety

theorem clampInt_eq {lo hi : Int} (h : lo ≤ hi) (v : Int) : clampInt lo hi v = max lo (min hi v) := by
  unfold clampInt
  split
  · omega
  · split <;> omega

theorem intLo_le_intHi (sg : Bool) (w : Nat) : intLo sg w ≤ intHi sg w := by
  have h1 : (0 : Int) < 2 ^ w := by positivity
  have h2 : (0 : Int) < 2 ^ (w - 1) := by positivity
  cases sg <;> simp only [intLo, intHi, if_true, if_false, Bool.false_eq_true] <;> omega

/-- The bits of an integer limited to the range of a format, as the statements write it. -/
theorem wrapInt_clampInt (sg : Bool) (w : Nat) (n : Int) : wrapInt w (clampInt (intLo sg w) (intHi sg w) n) =
    (max (if sg then -(2 ^ (w - 1)) else 0) (min (if sg then 2 ^ (w - 1) - 1 else 2 ^ w - 1) n) % 2 ^ w).toNat := by
  rw [clampInt_eq (intLo_le_intHi sg w)]
  rfl

/-- The ranges of the integer formats lie within 2^64. -/
theorem clampInt_inf (sg : Bool) {w : Nat} (hw : w ≤ 64) : clampInt (intLo sg w) (intHi sg w) (-(2 ^ 64)) = intLo sg w ∧
    clampInt (intLo sg w) (intHi sg w) (2 ^ 64) = intHi sg w := by
  have h1 : (2 : Int) ^ w ≤ 2 ^ 64 := pow_le_pow_right₀ (by decide) hw
  have h2 : (2 : Int) ^ (w - 1) ≤ 2 ^ 64 := pow_le_pow_right₀ (by decide) (by omega)
  have h3 := intLo_le_intHi sg w
  have h4 : -(2 ^ 64) ≤ intLo sg w := by cases sg <;> simp only [intLo, if_true, if_false, Bool.false_eq_true] <;> omega
  have h5 : intHi sg w ≤ 2 ^ 64 := by cases sg <;> simp only [intHi, if_true, if_false, Bool.false_eq_true] <;> omega
  rw [clampInt_eq h3, clampInt_eq h3]
  omega

theorem intFmt_width {f w : Nat} {sg : Bool} (h : intFmt f = some (sg, w)) : w ≤ 64 := by
  unfold intFmt at h
  split at h <;> cases h <;> decide

theorem fmtWidth_bounds (f : Nat) : 4 ≤ fmtWidth f ∧ fmtWidth f ≤ 32 := by
  unfold fmtWidth
  split <;> decide

/-- The value of an integer of a format is what `xOfInt` says: it is rounded to itself, at any scale (R51). -/
theorem roundInt_xOfInt (rm : Nat) (v : Int) (k : Nat) : roundInt rm (decide (v < 0)) v.natAbs k = v * 2 ^ k := by
  rw [roundInt_eq, roundNat_natCast, signedNat_mul]
  have : signedNat (decide (v < 0)) v.natAbs = v := by
    simp only [signedNat, decide_eq_true_eq]
    split <;> omega
  rw [this]
  push_cast
  rfl

theorem xscale_xOfInt (v : Int) (k : Nat) : xscale k (xOfInt v) = .fin (decide (v < 0)) v.natAbs k := by
  simp [xscale, xOfInt]

theorem toIntKeep_int (sg : Bool) (w rm : Nat) (ov : Bool) (v : Int) (k : Nat) :
    toIntKeep sg w rm ov (.fin (decide (v < 0)) v.natAbs k) =
      if ov then wrapInt w (v * 2 ^ k) else wrapInt w (clampInt (intLo sg w) (intHi sg w) (v * 2 ^ k)) := by
  simp only [toIntKeep, roundInt_xOfInt]

theorem mxFrac_code {t k : Nat} (h : mxFrac t = some k) :
    (t = 14 ∧ k = 2) ∨ (t = 15 ∧ k = 4) ∨ (t = 16 ∧ k = 6) := by
  unfold mxFrac at h
  split at h <;> cases h <;> simp

theorem convertValue_int {t w : Nat} {sg : Bool} (h : intFmt t = some (sg, w)) (rm : Nat) (ov : Bool) (v : XVal) :
    convertValue t rm ov v = toIntSat sg w rm v := by
  unfold intFmt at h
  split at h <;> cases h <;> rfl

theorem convertValue_mx {t k : Nat} (h : mxFrac t = some k) (rm : Nat) (ov : Bool) (v : XVal) :
    convertValue t rm ov v = toIntSat true (fmtWidth t) rm (xscale k v) := by
  rcases mxFrac_code h with ⟨rfl, rfl⟩ | ⟨rfl, rfl⟩ | ⟨rfl, rfl⟩ <;> rfl

/-- E8M0 takes the exponent (R52). -/
theorem toE8M0_fin (neg : Bool) {m : Nat} (e : Int) (hm : m ≠ 0) : ∃ k : Int, (2 : ℚ) ^ k ≤ m * 2 ^ e ∧
    (m : ℚ) * 2 ^ e < 2 ^ (k + 1) ∧ toE8M0 (.fin neg m e) = (max 0 (min 254 (k + 127))).toNat := by
  refine ⟨e + Nat.log2 m, two_zpow_log2_le hm e, lt_two_zpow_log2 m e, ?_⟩
  simp only [toE8M0, if_neg hm]
  rw [clampInt_eq (by decide)]

theorem widen_int {f w : Nat} {sg : Bool} (h : intFmt f = some (sg, w)) (x : Nat) : widen f x = xOfInt (intVal sg w x) := by
  unfold intFmt at h
  split at h <;> cases h <;> rfl

theorem xscale_zero (v : XVal) : xscale 0 v = v := by
  cases v <;> simp [xscale]

/-- A source integer in units of 2^−k: what `convert` makes of it in an integer or an MX target (R51). -/
theorem convert_int_target {f t w k : Nat} {sg : Bool} {tg : Bool × Nat} (hf : intFmt f = some (sg, w)) (rm : Nat)
    (ov : Bool) (x : Nat) (ht : (intFmt t = some tg ∧ k = 0) ∨ (mxFrac t = some k ∧ tg = (true, fmtWidth t))) :
    convert f t rm ov x = toIntKeep tg.1 tg.2 rm ov (xscale k (xOfInt (intVal sg w x))) := by
  rcases ht with ⟨ht, rfl⟩ | ⟨ht, rfl⟩
  · simp only [convert, hf, ht, widen_int hf, Nat.cast_zero, xscale_zero]
  · have none : intFmt t = none := by rcases mxFrac_code ht with ⟨rfl, -⟩ | ⟨rfl, -⟩ | ⟨rfl, -⟩ <;> rfl
    simp only [convert, hf, none, ht, widen_int hf]

/-- A source integer in any other target is a value like any. -/
theorem convert_int_other {f t w : Nat} {sg : Bool} (hf : intFmt f = some (sg, w)) (hi : intFmt t = none)
    (hm : mxFrac t = none) (rm : Nat) (ov : Bool) (x : Nat) : convert f t rm ov x = convertValue t rm ov (widen f x) := by
  simp only [convert, hf, hi, hm]

theorem int_target_scale {t k : Nat} {tg : Bool × Nat}
    (htg : intFmt t = some tg ∨ (mxFrac t ≠ none ∧ tg = (true, fmtWidth t)))
    (hk : k = if t = 14 then 2 else if t = 15 then 4 else if t = 16 then 6 else 0) :
    (intFmt t = some tg ∧ k = 0) ∨ (mxFrac t = some k ∧ tg = (true, fmtWidth t)) := by
  rcases htg with h | ⟨h, htg⟩
  · refine .inl ⟨h, ?_⟩
    unfold intFmt at h
    split at h <;> simp_all
  · obtain ⟨k', h'⟩ := Option.ne_none_iff_exists'.1 h
    refine .inr ⟨h'.trans (congrArg some ?_), htg⟩
    rcases mxFrac_code h' with ⟨rfl, rfl⟩ | ⟨rfl, rfl⟩ | ⟨rfl, rfl⟩ <;> simp [hk]

end Sys2Proof.Machine
end

section
/-! The registers that conversions fill, and quantising (R153 to R159). -/

namespace Sys2Proof.Machine
open Sys2Proof.Safety

/-- A register packed from few enough elements holds them and nothing above them. -/
theorem vecOf_elems (t : Nat) (l : List Nat) (h : fmtWidth t * l.length ≤ 8192) :
    (∀ j (hj : j < l.length), elem (fmtWidth t) (vecOf t l).toNat j = l[j] % 2 ^ fmtWidth t) ∧
      (vecOf t l).toNat < 2 ^ (fmtWidth t * l.length) := by
  refine ⟨fun j hj => elem_ofNat_packList _ _ _ h hj, ?_⟩
  rw [vecOf, BitVec.toNat_ofNat]
  exact (Nat.mod_le _ _).trans_lt (packList_lt _ _)

/-- A result of the PRM slot, element by element (R137). -/
theorem landP_whole {i : Instr} {s : State} {lat d t n : Nat} {l : List Nat} {el : Nat → Nat}
    (hexec : exec i s = .next (s.landP lat d (vecOf t l))) (hlen : l.length = n) (hfit : fmtWidth t * n ≤ 8192)
    (hel : ∀ j (hj : j < l.length), l[j] % 2 ^ fmtWidth t = el j) : WholeResult i s lat .prm d (fmtWidth t) n el := by
  subst hlen
  obtain ⟨elems, bound⟩ := vecOf_elems t l hfit
  exact ⟨_, hexec, vecOf t l, State.landIn_lands s lat .prm _ false, fun j hj => (elems j hj).trans (hel j hj), bound⟩

theorem length_convElems (src tgt rm : Nat) (ov : Bool) (x : VReg) (k n : Nat) :
    (convElems src tgt rm ov x k n).length = n := by simp [convElems]

theorem getElem_convElems (src tgt rm : Nat) (ov : Bool) (s : State) (r k n j : Nat)
    (h : j < (convElems src tgt rm ov (s.me.rv r) k n).length) : (convElems src tgt rm ov (s.me.rv r) k n)[j] =
      convert src tgt rm ov (lane s (fmtWidth src) r (k + j)) := by
  simp [convElems, lane, State.me]

/-- The elements that fit at a width no smaller than their own fit in a register. -/
theorem width_mul_div {w v : Nat} (h : w ≤ v) : w * (8192 / v) ≤ 8192 :=
  (Nat.mul_le_mul_right _ h).trans (Nat.mul_div_le 8192 v)

theorem mxFrac_isSome (f : Nat) : (mxFrac f).isSome = true ↔ 14 ≤ f ∧ f ≤ 16 := by
  constructor
  · intro h
    obtain ⟨k, hk⟩ := Option.isSome_iff_exists.1 h
    rcases mxFrac_code hk with ⟨rfl, -⟩ | ⟨rfl, -⟩ | ⟨rfl, -⟩ <;> decide
  · rintro ⟨low, high⟩
    interval_cases f <;> rfl

section
variable {s : State} {g : Gate} {f t : BitVec 5} {rm : BitVec 2} {ov : Bool} {d a b : VField} {dn an bn : Nat}

theorem exec_vcvt_on (h : Enabled (.vcvt g f d a t rm ov) false g s) (hd : Names s d dn) (ha : Names s a an) :
    exec (.vcvt g f d a t rm ov) s = .next (s.landP 3 dn (vecOf t.toNat
      (convElems f.toNat t.toNat rm.toNat ov (s.me.rv an) 0 (convCount f.toNat t.toNat)))) := by
  rw [exec_vcvt, execVcvt, runOp_on _ h, withV_some _ hd, withV_some _ ha]

theorem exec_pack_on (h : Enabled (.pack g f d a b t rm ov) false g s) (hd : Names s d dn) (ha : Names s a an)
    (hb : Names s b bn) : exec (.pack g f d a b t rm ov) s = .next (s.landP 3 dn (vecOf t.toNat
      (convElems f.toNat t.toNat rm.toNat ov (s.me.rv an) 0 (8192 / max (fmtWidth f.toNat) 8) ++
        convElems f.toNat t.toNat rm.toNat ov (s.me.rv bn) 0 (8192 / max (fmtWidth f.toNat) 8)))) := by
  rw [exec_pack, execPack, runOp_on _ h, withV_some _ hd, withV_some _ ha, withV_some _ hb]

theorem exec_unpk_on (h : Enabled (.unpk g f d a t rm ov) false g s) (hd : Names s d dn) (ha : Names s a an) :
    exec (.unpk g f d a t rm ov) s = .next (s.landP 3 dn (vecOf t.toNat (convElems f.toNat t.toNat rm.toNat ov (s.me.rv an)
      (8192 / max (fmtWidth t.toNat) 8) (8192 / max (fmtWidth t.toNat) 8)))) := by
  rw [exec_unpk, execUnpk, runOp_on _ h, withV_some _ hd, withV_some _ ha]

theorem exec_scale_on {kr : KReg} {i : BitVec 3} (h : Enabled (.scale g f d a kr i t rm ov) false g s) (hd : Names s d dn)
    (ha : Names s a an) : exec (.scale g f d a kr i t rm ov) s = .next (s.landP 3 dn (vecOf t.toNat
      ((List.range (convCount f.toNat t.toNat)).map fun e => convertValue t.toNat rm.toNat ov
        (xmul (widen f.toNat (lane s (fmtWidth f.toNat) an e))
          (scaleE8M0 (scaleOf f.toNat (s.me.rk kr.toNat) i.toNat e)))))) := by
  rw [exec_scale, execScale, runOp_on _ h, withV_some _ hd, withV_some _ ha]
  rfl

end

/-! Quantising. -/

/-- A block of `QNT` holds a NaN or an infinity (R159). -/
def blockUndefined (l : List Nat) : Bool :=
  (l.map (widen 10)).any (fun x => match x with | .fin _ _ _ => false | _ => true)

/-- The scale exponent of a block of finite values (R159). -/
def blockScale (t : Nat) (l : List Nat) : Int :=
  match blockExp (l.map (widen 10)) with
  | none => 127
  | some e => max 0 (min 254 (e - qntEmax t + 127))

/-- Element `v` of a block, quantised (R159). -/
def qntElem (t rm : Nat) (ov : Bool) (l : List Nat) (v : Nat) : Nat :=
  if blockUndefined l then 0 else convertValue t rm ov (xscale (127 - blockScale t l) (widen 10 v))

theorem qntBlock_eq (t rm : Nat) (ov : Bool) (l : List Nat) : qntBlock t rm ov l =
    (if blockUndefined l then 0xFF else (blockScale t l).toNat, l.map (qntElem t rm ov l)) := by
  simp only [qntBlock, clampInt_eq (show (0 : Int) ≤ 254 by decide), List.map_map]
  change (if blockUndefined l then _ else _) = _
  by_cases h : blockUndefined l = true
  · have zeros : qntElem t rm ov l = fun _ => 0 := funext fun v => if_pos h
    rw [if_pos h, if_pos h, zeros]
  · have values : qntElem t rm ov l = fun v => convertValue t rm ov (xscale (127 - blockScale t l) (widen 10 v)) :=
      funext fun v => if_neg h
    rw [if_neg h, if_neg h, values]
    rfl

theorem blockUndefined_iff (l : List Nat) :
    blockUndefined l = true ↔ ∃ x ∈ l, ∀ m e q, widen 10 x ≠ .fin m e q := by
  simp only [blockUndefined, List.any_map, List.any_eq_true, Function.comp]
  refine exists_congr fun x => and_congr_right fun _ => ?_
  cases h : widen 10 x <;> simp

theorem blockScale_bounds (t : Nat) (l : List Nat) : 0 ≤ blockScale t l ∧ blockScale t l ≤ 254 := by
  unfold blockScale
  split <;> omega

/-- Block `n` of the elements of a register (R159). -/
def laneBlock (s : State) (an n : Nat) : List Nat := (List.range 32).map (fun j => lane s 32 an (32 * n + j))

/-- The eight scales of `QNT`, and its 256 elements. -/
def qntScales (s : State) (an t : Nat) : List Nat :=
  (List.range 8).map (fun n => if blockUndefined (laneBlock s an n) then 0xFF else (blockScale t (laneBlock s an n)).toNat)
def qntElems (s : State) (an t rm : Nat) (ov : Bool) : List Nat :=
  (List.range 8).flatMap (fun n => (List.range 32).map (fun j =>
    qntElem t rm ov (laneBlock s an n) (lane s 32 an (32 * n + j))))

theorem exec_qnt_on {s : State} {g : Gate} {t : BitVec 5} {rm : BitVec 2} {ov : Bool} {d a : VField} {kr : KReg} {dn an : Nat}
    (h : Enabled (.qnt g 10 d a kr 0 t rm ov) false g s) (hd : Names s d dn) (ha : Names s a an) :
    exec (.qnt g 10 d a kr 0 t rm ov) s =
      .next ((s.landP 5 dn (vecOf t.toNat (qntElems s an t.toNat rm.toNat ov))).landIn 5 .prm
        (.kreg kr.toNat (BitVec.ofNat 64 (packList 8 (qntScales s an t.toNat))))) := by
  rw [exec_qnt, execQnt, runOp_on _ h, withV_some _ hd, withV_some _ ha]
  simp only [qntBlock_eq, List.map_map, List.flatMap_map]
  rfl

theorem length_qntElems (s : State) (an t rm : Nat) (ov : Bool) : (qntElems s an t rm ov).length = 256 := by
  simp [qntElems, List.length_flatMap]

theorem getElem_qntElems (s : State) (an t rm : Nat) (ov : Bool) {n j : Nat} (hn : n < 8) (hj : j < 32)
    (h : 32 * n + j < (qntElems s an t rm ov).length) :
    (qntElems s an t rm ov)[32 * n + j] = qntElem t rm ov (laneBlock s an n) (lane s 32 an (32 * n + j)) := by
  have table := getElem?_flatMap_map (fun n j => qntElem t rm ov (laneBlock s an n) (lane s 32 an (32 * n + j)))
    (List.range 8) (List.range 32) n j (by simpa using hj)
  simp only [List.length_range, List.getElem_range, List.getElem?_range hn, Option.map_some] at table
  exact Option.some.inj ((List.getElem?_eq_getElem h).symm.trans table)

theorem elem_qntScales (s : State) (an t : Nat) {n : Nat} (hn : n < 8) :
    elem 8 (BitVec.ofNat 64 (packList 8 (qntScales s an t))).toNat n =
      if blockUndefined (laneBlock s an n) then 0xFF else (blockScale t (laneBlock s an n)).toNat := by
  have hlen : (qntScales s an t).length = 8 := by simp [qntScales]
  have fits : packList 8 (qntScales s an t) < 2 ^ 64 := by simpa [hlen] using packList_lt 8 (qntScales s an t)
  rw [BitVec.toNat_ofNat, Nat.mod_eq_of_lt fits, elem_packList 8 _ n (by rw [hlen]; exact hn)]
  simp only [qntScales, List.getElem_map, List.getElem_range]
  obtain ⟨low, high⟩ := blockScale_bounds t (laneBlock s an n)
  split <;> omega

/-- The two results of `QNT`, block by block (R159). -/
theorem qnt_result {s : State} {g : Gate} {t : BitVec 5} {rm : BitVec 2} {ov : Bool} {d a : VField} {kr : KReg} {dn an : Nat}
    (h : Enabled (.qnt g 10 d a kr 0 t rm ov) false g s) (hd : Names s d dn) (ha : Names s a an) :
    Answers (.qnt g 10 d a kr 0 t rm ov) s (fun u => ∃ (r : VReg) (sc : Word64),
      Lands s u 5 .prm [.vreg dn (BitVec.allOnes 256) r, .kreg kr.toNat sc] ∧ r.toNat < 2 ^ (fmtWidth t.toNat * 256) ∧
      ∀ n, n < 8 →
        (elem 8 sc.toNat n =
          if blockUndefined (laneBlock s an n) then 0xFF else (blockScale t.toNat (laneBlock s an n)).toNat) ∧
        ∀ j, j < 32 → elem (fmtWidth t.toNat) r.toNat (32 * n + j) =
          qntElem t.toNat rm.toNat ov (laneBlock s an n) (lane s 32 an (32 * n + j)) % 2 ^ fmtWidth t.toNat) := by
  have width : fmtWidth t.toNat * 256 ≤ 8192 := Nat.mul_le_mul_right 256 (fmtWidth_bounds t.toNat).2
  have hlen := length_qntElems s an t.toNat rm.toNat ov
  obtain ⟨elems, bound⟩ := vecOf_elems t.toNat (qntElems s an t.toNat rm.toNat ov) (by rw [hlen]; exact width)
  rw [hlen] at bound
  refine ⟨_, exec_qnt_on h hd ha, _, _,
    Lands.trans (State.landIn_lands s 5 .prm _ false) (State.landIn_lands _ 5 .prm _ false), bound,
    fun n hn => ⟨elem_qntScales s an t.toNat hn, fun j hj => ?_⟩⟩
  rw [elems _ (by omega), getElem_qntElems s an _ _ _ hn hj]

/-- Settles O9: the elements of each result are read off its list; a value is rounded as `roundInt_rounds` says, and the
encodings of a floating format stand in the order of their numbers. -/
theorem conversions : Obligations.Conversions := by
  refine ⟨fun s g f t rm ov d a b dn an bn hg hf ht hon hd ha hb => ?_, fun f t rm ov neg x m e _ _ hrm => ?_,
    fun s g f t rm ov d a kr i dn an hg hf ht hon hd ha => ?_,
    fun s g t rm ov d a kr dn an hg ht hon hd ha => ?_⟩
  · intro ws wt conv
    have hwf : (g.ok && clsAny f && clsAny t) = true := by simp [hg, clsAny, hf, ht]
    refine ⟨?_, fun hlt hfit => ?_, fun hlt hfit => ?_⟩
    · exact landP_whole (exec_vcvt_on ⟨hwf, hon⟩ hd ha) (length_convElems ..) (width_mul_div (by omega)) fun j hj => by
        rw [getElem_convElems, Nat.zero_add]
    · have on : Enabled (.pack g f d a b t rm ov) false g s :=
        ⟨by rw [Instr.wf, hwf, packOk]; simpa using ⟨hlt, hfit⟩, hon⟩
      refine landP_whole (exec_pack_on on hd ha hb) (by simp [length_convElems, two_mul, ws])
        (by rw [mul_comm]; exact hfit) fun j hj => ?_
      simp only [List.getElem_append, length_convElems, getElem_convElems, Nat.zero_add]
      split <;> rfl
    · have on : Enabled (.unpk g f d a t rm ov) false g s :=
        ⟨by rw [Instr.wf, hwf, unpkOk]; simpa using ⟨hlt, hfit⟩, hon⟩
      exact landP_whole (exec_unpk_on on hd ha) (length_convElems ..) (width_mul_div (le_max_left ..)) fun j hj => by
        rw [getElem_convElems]
  · intro conv limited toInt
    have integer : ∀ (sg : Bool) (w : Nat) (k : Int), w ≤ 64 → (∀ v, conv v = toIntSat sg w rm (xscale k v)) →
        toInt sg w k := by
      intro sg w k hw hconv
      obtain ⟨low, high⟩ := clampInt_inf sg hw
      refine ⟨hconv .nan, ?_, ?_, _, roundInt_rounds hrm neg m (e + k), ?_⟩
      · rw [hconv]; exact (congrArg (wrapInt w) low).symm.trans (wrapInt_clampInt sg w _)
      · rw [hconv]; exact (congrArg (wrapInt w) high).symm.trans (wrapInt_clampInt sg w _)
      · rw [hconv]; exact wrapInt_clampInt sg w _
    refine ⟨fun p hp => ?_, fun sg w h => ?_, fun k h => ?_, ?_, fun h => ?_,
      fun sg w h => ⟨fun hi hm => ?_, fun tg k htg hk => ?_⟩⟩
    · intro most largest overflow
      have hmax : p.magVal p.maxEnc = most := magVal_maxEnc hp
      have hlargest : ∀ n y, y = withSign p n p.maxEnc → largest n y := by
        rintro n y rfl
        obtain ⟨m1, e1, hw, hv⟩ := widen_largest hp n
        exact ⟨m1, e1, hw, hv.trans hmax⟩
      simp only [conv, convertValue_float hp]
      refine ⟨floatFmt_nan hp, fun n => ⟨fun h => hlargest n _ (saturates hp (rm := rm) h).1, ?_, ?_⟩, ?_,
        fun hm => ?_⟩
      · rintro rfl rfl
        cases hp; rfl
      · rintro rfl h7 h10
        exact toFloat_inf hp rm h7 h10 n
      · rintro rfl
        exact toFloat_zero hp rm ov neg e
      · obtain ⟨fits, beyond⟩ := toFloat_rounded hp rm ov neg e hm
        rw [hmax] at fits beyond
        refine ⟨p.unit m e, roundInt rm neg m (e - p.unit m e), qmin_le_unit p m e, lt_unit p m e, unit_le p m e hm,
          numOf_div neg m e _ ▸ roundInt_rounds hrm neg m _, fits, fun h => ?_⟩
        rw [beyond h]
        refine ⟨fun h => hlargest neg _ (saturates hp (rm := rm) h).2, ?_, ?_, ?_⟩
        · rintro rfl rfl
          cases hp; rfl
        · rintro rfl h7 h10
          exact (overflow_ieee hp rm h7 h10 neg).1
        · rintro rfl h7 h10 hr
          exact hlargest neg _ ((overflow_ieee hp rm h7 h10 neg).2 hr)
    · exact integer sg w 0 (intFmt_width h) fun v => by rw [xscale_zero]; exact convertValue_int h rm ov v
    · exact integer true (fmtWidth t) k ((fmtWidth_bounds t).2.trans (by decide)) fun v => convertValue_mx h rm ov v
    · rintro rfl
      refine ⟨rfl, fun _ => rfl, ?_, toE8M0_fin neg e⟩
      rintro rfl; rfl
    · simp only [convert, h, infKept, Bool.or_assoc]
    · exact convert_int_other h hi hm rm ov x
    · intro n
      rw [convert_int_target h rm ov x (int_target_scale htg hk), xscale_xOfInt, toIntKeep_int, wrapInt_clampInt]
      rfl
  · intro ws wt scale
    have on : Enabled (.scale g f d a kr i t rm ov) false g s := ⟨by simp [Instr.wf, hg, clsAny, hf, ht], hon⟩
    refine landP_whole (exec_scale_on on hd ha) (by simp [convCount, ws, wt]) (width_mul_div (by omega)) fun j hj => ?_
    rw [List.getElem_map, List.getElem_range]
    simp only [scaleOf, mxFrac_isSome, kScale, ← apply_ite]
    rfl
  · intro wt block
    have on : Enabled (.qnt g 10 d a kr 0 t rm ov) false g s := ⟨by simp [Instr.wf, hg, ht], hon⟩
    obtain ⟨u, run, r, sc, lands, bound, blocks⟩ := qnt_result on hd ha
    refine ⟨u, run, r, sc, lands, bound, fun n hn => ?_⟩
    obtain ⟨scale, element⟩ := blocks n hn
    refine ⟨fun bad => ?_, fun good => ?_⟩
    · have undef : blockUndefined (laneBlock s an n) = true := (blockUndefined_iff _).2 bad
      exact ⟨scale.trans (if_pos undef), fun j hj => by rw [element j hj, qntElem, if_pos undef, Nat.zero_mod]⟩
    · have fine : ¬blockUndefined (laneBlock s an n) = true := fun h => by
        obtain ⟨x, hx, not⟩ := (blockUndefined_iff _).1 h
        obtain ⟨m, e, q, fin⟩ := good x hx
        exact not m e q fin
      exact ⟨scale.trans (if_neg fine), fun j hj => by rw [element j hj, qntElem, if_neg fine]; rfl⟩

end Sys2Proof.Machine
end

section
/-! The transcendentals (R53 to R57): their tables, and their arguments as exact numbers. -/

namespace Sys2Proof.Machine
open Sys2Proof.Safety

/-! The tables. -/

/-- `divRne` is a nearest integer to the quotient. -/
theorem divRne_nearest (n : Nat) {d : Nat} (hd : 0 < d) :
    2 * (divRne n d * d) ≤ 2 * n + d ∧ 2 * n ≤ 2 * (divRne n d * d) + d := by
  have h := Nat.div_add_mod' n d
  have hr := Nat.mod_lt n hd
  unfold divRne
  dsimp only
  generalize n / d = q at *
  generalize n % d = r at *
  have next : (q + 1) * d = q * d + d := Nat.succ_mul q d
  split <;> omega

/-- The bit by bit root keeps acc² · d ≤ n < (acc + 2^k)² · d, and ends at k = 0. -/
theorem sqrtDiv_floor (n d k acc : Nat) (low : acc * acc * d ≤ n) (high : n < (acc + 2 ^ k) * (acc + 2 ^ k) * d) :
    sqrtDiv n d k acc * sqrtDiv n d k acc * d ≤ n ∧ n < (sqrtDiv n d k acc + 1) * (sqrtDiv n d k acc + 1) * d := by
  induction k generalizing acc with
  | zero => exact ⟨low, by simpa [sqrtDiv] using high⟩
  | succ k ih =>
    rw [pow_succ, mul_two, ← add_assoc] at high
    unfold sqrtDiv
    dsimp only
    split
    next h => exact ih _ h high
    next h => exact ih _ low (not_le.1 h)

/-- The entries of `TRsq` are nearest to 2^31 / √(1 + (2i + 1) / 128) (R55). -/
theorem tRsq_nearest (i : Nat) :
    (2 * tRsq i - 1) ^ 2 * (129 + 2 * i) ≤ 2 ^ 71 ∧ 2 ^ 71 ≤ (2 * tRsq i + 1) ^ 2 * (129 + 2 * i) := by
  obtain ⟨low, high⟩ := sqrtDiv_floor (2 ^ 62 * 128) (129 + 2 * i) 32 0 (by simp) (by omega)
  unfold tRsq
  dsimp only
  generalize sqrtDiv (2 ^ 62 * 128) (129 + 2 * i) 32 0 = r at *
  generalize 129 + 2 * i = d at *
  split
  next h =>
    refine ⟨?_, ?_⟩
    · have odd : 2 * (r + 1) - 1 = 2 * r + 1 := by omega
      calc (2 * (r + 1) - 1) ^ 2 * d = d * (2 * r + 1) * (2 * r + 1) := by rw [odd]; ring
        _ ≤ 2 ^ 71 := by omega
    · calc 2 ^ 71 ≤ 4 * ((r + 1) * (r + 1) * d) := by omega
        _ = (2 * (r + 1)) ^ 2 * d := by ring
        _ ≤ (2 * (r + 1) + 1) ^ 2 * d := by gcongr; omega
  next h =>
    refine ⟨?_, ?_⟩
    · calc (2 * r - 1) ^ 2 * d ≤ (2 * r) ^ 2 * d := by gcongr; omega
        _ = 4 * (r * r * d) := by ring
        _ ≤ 2 ^ 71 := by omega
    · calc 2 ^ 71 ≤ d * (2 * r + 1) * (2 * r + 1) := by omega
        _ = (2 * r + 1) ^ 2 * d := by ring

/-- The entries of `TExp` are nearest to 2^62 · 2^(i / 256) (R56): each entry of the table is checked. -/
theorem tExp_nearest : ∀ i, i < 256 →
    (2 * tExp i - 1) ^ 256 ≤ 2 ^ (63 * 256 + i) ∧ 2 ^ (63 * 256 + i) ≤ (2 * tExp i + 1) ^ 256 := by
  decide +kernel

/-! The arguments. -/

/-- A finite value of a floating format has no more bits than its precision, and no lower unit than its own (R38). -/
theorem widenFloat_fin {p : FloatFmt} {x m : Nat} {neg : Bool} {e : Int} (h : widenFloat p x = .fin neg m e) :
    m < 2 ^ (p.mbits + 1) ∧ p.qmin ≤ e := by
  have hr := Nat.mod_lt (x % 2 ^ (p.width - 1)) (Nat.two_pow_pos p.mbits)
  simp only [widenFloat] at h
  split at h
  · split at h <;> cases h
  · rw [pow_succ, FloatFmt.qmin]
    generalize x % 2 ^ (p.width - 1) / 2 ^ p.mbits = ex at h
    split at h <;> cases h
    · omega
    · omega

theorem widen_fin {f x m : Nat} {neg : Bool} {e : Int} (h8 : 8 ≤ f) (h10 : f ≤ 10) (h : widen f x = .fin neg m e) :
    m < 2 ^ 24 ∧ -149 ≤ e := by
  have bounds : ∀ p, floatFmt f = some p → p.mbits + 1 ≤ 24 ∧ -149 ≤ p.qmin := by
    intro p hp
    interval_cases f <;> cases hp <;> decide
  obtain ⟨p, hp⟩ : ∃ p, floatFmt f = some p := by interval_cases f <;> exact ⟨_, rfl⟩
  rw [widen_float hp] at h
  obtain ⟨hm, he⟩ := widenFloat_fin h
  obtain ⟨bits, unit⟩ := bounds p hp
  exact ⟨hm.trans_le (Nat.pow_le_pow_right two_pos bits), unit.trans he⟩

/-- A value of at most 24 bits as M · 2^(E − 23) with 2^23 ≤ M < 2^24 (R53). -/
theorem normal24_spec {m : Nat} (hm : m ≠ 0) (h24 : m < 2 ^ 24) (e : Int) :
    2 ^ 23 ≤ (normal24 m e).1 ∧ (normal24 m e).1 < 2 ^ 24 ∧
      (m : ℚ) * 2 ^ e = (normal24 m e).1 * 2 ^ ((normal24 m e).2 - 23) := by
  have low := Nat.log2_self_le hm
  have high := @Nat.lt_log2_self m
  have l23 : Nat.log2 m ≤ 23 := Nat.lt_succ_iff.1 ((Nat.log2_lt hm).2 h24)
  have pos := Nat.two_pow_pos (23 - Nat.log2 m)
  have whole : 2 ^ Nat.log2 m * 2 ^ (23 - Nat.log2 m) = 2 ^ 23 := by rw [← pow_add, Nat.add_sub_cancel' l23]
  refine ⟨?_, ?_, ?_⟩
  · rw [← whole]
    exact Nat.mul_le_mul_right _ low
  · rw [pow_succ 2 23, ← whole, mul_right_comm, ← pow_succ]
    exact Nat.mul_lt_mul_of_pos_right high pos
  · have : e + (Nat.log2 m : Int) - 23 = e - ((23 - Nat.log2 m : Nat) : Int) := by omega
    simp only [normal24, this]
    push_cast
    rw [zpow_sub₀ two_ne_zero, zpow_natCast, mul_assoc, mul_div_cancel₀ _ (by positivity)]

/-! `VEXP2` (R56). -/

/-- The number of a value whose unit is 2^−200 or more, in such units. -/
theorem numOf_xunits (neg : Bool) (m : Nat) {e : Int} (he : -200 ≤ e) :
    numOf neg m e = (xunits (-200) neg m e : ℚ) / (2 ^ 200 : Nat) := by
  obtain ⟨k, rfl⟩ : ∃ k : Nat, e = (k : Int) - 200 := ⟨(e + 200).toNat, by omega⟩
  have units : xunits (-200) neg m ((k : Int) - 200) = signedNat neg m * (2 ^ k : Nat) := by
    rw [← signedNat_mul, xunits, show (k : Int) - 200 - -200 = k by ring, Int.toNat_natCast]
    rfl
  rw [numOf_eq, units, zpow_sub₀ two_ne_zero, zpow_natCast]
  push_cast
  rw [mul_div_assoc]

theorem toNat_floor_div (n d : Nat) : ⌊(n : ℚ) / d⌋.toNat = n / d := by
  rw [Rat.floor_natCast_div_natCast]
  exact Int.toNat_natCast (n / d)

/-- A number of units of 2^−200, its whole part, the next eight bits and the 56 below them (R56). -/
theorem floor_units (u : Int) :
    let x : ℚ := (u : ℚ) / (2 ^ 200 : Nat)
    let fr := (u % 2 ^ 200).toNat
    ⌊x⌋ = u / 2 ^ 200 ∧ ⌊(x - ⌊x⌋) * 256⌋.toNat = fr / 2 ^ 192 ∧
      ⌊(x - ⌊x⌋ - (fr / 2 ^ 192 : Nat) / 256) * 2 ^ 64⌋.toNat = fr % 2 ^ 192 / 2 ^ 136 := by
  intro x fr
  have whole : ⌊x⌋ = u / 2 ^ 200 := Rat.floor_intCast_div_natCast u (2 ^ 200)
  have rest : x - ⌊x⌋ = (fr : ℚ) / (2 ^ 200 : Nat) := by
    have parts : u = u / 2 ^ 200 * 2 ^ 200 + fr := by omega
    have parts' : (u : ℚ) = (u / 2 ^ 200 : Int) * 2 ^ 200 + fr := by exact_mod_cast parts
    rw [whole, show x = (u : ℚ) / (2 ^ 200 : Nat) from rfl, parts']
    push_cast
    ring
  have low : (fr : ℚ) / (2 ^ 200 : Nat) - (fr / 2 ^ 192 : Nat) / 256 = (fr % 2 ^ 192 : Nat) / (2 ^ 200 : Nat) := by
    have parts : (fr : ℚ) = (fr / 2 ^ 192 : Nat) * 2 ^ 192 + (fr % 2 ^ 192 : Nat) := by
      exact_mod_cast (Nat.div_add_mod' fr (2 ^ 192)).symm
    generalize fr / 2 ^ 192 = i at *
    generalize fr % 2 ^ 192 = r at *
    rw [parts]
    push_cast
    ring
  refine ⟨whole, ?_, ?_⟩
  · rw [rest, show (fr : ℚ) / (2 ^ 200 : Nat) * 256 = fr / (2 ^ 192 : Nat) by push_cast; ring]
    exact toNat_floor_div fr (2 ^ 192)
  · rw [rest, low, show ((fr % 2 ^ 192 : Nat) : ℚ) / (2 ^ 200 : Nat) * 2 ^ 64 = (fr % 2 ^ 192 : Nat) / (2 ^ 136 : Nat) by
      push_cast; ring]
    exact toNat_floor_div (fr % 2 ^ 192) (2 ^ 136)

/-- The polynomial of the low bits (R56). -/
def expPoly (w : Nat) : Nat :=
  2 ^ 64 + k1 * w / 2 ^ 64 + k2 * (w * w / 2 ^ 64) / 2 ^ 64 + k3 * (w * w * w / 2 ^ 128) / 2 ^ 64

section
variable (f : Nat) {neg : Bool} {m : Nat} {e : Int} (hm : m ≠ 0) (he : -200 ≤ e)
include hm

/-- `VEXP2` of a finite value other than 0, in units of 2^−200. -/
theorem exp2_units : exp2 f (.fin neg m e) =
    let u := xunits (-200) neg m e
    let fr := (u % 2 ^ 200).toNat
    if 128 * 2 ^ 200 ≤ u then roundTo f 0 (.inf false)
    else if u < -151 * 2 ^ 200 then roundTo f 0 (.fin false 0 0)
    else roundTo f 0 (.fin false (tExp (fr / 2 ^ 192) * expPoly (fr % 2 ^ 192 / 2 ^ 136)) (u / 2 ^ 200 - 126)) :=
  if_neg hm

include he

theorem exp2_large (h : 128 ≤ numOf neg m e) : exp2 f (.fin neg m e) = roundTo f 0 (.inf false) := by
  rw [numOf_xunits neg m he, le_div_iff₀ (by positivity)] at h
  rw [exp2_units f hm]
  exact if_pos (by exact_mod_cast h)

theorem exp2_small (h : numOf neg m e < -151) : exp2 f (.fin neg m e) = roundTo f 0 (.fin false 0 0) := by
  rw [numOf_xunits neg m he, div_lt_iff₀ (by positivity)] at h
  have below : xunits (-200) neg m e < -151 * 2 ^ 200 := by exact_mod_cast h
  rw [exp2_units f hm]
  exact (if_neg (by omega)).trans (if_pos below)

theorem exp2_between (low : -151 ≤ numOf neg m e) (high : numOf neg m e < 128) :
    let x := numOf neg m e
    let i := ⌊(x - ⌊x⌋) * 256⌋.toNat
    exp2 f (.fin neg m e) =
      roundTo f 0 (.fin false (tExp i * expPoly ⌊(x - ⌊x⌋ - i / 256) * 2 ^ 64⌋.toNat) (⌊x⌋ - 126)) := by
  intro x i
  obtain ⟨whole, index, rest⟩ := floor_units (xunits (-200) neg m e)
  have hx : x = (xunits (-200) neg m e : ℚ) / (2 ^ 200 : Nat) := numOf_xunits neg m he
  rw [numOf_xunits neg m he, le_div_iff₀ (by positivity)] at low
  rw [numOf_xunits neg m he, div_lt_iff₀ (by positivity)] at high
  have notSmall : ¬xunits (-200) neg m e < -151 * 2 ^ 200 := not_lt.2 (by exact_mod_cast low)
  have notLarge : ¬128 * 2 ^ 200 ≤ xunits (-200) neg m e := not_le.2 (by exact_mod_cast high)
  rw [← hx] at whole index rest
  rw [exp2_units f hm, show i = _ from index, rest, whole]
  exact (if_neg notLarge).trans (if_neg notSmall)

end

/-! `VRCP`, `VRSQ` and `VLOG2` (R54, R55, R57). -/

section
variable (f : Nat) {m : Nat} (e : Int) (hm : m ≠ 0)
include hm

theorem rcp_fin (neg : Bool) : rcp f (.fin neg m e) =
    let M := (normal24 m e).1
    let step := fun (y : Nat) => y * (2 ^ 55 - M * y) / 2 ^ 54
    roundTo f 0 (.fin neg (step (step (tRcp (fld M 16 7)))) (-31 - (normal24 m e).2)) :=
  if_neg hm

theorem rsq_pos : rsq f (.fin false m e) =
    let M := (normal24 m e).1
    let E := (normal24 m e).2
    let M1 := if E % 2 = 0 then M else 2 * M
    let E1 := if E % 2 = 0 then E else E - 1
    let step := fun (y : Nat) => y * (3 * 2 ^ 85 - M1 * y * y) / 2 ^ 86
    roundTo f 0 (.fin false (step (step (tRsq (M1 / 2 ^ 17 - 64)))) (-31 - E1 / 2)) :=
  if_neg hm

theorem log2x_pos : log2x f (.fin false m e) =
    let M := (normal24 m e).1
    let i := fld M 15 8
    let D : Int := 32 * M * iRc i - 2 ^ 60
    let P2 := D * D / 2 ^ 60
    let P3 := P2 * D / 2 ^ 60
    let P4 := P3 * D / 2 ^ 60
    let N := D - P2 / 2 + P3 / 3 - P4 / 4
    let V : Int := (normal24 m e).2 * 2 ^ 60 + tLog i + N * gLog / 2 ^ 60
    roundTo f 0 (.fin (decide (V < 0)) V.natAbs (-60)) := by
  have cast : ∀ M i : Nat, ((32 * M * iRc i : Nat) : Int) = 32 * M * iRc i := fun M i => by push_cast; rfl
  simp only [← cast]
  exact if_neg hm

theorem rsq_neg : rsq f (.fin true m e) = roundTo f 0 .nan := if_neg hm
theorem log2x_neg : log2x f (.fin true m e) = roundTo f 0 .nan := if_neg hm

end

end Sys2Proof.Machine
end

section
/-! The VEC operations of one operand, the minima and the maxima (R142 to R146), element by element. -/

namespace Sys2Proof.Machine
open Sys2Proof.Safety

theorem lane_lt (s : State) (w n j : Nat) : lane s w n j < 2 ^ w := elem_lt _ _ _

theorem scalarLane_lt (s : State) (w : Nat) (c : SReg) (j : Nat) : scalarLane s w c j < 2 ^ w :=
  Nat.mod_lt _ (Nat.two_pow_pos w)

/-! Integers (R142, R143). -/

theorem wrapInt_lt (w : Nat) (v : Int) : wrapInt w v < 2 ^ w := by
  have pos : (0 : Int) < 2 ^ w := by positivity
  have := Int.emod_lt_of_pos v pos
  have := Int.emod_nonneg v pos.ne'
  zify [wrapInt]
  omega

theorem wrapInt_of_lt {w : Nat} {v : Int} (low : 0 ≤ v) (high : v < 2 ^ w) : wrapInt w v = v.toNat :=
  congrArg Int.toNat (Int.emod_eq_of_lt low high)

theorem two_pow_half_int {w : Nat} (h : 0 < w) : (2 : Int) ^ w = 2 ^ (w - 1) + 2 ^ (w - 1) := by
  exact_mod_cast two_pow_half h

theorem signedVal_bounds {w : Nat} (h : 0 < w) (x : Nat) :
    -(2 ^ (w - 1)) ≤ signedVal w x ∧ signedVal w x < 2 ^ (w - 1) := by
  have double := two_pow_half_int h
  have hx : ((x % 2 ^ w : Nat) : Int) < 2 ^ w := by exact_mod_cast Nat.mod_lt x (Nat.two_pow_pos w)
  have half : ∀ y : Nat, 2 ^ (w - 1) ≤ y ↔ (2 : Int) ^ (w - 1) ≤ y := fun y => by exact_mod_cast Iff.rfl
  simp only [signedVal, half]
  split <;> omega

section
variable {f : Nat} (hf : f < 3)
include hf

theorem intFmt_signed : intFmt f = some (true, fmtWidth f) := by interval_cases f <;> rfl

theorem valI_signed (x : Nat) : valI f x = signedVal (fmtWidth f) x := by
  simp only [valI, intFmt_signed hf]
  rfl

theorem satI_signed (v : Int) :
    satI f v = wrapInt (fmtWidth f) (max (-(2 ^ (fmtWidth f - 1))) (min (2 ^ (fmtWidth f - 1) - 1) v)) := by
  simp only [satI, intFmt_signed hf]
  rw [clampInt_eq (intLo_le_intHi _ _)]
  rfl

theorem satI_within {v : Int} (low : -(2 ^ (fmtWidth f - 1)) ≤ v) (high : v < 2 ^ (fmtWidth f - 1)) :
    satI f v = wrapInt (fmtWidth f) v := by
  rw [satI_signed hf, min_eq_right (by omega), max_eq_right low]

/-- One more than the greatest value is limited to it. -/
theorem satI_beyond : satI f (2 ^ (fmtWidth f - 1)) = 2 ^ (fmtWidth f - 1) - 1 := by
  have pos : (0 : Int) < 2 ^ (fmtWidth f - 1) := by positivity
  have double := two_pow_half_int (show 0 < fmtWidth f by have := fmtWidth_bounds f; omega)
  rw [satI_signed hf, min_eq_left (by omega), max_eq_right (by omega), wrapInt_of_lt (by omega) (by omega)]
  have nat : ((2 ^ (fmtWidth f - 1) : Nat) : Int) = 2 ^ (fmtWidth f - 1) := by push_cast; rfl
  omega

theorem satI_lt (v : Int) : satI f v < 2 ^ fmtWidth f := satI_signed hf v ▸ wrapInt_lt _ _

/-- R142: the negative of the least value is limited to the greatest. -/
theorem elNeg_eq (x : Nat) : elNeg f x % 2 ^ fmtWidth f =
    if signedVal (fmtWidth f) x = -(2 ^ (fmtWidth f - 1)) then 2 ^ (fmtWidth f - 1) - 1
    else (-signedVal (fmtWidth f) x % 2 ^ fmtWidth f).toNat := by
  obtain ⟨low, high⟩ := signedVal_bounds (show 0 < fmtWidth f by have := fmtWidth_bounds f; omega) x
  rw [elNeg, Nat.mod_eq_of_lt (satI_lt hf _), valI_signed hf]
  split
  next h => rw [h, neg_neg, satI_beyond hf]
  next h => exact satI_within hf (by omega) (by omega)

/-- R142: the magnitude of the least value is limited to the greatest. -/
theorem elAbs_eq (x : Nat) : elAbs f x % 2 ^ fmtWidth f =
    if signedVal (fmtWidth f) x = -(2 ^ (fmtWidth f - 1)) then 2 ^ (fmtWidth f - 1) - 1
    else (signedVal (fmtWidth f) x).natAbs := by
  have wpos : 0 < fmtWidth f := by have := fmtWidth_bounds f; omega
  have pos : (0 : Int) < 2 ^ (fmtWidth f - 1) := by positivity
  have double := two_pow_half_int wpos
  obtain ⟨low, high⟩ := signedVal_bounds wpos x
  rw [elAbs, Nat.mod_eq_of_lt (satI_lt hf _), valI_signed hf]
  generalize signedVal (fmtWidth f) x = v at *
  have abs : (if v < 0 then -v else v) = v.natAbs := by split <;> omega
  rw [abs]
  split
  next h => rw [h, Int.natAbs_neg, Int.natAbs_of_nonneg pos.le, satI_beyond hf]
  next h => rw [satI_within hf (by omega) (by omega), wrapInt_of_lt (by omega) (by omega), Int.toNat_natCast]

end

/-! Floats (R146). -/

section
variable {p : FloatFmt} {x y : Nat}

/-- An encoding has no place in the order exactly if it is a NaN. -/
theorem floatKey_none : floatKey p x = none ↔ widenFloat p x = .nan := by
  simp only [floatKey, widenFloat]
  by_cases above : p.maxEnc < x % 2 ^ (p.width - 1)
  · by_cases inf : p.inf = some (x % 2 ^ (p.width - 1))
    · simp [inf]
      split <;> simp
    · simp [above, inf]
  · simp only [above, false_and, if_false]
    split <;> split <;> simp

/-- The place of an encoding in the order, by its sign and its magnitude. -/
theorem floatKey_some {i : Int} (h : floatKey p x = some i) : i =
    if 2 ^ (p.width - 1) ≤ x % 2 ^ p.width then -((x % 2 ^ (p.width - 1) : Nat) : Int) - 1
    else (x % 2 ^ (p.width - 1) : Nat) := by
  simp only [floatKey] at h
  split at h
  · cases h
  · split at h <;> cases h <;> simp [*]

/-- Two encodings in one place are the same. -/
theorem floatKey_inj (hw : 0 < p.width) (hx : x < 2 ^ p.width) (hy : y < 2 ^ p.width) {i : Int} (hi : floatKey p x = some i)
    (hj : floatKey p y = some i) : x = y := by
  have double := two_pow_half hw
  have key := (floatKey_some hi).symm.trans (floatKey_some hj)
  rw [Nat.mod_eq_of_lt hx, Nat.mod_eq_of_lt hy] at key
  have parts : ∀ z, z < 2 ^ p.width → (2 ^ (p.width - 1) ≤ z → z % 2 ^ (p.width - 1) = z - 2 ^ (p.width - 1)) ∧
      (z < 2 ^ (p.width - 1) → z % 2 ^ (p.width - 1) = z) := fun z hz =>
    ⟨fun h => by rw [Nat.mod_eq_sub_mod h, Nat.mod_eq_of_lt (by omega)], Nat.mod_eq_of_lt⟩
  have px := parts x hx
  have py := parts y hy
  split at key <;> split at key <;> omega

theorem floatPick_nan (max : Bool) (h : floatKey p x = none ∨ floatKey p y = none) : floatPick p max x y = p.nan := by
  unfold floatPick
  cases hx : floatKey p x with
  | none => rfl
  | some i =>
    cases hy : floatKey p y with
    | none => rfl
    | some j => simp [hx, hy] at h

theorem floatPick_some (max : Bool) {i j : Int} (hi : floatKey p x = some i) (hj : floatKey p y = some j) :
    floatPick p max x y = if decide (i < j) = max then y else x := by
  simp only [floatPick, hi, hj]

end

section
variable {f : Nat} {p : FloatFmt} (h8 : 8 ≤ f) (h10 : f ≤ 10) (hp : floatFmt f = some p)
include h8 h10 hp

theorem floatFmt_width : p.width = fmtWidth f := by
  interval_cases f <;> cases hp <;> rfl

theorem floatFmt_nan_lt : p.nan < 2 ^ fmtWidth f := by
  interval_cases f <;> cases hp <;> decide

/-- The minimum and the maximum of two encodings in the order of R146, a NaN being the result of any NaN. -/
def floatLeast (p : FloatFmt) (x y : Nat) : Nat :=
  match floatKey p x, floatKey p y with | some i, some j => if i ≤ j then x else y | _, _ => p.nan
def floatGreatest (p : FloatFmt) (x y : Nat) : Nat :=
  match floatKey p x, floatKey p y with | some i, some j => if j ≤ i then x else y | _, _ => p.nan

section
variable {x y : Nat} (hx : x < 2 ^ fmtWidth f) (hy : y < 2 ^ fmtWidth f)
include hx hy

theorem elMin_float : elMin f x y % 2 ^ fmtWidth f = floatLeast p x y := by
  have width := floatFmt_width h8 h10 hp
  have wpos : 0 < p.width := by have := fmtWidth_bounds f; omega
  have nan := Nat.mod_eq_of_lt (floatFmt_nan_lt h8 h10 hp)
  have pick : elMin f x y = floatPick p false x y := by simp only [elMin, fmtPick, hp]
  rw [pick, floatLeast]
  cases hi : floatKey p x with
  | none => rw [floatPick_nan _ (.inl hi), nan]
  | some i =>
    cases hj : floatKey p y with
    | none => rw [floatPick_nan _ (.inr hj), nan]
    | some j =>
      rw [floatPick_some false hi hj]
      rcases lt_trichotomy i j with h | rfl | h
      · simp [h, h.le, Nat.mod_eq_of_lt hx]
      · obtain rfl := floatKey_inj wpos (width ▸ hx) (width ▸ hy) hi hj
        simp [Nat.mod_eq_of_lt hx]
      · simp [h.not_gt, h.not_ge, Nat.mod_eq_of_lt hy]

theorem elMax_float : elMax f x y % 2 ^ fmtWidth f = floatGreatest p x y := by
  have nan := Nat.mod_eq_of_lt (floatFmt_nan_lt h8 h10 hp)
  have pick : elMax f x y = floatPick p true x y := by simp only [elMax, fmtPick, hp]
  rw [pick, floatGreatest]
  cases hi : floatKey p x with
  | none => rw [floatPick_nan _ (.inl hi), nan]
  | some i =>
    cases hj : floatKey p y with
    | none => rw [floatPick_nan _ (.inr hj), nan]
    | some j =>
      rw [floatPick_some true hi hj]
      by_cases h : i < j
      · simp [h, h.not_ge, Nat.mod_eq_of_lt hy]
      · simp [h, not_lt.1 h, Nat.mod_eq_of_lt hx]

end

/-- R146: a NaN gives the canonical one. -/
theorem elNan_eq {g : Nat → Nat} {x : Nat} (hg : g x < 2 ^ fmtWidth f) :
    elNan g f x % 2 ^ fmtWidth f = if widen f x = .nan then p.nan else g x := by
  have nan := Nat.mod_eq_of_lt (floatFmt_nan_lt h8 h10 hp)
  simp only [elNan, hp, widen_float hp, ← floatKey_none]
  cases floatKey p x
  · simpa using nan
  · simpa using Nat.mod_eq_of_lt hg

end

/-! The operations as a whole. -/

section
variable {s : State} {g : Gate} {f : BitVec 4} {d a b : VField} {dn an bn : Nat}

/-- The immediate in every element (R143). -/
theorem vmovi_result {imm : BitVec 10} (h : Enabled (.vmovi g f d imm) true g s) (hd : Names s d dn) :
    VecResult (.vmovi g f d imm) s g 2 dn (fmtWidth f.toNat) (fun _ => wrapInt (fmtWidth f.toNat) imm.toInt) := by
  refine ⟨_, by rw [exec_vmovi, execVmovi, runOp_on _ h, withV_some _ hd]; rfl,
    vecOf f.toNat (List.replicate (8192 / fmtWidth f.toNat) (wrapInt (fmtWidth f.toNat) imm.toInt)),
    State.landIn_lands s 2 .vec _ false, fun j hj => ?_⟩
  rw [elem_vecOf_map _ _ _ List.length_replicate hj, List.getElem_replicate, Nat.mod_eq_of_lt (wrapInt_lt _ _)]

/-- The selection, lane by lane (R144). -/
theorem vsel_result {sel : WReg} (h : Enabled (.vsel g f d a b sel) true g s) (hd : Names s d dn) (ha : Names s a an)
    (hb : Names s b bn) : VecResult (.vsel g f d a b sel) s g 2 dn 32 (fun k =>
      if ((s.core s.cur.core).rw sel.toNat).getLsbD k then lane s 32 an k else lane s 32 bn k) := by
  refine ⟨_, by rw [exec_vsel, execVsel, runOp_on _ h, withV_some _ hd, withV_some _ ha, withV_some _ hb]; rfl,
    mergeGroups (s.me.rw sel.toNat) (s.me.rv bn) (s.me.rv an), State.landIn_lands s 2 .vec _ false, fun j hj => ?_⟩
  exact elem_mergeGroups _ _ _ j hj

/-- Form V1 by its elements. -/
theorem vecV1_vecResult {i : Instr} {lat : Nat} {op : Nat → Nat → Nat} {el : Nat → Nat}
    (hexec : exec i s = vecV1 i g lat f d a op s) (h : Enabled i true g s) (hd : Names s d dn) (ha : Names s a an)
    (hel : ∀ x, x < 2 ^ fmtWidth f.toNat → op f.toNat x % 2 ^ fmtWidth f.toNat = el x) :
    VecResult i s g lat dn (fmtWidth f.toNat) (fun k => el (lane s (fmtWidth f.toNat) an k)) := by
  obtain ⟨t, ht, r, lands, elems⟩ := vecV1_result (op := op) h hd ha
  exact ⟨t, hexec.trans ht, r, lands, fun j hj => (elems j hj).trans (hel _ (lane_lt _ _ _ _))⟩

/-- Forms VV and VS of one operation by its elements. -/
theorem vecBoth_vecResult {i j : Instr} {lat : Nat} {c : SReg} {op : Nat → Nat → Nat → Nat} {el : Nat → Nat → Nat}
    (hi : exec i s = vecVV i g lat f d a b op s) (hj : exec j s = vecVS j g lat f d a c op s)
    (oni : Enabled i true g s) (onj : Enabled j true g s) (hd : Names s d dn) (ha : Names s a an) (hb : Names s b bn)
    (hel : ∀ x y, x < 2 ^ fmtWidth f.toNat → y < 2 ^ fmtWidth f.toNat →
      op f.toNat x y % 2 ^ fmtWidth f.toNat = el x y) :
    let w := fmtWidth f.toNat
    VecResult i s g lat dn w (fun k => el (lane s w an k) (lane s w bn k)) ∧
      VecResult j s g lat dn w (fun k => el (lane s w an k) (scalarLane s w c k)) := by
  obtain ⟨t, ht, r, lands, elems⟩ := vecVV_result (op := op) oni hd ha hb
  obtain ⟨t', ht', r', lands', elems'⟩ := vecVS_result (c := c) (op := op) onj hd ha
  exact ⟨⟨t, hi.trans ht, r, lands, fun k hk => (elems k hk).trans (hel _ _ (lane_lt _ _ _ _) (lane_lt _ _ _ _))⟩,
    t', hj.trans ht', r', lands', fun k hk => (elems' k hk).trans (hel _ _ (lane_lt _ _ _ _) (scalarLane_lt _ _ _ _))⟩

end

/-- Settles O5: each VEC operation by its element function; a transcendental by its algorithm on the value's 24 bits. -/
theorem vectorSelection : Obligations.VectorSelection := by
  refine ⟨fun s g f d a b imm sel dn an bn hg hon hd ha hb => ?_,
    fun s g f d a b c dn an bn p hg h8 h10 hp hon hd ha hb => ?_, fun f neg m e h8 h10 hm hx => ?_⟩
  · intro w x
    refine ⟨fun h3 => ?_, fun h6 => ?_, fun h11 => ?_⟩
    · have hwf : (g.ok && clsSint f) = true := by simp [hg, clsSint, h3]
      exact ⟨vecV1_vecResult (exec_vabs s) ⟨hwf, hon⟩ hd ha fun x _ => elAbs_eq h3 x,
        vecV1_vecResult (exec_vneg s) ⟨hwf, hon⟩ hd ha fun x _ => elNeg_eq h3 x⟩
    · have hwf : (g.ok && clsInt f) = true := by simp [hg, clsInt, h6]
      refine ⟨vecV1_vecResult (exec_vnot s) ⟨hwf, hon⟩ hd ha fun x hx => ?_, vmovi_result ⟨hwf, hon⟩ hd⟩
      rw [elNot, Nat.mod_eq_of_lt hx, Nat.mod_eq_of_lt (by omega)]
    · have hwf : (g.ok && clsBits f) = true := by simp [hg, clsBits, h11]
      exact ⟨vecV1_vecResult (exec_vmov s) ⟨hwf, hon⟩ hd ha fun x hx => Nat.mod_eq_of_lt hx,
        vsel_result ⟨hwf, hon⟩ hd ha hb⟩
  · intro w both one isNan
    have hwf : (g.ok && clsFlt f) = true := by simp [hg, clsFlt, h8, h10]
    have wpos : 0 < w := by have := fmtWidth_bounds f.toNat; omega
    refine ⟨vecBoth_vecResult (exec_vfmin s) (exec_vfminVs s) ⟨hwf, hon⟩ ⟨hwf, hon⟩ hd ha hb fun x y hx hy =>
        elMin_float h8 h10 hp hx hy,
      vecBoth_vecResult (exec_vfmax s) (exec_vfmaxVs s) ⟨hwf, hon⟩ ⟨hwf, hon⟩ hd ha hb fun x y hx hy =>
        elMax_float h8 h10 hp hx hy,
      vecV1_vecResult (exec_vfabs s) ⟨hwf, hon⟩ hd ha fun x _ => elNan_eq h8 h10 hp ?_,
      vecV1_vecResult (exec_vfneg s) ⟨hwf, hon⟩ hd ha fun x _ => elNan_eq h8 h10 hp (Nat.mod_lt _ (Nat.two_pow_pos w)),
      vecV1_vecResult (exec_vexp2 s) ⟨hwf, hon⟩ hd ha fun _ _ => rfl,
      vecV1_vecResult (exec_vlog2 s) ⟨hwf, hon⟩ hd ha fun _ _ => rfl,
      vecV1_vecResult (exec_vrcp s) ⟨hwf, hon⟩ hd ha fun _ _ => rfl,
      vecV1_vecResult (exec_vrsq s) ⟨hwf, hon⟩ hd ha fun _ _ => rfl⟩
    exact (Nat.mod_lt _ (Nat.two_pow_pos _)).trans_le (Nat.pow_le_pow_right two_pos (Nat.sub_le _ _))
  · intro out zero nearest x
    obtain ⟨y, hy⟩ := hx
    obtain ⟨h24, h149⟩ := widen_fin h8 h10 hy
    have h200 : -200 ≤ e := by omega
    obtain ⟨low, high, value⟩ := normal24_spec hm h24 e
    refine ⟨rfl, rfl, rfl, rfl, fun n q => ⟨rfl, rfl, rfl, rfl, rfl⟩, rfl, rfl, rfl, rfl, rfl, rfl, ?_,
      fun i _ => divRne_nearest _ (by omega), fun i _ => tRsq_nearest i,
      fun i hi => ⟨(tExp_nearest i hi).1, (tExp_nearest i hi).2, divRne_nearest _ (by omega)⟩,
      ⟨(normal24 m e).1, (normal24 m e).2, low, high, value, rcp_fin f e hm neg, ?_, ?_⟩,
      exp2_large f hm h200, exp2_small f hm h200, exp2_between f hm h200⟩
    · rintro rfl
      exact ⟨rsq_neg f e hm, log2x_neg f e hm⟩
    · rintro rfl
      exact rsq_pos f e hm
    · rintro rfl
      exact log2x_pos f e hm

end Sys2Proof.Machine
end

section
/-! The composition of affine maps and the scan (R59 to R62): the values, the poison and the flush of every level. -/

namespace Sys2Proof.Machine
open Sys2Proof.Safety

/-! Composition (R60). -/

/-- An affine map as the statements write it: gain, offset, poison. -/
def Affine.parts (x : Affine) : Nat × Nat × Bool := (x.g, x.h, x.p)

/-- The exact product of the gains of two maps is not zero, has the sign `neg`, and is below 2^−126 (R60). -/
def FlushesTo (neg : Bool) (a b : Nat × Nat × Bool) : Prop :=
  ∃ m e, xmul (widen 10 a.1) (widen 10 b.1) = .fin neg m e ∧ m ≠ 0 ∧ (m : ℚ) * 2 ^ e < 2 ^ (-126 : Int)

/-- `x` is the composition of the later map `a` with the earlier map `b` (R60). -/
def Composed (a b x : Nat × Nat × Bool) : Prop :=
  (FlushesTo true a b → x.1 = 0x80000000) ∧ (FlushesTo false a b → x.1 = 0) ∧
    (¬FlushesTo true a b → ¬FlushesTo false a b → x.1 = roundTo 10 0 (xmul (widen 10 a.1) (widen 10 b.1))) ∧
    x.2.1 = roundTo 10 0 (xadd 0 (xmul (widen 10 a.1) (widen 10 b.2.1)) (widen 10 a.2.1)) ∧ x.2.2 = (a.2.2 || b.2.2)

/-- A number is below a power of two as the exponent of its highest bit is below that power's. -/
theorem lt_two_zpow_iff {m : Nat} (hm : m ≠ 0) (e k : Int) : (m : ℚ) * 2 ^ e < 2 ^ k ↔ e + (Nat.log2 m : Int) < k := by
  constructor
  · intro h
    exact (zpow_lt_zpow_iff_right₀ one_lt_two).1 ((two_zpow_log2_le hm e).trans_lt h)
  · intro h
    exact (lt_two_zpow_log2 m e).trans_le (zpow_le_zpow_right₀ one_le_two (by omega))

theorem tinyProduct_fin (neg : Bool) (m : Nat) (e : Int) :
    tinyProduct (.fin neg m e) = true ↔ m ≠ 0 ∧ (m : ℚ) * 2 ^ e < 2 ^ (-126 : Int) := by
  simp only [tinyProduct, Bool.and_eq_true, decide_eq_true_eq]
  exact and_congr_right fun hm => (lt_two_zpow_iff hm e _).symm

theorem tinyProduct_iff (a b : Affine) :
    tinyProduct (xmul (widen 10 a.g) (widen 10 b.g)) = true ↔ ∃ neg, FlushesTo neg a.parts b.parts := by
  unfold FlushesTo Affine.parts
  dsimp only
  cases xmul (widen 10 a.g) (widen 10 b.g) with
  | nan => simp [tinyProduct]
  | inf neg => simp [tinyProduct]
  | fin neg m e =>
    rw [tinyProduct_fin]
    constructor
    · exact fun h => ⟨neg, m, e, rfl, h⟩
    · rintro ⟨_, _, _, h, small⟩
      cases h
      exact small

/-- A composition flushes when its own product of gains does, or one of its maps was flushed (R60). -/
theorem compose_flush (a b : Affine) : (compose a b).flush = true ↔
    (∃ neg, FlushesTo neg a.parts b.parts) ∨ a.flush = true ∨ b.flush = true := by
  simp only [compose, Bool.or_eq_true, tinyProduct_iff, or_assoc]

theorem compose_composed (a b : Affine) : Composed a.parts b.parts (compose a b).parts := by
  have gain : ∀ neg, FlushesTo neg a.parts b.parts → (compose a b).g = if neg then 0x80000000 else 0 := by
    intro neg h
    have tiny := (tinyProduct_iff a b).2 ⟨neg, h⟩
    obtain ⟨m, e, hprod, -⟩ := h
    have hprod : xmul (widen 10 a.g) (widen 10 b.g) = .fin neg m e := hprod
    rw [hprod] at tiny
    simp only [compose, hprod, tiny, if_true]
    cases neg <;> rfl
  refine ⟨gain true, gain false, fun h1 h2 => ?_, rfl, rfl⟩
  have large : ¬tinyProduct (xmul (widen 10 a.g) (widen 10 b.g)) = true := by
    rw [tinyProduct_iff]
    rintro ⟨neg | neg, h⟩
    · exact h2 h
    · exact h1 h
  exact if_neg large

theorem FloatFmt.Sound.withSign_lt {p : FloatFmt} (h : p.Sound) (neg : Bool) {k : Nat} (hk : k < 2 ^ (p.width - 1)) :
    withSign p neg k < 2 ^ p.width := by
  have double := two_pow_half h.pos
  cases neg <;> simp only [withSign, if_true, if_false, Bool.false_eq_true] <;> omega

/-- A value rounded to FP32 is a word (R38, R50). -/
theorem roundF32_lt (v : XVal) : roundF32 v < 2 ^ 32 := by
  obtain ⟨p, hp⟩ : ∃ p, floatFmt 10 = some p := ⟨_, rfl⟩
  have sound := floatFmt_sound hp
  obtain ⟨i, hi⟩ := floatFmt_inf hp (by decide) (by decide)
  have inf : ∀ neg, withSign p neg i < 2 ^ p.width := fun neg => sound.withSign_lt neg (sound.infs i hi).2
  have round : roundF32 v = toFloat p 0 true v := by simp only [roundF32, roundTo, hp]
  have width : p.width = 32 := by cases hp; rfl
  rw [round, ← width]
  cases v with
  | nan => cases hp; decide
  | inf neg => simpa only [toFloat, hi, if_true] using inf neg
  | fin neg m e =>
    rw [toFloat_fin]
    split
    · next h => exact sound.withSign_lt neg (h.trans_lt sound.fits)
    · simpa only [FloatFmt.overflow, hi, if_true, true_or] using inf neg

theorem compose_lt (a b : Affine) : (compose a b).g < 2 ^ 32 ∧ (compose a b).h < 2 ^ 32 := by
  refine ⟨?_, roundF32_lt _⟩
  simp only [compose]
  split
  · split <;> decide
  · exact roundF32_lt _

/-! A column (R61). -/

/-- Position i of a column after d levels of the scan (R61). -/
def scanAt (f : Nat → Affine) : Nat → Nat → Affine
  | 0, i => f i
  | d + 1, i => if 2 ^ d ≤ i then compose (scanAt f d i) (scanAt f d (i - 2 ^ d)) else scanAt f d i

theorem scanAt_succ (f : Nat → Affine) {d i : Nat} (h : 2 ^ d ≤ i) :
    scanAt f (d + 1) i = compose (scanAt f d i) (scanAt f d (i - 2 ^ d)) := if_pos h

theorem scanAt_succ_below (f : Nat → Affine) {d i : Nat} (h : i < 2 ^ d) : scanAt f (d + 1) i = scanAt f d i :=
  if_neg (Nat.not_le.2 h)

/-- A level composes; its own account of the flushes is that of `compose` (R61). -/
theorem scanLevel_eq (d : Nat) (col : List Affine) :
    scanLevel d col = col.take d ++ List.zipWith compose (col.drop d) (col.take (col.length - d)) := by
  have same : ∀ late early : Affine,
      { compose { late with flush := false } { early with flush := false } with
        flush := (compose { late with flush := false } { early with flush := false }).flush || late.flush || early.flush } =
        compose late early := fun _ _ => by simp [compose]
  simp only [scanLevel, same]

/-- A level over positions 0 to n − 1 (R61). -/
theorem scanLevel_range (f : Nat → Affine) {d n : Nat} (h : d ≤ n) : scanLevel d ((List.range n).map f) =
    (List.range n).map (fun i => if d ≤ i then compose (f i) (f (i - d)) else f i) := by
  rw [scanLevel_eq]
  refine List.ext_getElem (by simp; omega) fun i h1 h2 => ?_
  by_cases hi : d ≤ i
  · rw [List.getElem_append_right (by simp; omega)]
    simp [hi, h]
  · rw [List.getElem_append_left (by simp; simp at h2; omega)]
    simp [hi]

/-- A column's scan: six levels, then the carry (R61). -/
theorem scanColumn_range (f : Nat → Affine) (carry : Affine) : scanColumn ((List.range 64).map f) carry =
    (List.range 64).map (fun i => compose (scanAt f 6 i) carry) := by
  have level : ∀ d, 2 ^ d ≤ 64 →
      scanLevel (2 ^ d) ((List.range 64).map (scanAt f d)) = (List.range 64).map (scanAt f (d + 1)) :=
    fun d hd => scanLevel_range _ hd
  have levels : [1, 2, 4, 8, 16, 32].foldl (fun c d => scanLevel d c) ((List.range 64).map f) =
      (List.range 64).map (scanAt f 6) := by
    rw [← level 5 (by decide), ← level 4 (by decide), ← level 3 (by decide), ← level 2 (by decide), ← level 1 (by decide),
      ← level 0 (by decide)]
    rfl
  simp only [scanColumn, levels, List.map_map]
  rfl

/-- A flush stays marked in the levels above (R61). -/
theorem scanAt_flush_mono (f : Nat → Affine) {d n i : Nat} (h : (scanAt f d i).flush = true) (hn : d ≤ n) :
    (scanAt f n i).flush = true := by
  induction n, hn using Nat.le_induction with
  | base => exact h
  | succ n _ ih =>
    by_cases hi : 2 ^ n ≤ i
    · rw [scanAt_succ f hi, compose_flush]
      exact .inr (.inl ih)
    · rwa [scanAt_succ_below f (Nat.not_le.1 hi)]

/-- A flush marked at a position came from a composition of a level below, there or earlier (R61). -/
theorem scanAt_flush_origin {f : Nat → Affine} (hf : ∀ i, (f i).flush = false) {n i : Nat}
    (h : (scanAt f n i).flush = true) : ∃ d j neg, d < n ∧ 2 ^ d ≤ j ∧ j ≤ i ∧
      FlushesTo neg (scanAt f d j).parts (scanAt f d (j - 2 ^ d)).parts := by
  induction n generalizing i with
  | zero => simp [scanAt, hf] at h
  | succ n ih =>
    have below : ∀ k ≤ i, (scanAt f n k).flush = true → ∃ d j neg, d < n + 1 ∧ 2 ^ d ≤ j ∧ j ≤ i ∧
        FlushesTo neg (scanAt f d j).parts (scanAt f d (j - 2 ^ d)).parts := fun k hk h => by
      obtain ⟨d, j, neg, hd, hj, hjk, flushes⟩ := ih h
      exact ⟨d, j, neg, by omega, hj, hjk.trans hk, flushes⟩
    by_cases hi : 2 ^ n ≤ i
    · rw [scanAt_succ f hi, compose_flush] at h
      rcases h with ⟨neg, here⟩ | late | early
      · exact ⟨n, i, neg, n.lt_succ_self, hi, le_rfl, here⟩
      · exact below i le_rfl late
      · exact below _ (Nat.sub_le _ _) early
    · rw [scanAt_succ_below f (Nat.not_le.1 hi)] at h
      exact below i le_rfl h

end Sys2Proof.Machine
end

section
/-! The scan of a pair with a carry (R59, R61, R62): its maps one by one, and the carry's column records. -/

namespace Sys2Proof.Machine
open Sys2Proof.Safety

/-! The maps of a pair. -/

section
variable (gain off : Tile) (y : BitVec 2080)

/-- The map of row i and column j of a pair before the scan (R59). -/
def pairMap (j i : Nat) : Affine :=
  { g := elem 32 gain.bits.toNat (32 * i + j), h := elem 32 off.bits.toNat (32 * i + j),
    p := gain.poison.getLsbD (32 * i + j) || off.poison.getLsbD (32 * i + j), flush := false }

/-- The map of row i and column j after the scan with a carry (R61). -/
def scanCell (i j : Nat) : Affine := compose (scanAt (pairMap gain off j) 6 i) (carryCol y j)

theorem scanCell_lt (i j : Nat) : (scanCell gain off y i j).g < 2 ^ 32 ∧ (scanCell gain off y i j).h < 2 ^ 32 :=
  compose_lt _ _

/-- The maps after the scan, column after column. -/
def scanColumns : List (List Affine) :=
  (List.range 32).map (fun j => (List.range 64).map (fun i => scanCell gain off y i j))

/-- The maps after the scan, row after row. -/
def scanCells : List Affine := (List.range 64).flatMap (fun i => (List.range 32).map (scanCell gain off y i))

/-- A tile of 2,048 maps: of each it takes one number, and its poison. -/
def tileOf (part : Affine → Nat) (cells : List Affine) : Tile :=
  { bits := BitVec.ofNat 65536 (packList 32 (cells.map part)),
    poison := BitVec.ofNat 2048 (packList 1 (cells.map (fun x => if x.p then 1 else 0))) }

theorem getD_elems {w n x k : Nat} (h : k < n) : (elems w n x).getD k 0 = elem w x k := by
  rw [List.getD_eq_getElem _ _ (by simpa using h), getElem_elems]

theorem getD_scanColumns {i j : Nat} (hi : i < 64) (hj : j < 32) (dflt : Affine) :
    ((scanColumns gain off y).getD j []).getD i dflt = scanCell gain off y i j := by
  simp [scanColumns, hi, hj]

/-- A scan is read off its maps: both tiles, the last row as the carry, and the flush (R61). -/
theorem scanPair_eq : scanPair gain off y =
    (tileOf Affine.g (scanCells gain off y), tileOf Affine.h (scanCells gain off y),
      carryOf ((List.range 32).map (scanCell gain off y 63)), (scanCells gain off y).any Affine.flush) := by
  have columns : (List.range 32).map (fun j => scanColumn ((List.range 64).map (fun i =>
      { g := (elems 32 2048 gain.bits.toNat).getD (32 * i + j) 0, h := (elems 32 2048 off.bits.toNat).getD (32 * i + j) 0,
        p := gain.poison.getLsbD (32 * i + j) || off.poison.getLsbD (32 * i + j), flush := false })) (carryCol y j)) =
      scanColumns gain off y := by
    refine List.map_congr_left fun j hj => ?_
    have hj := List.mem_range.1 hj
    refine (congrArg (scanColumn · _) (List.map_congr_left fun i hi => ?_)).trans
      (scanColumn_range (pairMap gain off j) (carryCol y j))
    have hi := List.mem_range.1 hi
    simp only [getD_elems (show 32 * i + j < 2048 by omega), pairMap]
  have row : ∀ i, i < 64 → ∀ dflt, (List.range 32).map (fun j => ((scanColumns gain off y).getD j []).getD i dflt) =
      (List.range 32).map (scanCell gain off y i) :=
    fun i hi dflt => List.map_congr_left fun j hj => getD_scanColumns gain off y hi (List.mem_range.1 hj) dflt
  have all : ∀ dflt, (List.range 64).flatMap (fun i => (List.range 32).map (fun j =>
      ((scanColumns gain off y).getD j []).getD i dflt)) = scanCells gain off y :=
    fun dflt => List.flatMap_congr fun i hi => row i (List.mem_range.1 hi) dflt
  simp only [scanPair, columns, all, row 63 (by decide)]
  rfl

theorem length_scanCells : (scanCells gain off y).length = 2048 := by simp [scanCells, List.length_flatMap]

theorem getElem_scanCells {i j : Nat} (hi : i < 64) (hj : j < 32) (h : 32 * i + j < (scanCells gain off y).length) :
    (scanCells gain off y)[32 * i + j] = scanCell gain off y i j := by
  have := getElem?_flatMap_map (scanCell gain off y) (List.range 64) (List.range 32) i j (by simpa using hj)
  simp only [List.length_range, List.getElem?_range hi, Option.map_some, List.getElem_range] at this
  exact Option.some.inj ((List.getElem?_eq_getElem h).symm.trans this)

/-- One of the maps after the scan. -/
theorem exists_scanCells (P : Affine → Prop) :
    (∃ x ∈ scanCells gain off y, P x) ↔ ∃ i j, i < 64 ∧ j < 32 ∧ P (scanCell gain off y i j) := by
  simp only [scanCells, List.mem_flatMap, List.mem_map, List.mem_range]
  constructor
  · rintro ⟨_, ⟨i, hi, j, hj, rfl⟩, h⟩
    exact ⟨i, j, hi, hj, h⟩
  · rintro ⟨i, j, hi, hj, h⟩
    exact ⟨_, ⟨i, hi, j, hj, rfl⟩, h⟩

end

section
variable {cells : List Affine} (part : Affine → Nat) {k : Nat} (hlen : cells.length = 2048) (hk : k < cells.length)
include hlen

theorem elem_tileOf (hp : part cells[k] < 2 ^ 32) : elem 32 (tileOf part cells).bits.toNat k = part cells[k] := by
  rw [tileOf, elem_ofNat_packList_tile _ _ (by simp [hlen]) (by simpa using hk), List.getElem_map, Nat.mod_eq_of_lt hp]

theorem poison_tileOf : (tileOf part cells).poison.getLsbD k = cells[k].p := by
  have bit := elem_packList 1 (cells.map fun x => if x.p then 1 else 0) k (by simpa using hk)
  rw [List.getElem_map, elem, Nat.one_mul] at bit
  rw [tileOf, BitVec.getLsbD_ofNat, decide_eq_true (hlen ▸ hk), Bool.true_and, Nat.testBit_eq_decide_div_mod_eq]
  cases h : cells[k].p <;> simp [h] at bit ⊢ <;> omega

end

/-! Carries (R62). -/

theorem fld_one (x n : Nat) : fld x n 1 = (x.testBit n).toNat := by
  rw [fld, Nat.toNat_testBit, pow_one]

/-- A column record (R62). -/
def carryRecord (x : Affine) : Nat := x.g + x.h * 2 ^ 32 + if x.p then 2 ^ 64 else 0

theorem carryRecord_fields {x : Affine} (hg : x.g < 2 ^ 32) (hh : x.h < 2 ^ 32) : fld (carryRecord x) 0 32 = x.g ∧
    fld (carryRecord x) 32 32 = x.h ∧ (carryRecord x).testBit 64 = x.p ∧ carryRecord x < 2 ^ 65 := by
  simp only [fld, carryRecord, Nat.testBit_eq_decide_div_mod_eq]
  cases x.p <;> simp only [if_true, if_false, Bool.false_eq_true, decide_eq_true_eq, decide_eq_false_iff_not] <;> omega

/-- The column records of a carry read back (R62). -/
theorem carryCol_carryOf {l : List Affine} (hl : l.length ≤ 32) {j : Nat} (hj : j < l.length) (hg : l[j].g < 2 ^ 32)
    (hh : l[j].h < 2 ^ 32) : carryCol (carryOf l) j = { l[j] with flush := false } := by
  obtain ⟨gain, off, poison, bound⟩ := carryRecord_fields hg hh
  have bits : (carryOf l).toNat = packList 65 (l.map carryRecord) := by
    have fits : 65 * (l.map carryRecord).length ≤ 2080 := by rw [List.length_map]; omega
    rw [carryOf, BitVec.toNat_ofNat]
    exact Nat.mod_eq_of_lt ((packList_lt 65 _).trans_le (Nat.pow_le_pow_right two_pos fits))
  have record : fld (carryOf l).toNat (65 * j) 65 = carryRecord l[j] := by
    rw [bits]
    refine (elem_packList 65 _ j (by simpa using hj)).trans ?_
    rw [List.getElem_map, Nat.mod_eq_of_lt bound]
  have hp : (carryOf l).getLsbD (65 * j + 64) = l[j].p := by
    rw [← poison, ← record]
    exact (testBit_elem 65 _ j 64).symm
  rw [← record, fld_fld _ _ _ _ _ (by decide)] at gain off
  rw [carryCol, hp, off]
  simp only [Nat.add_zero] at gain
  rw [gain]

/-! The scan as a whole. -/

section
variable (gain off : Tile) (y : BitVec 2080)

/-- The map that two tiles hold at row i and column j, with the poison of the first. -/
def mapAt (g h : Tile) (i j : Nat) : Nat × Nat × Bool :=
  (elem 32 g.bits.toNat (32 * i + j), elem 32 h.bits.toNat (32 * i + j), g.poison.getLsbD (32 * i + j))

/-- The tiles after a scan hold its maps, each with its poison (R61). -/
theorem mapAt_scanPair {i j : Nat} (hi : i < 64) (hj : j < 32) :
    let r := scanPair gain off y
    mapAt r.1 r.2.1 i j = (scanCell gain off y i j).parts ∧
      r.2.1.poison.getLsbD (32 * i + j) = r.1.poison.getLsbD (32 * i + j) := by
  have hlen := length_scanCells gain off y
  have hk : 32 * i + j < (scanCells gain off y).length := by omega
  obtain ⟨hg, hh⟩ := scanCell_lt gain off y i j
  have cell := getElem_scanCells gain off y hi hj hk
  refine ⟨?_, by rw [scanPair_eq]; rfl⟩
  rw [scanPair_eq, mapAt, elem_tileOf _ hlen hk (by rw [cell]; exact hg), elem_tileOf _ hlen hk (by rw [cell]; exact hh),
    poison_tileOf _ hlen hk, cell]
  rfl

/-- The carry after a scan is the last row (R61). -/
theorem carryCol_scanPair {j : Nat} (hj : j < 32) :
    (carryCol (scanPair gain off y).2.2.1 j).parts = (scanCell gain off y 63 j).parts := by
  obtain ⟨hg, hh⟩ := scanCell_lt gain off y 63 j
  rw [scanPair_eq, carryCol_carryOf (by simp) (by simpa using hj) (by simpa using hg) (by simpa using hh),
    List.getElem_map, List.getElem_range]
  rfl

/-- A scan flushed when one of its compositions did (R60, R61). -/
theorem flush_scanPair : (scanPair gain off y).2.2.2 = true ↔ ∃ i j neg, i < 64 ∧ j < 32 ∧
    (FlushesTo neg (scanAt (pairMap gain off j) 6 i).parts (carryCol y j).parts ∨ ∃ d, d < 6 ∧ 2 ^ d ≤ i ∧
      FlushesTo neg (scanAt (pairMap gain off j) d i).parts (scanAt (pairMap gain off j) d (i - 2 ^ d)).parts) := by
  rw [scanPair_eq, List.any_eq_true, exists_scanCells]
  have cell : ∀ i j, (scanCell gain off y i j).flush = true ↔
      (∃ neg, FlushesTo neg (scanAt (pairMap gain off j) 6 i).parts (carryCol y j).parts) ∨
        (scanAt (pairMap gain off j) 6 i).flush = true := fun i j => by
    rw [scanCell, compose_flush]
    exact or_congr_right (or_iff_left Bool.false_ne_true)
  simp only [cell]
  constructor
  · rintro ⟨i, j, hi, hj, ⟨neg, last⟩ | level⟩
    · exact ⟨i, j, neg, hi, hj, .inl last⟩
    · obtain ⟨d, k, neg, hd, hk, hki, flushes⟩ := scanAt_flush_origin (fun _ => rfl) level
      exact ⟨k, j, neg, by omega, hj, .inr ⟨d, hd, hk, flushes⟩⟩
  · rintro ⟨i, j, neg, hi, hj, last | ⟨d, hd, hdi, flushes⟩⟩
    · exact ⟨i, j, hi, hj, .inl ⟨neg, last⟩⟩
    · refine ⟨i, j, hi, hj, .inr (scanAt_flush_mono _ (d := d + 1) ?_ hd)⟩
      rw [scanAt_succ _ hdi, compose_flush]
      exact .inl ⟨neg, flushes⟩

end

end Sys2Proof.Machine
end

section
/-! The moves of the MAT slot (R63, R65, R168 to R172): the values of each, and the event of a poisoned read (R252). -/

namespace Sys2Proof.Machine
open Sys2Proof.Safety

/-! Row groups and carry images. -/

/-- A row group read: its lanes are the elements of its eight rows (R65, R168). -/
theorem elem_rowGroup (t : Tile) (rg : Nat) {j : Nat} (hj : j < 256) :
    elem 32 (rowGroup t rg).toNat j = elem 32 t.bits.toNat (256 * rg + j) := by
  refine Nat.eq_of_testBit_eq fun i => ?_
  have place : 32 * j + i + 8192 * rg = 32 * (256 * rg + j) + i := by omega
  rw [testBit_elem, testBit_elem, rowGroup, BitVec.toNat_ofNat, Nat.testBit_mod_two_pow, Nat.testBit_div_two_pow, place]
  by_cases hi : i < 32
  · rw [decide_eq_true (show 32 * j + i < 8192 by omega), Bool.true_and]
  · simp [hi]

theorem rowPoison_eq (t : Tile) (rg : Nat) : rowPoison t rg = BitVec.extractLsb' (256 * rg) 256 t.poison := by
  rw [rowPoison, BitVec.extractLsb', Nat.shiftRight_eq_div_pow]

/-- The lanes of a carry image (R63). -/
theorem elem_carryImage (y : BitVec 2080) {j : Nat} (hj : j < 96) : elem 32 (carryImage y).toNat j =
    if j < 32 then fld y.toNat (65 * j) 32
    else if j < 64 then fld y.toNat (65 * (j - 32) + 32) 32
    else fld y.toNat (65 * (j - 64) + 64) 1 := by
  have poison : ∀ k, (if (carryCol y k).p then 1 else 0) = fld y.toNat (65 * k + 64) 1 := fun k => by
    rw [fld_one, carryCol, BitVec.getLsbD, Bool.toNat, Bool.cond_eq_ite]
  have word : ∀ lo n, n ≤ 32 → fld y.toNat lo n % 2 ^ 32 = fld y.toNat lo n := fun lo n hn =>
    Nat.mod_eq_of_lt ((Nat.mod_lt _ (Nat.two_pow_pos n)).trans_le (Nat.pow_le_pow_right two_pos hn))
  rw [carryImage, elem_ofNat_packList _ _ _ (by simp) (by simpa using hj)]
  simp only [List.getElem_append, List.length_append, List.length_map, List.length_range, List.getElem_map,
    List.getElem_range, poison]
  by_cases h1 : j < 32
  · have h2 : j < 32 + 32 := by omega
    rw [dif_pos h2, dif_pos h1, if_pos h1]
    exact word _ 32 le_rfl
  · by_cases h2 : j < 64
    · rw [dif_pos h2, dif_neg h1, if_neg h1, if_pos h2]
      exact word _ 32 le_rfl
    · rw [dif_neg h2, if_neg h1, if_neg h2]
      exact word _ 1 (by decide)

theorem carryImage_lt (y : BitVec 2080) : (carryImage y).toNat < 2 ^ (32 * 96) := by
  rw [carryImage, BitVec.toNat_ofNat]
  refine (Nat.mod_le _ _).trans_lt ((packList_lt 32 _).trans_eq ?_)
  simp

/-- The column records of the carry that an image holds (R63). -/
theorem carryCol_carryOfImage (v : VReg) {j : Nat} (hj : j < 32) : carryCol (carryOfImage v) j =
    { g := elem 32 v.toNat j, h := elem 32 v.toNat (32 + j), p := v.getLsbD (32 * (64 + j)), flush := false } := by
  have word : ∀ k, elem 32 v.toNat k < 2 ^ 32 := elem_lt 32 v.toNat
  rw [carryOfImage, carryCol_carryOf (by simp) (by simpa using hj) (by simpa using word j) (by simpa using word (32 + j))]
  simp

theorem fld_carryOfImage (v : VReg) {j : Nat} (hj : j < 32) :
    fld (carryOfImage v).toNat (65 * j) 32 = elem 32 v.toNat j ∧
    fld (carryOfImage v).toNat (65 * j + 32) 32 = elem 32 v.toNat (32 + j) ∧
    fld (carryOfImage v).toNat (65 * j + 64) 1 = elem 32 v.toNat (64 + j) % 2 := by
  have column := carryCol_carryOfImage v hj
  refine ⟨congrArg Affine.g column, congrArg Affine.h column, ?_⟩
  have bit : (carryOfImage v).toNat.testBit (65 * j + 64) = v.toNat.testBit (32 * (64 + j)) := congrArg Affine.p column
  have low := fld_fld v.toNat (32 * (64 + j)) 32 0 1 (by decide)
  rw [fld_one, bit, ← fld_one, ← Nat.add_zero (32 * (64 + j)), ← low]
  simp [fld, elem]

/-! A poisoned read (R170, R252). -/

/-- `u` with the parts of `s` that an event writes: the cores, the agenda, the trace and the free numbers. -/
def State.restored (s u : State) : State :=
  { u with cores := s.cores, agenda := s.agenda, trace := s.trace, choice := s.choice }

theorem State.restored_pokeFw (s u : State) (c : Nat) : s.restored (u.pokeFw c) = s.restored u := by
  unfold State.pokeFw State.atOnce
  dsimp only
  split
  · split <;> rfl
  · rfl

theorem State.restored_traceCore (s u : State) (c g typ payload : Nat) :
    s.restored (u.traceCore c g typ payload) = s.restored u := by
  unfold State.traceCore State.traceRaw
  dsimp only
  split <;> rfl

/-- What such parts do not hold is as it was. -/
theorem State.restored_same {s u : State} (h : s.restored u = s) :
    u.cur = s.cur ∧ u.gcount = s.gcount ∧ u.heats = s.heats ∧ u.hbm = s.hbm :=
  ⟨(congrArg State.cur h :), (congrArg State.gcount h :), (congrArg State.heats h :), (congrArg State.hbm h :)⟩

/-- The entry that an event makes in its core's ring (R252). -/
def State.eventEntry (s : State) (c typ aux payload : Nat) : Nat :=
  cycle64 (s.heatCycle c) + typ * 2 ^ 64 + aux % 256 * 2 ^ 72 + c * 2 ^ 128 + payload % 2 ^ 256 * 2 ^ 256

/-- A firmware data memory whose event ring has an entry more (R252). -/
def ringAfter (m : Memory) (entry : Nat) : Memory :=
  (m.writeBytes (0x7C00 + 64 * (m.readNat 0x7F40 8 % 12)) (bytesOf 64 entry)).writeBytes 0x7F40
    (bytesOf 8 (m.readNat 0x7F40 8 + 1))

/-- What an event of the running core and a result sent on its way leave: the entry, its cause, and the result. -/
structure EmitsAndSends (s u : State) (entry : Nat) (p : Pending) : Prop where
  core : ∃ f, u.core s.cur.core = { s.core s.cur.core with pend := (s.core s.cur.core).pend ++ [p], fw := f } ∧
    f.dmem = ringAfter (s.core s.cur.core).fw.dmem entry ∧ f.fpend = (s.core s.cur.core).fw.fpend ||| 4#7
  heats : u.heats = s.heats
  hbm : u.hbm = s.hbm
  others : ∀ d, d ≠ s.cur.core → u.core d = s.core d

section
variable (s : State) (c typ aux payload tp : Nat)

/-- An event leaves all else alone (R252). -/
theorem State.restored_event : s.restored (s.event c typ aux payload tp) = s := by
  rw [State.event, State.wake, State.restored_traceCore, State.restored_pokeFw]
  rfl

theorem State.event_dmem : ((s.event c typ aux payload tp).core c).fw.dmem =
    ringAfter (s.core c).fw.dmem (s.eventEntry c typ aux payload) := by
  simp [State.event, State.fwStore, ringAfter, State.eventEntry]

theorem State.event_landIn (lat : Nat) (slot : Slot) (eff : Eff) :
    EmitsAndSends s ((s.event s.cur.core typ aux payload tp).landIn lat slot eff)
      (s.eventEntry s.cur.core typ aux payload) (onItsWay s lat slot false eff) := by
  have rest := s.restored_event s.cur.core typ aux payload tp
  have others := s.event_core_ne s.cur.core typ aux payload tp
  have ring := s.event_dmem s.cur.core typ aux payload tp
  obtain ⟨f, core, pending⟩ := s.event_core s.cur.core typ aux payload tp
  rw [core] at ring
  generalize s.event s.cur.core typ aux payload tp = e at rest others core
  obtain ⟨cur, gcount, heats, hbm⟩ := State.restored_same rest
  obtain ⟨lands, -, only⟩ := State.landIn_lands e lat slot eff false
  rw [cur] at lands only
  generalize e.landIn lat slot eff = u at lands only
  have way : onItsWay e lat slot false eff = onItsWay s lat slot false eff := by simp only [onItsWay, cur, gcount]
  refine ⟨⟨f, ?_, ring, pending⟩, (congrArg State.heats only.1 :).trans heats, (congrArg State.hbm only.1 :).trans hbm,
    fun d hd => (only.2 d hd).trans (others d hd)⟩
  rw [lands, core, List.map_singleton, way]

end

/-! The operations. -/

section
variable {s : State} {g : Gate} {t : TileReg} {rg cy : BitVec 3} {v : VField} {n : Nat}

theorem answers_landIn {i : Instr} {lat : Nat} {slot : Slot} {eff : Eff} (h : exec i s = .next (s.landIn lat slot eff)) :
    Answers i s (fun u => Lands s u lat slot [eff]) :=
  ⟨_, h, State.landIn_lands s lat slot eff false⟩

theorem exec_mgain_on (h : Enabled (.mgain g t rg v) false g s) (hv : Names s v n) : exec (.mgain g t rg v) s =
    .next (s.landIn 4 .mat (.rows t.toNat rg.toNat ((s.core s.cur.core).rv n))) := by
  rw [exec_mgain, execMgain, runOp_on _ h, withV_some _ hv]
  rfl

theorem exec_mwr_on (h : Enabled (.mwr g t rg v) false g s) (hv : Names s v n) : exec (.mwr g t rg v) s =
    .next (s.landIn 4 .mat (.rows t.toNat rg.toNat ((s.core s.cur.core).rv n))) := by
  rw [exec_mwr, execMwr, runOp_on _ h, withV_some _ hv]
  rfl

theorem exec_mzero_on (h : Enabled (.mzero g t) false g s) :
    exec (.mzero g t) s = .next (s.landIn 4 .mat (.tileSet t.toNat { bits := 0, poison := 0 })) := by
  rw [exec_mzero, execMzero, runOp_on _ h]
  rfl

theorem exec_mclrp_on (h : Enabled (.mclrp g t) false g s) :
    exec (.mclrp g t) s = .next (s.landIn 4 .mat (.tileClear t.toNat)) := by
  rw [exec_mclrp, execMclrp, runOp_on _ h]

theorem exec_msvc_on (h : Enabled (.msvc g cy v) false g s) (hv : Names s v n) : exec (.msvc g cy v) s =
    .next (s.landIn 4 .mat (.vreg n (BitVec.allOnes 256) (carryImage ((s.core s.cur.core).ry cy.toNat)))) := by
  rw [exec_msvc, execMsvc, runOp_on _ h, withV_some _ hv]
  rfl

theorem exec_mldc_on (h : Enabled (.mldc g cy v) false g s) (hv : Names s v n) : exec (.mldc g cy v) s =
    .next (s.landIn 4 .mat (.carry cy.toNat (carryOfImage ((s.core s.cur.core).rv n)))) := by
  rw [exec_mldc, execMldc, runOp_on _ h, withV_some _ hv]
  rfl

theorem exec_mrd_on (h : Enabled (.mrd g t rg v) false g s) (hv : Names s v n) : exec (.mrd g t rg v) s =
    .next ((s.poisonRead t.toNat rg.toNat).landIn 4 .mat
      (.vreg n (BitVec.allOnes 256) (rowGroup ((s.core s.cur.core).rm t.toNat) rg.toNat))) := by
  rw [exec_mrd, execMrd, runOp_on _ h, withV_some _ hv]
  rfl

/-- A row group without poison (R168, R170). -/
theorem mrd_clean (h : Enabled (.mrd g t rg v) false g s) (hv : Names s v n)
    (hp : BitVec.extractLsb' (256 * rg.toNat) 256 ((s.core s.cur.core).rm t.toNat).poison = 0) :
    WholeResult (.mrd g t rg v) s 4 .mat n 32 256 (fun j =>
      elem 32 ((s.core s.cur.core).rm t.toNat).bits.toNat (256 * rg.toNat + j)) := by
  have quiet : s.poisonRead t.toNat rg.toNat = s := by
    rw [← rowPoison_eq] at hp
    exact if_pos hp
  refine ⟨_, exec_mrd_on h hv, rowGroup ((s.core s.cur.core).rm t.toNat) rg.toNat, ?_, fun j hj => elem_rowGroup _ _ hj,
    BitVec.isLt _⟩
  rw [quiet]
  exact State.landIn_lands s 4 .mat _ false

/-- The scan of a pair: both tiles and the carry are on their way (R61, R171). -/
theorem ascan_lands (h : Enabled (.ascan g t cy) false g s) :
    let k := s.core s.cur.core
    let r := scanPair (k.rm t.toNat) (k.rm (t.toNat + 1)) (k.ry cy.toNat)
    Answers (.ascan g t cy) s (fun u =>
      Lands s u 14 .mat [.tileSet t.toNat r.1, .tileSet (t.toNat + 1) r.2.1, .carry cy.toNat r.2.2.1] r.2.2.2) := by
  intro k r
  refine ⟨_, by rw [exec_ascan, execAscan, runOp_on _ h], ?_⟩
  exact Lands.trans (Lands.trans (State.landIn_lands s 14 .mat (.tileSet t.toNat r.1) r.2.2.2)
    (State.landIn_lands _ 14 .mat _ _)) (State.landIn_lands _ 14 .mat _ _)

/-- A poisoned row group: its bits move, and the event is emitted (R170, R252). -/
theorem mrd_poisoned (h : Enabled (.mrd g t rg v) false g s) (hv : Names s v n)
    (hp : BitVec.extractLsb' (256 * rg.toNat) 256 ((s.core s.cur.core).rm t.toNat).poison ≠ 0) :
    Answers (.mrd g t rg v) s (fun u => EmitsAndSends s u
      (s.eventEntry s.cur.core 1 (t.toNat + rg.toNat * 32)
        (BitVec.extractLsb' (256 * rg.toNat) 256 ((s.core s.cur.core).rm t.toNat).poison).toNat)
      (onItsWay s 4 .mat false
        (.vreg n (BitVec.allOnes 256) (rowGroup ((s.core s.cur.core).rm t.toNat) rg.toNat)))) := by
  rw [← rowPoison_eq] at hp ⊢
  have emits : s.poisonRead t.toNat rg.toNat = _ := if_neg hp
  refine ⟨_, exec_mrd_on h hv, ?_⟩
  rw [emits]
  exact s.event_landIn ..

/-- A carry saved as its image (R63, R172). -/
theorem msvc_whole (h : Enabled (.msvc g cy v) false g s) (hv : Names s v n) :
    let y := ((s.core s.cur.core).ry cy.toNat).toNat
    WholeResult (.msvc g cy v) s 4 .mat n 32 96 (fun j =>
      if j < 32 then fld y (65 * j) 32
      else if j < 64 then fld y (65 * (j - 32) + 32) 32
      else fld y (65 * (j - 64) + 64) 1) :=
  ⟨_, exec_msvc_on h hv, carryImage ((s.core s.cur.core).ry cy.toNat), State.landIn_lands s 4 .mat _ false,
    fun _ hj => elem_carryImage _ hj, carryImage_lt _⟩

end

/-- Settles O12: each move is one sending of its result; the levels of a scan are those of `scanAt`. -/
theorem matrixMoves : Obligations.MatrixMoves := by
  refine ⟨fun s g t rg cy v n hg hon hv => ?_, fun gain off y => ?_, fun s g t rg v n hg hon hv hp => ?_⟩
  · intro k tile
    have on : ∀ i, i.wf = g.ok → Enabled i false g s := fun i hi => ⟨hi.trans hg, hon⟩
    have onPair : ∀ i, i.wf = (g.ok && evenTile t) → t.toNat % 2 = 0 → Enabled i false g s :=
      fun i hi ht => ⟨by rw [hi, hg, evenTile, ht]; rfl, hon⟩
    exact ⟨answers_landIn (exec_mwr_on (on _ rfl) hv), fun ht => answers_landIn (exec_mgain_on (onPair _ rfl ht) hv),
      mrd_clean (on _ rfl) hv, answers_landIn (exec_mzero_on (on _ rfl)), answers_landIn (exec_mclrp_on (on _ rfl)),
      fun ht => ascan_lands (onPair _ rfl ht), msvc_whole (on _ rfl) hv,
      ⟨_, exec_mldc_on (on _ rfl) hv, carryOfImage (k.rv n), State.landIn_lands s 4 .mat _ false,
        fun _ hj => fld_carryOfImage _ hj⟩⟩
  · refine ⟨fun j d i => (scanAt (pairMap gain off j) d i).parts, fun _ _ _ _ => rfl, fun i j d _ _ _ => ⟨fun h => ?_,
      fun h => congrArg Affine.parts (scanAt_succ_below _ h)⟩, fun i j hi hj => ?_, fun j hj => ?_, flush_scanPair gain off y⟩
    · dsimp only
      rw [scanAt_succ _ h]
      exact compose_composed _ _
    · obtain ⟨cell, poison⟩ := mapAt_scanPair gain off y hi hj
      have last := compose_composed (scanAt (pairMap gain off j) 6 i) (carryCol y j)
      rw [← scanCell, ← cell] at last
      exact ⟨last, poison⟩
    · exact (carryCol_scanPair gain off y hj).trans (mapAt_scanPair gain off y (by decide) hj).1.symm
  · intro c tile count entry
    obtain ⟨u, run, ⟨f, core, ring, pending⟩, heats, hbm, others⟩ := mrd_poisoned ⟨hg, hon⟩ hv hp
    have core : u.core c = _ := core
    refine ⟨u, run, ?_⟩
    dsimp only
    rw [core]
    exact ⟨⟨rowGroup tile rg.toNat, rfl, fun j hj => elem_rowGroup _ _ hj⟩, ring, pending, rfl, rfl, rfl, rfl, rfl, heats,
      hbm, others⟩

end Sys2Proof.Machine
end

section
/-! Decoding and encoding (R69 to R87). A syllable is its fields side by side, the reserved ones 0; so the words a form
decodes are those of its encoding, for each form, and then for each slot's map of opcodes. -/

namespace Sys2Proof

@[simp] theorem whenClear_eq_some {c : Bool} {i j : Instr} : whenClear c i = some j ↔ c = true ∧ i = j := by
  unfold whenClear; split <;> simp_all

theorem bits_toNat (w lo len : Nat) : (bits w lo len).toNat = fld w lo len := by simp [bits, fld]

theorem bits_eq_iff {w lo len : Nat} {x : BitVec len} : bits w lo len = x ↔ fld w lo len = x.toNat := by
  rw [← BitVec.toNat_inj, bits_toNat]

@[simp] theorem bits_eq_zero_iff {w lo len : Nat} : bits w lo len = 0#len ↔ fld w lo len = 0 := by
  simp [bits_eq_iff]

/-- A flag of one bit. -/
theorem bits_eq_ofBool {w lo : Nat} {b : Bool} : bits w lo 1 = BitVec.ofBool b ↔ decide (fld w lo 1 = 1) = b := by
  have h : fld w lo 1 < 2 := Nat.mod_lt _ (by decide)
  cases b
  all_goals simp only [bits_eq_iff, BitVec.ofBool_false, BitVec.ofBool_true]
  all_goals simp
  omega

theorem bit_eq_toNat (b : Bool) : bit b = (BitVec.ofBool b).toNat := by cases b <;> rfl

/-- A field of a word: its width and its value. -/
abbrev SylField := (n : Nat) × BitVec n

/-- The number that holds a list of fields side by side, the first one lowest. -/
@[simp] def joinFields : List SylField → Nat
  | [] => 0
  | ⟨n, x⟩ :: rest => x.toNat + 2 ^ n * joinFields rest

/-- The width of a list of fields. -/
@[simp] def fieldsWidth : List SylField → Nat
  | [] => 0
  | ⟨n, _⟩ :: rest => n + fieldsWidth rest

/-- From bit `lo` on a word holds a list of fields. -/
@[simp] def HoldsFields (w : Nat) : Nat → List SylField → Prop
  | _, [] => True
  | lo, ⟨n, x⟩ :: rest => bits w lo n = x ∧ HoldsFields w (lo + n) rest

/-- The lowest field and what lies above it make up a word, in one way. -/
theorem join_eq_iff {w n r : Nat} {x : BitVec n} : x.toNat + 2 ^ n * r = w ↔ bits w 0 n = x ∧ r = w / 2 ^ n := by
  have hx := x.isLt
  rw [bits_eq_iff, fld, pow_zero, Nat.div_one]
  constructor
  · rintro rfl
    rw [Nat.add_mul_mod_self_left, Nat.mod_eq_of_lt hx, Nat.add_mul_div_left _ _ (by positivity), Nat.div_eq_of_lt hx]
    simp
  · rintro ⟨h, rfl⟩
    rw [← h, Nat.mod_add_div]

theorem bits_div (w lo k n : Nat) : bits (w / 2 ^ lo) k n = bits w (lo + k) n := by
  rw [bits, bits, Nat.div_div_eq_div_mul, pow_add]

/-- What lies above bit `lo` of a word is a list of fields exactly when the word holds them there, and nothing above. -/
theorem joinFields_eq_iff {w : Nat} : ∀ {lo : Nat} {l : List SylField},
    joinFields l = w / 2 ^ lo ↔ HoldsFields w lo l ∧ w < 2 ^ (lo + fieldsWidth l)
  | lo, [] => by
    simp [joinFields, HoldsFields, fieldsWidth, eq_comm (a := 0), Nat.div_eq_zero_iff]
  | lo, ⟨n, x⟩ :: rest => by
    rw [joinFields, join_eq_iff, bits_div, Nat.div_div_eq_div_mul, ← pow_add, joinFields_eq_iff, HoldsFields, fieldsWidth,
      add_zero, and_assoc, add_assoc]

/-- An encoded syllable is a word exactly when the word has its opcode, its gate and its fields. -/
theorem encoded_eq_iff {op w : Nat} {fs : List (Nat × Nat)} (g : Gate) (l : List SylField) (hop : w % 256 = op)
    (hfs : encAt fs = 2 ^ 17 * joinFields l) :
    encGate op g + encAt fs = w ↔ gateOf w = g ∧ HoldsFields w 17 l ∧ w < 2 ^ (17 + fieldsWidth l) := by
  obtain ⟨p, s⟩ := g
  have hw : joinFields (⟨8, .ofNat 8 op⟩ :: ⟨5, p⟩ :: ⟨4, s⟩ :: l) = w / 2 ^ 0 ↔ _ := joinFields_eq_iff
  have op8 : op % 2 ^ 8 = op := by omega
  have hb : bits w 0 8 = .ofNat 8 op := by rw [bits_eq_iff, fld, BitVec.toNat_ofNat]; omega
  simp only [HoldsFields, fieldsWidth, joinFields, BitVec.toNat_ofNat, op8, hb] at hw
  simp only [encGate, hfs, gateOf, Gate.mk.injEq, and_assoc]
  rw [← add_assoc 8 5, ← add_assoc, ← add_assoc] at hw
  simp [and_assoc] at hw ⊢
  rw [← hw]
  constructor <;> intro h <;> omega

section
variable {op w : Nat} {i : Instr}

/-! The forms: what a form reads, and the words that encode it. -/

theorem decSr_iff {mk : Gate → BitVec 6 → BitVec 6 → BitVec 6 → Instr} (hop : w % 256 = op) :
    w < 2 ^ 48 ∧ decSr w mk = some i ↔ ∃ g d a b,
      encGate op g + encAt [(d.toNat, 17), (a.toNat, 23), (b.toNat, 29)] = w ∧ mk g d a b = i := by
  have key g (d a b : BitVec 6) := encoded_eq_iff (fs := [(d.toNat, 17), (a.toNat, 23), (b.toNat, 29)]) g
    [⟨6, d⟩, ⟨6, a⟩, ⟨6, b⟩, ⟨13, 0⟩] hop (by simp [encAt]; omega)
  simp [decSr, key, and_assoc]
  tauto

theorem decSi_iff {mk : Gate → BitVec 6 → BitVec 6 → BitVec 13 → Instr} (hop : w % 256 = op) :
    w < 2 ^ 48 ∧ decSi w mk = some i ↔ ∃ g d a imm,
      encGate op g + encAt [(d.toNat, 17), (a.toNat, 23), (imm.toNat, 35)] = w ∧ mk g d a imm = i := by
  have key g (d a : BitVec 6) (imm : BitVec 13) := encoded_eq_iff g
    (fs := [(d.toNat, 17), (a.toNat, 23), (imm.toNat, 35)])
    [⟨6, d⟩, ⟨6, a⟩, ⟨6, 0⟩, ⟨13, imm⟩] hop (by simp [encAt]; omega)
  simp [decSi, key, and_assoc]
  tauto

theorem decSq_iff {mk : Gate → BitVec 4 → BitVec 6 → BitVec 6 → Instr} (hop : w % 256 = op) :
    w < 2 ^ 48 ∧ decSq w mk = some i ↔ ∃ g d a b,
      encGate op g + encAt [(d.toNat, 17), (a.toNat, 23), (b.toNat, 29)] = w ∧ mk g d a b = i := by
  have key g (d : BitVec 4) (a b : BitVec 6) := encoded_eq_iff (fs := [(d.toNat, 17), (a.toNat, 23), (b.toNat, 29)]) g
    [⟨4, d⟩, ⟨2, 0⟩, ⟨6, a⟩, ⟨6, b⟩, ⟨13, 0⟩] hop (by simp [encAt]; omega)
  simp [decSq, key, and_assoc]
  tauto

theorem decSqi_iff {mk : Gate → BitVec 4 → BitVec 6 → BitVec 13 → Instr} (hop : w % 256 = op) :
    w < 2 ^ 48 ∧ decSqi w mk = some i ↔ ∃ g d a imm,
      encGate op g + encAt [(d.toNat, 17), (a.toNat, 23), (imm.toNat, 35)] = w ∧ mk g d a imm = i := by
  have key g (d : BitVec 4) (a : BitVec 6) (imm : BitVec 13) := encoded_eq_iff g
    (fs := [(d.toNat, 17), (a.toNat, 23), (imm.toNat, 35)])
    [⟨4, d⟩, ⟨2, 0⟩, ⟨6, a⟩, ⟨6, 0⟩, ⟨13, imm⟩] hop (by simp [encAt]; omega)
  simp [decSqi, key, and_assoc]
  tauto

theorem decQq_iff {mk : Gate → BitVec 4 → BitVec 4 → BitVec 4 → Instr} (hop : w % 256 = op) :
    w < 2 ^ 48 ∧ decQq w mk = some i ↔ ∃ g d a b,
      encGate op g + encAt [(d.toNat, 17), (a.toNat, 23), (b.toNat, 29)] = w ∧ mk g d a b = i := by
  have key g (d a b : BitVec 4) := encoded_eq_iff (fs := [(d.toNat, 17), (a.toNat, 23), (b.toNat, 29)]) g
    [⟨4, d⟩, ⟨2, 0⟩, ⟨4, a⟩, ⟨2, 0⟩, ⟨4, b⟩, ⟨15, 0⟩] hop (by simp [encAt]; omega)
  simp [decQq, key, and_assoc]
  tauto

theorem decSs_iff {mk : Gate → BitVec 6 → BitVec 13 → Instr} (hop : w % 256 = op) :
    w < 2 ^ 48 ∧ decSs w mk = some i ↔ ∃ g d n,
      encGate op g + encAt [(d.toNat, 17), (n.toNat, 35)] = w ∧ mk g d n = i := by
  have key g (d : BitVec 6) (n : BitVec 13) := encoded_eq_iff (fs := [(d.toNat, 17), (n.toNat, 35)]) g
    [⟨6, d⟩, ⟨12, 0⟩, ⟨13, n⟩] hop (by simp [encAt]; omega)
  simp [decSs, key, and_assoc]
  tauto

theorem decSw_iff {mk : Gate → BitVec 13 → BitVec 6 → Instr} (hop : w % 256 = op) :
    w < 2 ^ 48 ∧ decSw w mk = some i ↔ ∃ g n a,
      encGate op g + encAt [(n.toNat, 35), (a.toNat, 23)] = w ∧ mk g n a = i := by
  have key g (n : BitVec 13) (a : BitVec 6) := encoded_eq_iff (fs := [(n.toNat, 35), (a.toNat, 23)]) g
    [⟨6, 0⟩, ⟨6, a⟩, ⟨6, 0⟩, ⟨13, n⟩] hop (by simp [encAt]; omega)
  simp [decSw, key, and_assoc]
  tauto

theorem decVv_iff {mk : Gate → BitVec 4 → VField → VField → VField → Instr} (hop : w % 256 = op) :
    w < 2 ^ 64 ∧ decVv w mk = some i ↔ ∃ g f d a b,
      encGate op g + encAt [(f.toNat, 17), (d.toNat, 21), (a.toNat, 32), (b.toNat, 43)] = w ∧ mk g f d a b = i := by
  have key g (f : BitVec 4) (d a b : VField) := encoded_eq_iff g
    (fs := [(f.toNat, 17), (d.toNat, 21), (a.toNat, 32), (b.toNat, 43)])
    [⟨4, f⟩, ⟨11, d⟩, ⟨11, a⟩, ⟨11, b⟩, ⟨10, 0⟩] hop (by simp [encAt]; omega)
  simp [decVv, key, and_assoc]
  tauto

theorem decVs_iff {mk : Gate → BitVec 4 → VField → VField → BitVec 6 → Instr} (hop : w % 256 = op) :
    w < 2 ^ 64 ∧ decVs w mk = some i ↔ ∃ g f d a c,
      encGate op g + encAt [(f.toNat, 17), (d.toNat, 21), (a.toNat, 32), (c.toNat, 54)] = w ∧ mk g f d a c = i := by
  have key g (f : BitVec 4) (d a : VField) (c : BitVec 6) := encoded_eq_iff g
    (fs := [(f.toNat, 17), (d.toNat, 21), (a.toNat, 32), (c.toNat, 54)])
    [⟨4, f⟩, ⟨11, d⟩, ⟨11, a⟩, ⟨11, 0⟩, ⟨6, c⟩, ⟨4, 0⟩] hop (by simp [encAt]; omega)
  simp [decVs, key, and_assoc]
  tauto

theorem decV1_iff {mk : Gate → BitVec 4 → VField → VField → Instr} (hop : w % 256 = op) :
    w < 2 ^ 64 ∧ decV1 w mk = some i ↔ ∃ g f d a,
      encGate op g + encAt [(f.toNat, 17), (d.toNat, 21), (a.toNat, 32)] = w ∧ mk g f d a = i := by
  have key g (f : BitVec 4) (d a : VField) := encoded_eq_iff (fs := [(f.toNat, 17), (d.toNat, 21), (a.toNat, 32)]) g
    [⟨4, f⟩, ⟨11, d⟩, ⟨11, a⟩, ⟨21, 0⟩] hop (by simp [encAt]; omega)
  simp [decV1, key, and_assoc]
  tauto

theorem decVc_iff {mk : Gate → BitVec 4 → BitVec 4 → VField → VField → Instr} (hop : w % 256 = op) :
    w < 2 ^ 64 ∧ decVc w mk = some i ↔ ∃ g f d a b,
      encGate op g + encAt [(f.toNat, 17), (d.toNat, 21), (a.toNat, 32), (b.toNat, 43)] = w ∧ mk g f d a b = i := by
  have key g (f d : BitVec 4) (a b : VField) := encoded_eq_iff g
    (fs := [(f.toNat, 17), (d.toNat, 21), (a.toNat, 32), (b.toNat, 43)])
    [⟨4, f⟩, ⟨4, d⟩, ⟨7, 0⟩, ⟨11, a⟩, ⟨11, b⟩, ⟨10, 0⟩] hop (by simp [encAt]; omega)
  simp [decVc, key, and_assoc]
  tauto

theorem decVcs_iff {mk : Gate → BitVec 4 → BitVec 4 → VField → BitVec 6 → Instr} (hop : w % 256 = op) :
    w < 2 ^ 64 ∧ decVcs w mk = some i ↔ ∃ g f d a c,
      encGate op g + encAt [(f.toNat, 17), (d.toNat, 21), (a.toNat, 32), (c.toNat, 54)] = w ∧ mk g f d a c = i := by
  have key g (f d : BitVec 4) (a : VField) (c : BitVec 6) := encoded_eq_iff g
    (fs := [(f.toNat, 17), (d.toNat, 21), (a.toNat, 32), (c.toNat, 54)])
    [⟨4, f⟩, ⟨4, d⟩, ⟨7, 0⟩, ⟨11, a⟩, ⟨11, 0⟩, ⟨6, c⟩, ⟨4, 0⟩] hop (by simp [encAt]; omega)
  simp [decVcs, key, and_assoc]
  tauto

theorem decVm_iff {mk : Gate → BitVec 4 → BitVec 4 → BitVec 4 → Instr} (hop : w % 256 = op) :
    w < 2 ^ 64 ∧ decVm w mk = some i ↔ ∃ g d a b,
      encGate op g + encAt [(d.toNat, 21), (a.toNat, 32), (b.toNat, 43)] = w ∧ mk g d a b = i := by
  have key g (d a b : BitVec 4) := encoded_eq_iff (fs := [(d.toNat, 21), (a.toNat, 32), (b.toNat, 43)]) g
    [⟨4, 0⟩, ⟨4, d⟩, ⟨7, 0⟩, ⟨4, a⟩, ⟨7, 0⟩, ⟨4, b⟩, ⟨17, 0⟩] hop (by simp [encAt]; omega)
  simp [decVm, key, and_assoc]
  tauto

theorem decPc_iff {mk : Gate → BitVec 5 → VField → VField → BitVec 5 → BitVec 2 → Bool → Instr}
    (hop : w % 256 = op) :
    w < 2 ^ 64 ∧ decPc w mk = some i ↔ ∃ g f d a t rm ov,
      encGate op g + encAt
        [(f.toNat, 17), (d.toNat, 22), (a.toNat, 33), (t.toNat, 55), (rm.toNat, 60), (bit ov, 62)] = w ∧
        mk g f d a t rm ov = i := by
  have key g (f : BitVec 5) (d a : VField) (t : BitVec 5) (rm : BitVec 2) (ov : Bool) := encoded_eq_iff g
    (fs := [(f.toNat, 17), (d.toNat, 22), (a.toNat, 33), (t.toNat, 55), (rm.toNat, 60), (bit ov, 62)])
    [⟨5, f⟩, ⟨11, d⟩, ⟨11, a⟩, ⟨11, 0⟩, ⟨5, t⟩, ⟨2, rm⟩, ⟨1, .ofBool ov⟩, ⟨1, 0⟩] hop
    (by simp [encAt, bit_eq_toNat]; omega)
  simp [decPc, key, bits_eq_ofBool, -Bool.exists_bool, and_assoc]
  tauto

theorem decPs_iff {mk : Gate → BitVec 5 → VField → VField → BitVec 6 → BitVec 3 → BitVec 5 → BitVec 2 → Bool → Instr}
    (hop : w % 256 = op) :
    w < 2 ^ 64 ∧ decPs w mk = some i ↔ ∃ g f d a k n t rm ov,
      encGate op g + encAt
        [(f.toNat, 17), (d.toNat, 22), (a.toNat, 33), (k.toNat, 44), (n.toNat, 50), (t.toNat, 55),
          (rm.toNat, 60), (bit ov, 62)] = w ∧
        mk g f d a k n t rm ov = i := by
  have key g (f : BitVec 5) (d a : VField) (k : BitVec 6) (n : BitVec 3) (t : BitVec 5) (rm : BitVec 2) (ov : Bool) :=
    encoded_eq_iff g
    (fs := [(f.toNat, 17), (d.toNat, 22), (a.toNat, 33), (k.toNat, 44), (n.toNat, 50), (t.toNat, 55),
          (rm.toNat, 60), (bit ov, 62)])
    [⟨5, f⟩, ⟨11, d⟩, ⟨11, a⟩, ⟨6, k⟩, ⟨3, n⟩, ⟨2, 0⟩, ⟨5, t⟩, ⟨2, rm⟩, ⟨1, .ofBool ov⟩, ⟨1, 0⟩] hop
    (by simp [encAt, bit_eq_toNat]; omega)
  simp [decPs, key, bits_eq_ofBool, -Bool.exists_bool, and_assoc]
  tauto

theorem decPk_iff {mk : Gate → BitVec 6 → BitVec 4 → Instr} (hop : w % 256 = op) :
    w < 2 ^ 64 ∧ decPk w mk = some i ↔ ∃ g k a,
      encGate op g + encAt [(k.toNat, 22), (a.toNat, 33)] = w ∧ mk g k a = i := by
  have key g (k : BitVec 6) (a : BitVec 4) := encoded_eq_iff (fs := [(k.toNat, 22), (a.toNat, 33)]) g
    [⟨5, 0⟩, ⟨6, k⟩, ⟨5, 0⟩, ⟨4, a⟩, ⟨27, 0⟩] hop (by simp [encAt]; omega)
  simp [decPk, key, and_assoc]
  tauto

theorem decPp_iff {mk : Gate → BitVec 5 → VField → VField → VField → BitVec 9 → Instr} (hop : w % 256 = op) :
    w < 2 ^ 64 ∧ decPp w mk = some i ↔ ∃ g f d a b imm,
      encGate op g + encAt [(f.toNat, 17), (d.toNat, 22), (a.toNat, 33), (b.toNat, 44), (imm.toNat, 55)] = w ∧
        mk g f d a b imm = i := by
  have key g (f : BitVec 5) (d a b : VField) (imm : BitVec 9) := encoded_eq_iff g
    (fs := [(f.toNat, 17), (d.toNat, 22), (a.toNat, 33), (b.toNat, 44), (imm.toNat, 55)])
    [⟨5, f⟩, ⟨11, d⟩, ⟨11, a⟩, ⟨11, b⟩, ⟨9, imm⟩] hop (by simp [encAt]; omega)
  simp [decPp, key, and_assoc]

theorem decStep_iff {mk : Gate → BitVec 5 → BitVec 4 → BitVec 4 → BitVec 5 → BitVec 6 → BitVec 6 → Instr}
    (hop : w % 256 = op) :
    w < 2 ^ 64 ∧ decStep w mk = some i ↔ ∃ g t sa sb f ka kb,
      encGate op g + encAt
        [(t.toNat, 17), (sa.toNat, 22), (sb.toNat, 26), (f.toNat, 30), (ka.toNat, 35), (kb.toNat, 41)] = w ∧
        mk g t sa sb f ka kb = i := by
  have key g (t : BitVec 5) (sa sb : BitVec 4) (f : BitVec 5) (ka kb : BitVec 6) := encoded_eq_iff g
    (fs := [(t.toNat, 17), (sa.toNat, 22), (sb.toNat, 26), (f.toNat, 30), (ka.toNat, 35), (kb.toNat, 41)])
    [⟨5, t⟩, ⟨4, sa⟩, ⟨4, sb⟩, ⟨5, f⟩, ⟨6, ka⟩, ⟨6, kb⟩, ⟨17, 0⟩] hop (by simp [encAt]; omega)
  simp [decStep, key, and_assoc]
  tauto

theorem decRg_iff {mk : Gate → BitVec 5 → BitVec 3 → VField → Instr} (hop : w % 256 = op) :
    w < 2 ^ 64 ∧ decRg w mk = some i ↔ ∃ g t rg v,
      encGate op g + encAt [(t.toNat, 17), (rg.toNat, 50), (v.toNat, 53)] = w ∧ mk g t rg v = i := by
  have key g (t : BitVec 5) (rg : BitVec 3) (v : VField) := encoded_eq_iff g
    (fs := [(t.toNat, 17), (rg.toNat, 50), (v.toNat, 53)])
    [⟨5, t⟩, ⟨28, 0⟩, ⟨3, rg⟩, ⟨11, v⟩] hop (by simp [encAt]; omega)
  simp [decRg, key, and_assoc]
  tauto

theorem decTile_iff {mk : Gate → BitVec 5 → Instr} (hop : w % 256 = op) :
    w < 2 ^ 64 ∧ decTile w mk = some i ↔ ∃ g t,
      encGate op g + encAt [(t.toNat, 17)] = w ∧ mk g t = i := by
  have key g (t : BitVec 5) := encoded_eq_iff (fs := [(t.toNat, 17)]) g
    [⟨5, t⟩, ⟨42, 0⟩] hop (by simp [encAt, Nat.mul_comm])
  simp [decTile, key, and_assoc]
  tauto

theorem decCy_iff {mk : Gate → BitVec 3 → VField → Instr} (hop : w % 256 = op) :
    w < 2 ^ 64 ∧ decCy w mk = some i ↔ ∃ g cy v,
      encGate op g + encAt [(cy.toNat, 47), (v.toNat, 53)] = w ∧ mk g cy v = i := by
  have key g (cy : BitVec 3) (v : VField) := encoded_eq_iff (fs := [(cy.toNat, 47), (v.toNat, 53)]) g
    [⟨30, 0⟩, ⟨3, cy⟩, ⟨3, 0⟩, ⟨11, v⟩] hop (by simp [encAt]; omega)
  simp [decCy, key, and_assoc]
  tauto

theorem decMlv_iff {mk : Gate → VField → BitVec 4 → Instr} (hop : w % 256 = op) :
    w < 2 ^ 64 ∧ decMlv w mk = some i ↔ ∃ g r sa,
      encGate op g + encAt [(r.toNat, 22), (sa.toNat, 33)] = w ∧ mk g r sa = i := by
  have key g (r : VField) (sa : BitVec 4) := encoded_eq_iff (fs := [(r.toNat, 22), (sa.toNat, 33)]) g
    [⟨5, 0⟩, ⟨11, r⟩, ⟨4, sa⟩, ⟨27, 0⟩] hop (by simp [encAt]; omega)
  simp [decMlv, key, and_assoc]
  tauto

theorem decMls_iff {mk : Gate → BitVec 6 → BitVec 4 → Instr} (hop : w % 256 = op) :
    w < 2 ^ 64 ∧ decMls w mk = some i ↔ ∃ g r sa,
      encGate op g + encAt [(r.toNat, 22), (sa.toNat, 33)] = w ∧ mk g r sa = i := by
  have key g (r : BitVec 6) (sa : BitVec 4) := encoded_eq_iff (fs := [(r.toNat, 22), (sa.toNat, 33)]) g
    [⟨5, 0⟩, ⟨6, r⟩, ⟨5, 0⟩, ⟨4, sa⟩, ⟨27, 0⟩] hop (by simp [encAt]; omega)
  simp [decMls, key, and_assoc]
  tauto

theorem decMg_iff {mk : Gate → BitVec 5 → VField → BitVec 4 → VField → Instr} (hop : w % 256 = op) :
    w < 2 ^ 64 ∧ decMg w mk = some i ↔ ∃ g f r sa x,
      encGate op g + encAt [(f.toNat, 17), (r.toNat, 22), (sa.toNat, 33), (x.toNat, 41)] = w ∧ mk g f r sa x = i := by
  have key g (f : BitVec 5) (r : VField) (sa : BitVec 4) (x : VField) := encoded_eq_iff g
    (fs := [(f.toNat, 17), (r.toNat, 22), (sa.toNat, 33), (x.toNat, 41)])
    [⟨5, f⟩, ⟨11, r⟩, ⟨4, sa⟩, ⟨4, 0⟩, ⟨11, x⟩, ⟨12, 0⟩] hop (by simp [encAt]; omega)
  simp [decMg, key, and_assoc]
  tauto

theorem decMa_iff {mk : Gate → BitVec 5 → BitVec 6 → BitVec 4 → BitVec 3 → Instr} (hop : w % 256 = op) :
    w < 2 ^ 64 ∧ decMa w mk = some i ↔ ∃ g f r sa o,
      encGate op g + encAt [(f.toNat, 17), (r.toNat, 22), (sa.toNat, 33), (o.toNat, 41)] = w ∧ mk g f r sa o = i := by
  have key g (f : BitVec 5) (r : BitVec 6) (sa : BitVec 4) (o : BitVec 3) := encoded_eq_iff g
    (fs := [(f.toNat, 17), (r.toNat, 22), (sa.toNat, 33), (o.toNat, 41)])
    [⟨5, f⟩, ⟨6, r⟩, ⟨5, 0⟩, ⟨4, sa⟩, ⟨4, 0⟩, ⟨3, o⟩, ⟨20, 0⟩] hop (by simp [encAt]; omega)
  simp [decMa, key, and_assoc]
  tauto

theorem decMe_iff {mk : Gate → BitVec 4 → Instr} (hop : w % 256 = op) :
    w < 2 ^ 64 ∧ decMe w mk = some i ↔ ∃ g sa,
      encGate op g + encAt [(sa.toNat, 33)] = w ∧ mk g sa = i := by
  have key g (sa : BitVec 4) := encoded_eq_iff (fs := [(sa.toNat, 33)]) g
    [⟨16, 0⟩, ⟨4, sa⟩, ⟨27, 0⟩] hop (by simp [encAt]; omega)
  simp [decMe, key, and_assoc]
  tauto

theorem branchForm_iff {mk : Gate → BitVec 10 → Bool → Instr} (hop : w % 256 = op) :
    w < 2 ^ 48 ∧ whenClear (fld w 28 20 = 0) (mk (gateOf w) (bits w 18 10) (fld w 17 1 = 1)) = some i ↔ ∃ g idx seg,
      encGate op g + encAt [(idx.toNat, 18), (bit seg, 17)] = w ∧ mk g idx seg = i := by
  have key g (idx : BitVec 10) (seg : Bool) := encoded_eq_iff (fs := [(idx.toNat, 18), (bit seg, 17)]) g
    [⟨1, .ofBool seg⟩, ⟨10, idx⟩, ⟨20, 0⟩] hop (by simp [encAt, bit_eq_toNat]; omega)
  simp [key, bits_eq_ofBool, -Bool.exists_bool, and_assoc]
  tauto

theorem registerForm_iff {mk : Gate → BitVec 6 → Instr} (hop : w % 256 = op) :
    w < 2 ^ 48 ∧ whenClear (fld w 23 25 = 0) (mk (gateOf w) (bits w 17 6)) = some i ↔ ∃ g r,
      encGate op g + encAt [(r.toNat, 17)] = w ∧ mk g r = i := by
  have key g (r : BitVec 6) := encoded_eq_iff (fs := [(r.toNat, 17)]) g
    [⟨6, r⟩, ⟨25, 0⟩] hop (by simp [encAt, Nat.mul_comm])
  simp [key, and_assoc]
  tauto

theorem plainForm_iff {mk : Gate → Instr} (hop : w % 256 = op) :
    w < 2 ^ 48 ∧ whenClear (fld w 17 31 = 0) (mk (gateOf w)) = some i ↔ ∃ g,
      encGate op g + encAt [] = w ∧ mk g = i := by
  have key g := encoded_eq_iff (fs := []) g
    [⟨31, 0⟩] hop (by simp [encAt])
  simp [key, and_assoc]
  tauto

theorem loopForm_iff {mk : Gate → BitVec 6 → BitVec 8 → BitVec 10 → BitVec 3 → Instr} (hop : w % 256 = op) :
    w < 2 ^ 48 ∧ whenClear (fld w 44 4 = 0)
      (mk (gateOf w) (bits w 38 6) (bits w 30 8) (bits w 20 10) (bits w 17 3)) = some i ↔
      ∃ g cnt lte body lvl,
      encGate op g + encAt [(cnt.toNat, 38), (lte.toNat, 30), (body.toNat, 20), (lvl.toNat, 17)] = w ∧
        mk g cnt lte body lvl = i := by
  have key g (cnt : BitVec 6) (lte : BitVec 8) (body : BitVec 10) (lvl : BitVec 3) := encoded_eq_iff g
    (fs := [(cnt.toNat, 38), (lte.toNat, 30), (body.toNat, 20), (lvl.toNat, 17)])
    [⟨3, lvl⟩, ⟨10, body⟩, ⟨8, lte⟩, ⟨6, cnt⟩, ⟨4, 0⟩] hop (by simp [encAt]; omega)
  simp [key, and_assoc]
  tauto

theorem lexitForm_iff {mk : Gate → BitVec 3 → Instr} (hop : w % 256 = op) :
    w < 2 ^ 48 ∧ whenClear (fld w 20 28 = 0) (mk (gateOf w) (bits w 17 3)) = some i ↔ ∃ g lvl,
      encGate op g + encAt [(lvl.toNat, 17)] = w ∧ mk g lvl = i := by
  have key g (lvl : BitVec 3) := encoded_eq_iff (fs := [(lvl.toNat, 17)]) g
    [⟨3, lvl⟩, ⟨28, 0⟩] hop (by simp [encAt, Nat.mul_comm])
  simp [key, and_assoc]
  tauto

theorem imm8Form_iff {mk : Gate → BitVec 8 → Instr} (hop : w % 256 = op) :
    w < 2 ^ 48 ∧ whenClear (fld w 36 12 = 0 && fld w 17 11 = 0) (mk (gateOf w) (bits w 28 8)) = some i ↔ ∃ g k,
      encGate op g + encAt [(k.toNat, 28)] = w ∧ mk g k = i := by
  have key g (k : BitVec 8) := encoded_eq_iff (fs := [(k.toNat, 28)]) g
    [⟨11, 0⟩, ⟨8, k⟩, ⟨12, 0⟩] hop (by simp [encAt]; omega)
  simp [key, and_assoc]
  tauto

theorem waitdForm_iff {mk : Gate → BitVec 5 → BitVec 6 → Instr} (hop : w % 256 = op) :
    w < 2 ^ 48 ∧ whenClear (fld w 28 20 = 0) (mk (gateOf w) (bits w 17 5) (bits w 22 6)) = some i ↔ ∃ g b r,
      encGate op g + encAt [(b.toNat, 17), (r.toNat, 22)] = w ∧ mk g b r = i := by
  have key g (b : BitVec 5) (r : BitVec 6) := encoded_eq_iff (fs := [(b.toNat, 17), (r.toNat, 22)]) g
    [⟨5, b⟩, ⟨6, r⟩, ⟨20, 0⟩] hop (by simp [encAt]; omega)
  simp [key, and_assoc]
  tauto

theorem waitaForm_iff {mk : Gate → BitVec 5 → Instr} (hop : w % 256 = op) :
    w < 2 ^ 48 ∧ whenClear (fld w 22 26 = 0) (mk (gateOf w) (bits w 17 5)) = some i ↔ ∃ g b,
      encGate op g + encAt [(b.toNat, 17)] = w ∧ mk g b = i := by
  have key g (b : BitVec 5) := encoded_eq_iff (fs := [(b.toNat, 17)]) g
    [⟨5, b⟩, ⟨26, 0⟩] hop (by simp [encAt, Nat.mul_comm])
  simp [key, and_assoc]
  tauto

theorem alignForm_iff {mk : Gate → BitVec 6 → Instr} (hop : w % 256 = op) :
    w < 2 ^ 48 ∧ whenClear (fld w 28 20 = 0 && fld w 17 5 = 0) (mk (gateOf w) (bits w 22 6)) = some i ↔ ∃ g r,
      encGate op g + encAt [(r.toNat, 22)] = w ∧ mk g r = i := by
  have key g (r : BitVec 6) := encoded_eq_iff (fs := [(r.toNat, 22)]) g
    [⟨5, 0⟩, ⟨6, r⟩, ⟨20, 0⟩] hop (by simp [encAt]; omega)
  simp [key, and_assoc]
  tauto

theorem xsForm_iff {mk : Gate → BitVec 6 → VField → Instr} (hop : w % 256 = op) :
    w < 2 ^ 48 ∧ whenClear (fld w 46 2 = 0 && fld w 29 6 = 0 && fld w 17 6 = 0)
      (mk (gateOf w) (bits w 23 6) (bits w 35 11)) = some i ↔
      ∃ g a v,
      encGate op g + encAt [(a.toNat, 23), (v.toNat, 35)] = w ∧ mk g a v = i := by
  have key g (a : BitVec 6) (v : VField) := encoded_eq_iff (fs := [(a.toNat, 23), (v.toNat, 35)]) g
    [⟨6, 0⟩, ⟨6, a⟩, ⟨6, 0⟩, ⟨11, v⟩, ⟨2, 0⟩] hop (by simp [encAt]; omega)
  simp [key, and_assoc]
  tauto

theorem xvForm_iff {mk : Gate → BitVec 6 → VField → BitVec 8 → Instr} (hop : w % 256 = op) :
    w < 2 ^ 48 ∧ whenClear (fld w 46 2 = 0 && fld w 31 4 = 0)
      (mk (gateOf w) (bits w 17 6) (bits w 35 11) (bits w 23 8)) = some i ↔
      ∃ g d v n,
      encGate op g + encAt [(d.toNat, 17), (v.toNat, 35), (n.toNat, 23)] = w ∧ mk g d v n = i := by
  have key g (d : BitVec 6) (v : VField) (n : BitVec 8) := encoded_eq_iff g
    (fs := [(d.toNat, 17), (v.toNat, 35), (n.toNat, 23)])
    [⟨6, d⟩, ⟨8, n⟩, ⟨4, 0⟩, ⟨11, v⟩, ⟨2, 0⟩] hop (by simp [encAt]; omega)
  simp [key, and_assoc]
  tauto

theorem asetForm_iff {mk : Gate → BitVec 4 → BitVec 6 → BitVec 3 → Instr} (hop : w % 256 = op) :
    w < 2 ^ 48 ∧ whenClear (fld w 38 10 = 0 && fld w 29 6 = 0 && fld w 21 2 = 0)
      (mk (gateOf w) (bits w 17 4) (bits w 23 6) (bits w 35 3)) = some i ↔
      ∃ g d a n,
      encGate op g + encAt [(d.toNat, 17), (a.toNat, 23), (n.toNat, 35)] = w ∧ mk g d a n = i := by
  have key g (d : BitVec 4) (a : BitVec 6) (n : BitVec 3) := encoded_eq_iff g
    (fs := [(d.toNat, 17), (a.toNat, 23), (n.toNat, 35)])
    [⟨4, d⟩, ⟨2, 0⟩, ⟨6, a⟩, ⟨6, 0⟩, ⟨3, n⟩, ⟨10, 0⟩] hop (by simp [encAt]; omega)
  simp [key, and_assoc]
  tauto

theorem vmoviForm_iff {mk : Gate → BitVec 4 → VField → BitVec 10 → Instr} (hop : w % 256 = op) :
    w < 2 ^ 64 ∧ whenClear (fld w 32 22 = 0) (mk (gateOf w) (bits w 17 4) (bits w 21 11) (bits w 54 10)) = some i ↔
      ∃ g f d imm,
      encGate op g + encAt [(f.toNat, 17), (d.toNat, 21), (imm.toNat, 54)] = w ∧ mk g f d imm = i := by
  have key g (f : BitVec 4) (d : VField) (imm : BitVec 10) := encoded_eq_iff g
    (fs := [(f.toNat, 17), (d.toNat, 21), (imm.toNat, 54)])
    [⟨4, f⟩, ⟨11, d⟩, ⟨22, 0⟩, ⟨10, imm⟩] hop (by simp [encAt]; omega)
  simp [key, and_assoc]
  tauto

theorem vselForm_iff {mk : Gate → BitVec 4 → VField → VField → VField → BitVec 4 → Instr} (hop : w % 256 = op) :
    w < 2 ^ 64 ∧ whenClear (fld w 58 6 = 0)
      (mk (gateOf w) (bits w 17 4) (bits w 21 11) (bits w 32 11) (bits w 43 11) (bits w 54 4)) = some i ↔
      ∃ g f d a b m,
      encGate op g + encAt [(f.toNat, 17), (d.toNat, 21), (a.toNat, 32), (b.toNat, 43), (m.toNat, 54)] = w ∧
        mk g f d a b m = i := by
  have key g (f : BitVec 4) (d a b : VField) (m : BitVec 4) := encoded_eq_iff g
    (fs := [(f.toNat, 17), (d.toNat, 21), (a.toNat, 32), (b.toNat, 43), (m.toNat, 54)])
    [⟨4, f⟩, ⟨11, d⟩, ⟨11, a⟩, ⟨11, b⟩, ⟨4, m⟩, ⟨6, 0⟩] hop (by simp [encAt]; omega)
  simp [key, and_assoc]
  tauto

theorem wnotForm_iff {mk : Gate → BitVec 4 → BitVec 4 → Instr} (hop : w % 256 = op) :
    w < 2 ^ 64 ∧ whenClear (fld w 36 28 = 0 && fld w 25 7 = 0 && fld w 17 4 = 0)
      (mk (gateOf w) (bits w 21 4) (bits w 32 4)) = some i ↔
      ∃ g d a,
      encGate op g + encAt [(d.toNat, 21), (a.toNat, 32)] = w ∧ mk g d a = i := by
  have key g (d a : BitVec 4) := encoded_eq_iff (fs := [(d.toNat, 21), (a.toNat, 32)]) g
    [⟨4, 0⟩, ⟨4, d⟩, ⟨7, 0⟩, ⟨4, a⟩, ⟨28, 0⟩] hop (by simp [encAt]; omega)
  simp [key, and_assoc]
  tauto

theorem packForm_iff {mk : Gate → BitVec 5 → VField → VField → VField → BitVec 5 → BitVec 2 → Bool → Instr}
    (hop : w % 256 = op) :
    w < 2 ^ 64 ∧ whenClear (fld w 63 1 = 0)
      (mk (gateOf w) (bits w 17 5) (bits w 22 11) (bits w 33 11) (bits w 44 11) (bits w 55 5) (bits w 60 2) (fld w 62 1 = 1)) = some i ↔
      ∃ g f d a b t rm ov,
      encGate op g + encAt
        [(f.toNat, 17), (d.toNat, 22), (a.toNat, 33), (b.toNat, 44), (t.toNat, 55), (rm.toNat, 60), (bit ov, 62)] = w ∧
        mk g f d a b t rm ov = i := by
  have key g (f : BitVec 5) (d a b : VField) (t : BitVec 5) (rm : BitVec 2) (ov : Bool) := encoded_eq_iff g
    (fs := [(f.toNat, 17), (d.toNat, 22), (a.toNat, 33), (b.toNat, 44), (t.toNat, 55), (rm.toNat, 60), (bit ov, 62)])
    [⟨5, f⟩, ⟨11, d⟩, ⟨11, a⟩, ⟨11, b⟩, ⟨5, t⟩, ⟨2, rm⟩, ⟨1, .ofBool ov⟩, ⟨1, 0⟩] hop
    (by simp [encAt, bit_eq_toNat]; omega)
  simp [key, bits_eq_ofBool, -Bool.exists_bool, and_assoc]
  tauto

theorem rotForm_iff {mk : Gate → BitVec 5 → VField → VField → BitVec 9 → Instr} (hop : w % 256 = op) :
    w < 2 ^ 64 ∧ whenClear (fld w 44 11 = 0)
      (mk (gateOf w) (bits w 17 5) (bits w 22 11) (bits w 33 11) (bits w 55 9)) = some i ↔
      ∃ g f d a imm,
      encGate op g + encAt [(f.toNat, 17), (d.toNat, 22), (a.toNat, 33), (imm.toNat, 55)] = w ∧ mk g f d a imm = i := by
  have key g (f : BitVec 5) (d a : VField) (imm : BitVec 9) := encoded_eq_iff g
    (fs := [(f.toNat, 17), (d.toNat, 22), (a.toNat, 33), (imm.toNat, 55)])
    [⟨5, f⟩, ⟨11, d⟩, ⟨11, a⟩, ⟨11, 0⟩, ⟨9, imm⟩] hop (by simp [encAt]; omega)
  simp [key, and_assoc]
  tauto

theorem ascanForm_iff {mk : Gate → BitVec 5 → BitVec 3 → Instr} (hop : w % 256 = op) :
    w < 2 ^ 64 ∧ whenClear (fld w 50 14 = 0 && fld w 22 25 = 0) (mk (gateOf w) (bits w 17 5) (bits w 47 3)) = some i ↔
      ∃ g t cy,
      encGate op g + encAt [(t.toNat, 17), (cy.toNat, 47)] = w ∧ mk g t cy = i := by
  have key g (t : BitVec 5) (cy : BitVec 3) := encoded_eq_iff (fs := [(t.toNat, 17), (cy.toNat, 47)]) g
    [⟨5, t⟩, ⟨25, 0⟩, ⟨3, cy⟩, ⟨14, 0⟩] hop (by simp [encAt]; omega)
  simp [key, and_assoc]
  tauto

theorem vstnForm_iff {mk : Gate → VField → BitVec 4 → BitVec 8 → Instr} (hop : w % 256 = op) :
    w < 2 ^ 64 ∧ whenClear (fld w 49 15 = 0 && fld w 37 4 = 0 && fld w 17 5 = 0)
      (mk (gateOf w) (bits w 22 11) (bits w 33 4) (bits w 41 8)) = some i ↔
      ∃ g r sa n,
      encGate op g + encAt [(r.toNat, 22), (sa.toNat, 33), (n.toNat, 41)] = w ∧ mk g r sa n = i := by
  have key g (r : VField) (sa : BitVec 4) (n : BitVec 8) := encoded_eq_iff g
    (fs := [(r.toNat, 22), (sa.toNat, 33), (n.toNat, 41)])
    [⟨5, 0⟩, ⟨11, r⟩, ⟨4, sa⟩, ⟨4, 0⟩, ⟨8, n⟩, ⟨15, 0⟩] hop (by simp [encAt]; omega)
  simp [key, and_assoc]
  tauto

theorem lqpopForm_iff {mk : Gate → BitVec 6 → Instr} (hop : w % 256 = op) :
    w < 2 ^ 64 ∧ whenClear (fld w 28 36 = 0 && fld w 17 5 = 0) (mk (gateOf w) (bits w 22 6)) = some i ↔ ∃ g r,
      encGate op g + encAt [(r.toNat, 22)] = w ∧ mk g r = i := by
  have key g (r : BitVec 6) := encoded_eq_iff (fs := [(r.toNat, 22)]) g
    [⟨5, 0⟩, ⟨6, r⟩, ⟨36, 0⟩] hop (by simp [encAt]; omega)
  simp [key, and_assoc]
  tauto

theorem cfenceForm_iff {mk : Gate → BitVec 4 → BitVec 2 → Instr} (hop : w % 256 = op) :
    w < 2 ^ 64 ∧ whenClear (fld w 43 21 = 0 && fld w 37 4 = 0 && fld w 17 16 = 0)
      (mk (gateOf w) (bits w 33 4) (bits w 41 2)) = some i ↔
      ∃ g sa n,
      encGate op g + encAt [(sa.toNat, 33), (n.toNat, 41)] = w ∧ mk g sa n = i := by
  have key g (sa : BitVec 4) (n : BitVec 2) := encoded_eq_iff (fs := [(sa.toNat, 33), (n.toNat, 41)]) g
    [⟨16, 0⟩, ⟨4, sa⟩, ⟨4, 0⟩, ⟨2, n⟩, ⟨21, 0⟩] hop (by simp [encAt]; omega)
  simp [key, and_assoc]
  tauto

theorem fenceForm_iff {mk : Gate → BitVec 2 → Instr} (hop : w % 256 = op) :
    w < 2 ^ 64 ∧ whenClear (fld w 43 21 = 0 && fld w 17 24 = 0) (mk (gateOf w) (bits w 41 2)) = some i ↔ ∃ g n,
      encGate op g + encAt [(n.toNat, 41)] = w ∧ mk g n = i := by
  have key g (n : BitVec 2) := encoded_eq_iff (fs := [(n.toNat, 41)]) g
    [⟨24, 0⟩, ⟨2, n⟩, ⟨21, 0⟩] hop (by simp [encAt]; omega)
  simp [key, and_assoc]
  tauto

theorem bpostForm_iff {mk : Gate → BitVec 6 → BitVec 5 → Instr} (hop : w % 256 = op) :
    w < 2 ^ 64 ∧ whenClear (fld w 46 18 = 0 && fld w 28 13 = 0 && fld w 17 5 = 0)
      (mk (gateOf w) (bits w 22 6) (bits w 41 5)) = some i ↔
      ∃ g r b,
      encGate op g + encAt [(r.toNat, 22), (b.toNat, 41)] = w ∧ mk g r b = i := by
  have key g (r : BitVec 6) (b : BitVec 5) := encoded_eq_iff (fs := [(r.toNat, 22), (b.toNat, 41)]) g
    [⟨5, 0⟩, ⟨6, r⟩, ⟨13, 0⟩, ⟨5, b⟩, ⟨18, 0⟩] hop (by simp [encAt]; omega)
  simp [key, and_assoc]
  tauto

/-- `GCRD` names the heat cycle or GCOUNT by its immediate (R132). -/
theorem decGcrd_iff (hop : w % 256 = op) : w < 2 ^ 48 ∧ decGcrd w = some i ↔
    (∃ g d, encGate op g + encAt [(d.toNat, 17)] = w ∧ .gcrdHeat g d = i) ∨
      ∃ g d, encGate op g + encAt [(d.toNat, 17), (1, 35)] = w ∧ .gcrdGcount g d = i := by
  have heat g (d : SReg) := encoded_eq_iff (fs := [(d.toNat, 17)]) g [⟨6, d⟩, ⟨12, 0⟩, ⟨13, 0⟩] hop
    (by simp [encAt, Nat.mul_comm])
  have gcount g (d : SReg) := encoded_eq_iff (fs := [(d.toNat, 17), (1, 35)]) g [⟨6, d⟩, ⟨12, 0⟩, ⟨13, 1⟩] hop
    (by simp [encAt]; omega)
  have one : bits w 35 13 = 1#13 ↔ fld w 35 13 = 1 := by simp [bits_eq_iff]
  simp only [HoldsFields, fieldsWidth, BitVec.ofNat_eq_ofNat, bits_eq_zero_iff, one, Nat.reduceAdd, and_true] at heat gcount
  simp only [heat, gcount, decGcrd, and_assoc, exists_and_left, exists_eq_left']
  by_cases h0 : fld w 35 13 = 0
  · simp [h0, and_comm, and_left_comm]
  · by_cases h1 : fld w 35 13 = 1
    · simp [h1, and_comm, and_left_comm]
    · simp [h0, h1]

/-- The rounding mode of a word is the low part of its opcode (R80). -/
theorem rounding_eq (hop : w % 256 = op) : bits w 0 2 = .ofNat 2 op := by
  rw [bits_eq_iff, fld, BitVec.toNat_ofNat]; omega

/-- The opcode of an encoded syllable. -/
theorem opcode_encoded {g : Gate} {fs : List (Nat × Nat)} (hop : op < 256) (hfs : ∀ p ∈ fs, 8 ≤ p.2) :
    (encGate op g + encAt fs) % 256 = op := by
  have high : 256 ∣ encAt fs := by
    induction fs with
    | nil => exact dvd_zero _
    | cons p rest ih =>
      simp only [List.forall_mem_cons] at hfs
      exact dvd_add (Dvd.dvd.mul_left (pow_dvd_pow 2 hfs.1) _) (ih hfs.2)
  simp only [encGate]; omega

/-- Where the map of a slot names a form for an opcode, the syllables of the form's operations are read. -/
theorem decodes_encoded {D d : Nat → Option Instr} {g : Gate} {fs : List (Nat × Nat)} {n : Nat} (hop : op < 256)
    (hfs : ∀ p ∈ fs, 8 ≤ p.2) (hmap : ∀ w, w % 256 = op → D w = d w)
    (hform : ∀ w, w % 256 = op → encGate op g + encAt fs = w → w < 2 ^ n ∧ d w = some i) :
    encGate op g + encAt fs < 2 ^ n ∧ D (encGate op g + encAt fs) = some i := by
  rw [hmap _ (opcode_encoded hop hfs)]
  exact hform _ (opcode_encoded hop hfs) rfl

theorem decVvr_iff {mk : Gate → BitVec 4 → BitVec 2 → VField → VField → VField → Instr} (hop : w % 256 = op) :
    w < 2 ^ 64 ∧ decVvr w mk = some i ↔ ∃ g f d a b,
      encGate op g + encAt [(f.toNat, 17), (d.toNat, 21), (a.toNat, 32), (b.toNat, 43)] = w ∧
        mk g f (.ofNat 2 op) d a b = i := by
  rw [decVvr, rounding_eq hop]
  exact decVv_iff (mk := fun g f => mk g f _) hop

theorem decVsr_iff {mk : Gate → BitVec 4 → BitVec 2 → VField → VField → SReg → Instr} (hop : w % 256 = op) :
    w < 2 ^ 64 ∧ decVsr w mk = some i ↔ ∃ g f d a c,
      encGate op g + encAt [(f.toNat, 17), (d.toNat, 21), (a.toNat, 32), (c.toNat, 54)] = w ∧
        mk g f (.ofNat 2 op) d a c = i := by
  rw [decVsr, rounding_eq hop]
  exact decVs_iff (mk := fun g f => mk g f _) hop

theorem vfmaForm_iff {mk : Gate → BitVec 4 → BitVec 2 → VField → VField → VField → BitVec 10 → Instr}
    (hop : w % 256 = op) :
    w < 2 ^ 64 ∧
      some (mk (gateOf w) (bits w 17 4) (bits w 0 2) (bits w 21 11) (bits w 32 11) (bits w 43 11) (bits w 54 10)) =
      some i ↔ ∃ g f d a b c,
      encGate op g + encAt [(f.toNat, 17), (d.toNat, 21), (a.toNat, 32), (b.toNat, 43), (c.toNat, 54)] = w ∧
        mk g f (.ofNat 2 op) d a b c = i := by
  have key g (f : BitVec 4) (d a b : VField) (c : BitVec 10) :=
    encoded_eq_iff (fs := [(f.toNat, 17), (d.toNat, 21), (a.toNat, 32), (b.toNat, 43), (c.toNat, 54)]) g
      [⟨4, f⟩, ⟨11, d⟩, ⟨11, a⟩, ⟨11, b⟩, ⟨10, c⟩] hop (by simp [encAt]; omega)
  simp [key, rounding_eq hop, and_assoc]

theorem two_bits_cases : ∀ rm : BitVec 2, rm = 0#2 ∨ rm = 1#2 ∨ rm = 2#2 ∨ rm = 3#2 := by decide

/-! The maps of the slots. -/

theorem encode_of_decodeCtl (hw : w < 2 ^ 48) (h : decodeCtl w = some i) : i.slot? = some .ctl ∧ encode i = w := by
  unfold decodeCtl at h
  split at h
  case h_1 =>
    obtain ⟨rfl, rfl⟩ := by simpa using h
    exact ⟨rfl, rfl⟩
  case h_2 hop | h_3 hop =>
    obtain ⟨_, _, _, he, rfl⟩ := (branchForm_iff hop).1 ⟨hw, h⟩; exact ⟨rfl, he⟩
  case h_4 hop | h_5 hop =>
    obtain ⟨_, _, he, rfl⟩ := (registerForm_iff hop).1 ⟨hw, h⟩; exact ⟨rfl, he⟩
  case h_6 hop | h_9 hop | h_15 hop | h_16 hop =>
    obtain ⟨_, he, rfl⟩ := (plainForm_iff hop).1 ⟨hw, h⟩; exact ⟨rfl, he⟩
  case h_7 hop =>
    obtain ⟨_, _, _, _, _, he, rfl⟩ := (loopForm_iff hop).1 ⟨hw, h⟩; exact ⟨rfl, he⟩
  case h_8 hop =>
    obtain ⟨_, _, he, rfl⟩ := (lexitForm_iff hop).1 ⟨hw, h⟩; exact ⟨rfl, he⟩
  case h_10 hop | h_14 hop =>
    obtain ⟨_, _, he, rfl⟩ := (imm8Form_iff hop).1 ⟨hw, h⟩; exact ⟨rfl, he⟩
  case h_11 hop =>
    obtain ⟨_, _, _, he, rfl⟩ := (waitdForm_iff hop).1 ⟨hw, h⟩; exact ⟨rfl, he⟩
  case h_12 hop =>
    obtain ⟨_, _, he, rfl⟩ := (waitaForm_iff hop).1 ⟨hw, h⟩; exact ⟨rfl, he⟩
  case h_13 hop =>
    obtain ⟨_, _, he, rfl⟩ := (alignForm_iff hop).1 ⟨hw, h⟩; exact ⟨rfl, he⟩
  case h_17 => cases h

theorem decodeCtl_encode (h : i.slot? = some .ctl) : encode i < 2 ^ 48 ∧ decodeCtl (encode i) = some i := by
  cases i <;> try (cases h; done)
  case nop => cases h; exact ⟨by decide, rfl⟩
  case br | call =>
    exact decodes_encoded (by decide) (by simp) (fun _ h => by rw [decodeCtl, h]; rfl)
      fun _ h e => (branchForm_iff h).2 ⟨_, _, _, e, rfl⟩
  case bri | calli =>
    exact decodes_encoded (by decide) (by simp) (fun _ h => by rw [decodeCtl, h]; rfl)
      fun _ h e => (registerForm_iff h).2 ⟨_, _, e, rfl⟩
  case ret | halt | chill | fret =>
    exact decodes_encoded (by decide) (by simp) (fun _ h => by rw [decodeCtl, h]; rfl)
      fun _ h e => (plainForm_iff h).2 ⟨_, e, rfl⟩
  case loop =>
    exact decodes_encoded (by decide) (by simp) (fun _ h => by rw [decodeCtl, h]; rfl)
      fun _ h e => (loopForm_iff h).2 ⟨_, _, _, _, _, e, rfl⟩
  case lexit =>
    exact decodes_encoded (by decide) (by simp) (fun _ h => by rw [decodeCtl, h]; rfl)
      fun _ h e => (lexitForm_iff h).2 ⟨_, _, e, rfl⟩
  case trig | trap =>
    exact decodes_encoded (by decide) (by simp) (fun _ h => by rw [decodeCtl, h]; rfl)
      fun _ h e => (imm8Form_iff h).2 ⟨_, _, e, rfl⟩
  case waitd =>
    exact decodes_encoded (by decide) (by simp) (fun _ h => by rw [decodeCtl, h]; rfl)
      fun _ h e => (waitdForm_iff h).2 ⟨_, _, _, e, rfl⟩
  case waita =>
    exact decodes_encoded (by decide) (by simp) (fun _ h => by rw [decodeCtl, h]; rfl)
      fun _ h e => (waitaForm_iff h).2 ⟨_, _, e, rfl⟩
  case align =>
    exact decodes_encoded (by decide) (by simp) (fun _ h => by rw [decodeCtl, h]; rfl)
      fun _ h e => (alignForm_iff h).2 ⟨_, _, e, rfl⟩

theorem encode_of_decodeSca (hw : w < 2 ^ 48) (h : decodeSca w = some i) : i.slot? = some .sca ∧ encode i = w := by
  unfold decodeSca at h
  split at h
  case h_1 =>
    obtain ⟨rfl, rfl⟩ := by simpa using h
    exact ⟨rfl, rfl⟩
  case h_2 hop | h_3 hop | h_4 hop | h_5 hop | h_6 hop | h_7 hop | h_8 hop | h_9 hop | h_10 hop | h_11 hop |
      h_12 hop | h_13 hop | h_22 hop | h_23 hop | h_24 hop | h_25 hop | h_26 hop | h_27 hop | h_28 hop =>
    obtain ⟨_, _, _, _, he, rfl⟩ := (decSr_iff hop).1 ⟨hw, h⟩; exact ⟨rfl, he⟩
  case h_14 hop | h_15 hop | h_16 hop | h_17 hop | h_18 hop | h_19 hop | h_20 hop | h_21 hop =>
    obtain ⟨_, _, _, _, he, rfl⟩ := (decSi_iff hop).1 ⟨hw, h⟩; exact ⟨rfl, he⟩
  case h_29 hop =>
    obtain ⟨_, _, _, he, rfl⟩ := (xsForm_iff hop).1 ⟨hw, h⟩; exact ⟨rfl, he⟩
  case h_30 hop =>
    obtain ⟨_, _, _, _, he, rfl⟩ := (xvForm_iff hop).1 ⟨hw, h⟩; exact ⟨rfl, he⟩
  case h_31 hop | h_32 hop | h_33 hop | h_34 hop | h_35 hop | h_36 hop =>
    obtain ⟨_, _, _, _, he, rfl⟩ := (decSq_iff hop).1 ⟨hw, h⟩; exact ⟨rfl, he⟩
  case h_37 hop | h_38 hop | h_39 hop | h_40 hop | h_41 hop | h_42 hop =>
    obtain ⟨_, _, _, _, he, rfl⟩ := (decSqi_iff hop).1 ⟨hw, h⟩; exact ⟨rfl, he⟩
  case h_43 hop | h_44 hop | h_45 hop | h_46 hop =>
    obtain ⟨_, _, _, _, he, rfl⟩ := (decQq_iff hop).1 ⟨hw, h⟩; exact ⟨rfl, he⟩
  case h_47 hop =>
    obtain ⟨_, _, _, _, he, rfl⟩ := (asetForm_iff hop).1 ⟨hw, h⟩; exact ⟨rfl, he⟩
  case h_48 hop | h_51 hop | h_52 hop =>
    obtain ⟨_, _, _, he, rfl⟩ := (decSs_iff hop).1 ⟨hw, h⟩; exact ⟨rfl, he⟩
  case h_49 hop | h_53 hop =>
    obtain ⟨_, _, _, he, rfl⟩ := (decSw_iff hop).1 ⟨hw, h⟩; exact ⟨rfl, he⟩
  case h_50 hop =>
    obtain ⟨g, d, he, rfl⟩ | ⟨g, d, he, rfl⟩ := (decGcrd_iff hop).1 ⟨hw, h⟩ <;> exact ⟨rfl, he⟩
  case h_54 => cases h

theorem decodeSca_encode (h : i.slot? = some .sca) : encode i < 2 ^ 48 ∧ decodeSca (encode i) = some i := by
  cases i <;> try (cases h; done)
  case nop => cases h; exact ⟨by decide, rfl⟩
  case add | sub | and | or | xor | shl | shr | sar | min | max | minu | maxu | mul | mulh | mulhu | div | divu |
      rem | remu =>
    exact decodes_encoded (by decide) (by simp) (fun _ h => by rw [decodeSca, h]; rfl)
      fun _ h e => (decSr_iff h).2 ⟨_, _, _, _, e, rfl⟩
  case addi | andi | ori | xori | shli | shri | sari | cati =>
    exact decodes_encoded (by decide) (by simp) (fun _ h => by rw [decodeSca, h]; rfl)
      fun _ h e => (decSi_iff h).2 ⟨_, _, _, _, e, rfl⟩
  case xs =>
    exact decodes_encoded (by decide) (by simp) (fun _ h => by rw [decodeSca, h]; rfl)
      fun _ h e => (xsForm_iff h).2 ⟨_, _, _, e, rfl⟩
  case xv =>
    exact decodes_encoded (by decide) (by simp) (fun _ h => by rw [decodeSca, h]; rfl)
      fun _ h e => (xvForm_iff h).2 ⟨_, _, _, _, e, rfl⟩
  case cmpeq | cmpne | cmplt | cmpltu | cmple | cmpleu =>
    exact decodes_encoded (by decide) (by simp) (fun _ h => by rw [decodeSca, h]; rfl)
      fun _ h e => (decSq_iff h).2 ⟨_, _, _, _, e, rfl⟩
  case cmpeqi | cmpnei | cmplti | cmpltui | cmplei | cmpleui =>
    exact decodes_encoded (by decide) (by simp) (fun _ h => by rw [decodeSca, h]; rfl)
      fun _ h e => (decSqi_iff h).2 ⟨_, _, _, _, e, rfl⟩
  case qand | qor | qxor | qandn =>
    exact decodes_encoded (by decide) (by simp) (fun _ h => by rw [decodeSca, h]; rfl)
      fun _ h e => (decQq_iff h).2 ⟨_, _, _, _, e, rfl⟩
  case aset =>
    exact decodes_encoded (by decide) (by simp) (fun _ h => by rw [decodeSca, h]; rfl)
      fun _ h e => (asetForm_iff h).2 ⟨_, _, _, _, e, rfl⟩
  case srd | lxrd | fsrd =>
    exact decodes_encoded (by decide) (by simp) (fun _ h => by rw [decodeSca, h]; rfl)
      fun _ h e => (decSs_iff h).2 ⟨_, _, _, e, rfl⟩
  case swr | fswr =>
    exact decodes_encoded (by decide) (by simp) (fun _ h => by rw [decodeSca, h]; rfl)
      fun _ h e => (decSw_iff h).2 ⟨_, _, _, e, rfl⟩
  case gcrdHeat =>
    exact decodes_encoded (by decide) (by simp) (fun _ h => by rw [decodeSca, h]; rfl)
      fun _ h e => (decGcrd_iff h).2 (.inl ⟨_, _, e, rfl⟩)
  case gcrdGcount =>
    exact decodes_encoded (by decide) (by simp) (fun _ h => by rw [decodeSca, h]; rfl)
      fun _ h e => (decGcrd_iff h).2 (.inr ⟨_, _, e, rfl⟩)

theorem encode_of_decodeVec (hw : w < 2 ^ 64) (h : decodeVec w = some i) : i.slot? = some .vec ∧ encode i = w := by
  unfold decodeVec at h
  split at h
  case h_1 =>
    obtain ⟨rfl, rfl⟩ := by simpa using h
    exact ⟨rfl, rfl⟩
  case h_2 hop | h_4 hop | h_6 hop | h_8 hop | h_10 hop | h_12 hop | h_14 hop | h_16 hop | h_18 hop | h_20 hop |
      h_22 hop | h_24 hop | h_26 hop | h_28 hop | h_64 hop | h_66 hop =>
    obtain ⟨_, _, _, _, _, he, rfl⟩ := (decVv_iff hop).1 ⟨hw, h⟩; exact ⟨rfl, he⟩
  case h_3 hop | h_5 hop | h_7 hop | h_9 hop | h_11 hop | h_13 hop | h_15 hop | h_17 hop | h_19 hop | h_21 hop |
      h_23 hop | h_25 hop | h_27 hop | h_29 hop | h_65 hop | h_67 hop =>
    obtain ⟨_, _, _, _, _, he, rfl⟩ := (decVs_iff hop).1 ⟨hw, h⟩; exact ⟨rfl, he⟩
  case h_30 hop | h_31 hop | h_32 hop | h_33 hop | h_68 hop | h_69 hop | h_70 hop | h_71 hop | h_72 hop |
      h_73 hop | h_82 hop | h_83 hop | h_84 hop | h_85 hop =>
    obtain ⟨_, _, _, _, he, rfl⟩ := (decV1_iff hop).1 ⟨hw, h⟩; exact ⟨rfl, he⟩
  case h_34 hop =>
    obtain ⟨_, _, _, _, he, rfl⟩ := (vmoviForm_iff hop).1 ⟨hw, h⟩; exact ⟨rfl, he⟩
  case h_35 hop =>
    obtain ⟨_, _, _, _, _, _, he, rfl⟩ := (vselForm_iff hop).1 ⟨hw, h⟩; exact ⟨rfl, he⟩
  case h_36 hop | h_37 hop | h_38 hop | h_39 hop | h_44 hop | h_45 hop | h_46 hop | h_47 hop | h_52 hop |
      h_53 hop | h_54 hop | h_55 hop =>
    obtain ⟨_, _, _, _, _, he, rfl⟩ := (decVvr_iff hop).1 ⟨hw, h⟩; exact ⟨rfl, he⟩
  case h_40 hop | h_41 hop | h_42 hop | h_43 hop | h_48 hop | h_49 hop | h_50 hop | h_51 hop | h_56 hop |
      h_57 hop | h_58 hop | h_59 hop =>
    obtain ⟨_, _, _, _, _, he, rfl⟩ := (decVsr_iff hop).1 ⟨hw, h⟩; exact ⟨rfl, he⟩
  case h_60 hop | h_61 hop | h_62 hop | h_63 hop =>
    obtain ⟨_, _, _, _, _, _, he, rfl⟩ := (vfmaForm_iff hop).1 ⟨hw, h⟩; exact ⟨rfl, he⟩
  case h_74 hop | h_76 hop | h_78 hop | h_80 hop =>
    obtain ⟨_, _, _, _, _, he, rfl⟩ := (decVc_iff hop).1 ⟨hw, h⟩; exact ⟨rfl, he⟩
  case h_75 hop | h_77 hop | h_79 hop | h_81 hop =>
    obtain ⟨_, _, _, _, _, he, rfl⟩ := (decVcs_iff hop).1 ⟨hw, h⟩; exact ⟨rfl, he⟩
  case h_86 hop | h_87 hop | h_88 hop | h_90 hop =>
    obtain ⟨_, _, _, _, he, rfl⟩ := (decVm_iff hop).1 ⟨hw, h⟩; exact ⟨rfl, he⟩
  case h_89 hop =>
    obtain ⟨_, _, _, he, rfl⟩ := (wnotForm_iff hop).1 ⟨hw, h⟩; exact ⟨rfl, he⟩
  case h_91 => cases h

theorem decodeVec_encode (h : i.slot? = some .vec) : encode i < 2 ^ 64 ∧ decodeVec (encode i) = some i := by
  cases i <;> try (cases h; done)
  case nop => cases h; exact ⟨by decide, rfl⟩
  case vfadd g f rm d a b | vfsub g f rm d a b | vfmul g f rm d a b =>
    obtain rfl | rfl | rfl | rfl := two_bits_cases rm
    all_goals
      exact decodes_encoded (by decide) (by simp) (fun _ h => by rw [decodeVec, h]; rfl)
        fun _ h e => (decVvr_iff h).2 ⟨_, _, _, _, _, e, rfl⟩
  case vfaddVs g f rm d a c | vfsubVs g f rm d a c | vfmulVs g f rm d a c =>
    obtain rfl | rfl | rfl | rfl := two_bits_cases rm
    all_goals
      exact decodes_encoded (by decide) (by simp) (fun _ h => by rw [decodeVec, h]; rfl)
        fun _ h e => (decVsr_iff h).2 ⟨_, _, _, _, _, e, rfl⟩
  case vfma g f rm d a b c =>
    obtain rfl | rfl | rfl | rfl := two_bits_cases rm
    all_goals
      exact decodes_encoded (by decide) (by simp) (fun _ h => by rw [decodeVec, h]; rfl)
        fun _ h e => (vfmaForm_iff h).2 ⟨_, _, _, _, _, _, e, rfl⟩
  case vadd | vsub | vmul | vmulh | vmin | vmax | vand | vor | vxor | vshl | vshr | vsar | vadds | vsubs | vfmin |
      vfmax =>
    exact decodes_encoded (by decide) (by simp) (fun _ h => by rw [decodeVec, h]; rfl)
      fun _ h e => (decVv_iff h).2 ⟨_, _, _, _, _, e, rfl⟩
  case vaddVs | vsubVs | vmulVs | vmulhVs | vminVs | vmaxVs | vandVs | vorVs | vxorVs | vshlVs | vshrVs | vsarVs |
      vaddsVs | vsubsVs | vfminVs | vfmaxVs =>
    exact decodes_encoded (by decide) (by simp) (fun _ h => by rw [decodeVec, h]; rfl)
      fun _ h e => (decVs_iff h).2 ⟨_, _, _, _, _, e, rfl⟩
  case vabs | vneg | vnot | vmov | vfabs | vfneg | vexp2 | vlog2 | vrcp | vrsq | vrsum | vrmax | vrmin | vpsum =>
    exact decodes_encoded (by decide) (by simp) (fun _ h => by rw [decodeVec, h]; rfl)
      fun _ h e => (decV1_iff h).2 ⟨_, _, _, _, e, rfl⟩
  case vmovi =>
    exact decodes_encoded (by decide) (by simp) (fun _ h => by rw [decodeVec, h]; rfl)
      fun _ h e => (vmoviForm_iff h).2 ⟨_, _, _, _, e, rfl⟩
  case vsel =>
    exact decodes_encoded (by decide) (by simp) (fun _ h => by rw [decodeVec, h]; rfl)
      fun _ h e => (vselForm_iff h).2 ⟨_, _, _, _, _, _, e, rfl⟩
  case vcmpeq | vcmpne | vcmplt | vcmple =>
    exact decodes_encoded (by decide) (by simp) (fun _ h => by rw [decodeVec, h]; rfl)
      fun _ h e => (decVc_iff h).2 ⟨_, _, _, _, _, e, rfl⟩
  case vcmpeqVs | vcmpneVs | vcmpltVs | vcmpleVs =>
    exact decodes_encoded (by decide) (by simp) (fun _ h => by rw [decodeVec, h]; rfl)
      fun _ h e => (decVcs_iff h).2 ⟨_, _, _, _, _, e, rfl⟩
  case wand | wor | wxor | wandn =>
    exact decodes_encoded (by decide) (by simp) (fun _ h => by rw [decodeVec, h]; rfl)
      fun _ h e => (decVm_iff h).2 ⟨_, _, _, _, e, rfl⟩
  case wnot =>
    exact decodes_encoded (by decide) (by simp) (fun _ h => by rw [decodeVec, h]; rfl)
      fun _ h e => (wnotForm_iff h).2 ⟨_, _, _, e, rfl⟩

theorem encode_of_decodePrm (hw : w < 2 ^ 64) (h : decodePrm w = some i) : i.slot? = some .prm ∧ encode i = w := by
  unfold decodePrm at h
  split at h
  case h_1 =>
    obtain ⟨rfl, rfl⟩ := by simpa using h
    exact ⟨rfl, rfl⟩
  case h_2 hop =>
    obtain ⟨_, _, _, _, _, _, _, _, he, rfl⟩ := (packForm_iff hop).1 ⟨hw, h⟩; exact ⟨rfl, he⟩
  case h_3 hop | h_4 hop =>
    obtain ⟨_, _, _, _, _, _, _, he, rfl⟩ := (decPc_iff hop).1 ⟨hw, h⟩; exact ⟨rfl, he⟩
  case h_5 hop | h_6 hop =>
    obtain ⟨_, _, _, _, _, _, _, _, _, he, rfl⟩ := (decPs_iff hop).1 ⟨hw, h⟩; exact ⟨rfl, he⟩
  case h_7 hop | h_8 hop =>
    obtain ⟨_, _, _, he, rfl⟩ := (decPk_iff hop).1 ⟨hw, h⟩; exact ⟨rfl, he⟩
  case h_9 hop | h_10 hop | h_11 hop =>
    obtain ⟨_, _, _, _, _, _, he, rfl⟩ := (decPp_iff hop).1 ⟨hw, h⟩; exact ⟨rfl, he⟩
  case h_12 hop =>
    obtain ⟨_, _, _, _, _, he, rfl⟩ := (rotForm_iff hop).1 ⟨hw, h⟩; exact ⟨rfl, he⟩
  case h_13 => cases h

theorem decodePrm_encode (h : i.slot? = some .prm) : encode i < 2 ^ 64 ∧ decodePrm (encode i) = some i := by
  cases i <;> try (cases h; done)
  case nop => cases h; exact ⟨by decide, rfl⟩
  case pack =>
    exact decodes_encoded (by decide) (by simp) (fun _ h => by rw [decodePrm, h]; rfl)
      fun _ h e => (packForm_iff h).2 ⟨_, _, _, _, _, _, _, _, e, rfl⟩
  case unpk | vcvt =>
    exact decodes_encoded (by decide) (by simp) (fun _ h => by rw [decodePrm, h]; rfl)
      fun _ h e => (decPc_iff h).2 ⟨_, _, _, _, _, _, _, e, rfl⟩
  case scale | qnt =>
    exact decodes_encoded (by decide) (by simp) (fun _ h => by rw [decodePrm, h]; rfl)
      fun _ h e => (decPs_iff h).2 ⟨_, _, _, _, _, _, _, _, _, e, rfl⟩
  case ldsc | stsc =>
    exact decodes_encoded (by decide) (by simp) (fun _ h => by rw [decodePrm, h]; rfl)
      fun _ h e => (decPk_iff h).2 ⟨_, _, _, e, rfl⟩
  case perm | slide | shuf =>
    exact decodes_encoded (by decide) (by simp) (fun _ h => by rw [decodePrm, h]; rfl)
      fun _ h e => (decPp_iff h).2 ⟨_, _, _, _, _, _, e, rfl⟩
  case rot =>
    exact decodes_encoded (by decide) (by simp) (fun _ h => by rw [decodePrm, h]; rfl)
      fun _ h e => (rotForm_iff h).2 ⟨_, _, _, _, _, e, rfl⟩

theorem encode_of_decodeMat (hw : w < 2 ^ 64) (h : decodeMat w = some i) : i.slot? = some .mat ∧ encode i = w := by
  unfold decodeMat at h
  split at h
  case h_1 =>
    obtain ⟨rfl, rfl⟩ := by simpa using h
    exact ⟨rfl, rfl⟩
  case h_2 hop | h_3 hop | h_4 hop | h_5 hop =>
    obtain ⟨_, _, _, _, _, _, _, he, rfl⟩ := (decStep_iff hop).1 ⟨hw, h⟩; exact ⟨rfl, he⟩
  case h_6 hop | h_7 hop | h_8 hop =>
    obtain ⟨_, _, _, _, he, rfl⟩ := (decRg_iff hop).1 ⟨hw, h⟩; exact ⟨rfl, he⟩
  case h_9 hop | h_10 hop =>
    obtain ⟨_, _, he, rfl⟩ := (decTile_iff hop).1 ⟨hw, h⟩; exact ⟨rfl, he⟩
  case h_11 hop =>
    obtain ⟨_, _, _, he, rfl⟩ := (ascanForm_iff hop).1 ⟨hw, h⟩; exact ⟨rfl, he⟩
  case h_12 hop | h_13 hop =>
    obtain ⟨_, _, _, he, rfl⟩ := (decCy_iff hop).1 ⟨hw, h⟩; exact ⟨rfl, he⟩
  case h_14 => cases h

theorem decodeMat_encode (h : i.slot? = some .mat) : encode i < 2 ^ 64 ∧ decodeMat (encode i) = some i := by
  cases i <;> try (cases h; done)
  case nop => cases h; exact ⟨by decide, rfl⟩
  case mma | mmaz | mmaa | mmaaz =>
    exact decodes_encoded (by decide) (by simp) (fun _ h => by rw [decodeMat, h]; rfl)
      fun _ h e => (decStep_iff h).2 ⟨_, _, _, _, _, _, _, e, rfl⟩
  case mgain | mrd | mwr =>
    exact decodes_encoded (by decide) (by simp) (fun _ h => by rw [decodeMat, h]; rfl)
      fun _ h e => (decRg_iff h).2 ⟨_, _, _, _, e, rfl⟩
  case mzero | mclrp =>
    exact decodes_encoded (by decide) (by simp) (fun _ h => by rw [decodeMat, h]; rfl)
      fun _ h e => (decTile_iff h).2 ⟨_, _, e, rfl⟩
  case ascan =>
    exact decodes_encoded (by decide) (by simp) (fun _ h => by rw [decodeMat, h]; rfl)
      fun _ h e => (ascanForm_iff h).2 ⟨_, _, _, e, rfl⟩
  case msvc | mldc =>
    exact decodes_encoded (by decide) (by simp) (fun _ h => by rw [decodeMat, h]; rfl)
      fun _ h e => (decCy_iff h).2 ⟨_, _, _, e, rfl⟩

theorem encode_of_decodeMem (hw : w < 2 ^ 64) (h : decodeMem w = some i) : i.slot? = some .mem ∧ encode i = w := by
  unfold decodeMem at h
  split at h
  case h_1 =>
    obtain ⟨rfl, rfl⟩ := by simpa using h
    exact ⟨rfl, rfl⟩
  case h_2 hop | h_3 hop =>
    obtain ⟨_, _, _, he, rfl⟩ := (decMlv_iff hop).1 ⟨hw, h⟩; exact ⟨rfl, he⟩
  case h_4 hop | h_5 hop =>
    obtain ⟨_, _, _, he, rfl⟩ := (decMls_iff hop).1 ⟨hw, h⟩; exact ⟨rfl, he⟩
  case h_6 hop | h_7 hop =>
    obtain ⟨_, _, _, _, _, he, rfl⟩ := (decMg_iff hop).1 ⟨hw, h⟩; exact ⟨rfl, he⟩
  case h_8 hop =>
    obtain ⟨_, _, _, _, he, rfl⟩ := (vstnForm_iff hop).1 ⟨hw, h⟩; exact ⟨rfl, he⟩
  case h_9 hop | h_10 hop =>
    obtain ⟨_, _, _, _, _, he, rfl⟩ := (decMa_iff hop).1 ⟨hw, h⟩; exact ⟨rfl, he⟩
  case h_11 hop =>
    obtain ⟨_, _, he, rfl⟩ := (lqpopForm_iff hop).1 ⟨hw, h⟩; exact ⟨rfl, he⟩
  case h_12 hop | h_13 hop | h_14 hop | h_15 hop | h_16 hop | h_17 hop | h_18 hop | h_19 hop | h_23 hop |
      h_24 hop | h_25 hop | h_26 hop =>
    obtain ⟨_, _, he, rfl⟩ := (decMe_iff hop).1 ⟨hw, h⟩; exact ⟨rfl, he⟩
  case h_20 hop =>
    obtain ⟨_, _, _, he, rfl⟩ := (cfenceForm_iff hop).1 ⟨hw, h⟩; exact ⟨rfl, he⟩
  case h_21 hop =>
    obtain ⟨_, _, he, rfl⟩ := (fenceForm_iff hop).1 ⟨hw, h⟩; exact ⟨rfl, he⟩
  case h_22 hop =>
    obtain ⟨_, _, _, he, rfl⟩ := (bpostForm_iff hop).1 ⟨hw, h⟩; exact ⟨rfl, he⟩
  case h_27 => cases h

theorem decodeMem_encode (h : i.slot? = some .mem) : encode i < 2 ^ 64 ∧ decodeMem (encode i) = some i := by
  cases i <;> try (cases h; done)
  case nop => cases h; exact ⟨by decide, rfl⟩
  case vld | vst =>
    exact decodes_encoded (by decide) (by simp) (fun _ h => by rw [decodeMem, h]; rfl)
      fun _ h e => (decMlv_iff h).2 ⟨_, _, _, e, rfl⟩
  case sld | sst =>
    exact decodes_encoded (by decide) (by simp) (fun _ h => by rw [decodeMem, h]; rfl)
      fun _ h e => (decMls_iff h).2 ⟨_, _, _, e, rfl⟩
  case vgth | vsct =>
    exact decodes_encoded (by decide) (by simp) (fun _ h => by rw [decodeMem, h]; rfl)
      fun _ h e => (decMg_iff h).2 ⟨_, _, _, _, _, e, rfl⟩
  case vstn =>
    exact decodes_encoded (by decide) (by simp) (fun _ h => by rw [decodeMem, h]; rfl)
      fun _ h e => (vstnForm_iff h).2 ⟨_, _, _, _, e, rfl⟩
  case atom | red =>
    exact decodes_encoded (by decide) (by simp) (fun _ h => by rw [decodeMem, h]; rfl)
      fun _ h e => (decMa_iff h).2 ⟨_, _, _, _, _, e, rfl⟩
  case lqpop =>
    exact decodes_encoded (by decide) (by simp) (fun _ h => by rw [decodeMem, h]; rfl)
      fun _ h e => (lqpopForm_iff h).2 ⟨_, _, e, rfl⟩
  case copy | pour | take | cred | caxpy | cfill | put | get | qrd | kscan | kclr | japp =>
    exact decodes_encoded (by decide) (by simp) (fun _ h => by rw [decodeMem, h]; rfl)
      fun _ h e => (decMe_iff h).2 ⟨_, _, e, rfl⟩
  case cfence =>
    exact decodes_encoded (by decide) (by simp) (fun _ h => by rw [decodeMem, h]; rfl)
      fun _ h e => (cfenceForm_iff h).2 ⟨_, _, _, e, rfl⟩
  case fence =>
    exact decodes_encoded (by decide) (by simp) (fun _ h => by rw [decodeMem, h]; rfl)
      fun _ h e => (fenceForm_iff h).2 ⟨_, _, e, rfl⟩
  case bpost =>
    exact decodes_encoded (by decide) (by simp) (fun _ h => by rw [decodeMem, h]; rfl)
      fun _ h e => (bpostForm_iff h).2 ⟨_, _, _, e, rfl⟩

/-- The words of a slot's width that decode are the encodings of the slot's well-formed operations (R72, R73). -/
theorem decodeSyl_iff {sl : Slot} : w < 2 ^ slotWidth sl ∧ decodeSyl sl w = some i ↔
    (i.slot? = some sl ∧ encode i = w) ∧ i.wf = true := by
  have filtered {d : Option Instr} (h : w < 2 ^ slotWidth sl ∧ d = some i ↔ i.slot? = some sl ∧ encode i = w) :
      w < 2 ^ slotWidth sl ∧ d.filter Instr.wf = some i ↔ (i.slot? = some sl ∧ encode i = w) ∧ i.wf = true := by
    rw [← h, Option.filter_eq_some_iff, and_assoc]
  cases sl with
  | ctl => exact filtered ⟨fun h => encode_of_decodeCtl h.1 h.2, fun h => h.2 ▸ decodeCtl_encode h.1⟩
  | sca => exact filtered ⟨fun h => encode_of_decodeSca h.1 h.2, fun h => h.2 ▸ decodeSca_encode h.1⟩
  | vec => exact filtered ⟨fun h => encode_of_decodeVec h.1 h.2, fun h => h.2 ▸ decodeVec_encode h.1⟩
  | mat => exact filtered ⟨fun h => encode_of_decodeMat h.1 h.2, fun h => h.2 ▸ decodeMat_encode h.1⟩
  | prm => exact filtered ⟨fun h => encode_of_decodePrm h.1 h.2, fun h => h.2 ▸ decodePrm_encode h.1⟩
  | mem => exact filtered ⟨fun h => encode_of_decodeMem h.1 h.2, fun h => h.2 ▸ decodeMem_encode h.1⟩

/-- The syllables of two slots do not overlap, and lie in the bundle (R69). -/
theorem slots_apart (a b : Slot) : slotLow a + slotWidth a ≤ 384 ∧
    (a = b ∨ slotLow a + slotWidth a ≤ slotLow b ∨ slotLow b + slotWidth b ≤ slotLow a) := by
  cases a <;> cases b <;> decide

/-- A word placed at its bits is read there. -/
theorem fld_mul_same {x lo n : Nat} (hx : x < 2 ^ n) : fld (x * 2 ^ lo) lo n = x := by
  rw [fld, Nat.mul_div_cancel _ (by positivity), Nat.mod_eq_of_lt hx]

/-- Below a word placed at its bits all are 0. -/
theorem fld_mul_below {x lo lo' n' : Nat} (h : lo' + n' ≤ lo) : fld (x * 2 ^ lo) lo' n' = 0 := by
  obtain ⟨k, rfl⟩ := Nat.exists_eq_add_of_le h
  rw [fld, show x * 2 ^ (lo' + n' + k) = x * 2 ^ k * 2 ^ n' * 2 ^ lo' by ring, Nat.mul_div_cancel _ (by positivity),
    Nat.mul_mod_left]

/-- Above a word placed at its bits all are 0. -/
theorem fld_mul_above {x lo n lo' n' : Nat} (hx : x < 2 ^ n) (h : lo + n ≤ lo') : fld (x * 2 ^ lo) lo' n' = 0 := by
  have : x * 2 ^ lo < 2 ^ lo' := calc
    x * 2 ^ lo < 2 ^ n * 2 ^ lo := Nat.mul_lt_mul_of_pos_right hx (by positivity)
    _ = 2 ^ (lo + n) := by ring
    _ ≤ 2 ^ lo' := Nat.pow_le_pow_right (by decide) h
  rw [fld, Nat.div_eq_of_lt this, Nat.zero_mod]

/-- A bundle of one operation holds it in its slot, and the NOPs of the others. -/
theorem syl_bundleOf {sl : Slot} (hs : i.slot? = some sl) (hi : encode i < 2 ^ slotWidth sl) (other : Slot) :
    syl (bundleOf i) other = if other = sl then encode i else 0 := by
  obtain ⟨hin, hap⟩ := slots_apart sl other
  have fits : encode i * 2 ^ slotLow sl < 2 ^ 384 := calc
    _ < 2 ^ slotWidth sl * 2 ^ slotLow sl := Nat.mul_lt_mul_of_pos_right hi (by positivity)
    _ = 2 ^ (slotLow sl + slotWidth sl) := by ring
    _ ≤ 2 ^ 384 := Nat.pow_le_pow_right (by decide) hin
  simp only [syl, bundleOf, hs, BitVec.toNat_ofNat, Nat.mod_eq_of_lt fits]
  by_cases h : other = sl
  · rw [if_pos h, h, fld_mul_same hi]
  · rw [if_neg h]
    rcases hap with e | above | below
    · exact absurd e.symm h
    · exact fld_mul_above hi above
    · exact fld_mul_below below

/-- Settles O58: the words that decode are the encodings, form by form. -/
theorem encoding : Obligations.Encoding := by
  refine ⟨fun i sl hs hwf => ?_, fun sl w i hw h => ?_⟩
  · obtain ⟨hlt, hdec⟩ := decodeSyl_iff.2 ⟨⟨hs, rfl⟩, hwf⟩
    exact ⟨hdec, hlt, syl_bundleOf hs hlt⟩
  · obtain ⟨⟨hs, he⟩, hwf⟩ := decodeSyl_iff.1 ⟨hw, h⟩
    exact ⟨he, hwf, hs⟩

theorem decodeSyl_of_encode {sl : Slot} (he : encode i = w) (hs : i.slot? = some sl) (hwf : i.wf = true) :
    decodeSyl sl w = some i :=
  (decodeSyl_iff.2 ⟨⟨hs, he⟩, hwf⟩).2

/-- Settles O57: each word is the encoding of its instruction; the last two are a NOP and an opcode that names nothing. -/
theorem decodeWords : Obligations.DecodeWords := by
  refine ⟨?_, ?_, ?_, ?_, ?_, ?_, ?_, ?_, ?_, ?_, ?_, ?_, ?_, ?_, ?_, ?_, ?_, rfl, rfl⟩
  all_goals exact decodeSyl_of_encode rfl rfl rfl

end

end Sys2Proof
end

section
/-! PROOFS. The issue of a bundle (R71, R238, R243): which fault it raises, and what its commit leaves. -/

namespace Sys2Proof.Machine
open Sys2Proof.Safety

/-! The checks of R238. -/

/-- Adding a power of two whose bit is clear keeps every bit that is set. -/
theorem testBit_add_two_pow_of_clear {m i j : Nat} (hi : m.testBit i = false) (hj : m.testBit j = true) :
    (m + 2 ^ i).testBit j = true := by
  have hne : i ≠ j := fun e => by simp [← e, hi] at hj
  rw [Nat.add_comm]
  rcases Nat.lt_or_gt_of_ne hne with h | h
  · have hlow : m % 2 ^ (i + 1) = m % 2 ^ i := by
      have hz : m / 2 ^ i % 2 = 0 := by
        simpa [Nat.testBit_eq_decide_div_mod_eq] using hi
      rw [Nat.mod_pow_succ, hz, Nat.mul_zero, Nat.add_zero]
    have hdiv : (2 ^ i + m) / 2 ^ (i + 1) = m / 2 ^ (i + 1) := by
      have hlt : m % 2 ^ i < 2 ^ i := Nat.mod_lt _ (by positivity)
      have hsum := Nat.div_add_mod m (2 ^ (i + 1))
      rw [Nat.div_eq_iff (by positivity)]
      have : 2 ^ (i + 1) = 2 * 2 ^ i := by ring
      rw [Nat.mul_comm] at hsum
      constructor <;> omega
    obtain ⟨d, rfl⟩ : ∃ d, j = i + 1 + d := ⟨j - (i + 1), by omega⟩
    rw [Nat.add_comm (i + 1), ← Nat.testBit_div_two_pow] at hj ⊢
    rw [hdiv, hj]
  · rw [Nat.testBit_two_pow_add_gt h, hj]

/-- The bits a fold of slot faults adds to FMASK leave the bits that are set already. -/
theorem testBit_foldl_mask {α : Type} (bitOf : α → Nat) (l : List α) {m j : Nat} (h : m.testBit j = true) :
    (l.foldl (fun acc f => if fld acc (bitOf f) 1 = 1 then acc else acc + 2 ^ bitOf f) m).testBit j = true := by
  induction l generalizing m with
  | nil => exact h
  | cons f l ih =>
    refine ih ?_
    dsimp only
    split
    · exact h
    · next hc =>
      refine testBit_add_two_pow_of_clear ?_ h
      rw [fld_one] at hc
      cases e : m.testBit (bitOf f) with
      | false => rfl
      | true => simp [e] at hc

/-- FMASK names the slots of which `p` holds, and the header. -/
theorem testBit_slotMask (p : Slot → Bool) (hdr : Bool) (sl : Slot) :
    (allSlots.foldl (fun acc sl => if p sl then acc + 2 ^ slotBit sl else acc) 0 + if hdr then 2 ^ 6 else 0).testBit
      (slotBit sl) = p sl := by
  have step : ∀ (b : Bool) (acc n : Nat), (if b = true then acc + n else acc) = acc + b.toNat * n := fun b acc n => by
    cases b <;> simp
  have hbit : ∀ b0 b1 b2 b3 b4 b5 hdr : Bool,
      let m := 0 + b0.toNat * 2 ^ 0 + b1.toNat * 2 ^ 1 + b2.toNat * 2 ^ 2 + b3.toNat * 2 ^ 3 + b4.toNat * 2 ^ 4 +
        b5.toNat * 2 ^ 5 + if hdr = true then 2 ^ 6 else 0
      m.testBit 0 = b0 ∧ m.testBit 1 = b1 ∧ m.testBit 2 = b2 ∧ m.testBit 3 = b3 ∧ m.testBit 4 = b4 ∧ m.testBit 5 = b5 := by
    decide
  simp only [allSlots, List.foldl, step, slotBit]
  obtain ⟨h0, h1, h2, h3, h4, h5⟩ := hbit (p .ctl) (p .sca) (p .vec) (p .mat) (p .prm) (p .mem) hdr
  cases sl <;> assumption

section
variable {k : Core} {b : Bundle}

/-- What the issue takes for the legal operation of a slot (R74, R238). -/
theorem Core.slotOp_eq_some_iff {sl : Slot} {i : Instr} : k.slotOp b sl = some i ↔
    decodeSyl sl (syl b sl) = some i ∧ i.legalCompute = true ∧ k.namesOk i = true := by
  simp only [Core.slotOp, Option.filter_eq_some_iff, and_assoc]

theorem Core.illegalMask_eq_zero (h : ∀ sl, (k.slotOp b sl).isSome = true) : k.illegalMask b = 0 := by
  have hn : ∀ sl, (k.slotOp b sl).isNone = false := fun sl => by simpa [Option.isSome_iff_ne_none] using h sl
  simp only [Core.illegalMask, hn]
  rfl

end

/-- A bundle of six legal operations, without a slot fault, passes the checks of R238. -/
theorem State.issueFault_eq_none {s : State} {c : Nat} {b : Bundle} {h : Header} (at_ : Nat × Nat)
    (hdr : decodeHeader b = some h) (hops : ∀ sl, ∃ i, (s.core c).slotOp b sl = some i ∧ s.slotFault c i = none) :
    s.issueFault c b at_ = none := by
  have hill : (s.core c).illegalMask b = 0 := Core.illegalMask_eq_zero (fun sl => by
    obtain ⟨i, hi, -⟩ := hops sl
    simp [hi])
  have hfs : s.slotFaults c b = [] := by
    refine List.filterMap_eq_nil_iff.mpr (fun sl _ => ?_)
    obtain ⟨i, hi, hf⟩ := hops sl
    simp [hi, hf]
  have hnone : (List.range 5).findSome? (fun _ => (none : Option (Slot × Nat × Nat × Nat × Nat))) = none := rfl
  simp [State.issueFault, hill, hfs, hdr, hnone]

/-- A slot without a legal operation raises the illegal-encoding trap, whose FMASK names it (R238). -/
theorem State.issueFault_illegal {s : State} {c : Nat} {b : Bundle} {sl : Slot} (at_ : Nat × Nat)
    (h : (s.core c).slotOp b sl = none) : ∃ t : TrapInfo, s.issueFault c b at_ = some t ∧ t.cls = 1 ∧ t.cause = 0 ∧
      t.bundle = some at_ ∧ t.fmask.testBit (slotBit sl) = true := by
  have hbit : ((s.core c).illegalMask b + if (decodeHeader b).isNone then 2 ^ 6 else 0).testBit (slotBit sl) = true := by
    rw [Core.illegalMask, testBit_slotMask (fun sl => ((s.core c).slotOp b sl).isNone), h]
    rfl
  have hne : (s.core c).illegalMask b + (if (decodeHeader b).isNone then 2 ^ 6 else 0) ≠ 0 := fun e => by
    rw [e, Nat.zero_testBit] at hbit
    exact Bool.noConfusion hbit
  refine ⟨_, if_pos hne, rfl, rfl, rfl, testBit_foldl_mask (fun f : Slot × Nat × Nat × Nat × Nat => slotBit f.1) _ hbit⟩

/-! What an issue that is due does. -/

/-- The compute context of a core may issue in the present cycle. -/
def State.readyToIssue (s : State) (c : Nat) : Prop :=
  (s.core c).seq.due = s.gcount ∧ (s.core c).issues = true ∧ (s.core c).unheld = true ∧ (s.core c).barred s.gcount = false

/-- The state in which the checks of a bundle of core `c` run: its position is the running one. -/
def State.issuePoint (s : State) (c : Nat) : State :=
  { s with cur := { core := c, fw := false, pos := (s.core c).seq.pos, seg := ((s.core c).half (s.core c).seq.half).hdr } }

section
variable {s : State} {c : Nat}

theorem Core.faultAt_eq_some {k : Core} {r : ExpRecord}
    (h : k.seq.bad = some r ∨ (k.seq.bad = none ∧ (k.half k.seq.half).rec_ = some r ∧ r.pos ≤ k.seq.pos)) :
    k.faultAt = some r := by
  rcases h with h | ⟨hb, hr, hp⟩
  · simp [Core.faultAt, h]
  · simp [Core.faultAt, hb, hr, hp]

theorem Core.faultAt_eq_none {k : Core} (hb : k.seq.bad = none) (hr : (k.half k.seq.half).rec_ = none) :
    k.faultAt = none := by
  simp [Core.faultAt, hb, hr]

/-- An issue that is not due, or is held back or barred, does nothing (R71). -/
theorem execBundleIssue_of_not_ready (h : ¬s.readyToIssue c) : execBundleIssue c s = .next s := by
  refine if_pos ?_
  by_contra hc
  simp only [not_or, not_not, Bool.not_eq_false, Bool.not_eq_true] at hc
  exact h hc

/-- A recorded fault raises its trap in place of the bundle (R97). -/
theorem execBundleIssue_of_faultAt (h : s.readyToIssue c) {r : ExpRecord} (hf : (s.core c).faultAt = some r) :
    execBundleIssue c s = .next (s.issueTrap c (recordInfo r)) := by
  obtain ⟨hd, hi, hu, hb⟩ := h
  simp [execBundleIssue, hd, hi, hu, hb, hf]

/-- While K does not stand, a bundle raises the first check it fails, or commits (R238). -/
theorem execBundleIssue_of_bundle (h : s.readyToIssue c) (hf : (s.core c).faultAt = none) {b : Bundle}
    (hb : (s.core c).bundleAt = some b) (hk : (s.heat (s.partOf c)).cutK = none) :
    (∀ t, (s.issuePoint c).issueFault c b ((s.core c).seq.pos, ((s.core c).half (s.core c).seq.half).hdr) = some t →
      execBundleIssue c s = .next ((s.issuePoint c).issueTrap c t)) ∧
    (∀ x, (s.issuePoint c).issueFault c b ((s.core c).seq.pos, ((s.core c).half (s.core c).seq.half).hdr) = none →
      decodeHeader b = some x → execBundleIssue c s = .next ((s.issuePoint c).commit c b x)) := by
  obtain ⟨hd, hi, hu, hbar⟩ := h
  refine ⟨fun t ht => ?_, fun x ht hx => ?_⟩
  all_goals
    rw [execBundleIssue, if_neg (by simp [hd, hi, hu, hbar])]
    simp only [State.issuePoint] at ht ⊢
    simp only [hf, hb, hk, ht]
  rw [hx]

/-! The commit. -/

/-- What a restart mark's shadow holds for a core whose sequencer is `q` (R243). -/
def State.markShadow (s : State) (c : Nat) (q : Seq) : Shadow :=
  { heat := (s.heat (s.partOf c)).origin, seq := { q with stopFrom := none, stopLine := none }, a := (s.core c).a,
    sched := (s.gcount : Int) - (s.heat (s.partOf c)).origin - (s.heat (s.partOf c)).sigma,
    sigma := (s.heat (s.partOf c)).sigma, segHdr := ((s.core c).half q.half).hdr, y := (s.core c).y,
    bar := (s.core c).bar.map (fun b => (b.1, b.2.settled)),
    pours := (s.core c).runs.filter (fun r => decide (r.start ≤ s.gcount) && !r.closed) }

/-- Core `c` once a bundle with header `h` has committed, before its operations run (R112, R243). -/
def State.issuedCore (s : State) (c : Nat) (h : Header) : Core :=
  { s.core c with
    seq := (s.core c).seq.issued s.gcount h,
    shadow := if h.restart then some (s.markShadow c ((s.core c).seq.issued s.gcount h)) else (s.core c).shadow }

/-- The issue and the shadow of its mark write the core alone. -/
theorem State.commit_core (s : State) (c : Nat) (h : Header) :
    (let s1 := s.modCore c (fun k => { k with seq := k.seq.issued s.gcount h })
     if h.restart then s1.takeShadow c else s1) = s.setCore c (s.issuedCore c h) := by
  cases hr : h.restart with
  | false => simp [State.issuedCore, State.modCore, hr]
  | true =>
    simp only [State.issuedCore, State.modCore, hr, if_true, State.takeShadow, State.core_setCore, State.setCore_setCore]
    rfl

/-- A bundle of six legal operations commits: the operations are the next to run, and an uncorrectable register error that
its reads meet traps (R71, R238, R239). -/
theorem State.commit_eq {b : Bundle} {h : Header} {i0 i1 i2 i3 i4 i5 : Instr} (h0 : (s.core c).slotOp b .sca = some i0)
    (h1 : (s.core c).slotOp b .vec = some i1) (h2 : (s.core c).slotOp b .mat = some i2)
    (h3 : (s.core c).slotOp b .prm = some i3) (h4 : (s.core c).slotOp b .mem = some i4)
    (h5 : (s.core c).slotOp b .ctl = some i5) :
    s.commit c b h =
      { (match s.regError c b with
          | some n => (s.setCore c (s.issuedCore c h)).raiseTrap c
              ⟨8, 1, 0, some ((s.core c).seq.pos, ((s.core c).half (s.core c).seq.half).hdr), n⟩
          | none => s.setCore c (s.issuedCore c h)) with
        cur := (s.issuePoint c).cur, slots := [i0, i1, i2, i3, i4, i5], issuing := some c } := by
  have hops : [Slot.sca, .vec, .mat, .prm, .mem, .ctl].filterMap (fun sl => (s.core c).slotOp b sl) =
      [i0, i1, i2, i3, i4, i5] := by
    simp [h0, h1, h2, h3, h4, h5]
  rw [← State.commit_core, State.commit, hops]
  rfl

/-- The issue, in its due cycle, of a bundle of six legal operations without a slot fault commits them (R71, R238, R239). -/
theorem execBundleIssue_commits (hr : s.readyToIssue c) (hf : (s.core c).faultAt = none) {b : Bundle}
    (hb : (s.core c).bundleAt = some b) (hk : (s.heat (s.partOf c)).cutK = none) {h : Header} (hh : decodeHeader b = some h)
    {i0 i1 i2 i3 i4 i5 : Instr} (h0 : (s.core c).slotOp b .sca = some i0) (h1 : (s.core c).slotOp b .vec = some i1)
    (h2 : (s.core c).slotOp b .mat = some i2) (h3 : (s.core c).slotOp b .prm = some i3)
    (h4 : (s.core c).slotOp b .mem = some i4) (h5 : (s.core c).slotOp b .ctl = some i5)
    (hfault : ∀ i ∈ [i0, i1, i2, i3, i4, i5], (s.issuePoint c).slotFault c i = none) :
    execBundleIssue c s =
      .next { (match (s.issuePoint c).regError c b with
          | some n => ((s.issuePoint c).setCore c (s.issuedCore c h)).raiseTrap c
              ⟨8, 1, 0, some ((s.core c).seq.pos, ((s.core c).half (s.core c).seq.half).hdr), n⟩
          | none => (s.issuePoint c).setCore c (s.issuedCore c h)) with
        cur := (s.issuePoint c).cur, slots := [i0, i1, i2, i3, i4, i5], issuing := some c } := by
  have hpass : (s.issuePoint c).issueFault c b ((s.core c).seq.pos, ((s.core c).half (s.core c).seq.half).hdr) = none := by
    refine State.issueFault_eq_none _ hh (fun sl => ?_)
    cases sl with
    | sca => exact ⟨i0, h0, hfault i0 (by simp)⟩
    | vec => exact ⟨i1, h1, hfault i1 (by simp)⟩
    | mat => exact ⟨i2, h2, hfault i2 (by simp)⟩
    | prm => exact ⟨i3, h3, hfault i3 (by simp)⟩
    | mem => exact ⟨i4, h4, hfault i4 (by simp)⟩
    | ctl => exact ⟨i5, h5, hfault i5 (by simp)⟩
  rw [(execBundleIssue_of_bundle hr hf hb hk).2 h hpass hh]
  exact congrArg Host.Outcome.next (State.commit_eq (s := s.issuePoint c) h0 h1 h2 h3 h4 h5)

end

end Sys2Proof.Machine
end

section
/-! The code prefetch engine's reads (R94, R96, R98, R99, R295), and with them the issue of a compute context's bundle. -/

namespace Sys2Proof.Machine
open Sys2Proof.Safety

@[simp] theorem Core.half_setHalf (k : Core) (h : Bool) (x : Half) : (k.setHalf h x).half h = x := by
  cases h <;> rfl

@[simp] theorem Core.half_setHalf_not (k : Core) (h : Bool) (x : Half) : (k.setHalf (!h) x).half h = k.half h := by
  cases h <;> rfl

@[simp] theorem Core.fw_setHalf (k : Core) (h : Bool) (x : Half) : (k.setHalf h x).fw = k.fw := by
  cases h <;> rfl

theorem Core.half_congr {k k' : Core} (h0 : k.half0 = k'.half0) (h1 : k.half1 = k'.half1) (h : Bool) :
    k.half h = k'.half h := by
  cases h
  · exact h0
  · exact h1

/-- An event at a cycle left open. -/
theorem sometime_later {s t : State} (least : Nat) (i : Instr) (ha : t.agenda = s.agenda) (hg : t.gcount = s.gcount)
    (hc : t.choice = s.choice) : Sometime s (t.later least i) least i := by
  refine ⟨t.gcount + least + Config.delay t.choice, by omega, fun x => ?_, congrArg (· + 1) hc⟩
  have hle : ({ t with choice := t.choice + 1 } : State).gcount ≤ t.gcount + least + Config.delay t.choice := by
    show t.gcount ≤ _
    omega
  rw [show t.later least i = ({ t with choice := t.choice + 1 } : State).at (t.gcount + least + Config.delay t.choice) i from rfl,
    State.mem_at, Nat.max_eq_left hle, ← ha, List.mem_singleton]

/-- The event that `later` adds. -/
theorem later_mem (t : State) (least : Nat) (i : Instr) : ∃ n, t.gcount + least ≤ n ∧
    ({ at_ := n, instr := i } : Event) ∈ (t.later least i).agenda := by
  obtain ⟨n, hn, hadds, -⟩ := sometime_later (s := t) least i rfl rfl rfl
  exact ⟨n, hn, (hadds _).mpr (.inr (List.mem_singleton.mpr rfl))⟩

/-! What an event leaves of HBM. -/

@[simp] theorem State.hbm_pokeFw (s : State) (c : Nat) : (s.pokeFw c).hbm = s.hbm := by
  unfold State.pokeFw
  dsimp only
  split
  · exact State.atOnce_hbm ..
  · rfl

@[simp] theorem State.hbm_traceRaw (s : State) (die g core typ cut heat payload : Nat) :
    (s.traceRaw die g core typ cut heat payload).hbm = s.hbm := by
  unfold State.traceRaw
  dsimp only
  split <;> rfl

@[simp] theorem State.hbm_event (s : State) (c typ aux payload tp : Nat) : (s.event c typ aux payload tp).hbm = s.hbm := by
  refine (State.hbm_traceRaw ..).trans ((State.hbm_pokeFw _ c).trans rfl)

/-! One line read (R94). -/

/-- The virtual address of the next code line of half `h` of core `c`. -/
def State.lineVA (s : State) (c : Nat) (h : Bool) : Nat := ((s.core c).half h).hdr + ((s.core c).half h).bytes.length

/-- The expansion of the bytes that half `h` of core `c` holds. -/
def State.expansionOf (s : State) (c : Nat) (h : Bool) : Expansion :=
  expandSegment (s.core c).dictAt ((s.core c).half h).hdr ((s.core c).half h).bytes

/-- Half `h` of core `c` with the bytes `bs` behind those it holds. -/
def State.halfWith (s : State) (c : Nat) (h : Bool) (bs : List Byte) : Half :=
  ({ (s.core c).half h with bytes := ((s.core c).half h).bytes ++ bs } : Half).expanded (s.core c).dictAt

/-- Half `h` of core `c` once its expansion has ended with the record of a fetch fault (R98). -/
def State.halfFailed (s : State) (c : Nat) (h : Bool) (cause va : Nat) : Half :=
  { (s.core c).half h with
    bundles := (s.expansionOf c h).bundles, busy := false, endOff := (s.expansionOf c h).off,
    rec_ := some ⟨false, (s.expansionOf c h).bundles.length, cause, ((s.core c).half h).hdr, (s.expansionOf c h).off, va⟩ }

section
variable {s : State} {c : Nat} {h : Bool}

theorem State.fetchLine_unmapped (hw : s.walkMeets (s.partOf c) (s.lineVA c h) = s)
    (ht : s.translate (s.partOf c) (s.lineVA c h) false = none) :
    s.fetchLine c h = s.setCore c ((s.core c).setHalf h (s.halfFailed c h 1 (s.lineVA c h))) := by
  simp only [State.lineVA] at hw ht
  simp only [State.fetchLine, hw, ht]
  rfl

section
variable {pa : Nat} (hw : s.walkMeets (s.partOf c) (s.lineVA c h) = s)
  (ht : s.translate (s.partOf c) (s.lineVA c h) false = some pa)
include hw ht

theorem State.fetchLine_fresh (hs : s.paStale pa = false) : s.fetchLine c h =
    if s.tagGood (pa / 64) = false then
      (s.setCore c ((s.core c).setHalf h { (s.core c).half h with busy := false })).raiseTrap c
        ⟨9, 2, 0, none, s.lineVA c h / 64 * 64⟩
    else if s.lineBad (pa / 64) = true then
      s.setCore c ((s.core c).setHalf h (s.halfFailed c h 2
        (max (s.lineVA c h / 64 * 64) (((s.core c).half h).hdr + (s.expansionOf c h).off))))
    else s.setCore c ((s.core c).setHalf h (s.halfWith c h (s.hbmLoad pa (64 - s.lineVA c h % 64)))) := by
  simp only [State.lineVA] at hw ht
  simp only [State.fetchLine, hw, ht, hs]
  cases s.tagGood (pa / 64) <;> rfl

/-- A line of a stale row group reads as zeros (R295). -/
theorem State.fetchLine_stale (hs : s.paStale pa = true) (hp : pa % 64 = s.lineVA c h % 64) : ∃ v,
    s.fetchLine c h = (s.event (chanCore (paChannel pa)) 2 0 v (v % 2 ^ 59)).modCore c (fun k =>
      k.setHalf h (({ (s.core c).half h with
        bytes := ((s.core c).half h).bytes ++ zeros (64 - s.lineVA c h % 64) } : Half).expanded k.dictAt)) := by
  have hn : 0 < 64 - s.lineVA c h % 64 := by omega
  have hpart : rowParts ((64 - s.lineVA c h % 64) / 1024 + 2) pa (64 - s.lineVA c h % 64) =
      [(pa, 64 - s.lineVA c h % 64)] := by
    rw [show (64 - s.lineVA c h % 64) / 1024 + 2 = 2 by omega, rowParts, if_neg (by omega)]
    have hmin : min (64 - s.lineVA c h % 64) (1024 - pa % 1024) = 64 - s.lineVA c h % 64 := by omega
    simp [hmin, rowParts]
  have hone : (pa % 64 + (64 - s.lineVA c h % 64) + 63) / 64 = 1 := by omega
  have hload : s.dynLoad pa (64 - s.lineVA c h % 64) =
      (s.staleReads pa (64 - s.lineVA c h % 64), zeros (64 - s.lineVA c h % 64)) := by
    simp [State.dynLoad, hpart, hs]
  rw [State.staleReads, hone] at hload
  simp only [State.lineVA] at hw ht hload ⊢
  simp only [State.fetchLine, hw, ht, hs, hload, if_true]
  exact ⟨_, rfl⟩

end

/-- The engine reads one line of the half that does not issue, and another while the segment is not complete (R94, R291). -/
theorem execCodeLineFetch_read (hb : ((s.core c).half (!(s.core c).seq.half)).busy = true)
    (hs : ∀ pa, s.translate (s.partOf c) (s.lineVA c (!(s.core c).seq.half)) false = some pa → s.served pa = true) :
    execCodeLineFetch c s =
      .next (if (((s.fetchLine c (!(s.core c).seq.half)).core c).half (!(s.core c).seq.half)).busy = true
        then (s.fetchLine c (!(s.core c).seq.half)).later 1 (.codeLineFetch c) else s.fetchLine c (!(s.core c).seq.half)) := by
  simp only [State.lineVA] at hs
  cases ht : s.translate (s.partOf c) (((s.core c).half (!(s.core c).seq.half)).hdr +
      ((s.core c).half (!(s.core c).seq.half)).bytes.length) false with
  | none => simp [execCodeLineFetch, hb, ht]
  | some pa => simp [execCodeLineFetch, hb, ht, hs pa ht]

/-- A read that ends the expansion. -/
theorem execCodeLineFetch_last {x : Half} (hb : ((s.core c).half (!(s.core c).seq.half)).busy = true)
    (hs : ∀ pa, s.translate (s.partOf c) (s.lineVA c (!(s.core c).seq.half)) false = some pa → s.served pa = true)
    (hf : s.fetchLine c (!(s.core c).seq.half) = s.setCore c ((s.core c).setHalf (!(s.core c).seq.half) x))
    (hx : x.busy = false) :
    Answers (.codeLineFetch c) s (fun t => t.core c = (s.core c).setHalf (!(s.core c).seq.half) x ∧ OnlyCore s t c ∧
      t.agenda = s.agenda) := by
  refine ⟨_, (exec_codeLineFetch s).trans (execCodeLineFetch_read hb hs), ?_⟩
  rw [hf, State.core_setCore, Core.half_setHalf, hx]
  exact ⟨State.core_setCore .., .setCore s c _, rfl⟩

/-- The half that traps or events leave keeps its bytes. -/
theorem State.raiseTrap_half (s : State) (c : Nat) (t : TrapInfo) (h : Bool) :
    ((s.raiseTrap c t).core c).half h = (s.core c).half h := by
  obtain ⟨q, f, e, -⟩ := s.raiseTrap_core c t
  rw [e]
  exact Core.half_congr rfl rfl h

end

/-- The reads of the code prefetch engine. -/
theorem codeLine_reads (s : State) (c : Nat) (pa : Nat) :
    let k := s.core c
    let other := !k.seq.half
    let va := s.lineVA c other
    s.walkMeets (s.partOf c) va = s → (k.half other).busy = true → s.translate (s.partOf c) va false = some pa →
      s.served pa = true → s.paStale pa = false → s.tagGood (pa / 64) = true → s.lineBad (pa / 64) = false →
      let y := s.halfWith c other (s.hbmLoad pa (64 - va % 64))
      Answers (.codeLineFetch c) s (fun t => t.core c = k.setHalf other y ∧ (∀ d, d ≠ c → t.core d = s.core d) ∧
        (y.busy = true → Sometime s t 1 (.codeLineFetch c)) ∧ (y.busy = false → t.agenda = s.agenda) ∧
        { t with cores := s.cores, agenda := s.agenda, choice := s.choice } = s) := by
  intro k other va hw hb ht hserved hstale htag hbad y
  have hf : s.fetchLine c other = s.setCore c (k.setHalf other y) := by
    rw [State.fetchLine_fresh hw ht hstale, htag, hbad]
    rfl
  refine ⟨_, (exec_codeLineFetch s).trans (execCodeLineFetch_read hb (fun p hp => ?_)), ?_⟩
  · rw [ht] at hp
    exact (Option.some.inj hp) ▸ hserved
  · rw [hf, State.core_setCore, Core.half_setHalf]
    cases hy : y.busy with
    | true =>
      refine ⟨State.core_setCore .., fun d hd => State.core_setCore_ne s c d _ hd,
        fun _ => sometime_later 1 _ rfl rfl rfl, fun hn => Bool.noConfusion hn, rfl⟩
    | false =>
      exact ⟨State.core_setCore .., fun d hd => State.core_setCore_ne s c d _ hd, fun hn => Bool.noConfusion hn,
        fun _ => rfl, rfl⟩

/-- The read of a line whose row group is stale (R295). -/
theorem codeLine_stale (s : State) (c : Nat) (pa : Nat) :
    let k := s.core c
    let other := !k.seq.half
    let va := s.lineVA c other
    s.walkMeets (s.partOf c) va = s → (k.half other).busy = true → s.translate (s.partOf c) va false = some pa →
      s.served pa = true → s.paStale pa = true → pa % 64 = va % 64 →
      let y := s.halfWith c other (zeros (64 - va % 64))
      Answers (.codeLineFetch c) s (fun t => (t.core c).half other = y ∧ t.hbm = s.hbm ∧
        (t.core (chanCore (paChannel pa))).fw.fpend.getLsbD 2 = true ∧
        (y.busy = true → ∃ n, s.gcount + 1 ≤ n ∧ ({ at_ := n, instr := .codeLineFetch c } : Event) ∈ t.agenda)) := by
  intro k other va hw hb ht hserved hstale hp y
  obtain ⟨v, hf⟩ := State.fetchLine_stale hw ht hstale hp
  generalize hd : chanCore (paChannel pa) = d at hf
  generalize hu : s.event d 2 0 v (v % 2 ^ 59) = u at hf
  have hdict : (u.core c).dictAt = k.dictAt := by
    by_cases e : c = d
    · obtain ⟨f, hcore, -⟩ := s.event_core d 2 0 v (v % 2 ^ 59)
      rw [← hu, e, hcore]
      rw [← e]
      rfl
    · rw [← hu, State.event_core_ne s d 2 0 v (v % 2 ^ 59) c e]
  have hcore : (s.fetchLine c other).core c = (u.core c).setHalf other y := by
    rw [hf, State.core_modCore, hdict]
    rfl
  have hpend : ((s.fetchLine c other).core d).fw.fpend.getLsbD 2 = true := by
    have hev := s.event_pending d 2 0 v (v % 2 ^ 59)
    rw [hu] at hev
    by_cases e : d = c
    · rw [e, hcore, Core.fw_setHalf, ← e]
      exact hev
    · rw [hf, State.core_modCore_ne _ _ _ _ e]
      exact hev
  have hhbm : (s.fetchLine c other).hbm = s.hbm := by
    rw [hf, ← hu]
    exact State.hbm_event ..
  have hg : (s.fetchLine c other).gcount = s.gcount := by
    rw [hf]
    exact (Later.event s d 2 0 v (v % 2 ^ 59) |>.gcount) ▸ hu ▸ rfl
  refine ⟨_, (exec_codeLineFetch s).trans (execCodeLineFetch_read hb (fun p hp => ?_)), ?_⟩
  · rw [ht] at hp
    exact (Option.some.inj hp) ▸ hserved
  · show (((if (((s.fetchLine c other).core c).half other).busy = true then
      (s.fetchLine c other).later 1 (.codeLineFetch c) else s.fetchLine c other) : State).core c).half other = y ∧ _
    rw [hcore, Core.half_setHalf]
    cases hy : y.busy with
    | true =>
      refine ⟨?_, hhbm, hpend, fun _ => hg ▸ later_mem _ 1 _⟩
      rw [if_pos rfl, State.core_later, hcore, Core.half_setHalf]
    | false =>
      refine ⟨?_, hhbm, hpend, fun hn => Bool.noConfusion hn⟩
      rw [if_neg Bool.false_ne_true, hcore, Core.half_setHalf]

/-- Settles O31: the checks of R238 and the commit for the issue, one line at a time for the prefetch engine. -/
theorem bundleIssue : Obligations.BundleIssue := by
  refine ⟨fun s c b => ?_, fun s c => ?_⟩
  · intro k x ready sound legal s1
    have hslot : ∀ {sl i}, legal sl i → k.slotOp b sl = some i := fun h => Core.slotOp_eq_some_iff.mpr h
    have hbundle : sound → k.faultAt = none ∧ k.bundleAt = some b ∧ (s.heat (s.partOf c)).cutK = none :=
      fun ⟨hbad, hrec, hpos, hcut⟩ => ⟨Core.faultAt_eq_none hbad hrec, hpos, hcut⟩
    refine ⟨fun hn => execBundleIssue_of_not_ready hn, fun r hr hrec => ?_, ?_, ?_⟩
    · exact execBundleIssue_of_faultAt hr (Core.faultAt_eq_some hrec)
    · intro h i0 i1 i2 i3 i4 i5 hr hsound hh h0 h1 h2 h3 h4 h5 hfault ops q heat mark issued
      obtain ⟨hf, hb, hcut⟩ := hbundle hsound
      have hexec : exec (.bundleIssue c) s = _ := execBundleIssue_commits hr hf hb hcut hh (hslot h0) (hslot h1) (hslot h2)
        (hslot h3) (hslot h4) (hslot h5) hfault
      refine ⟨fun hreg => ⟨_, hexec, ?_⟩, fun n hreg => ?_⟩
      · rw [show (s.issuePoint c).regError c b = none from hreg]
        exact ⟨rfl, rfl, rfl, State.core_setCore .., fun d hd => State.core_setCore_ne s1 c d _ hd, rfl⟩
      · rw [hexec, show (s.issuePoint c).regError c b = some n from hreg]
        rfl
    · intro h sl hr hsound hh hill
      obtain ⟨hf, hb, hcut⟩ := hbundle hsound
      have hnone : k.slotOp b sl = none :=
        Option.eq_none_iff_forall_ne_some.mpr (fun i hi => hill i (Core.slotOp_eq_some_iff.mp hi))
      obtain ⟨t, ht, hcls, hcause, hat, hmask⟩ := State.issueFault_illegal (s := s1) (k.seq.pos, x.hdr) hnone
      exact ⟨t, (execBundleIssue_of_bundle hr hf hb hcut).1 t ht, hcls, hcause, hat, hmask⟩
  · intro k other x va e sound reads records
    have served : ∀ {pa}, reads pa → ∀ p, s.translate (s.partOf c) va false = some p → s.served p = true :=
      fun ⟨_, _, ht, hs⟩ p hp => by
        rw [ht] at hp
        exact (Option.some.inj hp) ▸ hs
    refine ⟨fun hb => ?_, fun pa hb ht hs => ?_, ?_, ?_, ?_, ?_, ?_⟩
    · have hb' : ((s.core c).half (!(s.core c).seq.half)).busy = false := hb
      simp [exec_codeLineFetch, execCodeLineFetch, hb']
    · have hb' : ((s.core c).half (!(s.core c).seq.half)).busy = true := hb
      refine ⟨s.at (s.gcount + 1) (.codeLineFetch c), ?_, (Adds.refl s).at (by omega), rfl⟩
      have ht' : s.translate (s.partOf c) (((s.core c).half (!(s.core c).seq.half)).hdr +
        ((s.core c).half (!(s.core c).seq.half)).bytes.length) false = some pa := ht
      simp [exec_codeLineFetch, execCodeLineFetch, hb', ht', hs]
    · rintro pa ⟨hw, hb, ht, hs⟩ hstale htag hbad
      exact codeLine_reads s c pa hw hb ht hs hstale htag hbad
    · rintro pa ⟨hw, hb, ht, hs⟩ hstale hp
      have hcore : 64 * (paChannel pa / 96) = chanCore (paChannel pa) := by
        rw [chanCore, chanDie, Nat.div_div_eq_div_mul]
      rw [hcore]
      exact codeLine_stale s c pa hw hb ht hs hstale hp
    · rintro pa hreads hstale htag
      obtain ⟨hw, hb, ht, hs⟩ := hreads
      have hf := State.fetchLine_fresh hw ht hstale
      rw [if_pos htag] at hf
      rw [exec_codeLineFetch, execCodeLineFetch_read hb (served ⟨hw, hb, ht, hs⟩), hf]
      rw [State.raiseTrap_half, State.core_setCore, Core.half_setHalf]
      rfl
    · rintro pa hreads hstale htag hbad
      obtain ⟨hw, hb, ht, hs⟩ := hreads
      refine execCodeLineFetch_last hb (served ⟨hw, hb, ht, hs⟩) ?_ rfl
      rw [State.fetchLine_fresh hw ht hstale, htag, hbad]
      rfl
    · intro hb hw ht
      exact execCodeLineFetch_last hb (fun p hp => by rw [show s.lineVA c _ = va from rfl, ht] at hp; cases hp)
        (State.fetchLine_unmapped hw ht) rfl

end Sys2Proof.Machine
end

section
/-! A step: the event it takes, and the operations that a bundle's issue leaves it to run (R71, R238, R323). -/

namespace Sys2Proof.Machine
open Sys2Proof.Safety

section
variable {s t u : State} {e : Event} {rest : List Event}

/-- A step runs the first event of the agenda, and then the operations that it left. -/
theorem step_of_event (ha : s.agenda = e :: rest) (ht : exec e.instr (s.takeEvent e rest) = .next t) :
    step s = finishStep t := by
  simp [step, stepMachine, ha, ht]

theorem step_of_event_fault (ha : s.agenda = e :: rest) {y : Fault} (ht : exec e.instr (s.takeEvent e rest) = .fault y) :
    step s = .fault y := by
  simp [step, stepMachine, ha, ht]

theorem finishStep_of_idle (hs : t.slots = []) (hi : t.issuing = none) : finishStep t = .next t := by
  have hsame : ({ t with slots := [] } : State) = t := by rw [← hs]
  rw [finishStep, hsame, hs]
  simp only [runSlots, finishIssue, hi]

/-- A step whose event leaves the operations `ops` runs them one after another, and then its context goes on. -/
theorem step_of_issue (ha : s.agenda = e :: rest) {ops : List Instr}
    (ht : exec e.instr (s.takeEvent e rest) = .next { u with slots := ops }) (hu : u.slots = []) :
    step s = (match runSlots ops u with
      | .next v => .next (finishIssue v)
      | .fault y => .fault y
      | .refused y => .refused y) := by
  have hsame : ({ u with slots := [] } : State) = u := by rw [← hu]
  rw [step_of_event ha ht]
  cases hr : runSlots ops u <;> simp only [finishStep, hsame, hr]

end

section
variable {s : State} {c : Nat} {b : Bundle}

/-- What a firmware context takes for the legal operation of a slot (R323). -/
theorem fwSlotOp_eq_some_iff {sl : Slot} {i : Instr} :
    fwSlotOp b sl = some i ↔ decodeSyl sl (syl b sl) = some i ∧ i.legalFirmware = true :=
  Option.filter_eq_some_iff

/-- Six legal operations and no header: nothing of the bundle is illegal (R323). -/
theorem fwIllegal_eq_none (hops : ∀ sl, (fwSlotOp b sl).isSome = true) (hh : fld b.toNat 0 32 = 0) : fwIllegal b = none := by
  have hfind : allSlots.find? (fun sl => (fwSlotOp b sl).isNone) = none :=
    List.find?_eq_none.mpr (fun sl _ => by simp [Option.isSome_iff_ne_none.mp (hops sl)])
  simp [fwIllegal, hfind, hh]

/-- A firmware context issues a legal bundle of its position in a free cycle within its share (R323). -/
theorem execFirmwareBundleIssue_commits (hmode : (s.core c).fw.mode = .running) (hdue : (s.core c).fw.due = s.gcount)
    (hreset : s.mgmt.inReset = false) (hfree : (s.core c).seq.lastIssue ≠ some s.gcount)
    (hshare : (s.core c).fw.usedIn s.gcount < (s.core c).fw.fshare) (haway : (s.core c).fw.away = none)
    (hpos : (s.core c).fw.pos < 682) (hbad : (s.core c).fw.badI.contains (s.core c).fw.pos = false)
    (hb : (s.core c).fw.bundleAt (s.core c).fw.pos = b) (hh : fld b.toNat 0 32 = 0)
    {i0 i1 i2 i3 i4 i5 : Instr} (h0 : fwSlotOp b .sca = some i0) (h1 : fwSlotOp b .vec = some i1)
    (h2 : fwSlotOp b .mat = some i2) (h3 : fwSlotOp b .prm = some i3) (h4 : fwSlotOp b .mem = some i4)
    (h5 : fwSlotOp b .ctl = some i5) :
    execFirmwareBundleIssue c s = .next { s.setCore c { s.core c with
        fw := { (s.core c).fw with window := s.gcount / 256, issuedIn := (s.core c).fw.usedIn s.gcount + 1 } } with
      cur := { core := c, fw := true, pos := (s.core c).fw.pos, seg := 0 }, slots := [i0, i1, i2, i3, i4, i5],
      issuing := some c } := by
  have hretry : s.fwRetry c = none := by
    rw [State.fwRetry, if_neg hfree]
    exact if_neg (Nat.not_le.mpr hshare)
  have hlegal : fwIllegal b = none := fwIllegal_eq_none (fun sl => by cases sl <;> simp [h0, h1, h2, h3, h4, h5]) hh
  have hops : [Slot.sca, .vec, .mat, .prm, .mem, .ctl].filterMap (fwSlotOp b) = [i0, i1, i2, i3, i4, i5] := by
    simp [h0, h1, h2, h3, h4, h5]
  have hcode : ¬(Config.fwBundles ≤ (s.core c).fw.pos) := Nat.not_le.mpr hpos
  have hrun : execFirmwareBundleIssue c s = .next (s.commitFw c b) := by
    simp only [execFirmwareBundleIssue, State.fwOf, hmode, hdue, hreset, hretry, haway, hbad, hb, hlegal, hcode, ne_eq,
      not_true_eq_false, Bool.false_eq_true, Option.isSome_none, or_self, if_false]
  rw [hrun, State.commitFw, hops]
  rfl

end

/-- Settles O55: what the issue of each context leaves, run by the step. -/
theorem stepRunsDecoded : Obligations.StepRunsDecoded := by
  intro s e rest c b i0 i1 i2 i3 i4 i5 ops s1 k x f runs decodes
  refine ⟨fun ha => ?_, fun ha => ⟨fun t ht hs hi => ?_, fun y hy => step_of_event_fault ha hy⟩, ?_, ?_,
    fun i l t => ⟨rfl, rfl⟩⟩
  · simp [step, stepMachine, ha]
  · rw [step_of_event ha ht, finishStep_of_idle hs hi]
  · intro ha hi hdue hissues hunheld hbar hbad hrec hpos hcut hdec h hh s2 hfault q heat mark issued
    have hslot : ∀ sl i, (sl, i) ∈ [(Slot.sca, i0), (.vec, i1), (.mat, i2), (.prm, i3), (.mem, i4), (.ctl, i5)] →
        k.slotOp b sl = some i := fun sl i hm => by
      obtain ⟨hd, hlegal⟩ := hdec _ hm
      exact Core.slotOp_eq_some_iff.mpr ⟨hd, (Bool.and_eq_true_iff.mp hlegal)⟩
    have hexec : exec e.instr (s.takeEvent e rest) = _ :=
      (congrArg (fun i => exec i s1) hi).trans <| execBundleIssue_commits (s := s1) ⟨hdue, hissues, hunheld, hbar⟩
        (Core.faultAt_eq_none hbad hrec) hpos hcut hh
        (hslot .sca i0 (by simp)) (hslot .vec i1 (by simp)) (hslot .mat i2 (by simp)) (hslot .prm i3 (by simp))
        (hslot .mem i4 (by simp)) (hslot .ctl i5 (by simp)) hfault
    refine ⟨fun hreg => ?_, fun n hreg => ?_⟩
    · rw [show (s1.issuePoint c).regError c b = none from hreg] at hexec
      exact step_of_issue ha hexec rfl
    · rw [show (s1.issuePoint c).regError c b = some n from hreg] at hexec
      exact step_of_issue ha hexec rfl
  · intro ha hi hmode hdue hreset hfree hshare haway hpos hbad hb hh hdec
    have hslot : ∀ sl i, (sl, i) ∈ [(Slot.sca, i0), (.vec, i1), (.mat, i2), (.prm, i3), (.mem, i4), (.ctl, i5)] →
        fwSlotOp b sl = some i := fun sl i hm => fwSlotOp_eq_some_iff.mpr (hdec _ hm)
    have hexec : exec e.instr (s.takeEvent e rest) = _ :=
      (congrArg (fun i => exec i s1) hi).trans <| execFirmwareBundleIssue_commits (s := s1) hmode hdue hreset hfree hshare
        haway hpos hbad hb hh
        (hslot .sca i0 (by simp)) (hslot .vec i1 (by simp)) (hslot .mat i2 (by simp)) (hslot .prm i3 (by simp))
        (hslot .mem i4 (by simp)) (hslot .ctl i5 (by simp))
    exact step_of_issue ha hexec rfl

end Sys2Proof.Machine
end

section
/-! Branches, calls and returns of a compute context (R101, R102, R105, R243). -/

namespace Sys2Proof.Machine
open Sys2Proof.Safety

section
variable {s : State}

/-- A pending branch of a core's compute context (R101). -/
def Core.branching (k : Core) (x : Target) : Core := { k with seq := { k.seq with branch := some (x, 3) } }

theorem State.branchTo_compute (hfw : s.cur.fw = false) (x : Target) :
    s.branchTo x = s.modCore s.cur.core (fun k => k.branching x) := by
  simp [State.branchTo, hfw, State.modSeq, Core.branching]

/-- A branch pends, and nothing else changes. -/
theorem branchTo_answers {i : Instr} (hfw : s.cur.fw = false) {x : Target} (hi : exec i s = .next (s.branchTo x)) :
    Answers i s (fun t => t.core s.cur.core = (s.core s.cur.core).branching x ∧ OnlyCore s t s.cur.core ∧
      t.agenda = s.agenda) :=
  ⟨_, hi, by rw [State.branchTo_compute hfw, State.core_modCore], State.branchTo_compute hfw x ▸ .modCore s _ _,
    State.branchTo_compute hfw x ▸ rfl⟩

/-- A return record's access, with CSP on its way and a branch that pends (R105). -/
theorem stackAccess_answers {i : Instr} (hfw : s.cur.fw = false) {addr : Nat} {csp : Word64} {op : BankOp} {x : Target}
    (hi : exec i s = .next (((s.access codeMem (rangeBanks addr 16) addr 2 2 op).landIn 1 .ctl (.sysreg 1 csp)).branchTo x)) :
    Answers i s (fun t =>
      t.core s.cur.core = { s.core s.cur.core with
        acc := (s.core s.cur.core).acc ++ [opened s 0 (rangeBanks addr 16) addr 2 2 op],
        nextId := (s.core s.cur.core).nextId + 1,
        pend := (s.core s.cur.core).pend ++ [onItsWay s 1 .ctl false (.sysreg 1 csp)],
        seq := { (s.core s.cur.core).seq with branch := some (x, 3) } } ∧
      Adds s t [{ at_ := s.gcount + 2, instr := .bankAccess s.cur.core (s.core s.cur.core).nextId .occupy },
        { at_ := s.gcount + 2, instr := .bankAccess s.cur.core (s.core s.cur.core).nextId .perform },
        { at_ := s.gcount + 1, instr := .resultLand s.cur.core }] ∧ OnlyCore s t s.cur.core) := by
  have hopen := State.access_opens s codeMem (rangeBanks addr 16) addr 2 2 op
  generalize hu : s.access codeMem (rangeBanks addr 16) addr 2 2 op = u at hi hopen
  obtain ⟨ucore, uadds, urest⟩ := hopen
  have ucur : u.cur = s.cur := by rw [← urest.1]
  have ugcount : u.gcount = s.gcount := urest.gcount
  obtain ⟨vcore, vadds, vrest⟩ := State.landIn_lands u 1 .ctl (.sysreg 1 csp) false
  generalize u.landIn 1 .ctl (.sysreg 1 csp) = v at hi vcore vadds vrest
  have vcur : v.cur = s.cur := by rw [← ucur, ← vrest.1]
  rw [State.branchTo_compute (vcur ▸ hfw), vcur] at hi
  rw [ucur] at vcore vadds vrest
  rw [ugcount] at vadds
  refine ⟨_, hi, ?_, (uadds.trans vadds).trans (.setCore v _ _), (urest.trans vrest).trans (.modCore v _ _)⟩
  rw [State.core_modCore, vcore, ucore]
  simp [Core.branching, onItsWay, ucur, ugcount, codeMem]

end

section
variable {s : State} {c id n : Nat} {a : Access} {t : Target}

/-- The target that the record read by an access names (R105). -/
def State.recordTarget (s : State) (c : Nat) (a : Access) : Target :=
  { hdr := natOf ((s.core c).load a.addr 8), idx := natOf ((s.core c).load (a.addr + 8) 2), raw := 0, away := false }

/-- A shadow's sequencer with the target of its pending branch replaced. -/
def Shadow.branchAt (x : Shadow) (t : Target) (n : Nat) : Shadow := { x with seq := { x.seq with branch := some (t, n) } }

/-- What reading a return record makes of the core's shadow: a branch without a target, shadowed while the core's own is
without one, gets the record's (R243). -/
def shadowRead (named : Target) (own : Target) (sh : Option Shadow) : Option Shadow :=
  sh.map (fun x =>
    match x.seq.branch with
    | some (t, m) => if t = Target.unread ∧ own = Target.unread then x.branchAt named m else x
    | none => x)

/-- A core whose own branch has its target leaves its shadow. -/
theorem shadowRead_of_own (named : Target) {own : Target} (h : own ≠ Target.unread) (sh : Option Shadow) :
    shadowRead named own sh = sh := by
  cases sh with
  | none => rfl
  | some x => cases hx : x.seq.branch <;> simp [shadowRead, hx, h]

/-- A shadow without a branch that waits for its target stays. -/
theorem shadowRead_of_shadow (named own : Target) {x : Shadow} (h : ∀ m, x.seq.branch ≠ some (Target.unread, m)) :
    shadowRead named own (some x) = some x := by
  cases hx : x.seq.branch with
  | none => simp [shadowRead, hx]
  | some p =>
    have hp : p.1 ≠ Target.unread := fun e => h p.2 (by rw [hx, ← e])
    simp [shadowRead, hx, hp]

theorem State.returnRead_eq (hb : (s.core c).seq.branch = some (t, n)) : s.returnRead c a =
    s.setCore c { s.core c with seq := { (s.core c).seq with branch := some (s.recordTarget c a, n) },
                                shadow := shadowRead (s.recordTarget c a) t (s.core c).shadow } := by
  simp only [State.returnRead, State.modCore, hb, Option.map_some, Option.any_some, State.recordTarget]
  refine congrArg (fun sh => s.setCore c { s.core c with seq := _, shadow := sh }) ?_
  refine congrFun (congrArg Option.map (funext fun x => ?_)) _
  cases hx : x.seq.branch with
  | none => simp
  | some p =>
    obtain ⟨t', m⟩ := p
    simp [Shadow.branchAt]

/-- The read of a return record, none of whose bytes is in error (R105). -/
theorem returnRead_answers (ha : (s.core c).accOf id = some a) (hc : a.conflictAt = none) (hop : a.op = .callLoad)
    (hb : (s.core c).seq.branch = some (t, n))
    (hbad : ∀ x, x ∈ (s.core c).badSpad → ¬(a.addr ≤ x ∧ x < a.addr + 16)) :
    Answers (.bankAccess c id .perform) s (fun u =>
      u.core c = { s.core c with
        acc := (s.core c).acc.filter (fun y => decide (y.id ≠ id)),
        seq := { (s.core c).seq with branch := some (s.recordTarget c a, n) },
        shadow := shadowRead (s.recordTarget c a) t (s.core c).shadow } ∧
      OnlyCore s u c ∧ u.agenda = s.agenda) := by
  have hclean : ∀ x, x ∈ (s.core c).badSpad → a.readsByte (s.core c) x = false := fun x hx => by
    simpa [Access.readsByte, hop] using hbad x hx
  have hrun := bankAccess_perform_clean ha hc (by simp [hop]) hclean
  have hperf : s.performAccess c a = s.returnRead c a := by simp only [State.performAccess, hop]
  rw [hperf, State.returnRead_eq hb, store_close] at hrun
  exact ⟨_, hrun, State.core_setCore .., .setCore s c _, rfl⟩

end

/-- A word of the record that its bytes give. -/
theorem State.recordTarget_eq (s : State) (c : Nat) (a : Access) :
    s.recordTarget c a =
      { hdr := natOf ((List.range 8).map (fun i => (s.core c).spad.read (a.addr + 0 + i)))
        idx := natOf ((List.range 2).map (fun i => (s.core c).spad.read (a.addr + 8 + i))), raw := 0, away := false } := by
  simp only [State.recordTarget, Core.load_eq, Nat.add_zero]

/-- Settles O21: a pending branch, the two accesses of the call stack, their check, and the record that a return reads. -/
theorem branches : Obligations.Branches := by
  refine ⟨fun s g idx seg r sl hok hon hfw => ?_, fun s c id a t n ha hc hop hb hbad => ?_⟩
  · intro c k half tgt v near far to_ jump stacked ret covered record push limit
    have htgt : ∀ next n raw, s.segTarget next n raw = tgt next n raw := fun next n raw => by
      simp only [State.segTarget, hfw, Core.segOf, tgt, Bool.false_eq_true, if_false]
      cases next with
      | false => rfl
      | true =>
        show (match if half.lastSeg = true then (0, true) else (half.next, false) with
          | (hdr, away) => ({ hdr := hdr, idx := n, raw := raw, away := away } : Target)) = _
        cases half.lastSeg <;> rfl
    have hnear : s.cbTarget idx seg = near := htgt ..
    have hfar : s.regTarget r = far := by
      rw [State.regTarget, rs_compute hfw, htgt]
      simp [far, v, k, fld, c]
    have hrecord : k.returnPos = record := by
      show (if ret < half.bundles.length ∨ covered = true then (half.hdr, ret)
        else if half.lastSeg = true then (0, ret - half.bundles.length) else (half.next, ret - half.bundles.length)) = record
      cases hl : half.lastSeg <;> simp only [record, hl] <;> rfl
    have honBr : Enabled (.br g idx seg) false g s := ⟨hok, hon⟩
    have honBri : Enabled (.bri g r) false g s := ⟨hok, hon⟩
    have honCall : Enabled (.call g idx seg) false g s := ⟨hok, hon⟩
    have honCalli : Enabled (.calli g r) false g s := ⟨hok, hon⟩
    have honRet : Enabled (.ret g) false g s := ⟨hok, hon⟩
    have hpush : s.pushReturn = (s.access codeMem (rangeBanks (k.csp.toNat % 0x600000) 16) (k.csp.toNat % 0x600000) 2 2
        (.callStore record.1 record.2)).landIn 1 .ctl (.sysreg 1 (k.csp + 16)) := by
      rw [State.pushReturn, hfw, ← hrecord]
      rfl
    refine ⟨rfl, ?_, ?_, fun hroom => ⟨?_, ?_⟩, fun hfull => ⟨?_, ?_⟩, fun hroom => ?_, fun hempty => ?_⟩
    · exact branchTo_answers hfw (by rw [exec_br, execBr, runOp_on _ honBr, hnear])
    · exact branchTo_answers hfw (by rw [exec_bri, execBri, runOp_on _ honBri, hfar])
    · have pass : s.slotFault c (.call g idx seg) = none := by
        simp [State.slotFault, k, Nat.not_lt.mpr hroom]
      exact stackAccess_answers hfw (by rw [exec_call, execCall, runChecked_pass _ honCall pass, hpush, hnear])
    · have pass : s.slotFault c (.calli g r) = none := by
        simp [State.slotFault, k, Nat.not_lt.mpr hroom]
      exact stackAccess_answers hfw (by rw [exec_calli, execCalli, runChecked_pass _ honCalli pass, hpush, hfar])
    · have fail : s.slotFault c (.call g idx seg) = some (0, 13, 0, k.csp.toNat + k.slimit.toNat * 2 ^ 64) := by
        simp [State.slotFault, k, hon, hfull]
      show exec (.call g idx seg) s = _
      rw [exec_call, execCall, runChecked_fail _ honCall hfw rfl fail]
      rfl
    · have fail : s.slotFault c (.calli g r) = some (0, 13, 0, k.csp.toNat + k.slimit.toNat * 2 ^ 64) := by
        simp [State.slotFault, k, hon, hfull]
      show exec (.calli g r) s = _
      rw [exec_calli, execCalli, runChecked_fail _ honCalli hfw rfl fail]
      rfl
    · have pass : s.slotFault c (.ret g) = none := by
        simp [State.slotFault, k, Nat.not_lt.mpr hroom]
      refine stackAccess_answers hfw ?_
      rw [exec_ret, execRet, runChecked_pass _ honRet pass, hfw]
      rfl
    · have fail : s.slotFault c (.ret g) = some (0, 13, 0, k.csp.toNat + k.csbase.toNat * 2 ^ 64) := by
        simp [State.slotFault, k, hon, hempty]
      show exec (.ret g) s = _
      rw [exec_ret, execRet, runChecked_fail _ honRet hfw rfl fail]
      rfl
  · intro k bytes named without gives
    have hnamed : s.recordTarget c a = named := s.recordTarget_eq c a
    have hread := returnRead_answers ha hc hop hb hbad
    rw [hnamed] at hread
    have hgives : ∀ sh, shadowRead named t k.shadow = sh → gives sh := fun sh h => h ▸ hread
    refine ⟨fun h => hgives _ ?_, fun x hx hsh => ⟨fun m hm => hgives _ ?_, fun hm => hgives _ ?_⟩⟩
    · rcases h with h | h
      · exact shadowRead_of_own named h k.shadow
      · rw [h]
        rfl
    · simp [shadowRead, hsh, hm, hx, without, Target.unread, Shadow.branchAt]
    · rw [hsh]
      exact shadowRead_of_shadow named t hm

end Sys2Proof.Machine
end

section
/-! Where a context goes on after its bundle (R71, R92, R95, R101, R108, R110, R248, R324). -/

namespace Sys2Proof.Machine
open Sys2Proof.Safety

/-! The next issue, and the stop point that it may be (R71, R248). -/

/-- The next bundle of a core that nothing holds is foreseen as its stop point exactly when it is one (R248). -/
theorem Core.foreseen_eq_some_iff {k : Core} {h : Heat} (hi : k.issues = true) (hu : k.unheld = true) {d : Nat} :
    k.foreseen h = some d ↔ d = k.seq.due ∧ StopPoint h k k.seq.due := by
  have hdue : k.nextDue = some k.seq.due := by
    simp only [Core.unheld, Bool.and_eq_true, decide_eq_true_eq] at hu
    obtain ⟨hhold, hmem⟩ := hu
    simp only [Core.issues, Bool.or_eq_true, decide_eq_true_eq] at hi
    rcases hi with hi | hi <;> simp only [Core.nextDue, hi, hhold, hmem]
  unfold Core.foreseen StopPoint
  rw [hdue]
  cases hr : h.stopReq with
  | none => simp
  | some r =>
    cases hf : k.faultAt with
    | some f => simp
    | none =>
      cases hb : k.bundleAt with
      | none => simp
      | some b =>
        cases hx : decodeHeader b with
        | none => simp [hx]
        | some x =>
          simp only [Option.bind_some, hx, Option.ite_none_right_eq_some, Option.some.injEq]
          constructor
          · rintro ⟨⟨hle, hstop, hpipe⟩, rfl⟩
            exact ⟨rfl, trivial, hpipe, ⟨r, rfl, hle⟩, b, x, rfl, hx, hstop⟩
          · rintro ⟨rfl, -, hpipe, ⟨r', hr', hle⟩, b', x', hb', hx', hstop⟩
            cases hr'
            cases hb'
            rw [hx] at hx'
            cases hx'
            exact ⟨⟨hle, hstop, hpipe⟩, rfl⟩

/-- A core that comes to its end writes the record of its heat and the agenda, to which it only adds (R219, R248). -/
theorem State.noteStopped_frame (s : State) (c : Nat) : (∀ d, (s.noteStopped c).core d = s.core d) ∧
    { s.noteStopped c with heats := s.heats, agenda := s.agenda } = s ∧ ∀ x, x ∈ s.agenda → x ∈ (s.noteStopped c).agenda := by
  have completion : ∀ n i, (∀ d, (s.atOnce n i).core d = s.core d) ∧
      { s.atOnce n i with heats := s.heats, agenda := s.agenda } = s := fun n i =>
    ⟨fun d => State.core_atOnce .., by unfold State.atOnce; split <;> rfl⟩
  have quiescence : ∀ u : State, (∀ d, u.core d = s.core d) → { u with heats := s.heats, agenda := s.agenda } = s →
      (∀ x, x ∈ s.agenda → x ∈ u.agenda) → ∀ p h n i,
      (∀ d, ((u.setHeat p h).at n i).core d = s.core d) ∧
      { (u.setHeat p h).at n i with heats := s.heats, agenda := s.agenda } = s ∧
      ∀ x, x ∈ s.agenda → x ∈ ((u.setHeat p h).at n i).agenda := fun u hcore hrest hag p h n i =>
    ⟨hcore, hrest, fun x hx => (State.mem_at _ _ _ _).mpr (.inl (hag x hx))⟩
  unfold State.noteStopped
  dsimp only
  split
  · obtain ⟨hcore, hrest⟩ := completion s.gcount (.heatCompletion (s.partOf c))
    have hag := (Later.atOnce s s.gcount (.heatCompletion (s.partOf c))).agenda
    split
    · exact quiescence _ hcore hrest hag ..
    · exact ⟨hcore, hrest, hag⟩
  · split
    · exact quiescence s (fun _ => rfl) rfl (fun _ hx => hx) ..
    · exact ⟨fun _ => rfl, rfl, fun _ hx => hx⟩

/-- Core `c`, which `k` describes, goes on to its next bundle, due as `k` says; where K stands and that bundle is the core's stop
point it has stopped with that (R248). -/
def GoesOn (s t : State) (c : Nat) (k : Core) : Prop :=
  let h := s.heat (s.partOf c)
  let stops := h.cutK.isSome = true ∧ h.phase = .stopping ∧ StopPoint h k k.seq.due
  (¬stops → t.core c = k ∧ Adds s t [{ at_ := k.seq.due, instr := .bundleIssue c }] ∧ OnlyCore s t c) ∧
  (stops → t.core c = { k with seq := stoppedSeq k.seq k.seq.due } ∧
    { t with cores := s.cores, heats := s.heats, agenda := s.agenda } = s ∧
    (∀ d, d ≠ c → t.core d = s.core d) ∧ ∀ x, x ∈ s.agenda → x ∈ t.agenda)

section
variable {s : State} {c : Nat}

/-- A core that has not reached its stop point goes on (R248). -/
theorem State.lookStop_of_not {u : State} (hi : (u.core c).issues = true) (hu : (u.core c).unheld = true)
    (hn : ¬((u.heat (u.partOf c)).cutK.isSome = true ∧ (u.heat (u.partOf c)).phase = .stopping ∧
      StopPoint (u.heat (u.partOf c)) (u.core c) (u.core c).seq.due)) : u.lookStop c = u := by
  unfold State.lookStop
  dsimp only
  split
  · next due hd =>
    obtain ⟨-, hstop⟩ := (Core.foreseen_eq_some_iff hi hu).mp hd
    refine if_neg (fun hc => hn ?_)
    simp only [Bool.and_eq_true, decide_eq_true_eq] at hc
    exact ⟨hc.1, hc.2, hstop⟩
  · rfl

theorem State.lookStop_of_stops {u : State} (hi : (u.core c).issues = true) (hu : (u.core c).unheld = true)
    (hk : (u.heat (u.partOf c)).cutK.isSome = true) (hp : (u.heat (u.partOf c)).phase = .stopping)
    (hstop : StopPoint (u.heat (u.partOf c)) (u.core c) (u.core c).seq.due) :
    u.lookStop c = u.coreStops c (fun q => { q with stopLine := some (q.pos, 0), stopAt := (u.core c).seq.due }) := by
  have hd : (u.core c).foreseen (u.heat (u.partOf c)) = some (u.core c).seq.due :=
    (Core.foreseen_eq_some_iff hi hu).mpr ⟨rfl, hstop⟩
  unfold State.lookStop
  dsimp only
  rw [hd]
  dsimp only
  rw [hk, hp]
  rfl

/-- A core that nothing holds schedules its next bundle GAP cycles after a cycle (R71). -/
theorem State.scheduleIssue_goesOn {base : Nat} (hi : (s.core c).issues = true) (hu : (s.core c).unheld = true)
    (hb : s.gcount ≤ base) : GoesOn s (s.scheduleIssue c base) c
      { s.core c with seq := { (s.core c).seq with due := base + (s.core c).nextGap } } := by
  generalize hk : ({ s.core c with seq := { (s.core c).seq with due := base + (s.core c).nextGap } } : Core) = k
  have hki : k.issues = true := by rw [← hk]; exact hi
  have hku : k.unheld = true := by rw [← hk]; exact hu
  have hdue : k.seq.due = base + (s.core c).nextGap := by rw [← hk]
  have hle : s.gcount ≤ k.seq.due := by omega
  have hsched : s.scheduleIssue c base = ((s.setCore c k).at k.seq.due (.bundleIssue c)).lookStop c := by
    rw [hdue, ← hk]
    rfl
  generalize hv : (s.setCore c k).at k.seq.due (.bundleIssue c) = v at hsched
  have vcore : v.core c = k := by rw [← hv, State.core_at, State.core_setCore]
  have vheat : v.heat (v.partOf c) = s.heat (s.partOf c) := by rw [← hv]; rfl
  have vadds : Adds s v [{ at_ := k.seq.due, instr := .bundleIssue c }] := by
    rw [← hv]
    exact (Adds.setCore s _ _).at hle
  have vonly : OnlyCore s v c := by
    rw [← hv]
    exact .setCore_at s _ _ _ _
  refine ⟨fun hn => ?_, fun ⟨hcut, hphase, hstop⟩ => ?_⟩
  · rw [hsched, State.lookStop_of_not (vcore ▸ hki) (vcore ▸ hku) (by rw [vcore, vheat]; exact hn)]
    exact ⟨vcore, vadds, vonly⟩
  · rw [hsched, State.lookStop_of_stops (vcore ▸ hki) (vcore ▸ hku) (vheat ▸ hcut) (vheat ▸ hphase)
      (by rw [vcore, vheat]; exact hstop), State.coreStops, vcore]
    generalize hw : v.modCore c _ = w
    obtain ⟨ncore, nrest, nag⟩ := w.noteStopped_frame c
    have wcore : w.core c = { k with seq := stoppedSeq k.seq k.seq.due } := by
      rw [← hw, State.core_modCore, vcore]
      rfl
    have wrest : { w with cores := s.cores, agenda := s.agenda } = s := by
      rw [← hw]
      exact vonly.1
    refine ⟨(ncore c).trans wcore, ?_, fun d hd => (ncore d).trans ?_, fun x hx => nag x ?_⟩
    · have e : { ({ w.noteStopped c with heats := w.heats, agenda := w.agenda } : State) with
          cores := s.cores, agenda := s.agenda } = s := by rw [nrest]; exact wrest
      have hheats : w.heats = s.heats := by rw [← wrest]
      rw [hheats] at e
      exact e
    · rw [← hw, State.core_modCore_ne _ _ _ _ hd]
      exact vonly.2 d hd
    · rw [← hw]
      exact (vadds x).mpr (.inl hx)

/-- A core that is written, and goes on from there, goes on. -/
theorem GoesOn.of_setCore {k k' : Core} {t : State} (h : GoesOn (s.setCore c k) t c k') : GoesOn s t c k' := by
  obtain ⟨hgo, hstop⟩ := h
  refine ⟨fun hn => ?_, fun hs => ?_⟩
  · obtain ⟨hcore, hadds, honly⟩ := hgo hn
    exact ⟨hcore, (Adds.setCore s c k).trans hadds, (OnlyCore.setCore s c k).trans honly⟩
  · obtain ⟨hcore, hrest, hother, hag⟩ := hstop hs
    refine ⟨hcore, ?_, fun d hd => (hother d hd).trans (State.core_setCore_ne s c d k hd), hag⟩
    have e : { ({ t with cores := (s.setCore c k).cores, heats := s.heats, agenda := s.agenda } : State) with
        cores := s.cores } = s := congrArg (fun u : State => { u with cores := s.cores }) hrest
    exact e

/-- After its bundle a context that has not ended goes on to the position its advance found (R71). -/
theorem State.finishCompute_goesOn {q : Seq} (hi : (s.core c).issues = true)
    (hadv : s.advance c = s.setCore c { s.core c with seq := q })
    (hdom : q.dom = (s.core c).seq.dom) (hhold : q.hold = (s.core c).seq.hold) (hmem : q.memHold = (s.core c).seq.memHold)
    (hu : (s.core c).unheld = true) : GoesOn s (s.finishCompute c) c
      { s.core c with seq := { q with due := s.gcount + 1 + ({ s.core c with seq := q } : Core).nextGap } } := by
  generalize hk : ({ s.core c with seq := q } : Core) = k at hadv
  have hki : k.issues = true := by
    rw [← hk, Core.issues, hdom]
    exact hi
  have hku : k.unheld = true := by
    rw [← hk, Core.unheld, hhold, hmem]
    exact hu
  have hfinish : s.finishCompute c = (s.setCore c k).scheduleIssue c (s.gcount + 1) := by
    simp only [State.finishCompute, hi, hadv, State.core_setCore, hki, hku, Bool.and_self, if_true]
    rfl
  have hgo := (s.setCore c k).scheduleIssue_goesOn (c := c) (base := s.gcount + 1) (by rwa [State.core_setCore])
    (by rwa [State.core_setCore]) (Nat.le_succ _)
  rw [State.core_setCore] at hgo
  rw [hfinish]
  subst hk
  exact hgo.of_setCore

/-- Before a recorded fault nothing stops: the trap is due in the next cycle (R97). -/
theorem GoesOn.of_faultAt {k : Core} {t : State} (h : GoesOn s t c k) {r : ExpRecord} (hf : k.faultAt = some r) :
    t.core c = k ∧ Adds s t [{ at_ := k.seq.due, instr := .bundleIssue c }] ∧ OnlyCore s t c :=
  h.1 (fun ⟨_, _, hnone, _⟩ => by rw [hf] at hnone; cases hnone)

end

/-- GAP of a position without a recorded fault (R71). -/
theorem Core.nextGap_of_sound {k : Core} (hb : k.seq.bad = none) (hr : (k.half k.seq.half).rec_ = none) :
    k.nextGap = (((k.half k.seq.half).bundles[k.seq.pos]?).map gapOf).getD 0 := by
  rw [Core.nextGap, Core.faultAt_eq_none hb hr]
  cases h : k.bundleAt with
  | none => rw [show (k.half k.seq.half).bundles[k.seq.pos]? = none from h]; rfl
  | some b => rw [show (k.half k.seq.half).bundles[k.seq.pos]? = some b from h]; rfl

/-- A recorded fault has no GAP (R97). -/
theorem Core.nextGap_of_bad {k : Core} {r : ExpRecord} (hb : k.seq.bad = some r) : k.nextGap = 0 := by
  rw [Core.nextGap, Core.faultAt_eq_some (.inl hb)]

/-! The position an advance finds (R92, R95, R98). -/

section
variable {s : State} {c pos : Nat} {branch : Bool}

theorem State.fetchAll_of_idle {h : Bool} (hb : ((s.core c).half h).busy = false) (n : Nat) : s.fetchAll c h n = s := by
  cases n with
  | zero => rfl
  | succ n => rw [State.fetchAll, hb]; rfl

theorem State.landAtPos_inside (hb : ((s.core c).half (s.core c).seq.half).busy = false)
    (hp : pos < ((s.core c).half (s.core c).seq.half).bundles.length) : s.landAtPos c pos branch =
      s.setCore c { s.core c with seq := { (s.core c).seq with pos := pos, bad := none } } := by
  simp only [State.landAtPos, hb, hp, Bool.false_eq_true, if_false, true_or, if_true]
  rfl

/-- Beyond the bundles of a half without a record: the end of the chain, the other half, or a segment that is not there. -/
theorem State.landAtPos_beyond (hb : ((s.core c).half (s.core c).seq.half).busy = false)
    (hr : ((s.core c).half (s.core c).seq.half).rec_ = none)
    (hp : ((s.core c).half (s.core c).seq.half).bundles.length ≤ pos) : s.landAtPos c pos false =
      if ((s.core c).half (s.core c).seq.half).lastSeg = true then
        s.setCore c { s.core c with seq := { (s.core c).seq with
          pos := pos
          bad := some ⟨false, pos, 4, ((s.core c).half (s.core c).seq.half).hdr, ((s.core c).half (s.core c).seq.half).endOff,
            ((s.core c).half (s.core c).seq.half).hdr + ((s.core c).half (s.core c).seq.half).endOff⟩ } }
      else if ((s.core c).half (!(s.core c).seq.half)).valid = true then
        (s.enterHalf c (!(s.core c).seq.half)).modCore c (fun k => { k with seq := { k.seq with pos := 0, bad := none } })
      else
        s.setCore c { s.core c with seq := { (s.core c).seq with
          pos := pos
          bad := some ⟨false, pos, 6, ((s.core c).half (s.core c).seq.half).next, 0,
            ((s.core c).half (s.core c).seq.half).next⟩ } } := by
  simp only [State.landAtPos, hb, hr, Nat.not_lt.mpr hp, Bool.false_eq_true, if_false, or_self]
  rfl

end

/-! The advance (R95, R101, R108). -/

section
variable {s : State} {c : Nat}

/-- An iteration of a loop that is not spatial has no completion bit (R218). -/
theorem State.iterDone_of_plain {l : LoopRec} (h : l.kind = 0) : s.iterDone c l = s := by
  unfold State.iterDone
  dsimp only
  split
  · rfl
  · exact if_pos (.inl h)

theorem State.foldl_iterDone_of_plain {ls : List LoopRec} (h : ∀ l ∈ ls, l.kind = 0) :
    ls.foldl (fun s l => s.iterDone c l) s = s := by
  induction ls with
  | nil => rfl
  | cons l ls ih =>
    rw [List.foldl_cons, State.iterDone_of_plain (h l List.mem_cons_self)]
    exact ih (fun l hl => h l (List.mem_cons_of_mem _ hl))

/-- Without a pending branch or a drain, the loops say where the sequencer goes on (R108, R110). -/
theorem State.advance_of_no_branch (hb : (s.core c).seq.branch = none) (hs : (s.core c).seq.stopLine = none)
    (hl : ∀ l ∈ iterEnds ((s.core c).seq.pos + 1 + (s.core c).seq.skip) (s.core c).seq.loops, l.kind = 0)
    {next : Nat} {loops : List LoopRec} {idx : Sparse Nat}
    (hc : closeLoops ((s.core c).seq.pos + 1 + (s.core c).seq.skip) (s.core c).seq.loops (s.core c).seq.idx =
      (next, loops, idx)) :
    s.advance c = (s.setCore c { s.core c with seq := { (s.core c).seq with loops := loops, idx := idx, skip := 0 } }).landAtPos
      c next false := by
  have h : s.advance c = (s.modCore c (fun k => { k with seq := { k.seq with loops := loops, idx := idx, skip := 0 } })).landAtPos
      c next false := by
    simp only [State.advance, hb, hs, State.foldl_iterDone_of_plain hl, hc]
  exact h

/-- A delay bundle has issued (R101). -/
theorem State.advance_of_delay {t : Target} {n : Nat} (hb : (s.core c).seq.branch = some (t, n + 2)) :
    s.advance c = (s.setCore c { s.core c with seq := { (s.core c).seq with branch := some (t, n + 1) } }).landAtPos
      c ((s.core c).seq.pos + 1) false := by
  simp only [State.advance, hb]
  rw [if_neg (by omega)]
  rfl

/-- The last delay bundle has issued: a target of the segment at hand is reached (R101). -/
theorem State.advance_of_branch {t : Target} (hb : (s.core c).seq.branch = some (t, 1))
    (hv : ((s.core c).half (s.core c).seq.half).valid = true) (ha : t.away = false)
    (hh : t.hdr = ((s.core c).half (s.core c).seq.half).hdr) :
    s.advance c = (s.setCore c { s.core c with seq := { (s.core c).seq with branch := none } }).landAtPos c t.idx true := by
  simp only [State.advance, hb, Nat.le_refl, if_true, State.jump, State.core_modCore]
  exact if_pos ⟨ha, hv, hh.symm⟩

end

/-! The entry into the other half (R92). -/

@[simp] theorem Core.seq_setHalf (k : Core) (h : Bool) (x : Half) : (k.setHalf h x).seq = k.seq := by
  cases h <;> rfl

@[simp] theorem Core.rs_setHalf (k : Core) (h : Bool) (x : Half) (r : Nat) : (k.setHalf h x).rs r = k.rs r := by
  cases h <;> rfl

section
variable {s : State} {c : Nat} {h : Bool}

/-- The half that is left begins to hold the segment that follows the one entered, or is free after the last (R92). -/
theorem State.enterHalf_core (hb : ((s.core c).half h).busy = false) (hv : ((s.core c).half h).valid = true)
    (hr : ((s.core c).half h).rec_ = none) :
    (s.enterHalf c h).core c = ({ s.core c with seq := { (s.core c).seq with half := h } } : Core).setHalf (!h)
        (if ((s.core c).half h).lastSeg then halfReset else halfBegin ((s.core c).half h).next) ∧
      (∀ d, d ≠ c → (s.enterHalf c h).core d = s.core d) ∧ Later s (s.enterHalf c h) ∧
      (∀ p, (s.enterHalf c h).heat p = s.heat p) ∧ (s.enterHalf c h).mgmt = s.mgmt ∧
      (((s.core c).half h).lastSeg = false → ∃ n, s.gcount + 1 ≤ n ∧
        ({ at_ := n, instr := .codeLineFetch c } : Event) ∈ (s.enterHalf c h).agenda) := by
  generalize hu : s.modCore c (fun k => { k with seq := { k.seq with half := h } }) = u
  have ucore : u.core c = { s.core c with seq := { (s.core c).seq with half := h } } := by
    rw [← hu, State.core_modCore]
  have uhalf : (u.core c).half h = (s.core c).half h := by rw [ucore]; rfl
  have uother : ∀ d, d ≠ c → u.core d = s.core d := fun d hd => by rw [← hu, State.core_modCore_ne _ _ _ _ hd]
  have ulater : Later s u := hu ▸ .modCore s c _
  have uheat : ∀ p, u.heat p = s.heat p := fun p => by rw [← hu, State.heat_modCore]
  have umgmt : u.mgmt = s.mgmt := by rw [← hu]; rfl
  have henter : s.enterHalf c h = u.expandNext c h := by
    rw [State.enterHalf, State.fetchAll_of_idle hb, ← hu]
  rw [henter, State.expandNext]
  dsimp only
  rw [uhalf, hv, hr, hb, ← ucore]
  cases hl : ((s.core c).half h).lastSeg with
  | true =>
    simp only [Bool.not_true, Bool.and_false, Bool.false_and, Bool.false_eq_true, if_false, if_true]
    refine ⟨State.core_modCore .., fun d hd => (State.core_modCore_ne _ _ _ _ hd).trans (uother d hd),
      ulater.trans (.modCore u c _), uheat, umgmt, fun hf => Bool.noConfusion hf⟩
  | false =>
    refine ⟨(State.core_later ..).trans (State.core_modCore ..),
      fun d hd => (State.core_later ..).trans ((State.core_modCore_ne _ _ _ _ hd).trans (uother d hd)),
      (ulater.trans (.modCore u c _)).trans (.later _ _ _), uheat, umgmt, fun _ => ?_⟩
    obtain ⟨n, hn, hmem⟩ := later_mem (u.modCore c (fun k => k.setHalf (!h) (halfBegin ((s.core c).half h).next))) 1
      (.codeLineFetch c)
    exact ⟨n, ulater.gcount ▸ hn, hmem⟩

end

/-! A firmware context (R101, R324, R326). -/

section
variable {s : State} {c : Nat}

/-- A firmware context that goes on at `f` issues its next bundle in the next cycle; a cause that it may take is looked at there
first (R326). -/
theorem State.scheduleFw_answers {t : Nat} (ht : s.gcount ≤ t) :
    (s.scheduleFw c t).core c = { s.core c with fw := { (s.core c).fw with due := t } } ∧
      AddsOrWakes s (s.scheduleFw c t) c [{ at_ := t, instr := .firmwareBundleIssue c }] ∧ OnlyCore s (s.scheduleFw c t) c := by
  have hadds : Adds s ((s.modFwOf c (fun f => { f with due := t })).at t (.firmwareBundleIssue c))
      [{ at_ := t, instr := .firmwareBundleIssue c }] := (Adds.setCore s c _).at ht
  have honly : OnlyCore s ((s.modFwOf c (fun f => { f with due := t })).at t (.firmwareBundleIssue c)) c :=
    .setCore_at s c _ _ _
  have hcore : ((s.modFwOf c (fun f => { f with due := t })).at t (.firmwareBundleIssue c)).core c =
      { s.core c with fw := { (s.core c).fw with due := t } } := by
    rw [State.core_at, State.modFwOf, State.core_modCore]
  unfold State.scheduleFw
  generalize (s.modFwOf c (fun f => { f with due := t })).at t (.firmwareBundleIssue c) = u at hadds honly hcore ⊢
  refine ⟨(State.core_pokeFw ..).trans hcore, ?_, ?_⟩
  · refine ⟨fun x hx => (Later.pokeFw u c).agenda x ((hadds x).mpr hx), fun x hx => ?_⟩
    have hpoke : x ∈ u.agenda ∨ x.instr = .firmwareCauseTaken c := by
      unfold State.pokeFw at hx
      dsimp only at hx
      split at hx
      · rw [State.mem_atOnce _ _ _ _ (Nat.le_max_right _ _)] at hx
        exact hx.imp_right (fun h => by rw [h])
      · exact .inl hx
    rcases hpoke with h | h
    · exact ((hadds x).mp h).imp_right .inl
    · exact .inr (.inr h)
  · refine honly.trans ?_
    unfold State.pokeFw
    dsimp only
    split
    · exact .atOnce ..
    · exact .refl ..

/-- After its bundle a running context goes on to its next position (R101, R326). -/
theorem State.finishFw_answers (hmode : (s.core c).fw.mode = .running) (htrap : (s.core c).fw.trapped = none) :
    (s.finishFw c).core c = { s.core c with fw := { (s.core c).fw.next with due := s.gcount + 1 } } ∧
      AddsOrWakes s (s.finishFw c) c [{ at_ := s.gcount + 1, instr := .firmwareBundleIssue c }] ∧
      OnlyCore s (s.finishFw c) c := by
  have hfinish : s.finishFw c = (s.modFwOf c FwCtx.next).scheduleFw c (s.gcount + 1) := by
    simp only [State.finishFw, State.fwOf, htrap, hmode]
    rfl
  have hcore : (s.modFwOf c FwCtx.next).core c = { s.core c with fw := (s.core c).fw.next } := by
    rw [State.modFwOf, State.core_modCore]
  obtain ⟨gocore, goadds, goonly⟩ := (s.modFwOf c FwCtx.next).scheduleFw_answers (c := c) (t := s.gcount + 1)
    (Nat.le_succ _)
  rw [hcore] at gocore
  rw [hfinish]
  exact ⟨gocore, goadds, (OnlyCore.modCore s c _).trans goonly⟩

end

section
variable {s : State} {c : Nat}

/-- A context whose advance finds a bundle of its half goes on to it. -/
theorem State.finishCompute_inside {q : Seq} {n : Nat} {branch : Bool} (hi : (s.core c).issues = true)
    (hu : (s.core c).unheld = true) (hb : ((s.core c).half q.half).busy = false)
    (hr : ((s.core c).half q.half).rec_ = none) (hn : n < ((s.core c).half q.half).bundles.length)
    (hadv : s.advance c = (s.setCore c { s.core c with seq := q }).landAtPos c n branch)
    (hdom : q.dom = (s.core c).seq.dom) (hhold : q.hold = (s.core c).seq.hold) (hmem : q.memHold = (s.core c).seq.memHold) :
    GoesOn s (s.finishCompute c) c { s.core c with seq := { q with
      pos := n, bad := none, due := s.gcount + 1 + ((((s.core c).half q.half).bundles[n]?).map gapOf).getD 0 } } := by
  have hland := State.landAtPos_inside (s := s.setCore c { s.core c with seq := q }) (c := c) (pos := n) (branch := branch)
    (by rw [State.core_setCore]; exact hb) (by rw [State.core_setCore]; exact hn)
  rw [State.core_setCore, State.setCore_setCore] at hland
  have hgo := State.finishCompute_goesOn (q := { q with pos := n, bad := none }) hi (hadv.trans hland) hdom hhold hmem hu
  rwa [Core.nextGap_of_sound (k := { s.core c with seq := { q with pos := n, bad := none } }) rfl hr] at hgo

/-- A context whose advance finds nothing to issue goes on to the recorded fault. -/
theorem State.finishCompute_fault {q : Seq} {r : ExpRecord} (hi : (s.core c).issues = true) (hu : (s.core c).unheld = true)
    (hadv : s.advance c = s.setCore c { s.core c with seq := { q with bad := some r } })
    (hdom : q.dom = (s.core c).seq.dom) (hhold : q.hold = (s.core c).seq.hold) (hmem : q.memHold = (s.core c).seq.memHold) :
    (s.finishCompute c).core c = { s.core c with seq := { q with bad := some r, due := s.gcount + 1 } } ∧
      Adds s (s.finishCompute c) [{ at_ := s.gcount + 1, instr := .bundleIssue c }] ∧ OnlyCore s (s.finishCompute c) c := by
  have hgo := State.finishCompute_goesOn hi hadv hdom hhold hmem hu
  rw [Core.nextGap_of_bad (k := { s.core c with seq := { q with bad := some r } }) rfl] at hgo
  exact hgo.of_faultAt (Core.faultAt_eq_some (.inl rfl))

/-- Without loops, a branch or a drain the sequencer goes on to the bundle that follows those it skips (R95, R108). -/
theorem State.advance_straight (hb : (s.core c).seq.branch = none) (hl : (s.core c).seq.loops = [])
    (hs : (s.core c).seq.stopLine = none) :
    s.advance c = (s.setCore c { s.core c with seq := { (s.core c).seq with skip := 0 } }).landAtPos
      c ((s.core c).seq.pos + 1 + (s.core c).seq.skip) false := by
  have hclose : closeLoops ((s.core c).seq.pos + 1 + (s.core c).seq.skip) (s.core c).seq.loops (s.core c).seq.idx =
      ((s.core c).seq.pos + 1 + (s.core c).seq.skip, (s.core c).seq.loops, (s.core c).seq.idx) := by
    rw [hl]
    rfl
  exact State.advance_of_no_branch hb hs (by rw [hl]; exact fun l h => nomatch h) hclose

/-- A fall-through past the last bundle of a segment that is not the chain's last enters the other half (R92). -/
theorem State.finishCompute_enters {q : Seq} {x y : Half} (hq : (s.core c).seq = q) (hx : (s.core c).half q.half = x)
    (hy : (s.core c).half (!q.half) = y) (hi : (s.core c).issues = true) (hu : (s.core c).unheld = true)
    (hxb : x.busy = false) (hxr : x.rec_ = none) (hxl : x.lastSeg = false) (hyv : y.valid = true) (hyb : y.busy = false)
    (hyr : y.rec_ = none) (hb : q.branch = none) (hl : q.loops = []) (hs : q.stopLine = none)
    (hp : x.bundles.length ≤ q.pos + 1 + q.skip)
    (hcut : (s.heat (s.partOf c)).cutK = none ∨ (s.heat (s.partOf c)).phase ≠ .stopping) :
    let due := s.gcount + 1 + ((y.bundles[0]?).map gapOf).getD 0
    let t := s.finishCompute c
    (t.core c).seq = { q with half := !q.half, pos := 0, bad := none, due := due, skip := 0 } ∧
    (t.core c).half (!q.half) = y ∧ (t.core c).half q.half = (if y.lastSeg then halfReset else halfBegin y.next) ∧
    ({ at_ := due, instr := .bundleIssue c } : Event) ∈ t.agenda ∧
    (y.lastSeg = false → ∃ n, s.gcount + 1 ≤ n ∧ ({ at_ := n, instr := .codeLineFetch c } : Event) ∈ t.agenda) ∧
    (∀ d, d ≠ c → t.core d = s.core d) ∧ ∀ r, (t.core c).rs r = (s.core c).rs r := by
  subst hq
  generalize hu0 : s.setCore c { s.core c with seq := { (s.core c).seq with skip := 0 } } = u
  have ucore : u.core c = { s.core c with seq := { (s.core c).seq with skip := 0 } } := by
    rw [← hu0, State.core_setCore]
  have uy : (u.core c).half (!(s.core c).seq.half) = y := by rw [ucore]; exact hy
  have ux : (u.core c).half (u.core c).seq.half = x := by rw [ucore]; exact hx
  obtain ⟨ecore, eother, elater, eheat, emgmt, efetch⟩ := State.enterHalf_core (s := u) (c := c)
    (h := !(s.core c).seq.half) (by rw [uy, hyb]) (by rw [uy, hyv]) (by rw [uy, hyr])
  generalize hz : (if y.lastSeg then halfReset else halfBegin y.next) = z
  rw [uy, hz, ucore, Bool.not_not] at ecore
  rw [uy] at efetch
  have hland := State.landAtPos_beyond (s := u) (c := c) (pos := (s.core c).seq.pos + 1 + (s.core c).seq.skip)
    (by rw [ux, hxb]) (by rw [ux, hxr]) (by rw [ux]; exact hp)
  have hother : (u.core c).half (!(u.core c).seq.half) = y := by rw [ucore]; exact hy
  have hhalf : (u.core c).seq.half = (s.core c).seq.half := by rw [ucore]
  rw [ux, hxl, if_neg Bool.false_ne_true, hother, hyv, if_pos rfl, hhalf, ← hu0, ← State.advance_straight hb hl hs, hu0]
    at hland
  generalize u.enterHalf c (!(s.core c).seq.half) = v at ecore eother elater eheat emgmt efetch hland
  generalize hw : s.advance c = w at hland
  have wcore : w.core c = { (s.core c).setHalf (s.core c).seq.half z with seq := { (s.core c).seq with
      half := !(s.core c).seq.half, pos := 0, bad := none, skip := 0 } } := by
    rw [hland, State.core_modCore, ecore]
    cases (s.core c).seq.half <;> rfl
  have wi : (w.core c).issues = true := by rw [wcore]; exact hi
  have wu : (w.core c).unheld = true := by rw [wcore]; exact hu
  have whalf : (w.core c).half (!(s.core c).seq.half) = y := by
    rw [wcore, ← hy]
    cases (s.core c).seq.half <;> rfl
  have wleft : (w.core c).half (s.core c).seq.half = z := by
    rw [wcore]
    cases (s.core c).seq.half <;> rfl
  have wgap : (w.core c).nextGap = ((y.bundles[0]?).map gapOf).getD 0 := by
    have wseq : (w.core c).seq.half = !(s.core c).seq.half ∧ (w.core c).seq.pos = 0 ∧ (w.core c).seq.bad = none := by
      rw [wcore]
      exact ⟨rfl, rfl, rfl⟩
    obtain ⟨hh, hpos, hbad⟩ := wseq
    rw [Core.nextGap_of_sound hbad (by rw [hh, whalf, hyr]), hh, hpos, whalf]
  have wg : w.gcount = s.gcount := by
    rw [hland, show (v.modCore c _).gcount = v.gcount from rfl, elater.gcount, ← hu0]
    rfl
  have wheat : w.heat (w.partOf c) = s.heat (s.partOf c) := by
    have hpart : w.partOf c = s.partOf c := by
      have hm : w.mgmt = s.mgmt := by
        rw [hland, show (v.modCore c _).mgmt = v.mgmt from rfl, emgmt, ← hu0]
        rfl
      rw [State.partOf, hm]
      rfl
    rw [hpart, hland, State.heat_modCore, eheat, ← hu0, State.heat_setCore]
  have hfinish : s.finishCompute c = w.scheduleIssue c (s.gcount + 1) := by
    simp only [State.finishCompute, hi, hw, wi, wu, wg, Bool.and_self, if_true]
  obtain ⟨tcore, tadds, tonly⟩ := (State.scheduleIssue_goesOn (base := s.gcount + 1) wi wu (by omega)).1
    (fun ⟨hk, hphase, _⟩ => by
      rw [wheat] at hk hphase
      rcases hcut with h | h
      · rw [h] at hk
        cases hk
      · exact h hphase)
  rw [wgap] at tcore tadds
  intro due t
  rw [show t = w.scheduleIssue c (s.gcount + 1) from hfinish]
  refine ⟨?_, ?_, ?_, (tadds _).mpr (.inr (List.mem_singleton.mpr rfl)), fun hlast => ?_, fun d hd => ?_, fun r => ?_⟩
  · rw [tcore, wcore]
  · rw [tcore, ← whalf]
    exact Core.half_congr rfl rfl _
  · rw [tcore, ← wleft]
    exact Core.half_congr rfl rfl _
  · obtain ⟨n, hn, hmem⟩ := efetch hlast
    refine ⟨n, ?_, (tadds _).mpr (.inl ?_)⟩
    · rw [← hu0] at hn
      exact hn
    · rw [hland]
      exact hmem
  · rw [tonly.2 d hd, hland, State.core_modCore_ne _ _ _ _ hd, eother d hd, ← hu0, State.core_setCore_ne _ _ _ _ hd]
  · have hs : (w.core c).rs r = (s.core c).rs r := by
      rw [wcore]
      exact Core.rs_setHalf ..
    rw [tcore, ← hs]
    rfl

end

/-- A sequencer without a pending branch. -/
theorem Seq.branch_none {q : Seq} (hb : q.branch = none) : { q with branch := none } = q := by
  rw [← hb]

section
variable {f : FwCtx} {t : Target}

/-! The next position of a firmware context (R101, R324, R326). -/

theorem FwCtx.next_of_resume {n : Nat} (hr : f.resume = some n) :
    f.next = { f with pos := n, away := none, branch := none, resume := none } := by
  rw [FwCtx.next, hr]

theorem FwCtx.next_straight (hr : f.resume = none) (hb : f.branch = none) :
    f.next = { f with pos := f.pos + 1, away := none, branch := none, resume := none } := by
  simp only [FwCtx.next, hr, hb]

theorem FwCtx.next_of_delay {n : Nat} (hr : f.resume = none) (hb : f.branch = some (t, n + 2)) :
    f.next = { f with pos := f.pos + 1, away := none, branch := some (t, n + 1), resume := none } := by
  have hn : ¬n + 2 ≤ 1 := by omega
  simp only [FwCtx.next, hr, hb, hn, if_false]
  rfl

theorem FwCtx.next_of_branch (hr : f.resume = none) (hb : f.branch = some (t, 1)) :
    f.next = { f with pos := t.idx, away := fwAway t, branch := none, resume := none } := by
  simp only [FwCtx.next, hr, hb, Nat.le_refl, if_true]

end

/-- Settles O56: the advance of each context, and the scheduling of the bundle that it finds. -/
theorem sequencerAdvance : Obligations.SequencerAdvance := by
  intro s c k q x y h at_ faults f fwAt
  refine ⟨fun hi hu hbusy hrec hstop => ?_, fun hmode htrap => ?_⟩
  · have inside : ∀ n l i br skip branch, n < x.bundles.length →
        s.advance c = (s.setCore c { k with seq := { q with loops := l, idx := i, branch := br, skip := skip } }).landAtPos
          c n branch → at_ n l i br skip (s.finishCompute c) := fun n l i br skip branch hn hadv =>
      State.finishCompute_inside (q := { q with loops := l, idx := i, branch := br, skip := skip }) hi hu hbusy hrec hn hadv
        rfl rfl rfl
    have looped : ∀ {next loops idx}, q.branch = none → next < x.bundles.length →
        (∀ l ∈ iterEnds (q.pos + 1 + q.skip) q.loops, l.kind = 0) →
        closeLoops (q.pos + 1 + q.skip) q.loops q.idx = (next, loops, idx) →
        at_ next loops idx none 0 (s.finishCompute c) := fun {next loops idx} hb hn hends hclose => by
      have hadv := State.advance_of_no_branch hb hstop hends hclose
      rw [← Seq.branch_none (q := { q with loops := loops, idx := idx, skip := 0 }) hb] at hadv
      exact inside _ _ _ _ _ _ hn hadv
    have beyond : q.branch = none → q.loops = [] → x.bundles.length ≤ q.pos + 1 + q.skip → _ := fun hb hl hp =>
      (State.advance_straight hb hl hstop).trans
        (State.landAtPos_beyond (s := s.setCore c { k with seq := { q with skip := 0 } })
          (by rw [State.core_setCore]; exact hbusy) (by rw [State.core_setCore]; exact hrec)
          (by rw [State.core_setCore]; exact hp))
    simp only [State.core_setCore, State.setCore_setCore] at beyond
    have fault : ∀ r, s.advance c = s.setCore c { k with seq := { q with
        pos := q.pos + 1 + q.skip, bad := some r, skip := 0 } } → faults r (s.finishCompute c) := fun r hadv =>
      State.finishCompute_fault (q := { q with pos := q.pos + 1 + q.skip, skip := 0 }) hi hu hadv rfl rfl rfl
    refine ⟨fun hb hl hn => looped hb hn (by rw [hl]; exact fun l h => nomatch h) (by rw [hl]; rfl),
      fun hb hl hp => ⟨fun hlast => fault _ ((beyond hb hl hp).trans (if_pos hlast)),
        fun hlast hy => fault _ ((beyond hb hl hp).trans ?_),
        fun hlast hyv hyb _ hyr hcut => State.finishCompute_enters rfl rfl rfl hi hu hbusy hrec hlast hyv hyb hyr hb hl hstop
          hp hcut⟩,
      fun t n hb hn => inside _ _ _ _ _ _ hn (State.advance_of_delay hb),
      fun t hb hv ha hh hn => inside _ _ _ _ _ _ hn (State.advance_of_branch hb hv ha hh),
      fun l rest hb hl hkind hskip => ?_⟩
    · exact (if_neg (fun e => Bool.false_ne_true (hlast.symm.trans e))).trans
        (if_neg (fun e => Bool.false_ne_true (hy.symm.trans e)))
    · have hends : ∀ n, ∀ l' ∈ iterEnds n (l :: rest), rest = [] ∨ n < l.start + l.body ∨ l.j + 1 < l.n + l.s - 1 →
          l'.kind = 0 := by
        intro n l' hl' hcase
        by_cases hbody : n < l.start + l.body
        · simp [iterEnds, hbody] at hl'
        · by_cases hnext : l.j + 1 < l.n + l.s - 1
          · simp only [iterEnds, hbody, hnext, if_false, if_true, List.mem_singleton] at hl'
            rw [hl', hkind]
          · obtain rfl : rest = [] := by simpa [hbody, hnext] using hcase
            simp only [iterEnds, hbody, hnext, if_false, List.mem_singleton] at hl'
            rw [hl', hkind]
      refine ⟨fun hbody hn => looped hb hn (fun l' h' => ?_) ?_, fun hbody hnext hn => looped hb hn (fun l' h' => ?_) ?_,
        fun hbody hdone hrest hn => looped hb hn (fun l' h' => ?_) ?_⟩
      · rw [hskip, hl] at h'
        exact hends _ l' h' (.inr (.inl hbody))
      · rw [hskip, hl]
        exact if_pos hbody
      · rw [hskip, hl] at h'
        exact hends _ l' h' (.inr (.inr hnext))
      · rw [hskip, hl]
        exact (if_neg (Nat.not_lt.mpr hbody)).trans (if_pos hnext)
      · rw [hskip, hl] at h'
        exact hends _ l' h' (.inl hrest)
      · rw [hskip, hl, hrest]
        exact (if_neg (Nat.not_lt.mpr hbody)).trans (if_neg (Nat.not_lt.mpr hdone))
  · have goes : ∀ n out br, f.next = { f with pos := n, away := out, branch := br, resume := none } →
        fwAt n out br (s.finishFw c) := fun n out br hnext => by
      obtain ⟨hcore, hadds, honly⟩ := State.finishFw_answers (s := s) (c := c) hmode htrap
      rw [show (s.core c).fw.next = _ from hnext] at hcore
      exact ⟨hcore, hadds, honly⟩
    refine ⟨fun hr hb => goes _ _ _ (FwCtx.next_straight hr hb), fun t n hr hb => goes _ _ _ (FwCtx.next_of_delay hr hb),
      fun t hr hb hin => goes _ _ _ ?_, fun t hr hb hout => goes _ _ _ ?_, fun n hr => goes _ _ _ (FwCtx.next_of_resume hr)⟩
    · have hin' : fwAway t = none := if_neg (fun e =>
        e.elim (fun hbit => Bool.false_ne_true (hin.1.symm.trans hbit)) (fun hle => absurd hin.2 (Nat.not_lt.mpr hle)))
      rw [FwCtx.next_of_branch hr hb, hin']
    · have hout' : fwAway t = some t.raw := if_pos hout
      rw [FwCtx.next_of_branch hr hb, hout']

end Sys2Proof.Machine
end

section
/-! The SCA slot (R122 to R127): the 64-bit values of its operations as numbers, and the results that land. -/

namespace Sys2Proof.Machine
open Sys2Proof.Safety

/-! Values of 64-bit words (R122 to R125). -/

section
variable (x y : Word64) (n : Nat)

theorem ofNat_toNat_word : BitVec.ofNat 64 x.toNat = x := by
  rw [BitVec.ofNat_toNat, BitVec.setWidth_eq]

theorem sub_eq_ofInt : x - y = BitVec.ofInt 64 ((x.toNat : Int) - y.toNat) := by
  apply BitVec.eq_of_toNat_eq
  rw [BitVec.toNat_sub, BitVec.toNat_ofInt]
  omega

theorem shiftLeft_eq_ofNat : x <<< n = BitVec.ofNat 64 (x.toNat * 2 ^ n) := by
  apply BitVec.eq_of_toNat_eq
  rw [BitVec.toNat_shiftLeft, BitVec.toNat_ofNat, Nat.shiftLeft_eq]

theorem ushiftRight_eq_ofNat : x >>> n = BitVec.ofNat 64 (x.toNat / 2 ^ n) := by
  rw [← Nat.shiftRight_eq_div_pow, ← BitVec.toNat_ushiftRight, ofNat_toNat_word]

theorem sshiftRight_eq_ofInt : x.sshiftRight n = BitVec.ofInt 64 (x.toInt / 2 ^ n) := by
  rw [BitVec.sshiftRight, Int.shiftRight_eq_div_pow]
  norm_cast

theorem ofInt_min : (if x.slt y then x else y) = BitVec.ofInt 64 (min x.toInt y.toInt) := by
  rw [min_def_lt, apply_ite (BitVec.ofInt 64), BitVec.ofInt_toInt, BitVec.ofInt_toInt]
  exact if_congr BitVec.slt_iff_toInt_lt rfl rfl

theorem ofInt_max : (if x.slt y then y else x) = BitVec.ofInt 64 (max x.toInt y.toInt) := by
  rw [max_def_lt, apply_ite (BitVec.ofInt 64), BitVec.ofInt_toInt, BitVec.ofInt_toInt]
  exact if_congr BitVec.slt_iff_toInt_lt rfl rfl

theorem ofNat_min : (if x.ult y then x else y) = BitVec.ofNat 64 (min x.toNat y.toNat) := by
  rw [min_def_lt, apply_ite (BitVec.ofNat 64), ofNat_toNat_word, ofNat_toNat_word]
  exact if_congr BitVec.ult_iff_lt rfl rfl

theorem ofNat_max : (if x.ult y then y else x) = BitVec.ofNat 64 (max x.toNat y.toNat) := by
  rw [max_def_lt, apply_ite (BitVec.ofNat 64), ofNat_toNat_word, ofNat_toNat_word]
  exact if_congr BitVec.ult_iff_lt rfl rfl

/-- Quotients and remainders, with the divisor 0 (R124). -/
theorem divS_eq : divS x y = if y = 0 then BitVec.ofNat 64 (2 ^ 64 - 1) else BitVec.ofInt 64 (x.toInt.tdiv y.toInt) := by
  unfold divS
  split
  · rfl
  · exact BitVec.eq_of_toInt_eq (by rw [BitVec.toInt_sdiv, BitVec.toInt_ofInt])

theorem divU_eq : divU x y = if y = 0 then BitVec.ofNat 64 (2 ^ 64 - 1) else BitVec.ofNat 64 (x.toNat / y.toNat) := by
  unfold divU
  split
  · rfl
  · rw [← BitVec.toNat_udiv, ofNat_toNat_word]

theorem remS_eq : remS x y = if y = 0 then x else BitVec.ofInt 64 (x.toInt.tmod y.toInt) := by
  unfold remS
  rw [← BitVec.toInt_srem, BitVec.ofInt_toInt]

theorem remU_eq : remU x y = if y = 0 then x else BitVec.ofNat 64 (x.toNat % y.toNat) := by
  unfold remU
  rw [← BitVec.toNat_umod, ofNat_toNat_word]

variable (imm : BitVec 13)

theorem add_signExtend_eq : x + imm.signExtend 64 = BitVec.ofInt 64 (x.toInt + imm.toInt) := by
  rw [BitVec.ofInt_add, BitVec.ofInt_toInt]
  rfl

theorem concat_eq_ofNat : (x <<< 13) + imm.setWidth 64 = BitVec.ofNat 64 (x.toNat * 2 ^ 13 + imm.toNat) := by
  rw [shiftLeft_eq_ofNat, BitVec.ofNat_add, BitVec.ofNat_toNat]

end

/-- The count of a shift by an immediate (R123). -/
theorem sh6_setWidth {imm : BitVec 13} (h : imm.toNat < 64) : sh6 (imm.setWidth 64) = imm.toNat := by
  rw [sh6, BitVec.toNat_setWidth]
  omega

/-! Results (R26). -/

section
variable {s : State} {g : Gate} {i : Instr}

theorem scalarResult_of_op {lat : Nat} {d a b : SReg} {f : Word64 → Word64 → Word64} {v : Word64}
    (hi : exec i s = scalarOp i g lat d a b f s) (h : Enabled i false g s) (hv : f (s.rs a.toNat) (s.rs b.toNat) = v) :
    ScalarResult i s lat d v := by
  obtain ⟨t, ht, hl⟩ := scalarOp_lands h
  exact ⟨t, hi.trans ht, hv ▸ hl⟩

theorem scalarResult_of_imm {d a : SReg} {imm : Word64} {f : Word64 → Word64 → Word64} {v : Word64}
    (hi : exec i s = scalarImm i g d a imm f s) (h : Enabled i false g s) (hv : f (s.rs a.toNat) imm = v) :
    ScalarResult i s 1 d v := by
  obtain ⟨t, ht, hl⟩ := scalarImm_lands h
  exact ⟨t, hi.trans ht, hv ▸ hl⟩

end

/-- Settles O1: each operation is the one word operation of its meaning, whose value is read as a number. -/
theorem scalarArithmetic : Obligations.ScalarArithmetic := by
  refine ⟨fun s g d a b hok hon => ?_, fun s g d a b hok hon => ?_, fun s g d a imm hok hon => ?_⟩
  · intro x y n
    have op : ∀ {i : Instr} {f : Word64 → Word64 → Word64} {v : Word64}, i.wf = g.ok →
        exec i s = scalarOp i g 1 d a b f s → f x y = v → ScalarResult i s 1 d v :=
      fun hw hi hv => scalarResult_of_op hi ⟨hw.trans hok, hon⟩ hv
    exact ⟨op rfl (exec_add s) rfl, op rfl (exec_sub s) (sub_eq_ofInt x y), op rfl (exec_and s) rfl, op rfl (exec_or s) rfl,
      op rfl (exec_xor s) rfl, op rfl (exec_shl s) (shiftLeft_eq_ofNat x n), op rfl (exec_shr s) (ushiftRight_eq_ofNat x n),
      op rfl (exec_sar s) (sshiftRight_eq_ofInt x n), op rfl (exec_min s) (ofInt_min x y), op rfl (exec_max s) (ofInt_max x y),
      op rfl (exec_minu s) (ofNat_min x y), op rfl (exec_maxu s) (ofNat_max x y)⟩
  · intro x y
    have op : ∀ {i : Instr} {lat : Nat} {f : Word64 → Word64 → Word64} {v : Word64}, i.wf = g.ok →
        exec i s = scalarOp i g lat d a b f s → f x y = v → ScalarResult i s lat d v :=
      fun hw hi hv => scalarResult_of_op hi ⟨hw.trans hok, hon⟩ hv
    exact ⟨op rfl (exec_mul s) rfl, op rfl (exec_mulh s) rfl, op rfl (exec_mulhu s) rfl, op rfl (exec_div s) (divS_eq x y),
      op rfl (exec_divu s) (divU_eq x y), op rfl (exec_rem s) (remS_eq x y), op rfl (exec_remu s) (remU_eq x y)⟩
  · intro x n
    have op : ∀ {i : Instr} {w : Word64} {f : Word64 → Word64 → Word64} {v : Word64}, i.wf = true →
        exec i s = scalarImm i g d a w f s → f x w = v → ScalarResult i s 1 d v :=
      fun hw hi hv => scalarResult_of_imm hi ⟨hw, hon⟩ hv
    refine ⟨op hok (exec_addi s) (add_signExtend_eq x imm), op hok (exec_andi s) rfl, op hok (exec_ori s) rfl,
      op hok (exec_xori s) rfl, op hok (exec_cati s) (concat_eq_ofNat x imm), fun hn => ?_⟩
    have hwf : (g.ok && decide (n < 64)) = true := by rw [hok, decide_eq_true hn]; rfl
    have hcount : sh6 (imm.setWidth 64) = n := sh6_setWidth hn
    exact ⟨op hwf (exec_shli s) (hcount ▸ shiftLeft_eq_ofNat x _),
      op hwf (exec_shri s) (hcount ▸ ushiftRight_eq_ofNat x _),
      op hwf (exec_sari s) (hcount ▸ sshiftRight_eq_ofInt x _)⟩

end Sys2Proof.Machine
end

section
/-! Compares, predicates, copies and reads of the SCA slot (R126 to R133). -/

namespace Sys2Proof.Machine
open Sys2Proof.Safety

/-! Compares (R126). -/

/-- The compares of two words as integers (R126). -/
theorem cmpS_eq (x y : Word64) :
    cmpS 0 x y = decide (x.toInt = y.toInt) ∧ cmpS 1 x y = decide (x.toInt ≠ y.toInt) ∧
    cmpS 2 x y = decide (x.toInt < y.toInt) ∧ cmpS 3 x y = decide (x.toNat < y.toNat) ∧
    cmpS 4 x y = decide (x.toInt ≤ y.toInt) ∧ cmpS 5 x y = decide (x.toNat ≤ y.toNat) := by
  have heq : x = y ↔ x.toInt = y.toInt := BitVec.toInt_inj.symm
  exact ⟨decide_eq_decide.mpr heq, decide_eq_decide.mpr (not_congr heq), rfl, rfl, rfl, rfl⟩

section
variable {s : State} {g : Gate} {i : Instr} {d : QReg}

theorem predResult_of_cmp {cond : Nat} {a b : SReg} {v : Bool} (hi : exec i s = scalarCmp i g cond d a b s)
    (h : Enabled i false g s) (hv : cmpS cond (s.rs a.toNat) (s.rs b.toNat) = v) : PredResult i s d v := by
  obtain ⟨t, ht, hl⟩ := scalarCmp_lands h
  exact ⟨t, hi.trans ht, hv ▸ hl⟩

theorem predResult_of_cmpi {cond : Nat} {a : SReg} {imm : BitVec 13} {v : Bool}
    (hi : exec i s = scalarCmpi i g cond d a imm s) (h : Enabled i false g s)
    (hv : cmpS cond (s.rs a.toNat) (if cond = 3 ∨ cond = 5 then imm.setWidth 64 else imm.signExtend 64) = v) :
    PredResult i s d v := by
  obtain ⟨t, ht, hl⟩ := scalarCmpi_lands h
  exact ⟨t, hi.trans ht, hv ▸ hl⟩

theorem predResult_of_predOp {a b : QReg} {f : Bool → Bool → Bool} {v : Bool} (hi : exec i s = predOp i g d a b f s)
    (h : Enabled i false g s) (hv : f (s.rq a.toNat) (s.rq b.toNat) = v) : PredResult i s d v := by
  obtain ⟨t, ht, hl⟩ := predOp_lands h
  exact ⟨t, hi.trans ht, hv ▸ hl⟩

end

/-- Settles O2: each compare is one comparison of integers, its immediate extended as its condition says. -/
theorem scalarComparesAndPredicates : Obligations.ScalarComparesAndPredicates := by
  intro s g d qa qb a b imm hok hon x y p q
  obtain ⟨eq, ne, lt, ltu, le, leu⟩ := cmpS_eq x y
  obtain ⟨eqi, nei, lti, -, lei, -⟩ := cmpS_eq x (imm.signExtend 64)
  obtain ⟨-, -, -, ltui, -, leui⟩ := cmpS_eq x (imm.setWidth 64)
  have signed : (imm.signExtend 64).toInt = imm.toInt := BitVec.toInt_signExtend_of_le (by decide)
  have unsigned : (imm.setWidth 64).toNat = imm.toNat := BitVec.toNat_setWidth_of_le (by decide)
  rw [signed] at eqi nei lti lei
  rw [unsigned] at ltui leui
  have cmp : ∀ {i : Instr} {cond : Nat} {v : Bool}, i.wf = g.ok → exec i s = scalarCmp i g cond d a b s →
      cmpS cond x y = v → PredResult i s d v := fun hw hi hv => predResult_of_cmp hi ⟨hw.trans hok, hon⟩ hv
  have cmpi : ∀ {i : Instr} {cond : Nat} {v : Bool}, i.wf = g.ok → exec i s = scalarCmpi i g cond d a imm s →
      cmpS cond x (if cond = 3 ∨ cond = 5 then imm.setWidth 64 else imm.signExtend 64) = v → PredResult i s d v :=
    fun hw hi hv => predResult_of_cmpi hi ⟨hw.trans hok, hon⟩ hv
  have pred : ∀ {i : Instr} {f : Bool → Bool → Bool} {v : Bool}, i.wf = g.ok → exec i s = predOp i g d qa qb f s →
      f p q = v → PredResult i s d v := fun hw hi hv => predResult_of_predOp hi ⟨hw.trans hok, hon⟩ hv
  exact ⟨cmp rfl (exec_cmpeq s) eq, cmp rfl (exec_cmpne s) ne, cmp rfl (exec_cmplt s) lt, cmp rfl (exec_cmpltu s) ltu,
    cmp rfl (exec_cmple s) le, cmp rfl (exec_cmpleu s) leu, cmpi rfl (exec_cmpeqi s) eqi, cmpi rfl (exec_cmpnei s) nei,
    cmpi rfl (exec_cmplti s) lti, cmpi rfl (exec_cmpltui s) ltui, cmpi rfl (exec_cmplei s) lei,
    cmpi rfl (exec_cmpleui s) leui, pred rfl (exec_qand s) rfl, pred rfl (exec_qor s) rfl, pred rfl (exec_qxor s) rfl,
    pred rfl (exec_qandn s) rfl⟩

/-! Copies and reads (R128 to R133). -/

/-- Every lane of a broadcast holds its value (R128). -/
theorem elem_broadcast32 (x : Nat) {j : Nat} (h : j < 256) : elem 32 (broadcast32 x).toNat j = x % 2 ^ 32 := by
  rw [broadcast32, elem_ofNat_packList _ _ _ (by rw [List.length_replicate]) (by rwa [List.length_replicate]),
    List.getElem_replicate, Nat.mod_mod]

/-- The system registers, by number (R131). -/
theorem State.readSys_eq (s : State) {n : Nat} (h : n ≤ 5) : s.readSys n =
    if n = 0 then (s.core s.cur.core).sstat else if n = 1 then (s.core s.cur.core).csp
    else if n = 2 then (s.core s.cur.core).csbase else if n = 3 then (s.core s.cur.core).slimit
    else if n = 4 then BitVec.ofNat 64 s.cur.core
    else BitVec.ofNat 64 ((s.heat (s.partOf s.cur.core)).heatId % 2 ^ 32) := by
  rcases n with _ | _ | _ | _ | _ | _ | n
  case succ => omega
  all_goals rfl

/-- A compute context reads its heat's cycle (R132). -/
theorem State.readHeatCycle_compute {s : State} (hfw : s.cur.fw = false) : s.readHeatCycle =
    BitVec.ofInt 64 ((s.gcount : Int) - (s.heat (s.partOf s.cur.core)).origin) := by
  rw [State.readHeatCycle, hfw]
  rfl

/-- An operation of the SCA slot whose meaning sends one update on its way. -/
theorem answers_of_landIn {s : State} {g : Gate} {i : Instr} {lat : Nat} {e : Eff} {f : State → Result}
    (hi : exec i s = runOp i false g s f) (h : Enabled i false g s) (hf : f s = .next (s.landIn lat .sca e)) :
    Answers i s (fun t => Lands s t lat .sca [e]) :=
  ⟨_, (hi.trans (runOp_on f h)).trans hf, State.landIn_lands ..⟩

/-- Settles O3: each operation sends one update on its way, whose value is that of the register it reads. -/
theorem scalarMovesAndReads : Obligations.ScalarMovesAndReads := by
  intro s g d a v n l sa fsel reg hok hon hfw hname c k
  have sends : ∀ {i : Instr} {lat : Nat} {e : Eff} {f : State → Result}, i.wf = true → exec i s = runOp i false g s f →
      f s = .next (s.landIn lat .sca e) → Answers i s (fun t => Lands s t lat .sca [e]) :=
    fun hw hi hf => answers_of_landIn hi ⟨hw, hon⟩ hf
  refine ⟨?_, ?_, fun hsel => ?_, fun hreg => ?_, fun hreg => ?_, ?_, ?_, fun hreg => ?_⟩
  · obtain ⟨t, ht, hl⟩ := sends (i := .xs g a v) hok (exec_xs s) (withV_some _ hname)
    exact ⟨t, ht, _, hl, fun j hj => elem_broadcast32 _ hj, BitVec.isLt _⟩
  · exact sends hok (exec_xv s) (withV_some _ hname)
  · exact sends (by simp [Instr.wf, hok, hsel]) (exec_aset s) rfl
  · refine sends (by simp [Instr.wf, hok, hreg]) (exec_srd s) ?_
    rw [State.readSys_eq s hreg]
    rfl
  · exact sends (by simp [Instr.wf, hok, hreg]) (exec_swr s) rfl
  · refine sends hok (exec_gcrdHeat s) ?_
    rw [State.readHeatCycle_compute hfw]
    rfl
  · exact sends hok (exec_gcrdGcount s) rfl
  · exact sends (by simp [Instr.wf, hok, hreg]) (exec_lxrd s) rfl

end Sys2Proof.Machine
end

section
/-! Loops, halts, triggers, waits and traps at their issue (R106 to R119, R220, R238, R241), and the stage enables (R109). -/

namespace Sys2Proof.Machine
open Sys2Proof.Safety

/-! Stage enables (R109). -/

theorem enable_nil {k : Core} (st : Nat) (h : k.seq.loops = []) : k.enable st = decide (st = 0) := by
  simp only [Core.enable, h]

/-- A loop that has done its last kernel iteration ends, and the one around it goes on in its body (R108). -/
theorem closeLoops_of_inner_ended {next : Nat} {inner l : LoopRec} (rest : List LoopRec) (idx : Sparse Nat)
    (hbody : inner.start + inner.body ≤ next) (hdone : inner.n + inner.s - 1 ≤ inner.j + 1)
    (hl : next < l.start + l.body) : (closeLoops next (inner :: l :: rest) idx).2.1 = l :: rest := by
  rw [closeLoops, if_neg (Nat.not_lt.mpr hbody), if_neg (Nat.not_lt.mpr hdone), closeLoops, if_pos hl]

/-- Settles O23: each clause is the equation of the enable in the loops that stand. -/
theorem stageEnables : Obligations.StageEnables := by
  intro k st l rest hj0 law
  have hlaw : k.seq.loops = l :: rest → k.enable st = law l := fun h => by
    rw [enable_cons st h, hj0, Nat.zero_add]
  exact ⟨enable_nil st, hlaw, fun inner next idx hbody hdone hl h =>
    hlaw (h.trans (closeLoops_of_inner_ended rest idx hbody hdone hl))⟩

/-! Operations that write their core alone (R106, R113, R114). -/

/-- An operation that writes its core and nothing else. -/
theorem answers_of_modCore {s : State} {i : Instr} {f : Core → Core} (hi : exec i s = .next (s.modCore s.cur.core f)) :
    Answers i s (fun t => t.core s.cur.core = f (s.core s.cur.core) ∧ OnlyCore s t s.cur.core ∧ t.agenda = s.agenda) :=
  ⟨_, hi, State.core_modCore .., .modCore .., rfl⟩

/-- A loop whose count `LEXIT` has lowered to its present iteration (R113). -/
def LoopRec.leave (l : LoopRec) (lvl : Nat) : LoopRec :=
  if l.lvl = lvl then { l with n := min l.n (l.j + 1), orig := min l.orig (l.j + 1) } else l

theorem LoopRec.leave_n (l : LoopRec) (lvl : Nat) :
    (l.leave lvl).n = if l.lvl = lvl then min l.n (l.j + 1) else l.n := by
  unfold LoopRec.leave
  split <;> rfl

/-- `LEXIT` writes no more of a loop than its counts. -/
theorem LoopRec.leave_rest (l : LoopRec) (lvl : Nat) : { l.leave lvl with n := l.n, orig := l.orig } = l := by
  unfold LoopRec.leave
  split <;> rfl

/-- Settles O22: each operation is one update of its core's sequencer. -/
theorem loopsAndHalt : Obligations.LoopsAndHalt := by
  intro s g cnt lte body lvl hok hon hfw hlvl c k e n seq
  have onLoop : Enabled (.loop g cnt lte body lvl) false g s := ⟨by simp [Instr.wf, hok, hlvl], hon⟩
  have hn : (if cnt = 0 then fld e 0 32 else fld (k.rs cnt.toNat).toNat 0 32) = n := by
    have hcnt : cnt = 0 ↔ cnt.toNat = 0 := BitVec.toNat_inj.symm
    simp only [n, hcnt, fld, pow_zero, Nat.div_one]
  have onLexit : Enabled (.lexit g lvl) false g s := ⟨by simp [Instr.wf, hok, hlvl], hon⟩
  have onHalt : Enabled (.halt g) false g s := ⟨hok, hon⟩
  have loop := (exec_loop s).trans (runOp_on _ onLoop)
  refine ⟨fun h0 => ?_, fun h0 => ?_,
    ⟨k.seq.loops.map (fun l => l.leave lvl.toNat), ?_, List.length_map .., fun j h h' => ?_⟩, ?_⟩
  · exact answers_of_modCore (loop.trans (if_pos (hn.trans h0)))
  · exact ⟨_, answers_of_modCore (loop.trans (if_neg (fun h => h0 (hn.symm.trans h)))),
      rfl, hn, rfl, rfl, rfl, rfl, rfl, rfl, rfl, rfl, rfl⟩
  · exact answers_of_modCore ((exec_lexit s).trans (runOp_on _ onLexit))
  · rw [List.getElem_map]
    exact ⟨LoopRec.leave_n _ _, LoopRec.leave_rest _ _⟩
  · exact answers_of_modCore ((exec_halt s).trans (runOp_on _ onHalt))

/-! Triggers (R115, R220). -/

section
variable {s : State} {g : Gate} {n : BitVec 8}

/-- A trigger's entry marked as fired. -/
def State.fire (s : State) (p n : Nat) (t : Trigger) : State :=
  s.modHeat p (fun h => { h with triggers := sset none h.triggers n (some { t with fired := true }) })

theorem State.heat_fire (s : State) (p n : Nat) (t : Trigger) : (s.fire p n t).heat p =
    { s.heat p with triggers := sset none (s.heat p).triggers n (some { t with fired := true }) } := State.heat_setHeat ..

theorem State.heat_fire_ne (s : State) (p n : Nat) (t : Trigger) {r : Nat} (h : r ≠ p) : (s.fire p n t).heat r = s.heat r :=
  State.heat_setHeat_ne _ _ _ _ h

/-- A trigger whose entry has not fired. -/
theorem execTrig_of_armed {t : Trigger} (hon : Enabled (.trig g n) false g s)
    (h : sget none (s.heat (s.partOf s.cur.core)).triggers n.toNat = some t) (hf : t.fired = false) :
    execTrig g n s = .next ((s.fire (s.partOf s.cur.core) n.toNat t).landIn 1 .ctl (.token t.queue t.token)) := by
  rw [execTrig, runOp_on _ hon]
  dsimp only
  rw [h]
  exact if_neg (ne_true_of_eq_false hf)

/-- A trigger whose entry has fired, or that the table does not hold. -/
theorem execTrig_of_idle (hon : Enabled (.trig g n) false g s)
    (h : ∀ t, sget none (s.heat (s.partOf s.cur.core)).triggers n.toNat = some t → t.fired = true) :
    execTrig g n s = .next s := by
  rw [execTrig, runOp_on _ hon]
  dsimp only
  split
  · next t ht => exact if_pos (h t ht)
  · rfl

end

/-! Waits (R117 to R119). -/

/-- An operation that holds its core back, with an event that looks at the hold. -/
theorem answers_of_hold {s : State} {i : Instr} {q : Seq → Seq} {n : Nat} {j : Instr} (hn : s.gcount ≤ n)
    (hi : exec i s = .next ((s.modSeq q).at n j)) : Answers i s (fun t =>
      t.core s.cur.core = { s.core s.cur.core with seq := q (s.core s.cur.core).seq } ∧
      Adds s t [{ at_ := n, instr := j }] ∧ OnlyCore s t s.cur.core) :=
  ⟨_, hi, modCore_at s s.cur.core _ j hn⟩

/-- Settles O24: a trigger, a wait and a software trap, each read off its meaning. -/
theorem triggersWaitsAndTraps : Obligations.TriggersWaitsAndTraps := by
  refine ⟨fun s g n hok hon => ?_, fun s g b r hok hon hfw => ?_, fun s g n hok hon hfw => ?_⟩
  · intro c p
    have onTrig : Enabled (.trig g n) false g s := ⟨hok, hon⟩
    refine ⟨fun q tok h => ?_, fun q tok h => ?_, fun h => ?_⟩
    · obtain ⟨hcore, hadds, -, hother⟩ :=
        State.landIn_lands (s.fire p n.toNat ⟨q, tok, false⟩) 1 .ctl (.token q tok) false
      have hheat : ∀ r, ((s.fire p n.toNat ⟨q, tok, false⟩).landIn 1 .ctl (.token q tok)).heat r =
          (s.fire p n.toNat ⟨q, tok, false⟩).heat r := fun r => by
        rw [State.landIn, State.heat_atOnce, State.heat_modCore]
      exact ⟨_, (exec_trig s).trans (execTrig_of_armed onTrig h rfl), (hheat p).trans (State.heat_fire ..),
        fun r hr => (hheat r).trans (State.heat_fire_ne _ _ _ _ hr), hcore, hadds, hother⟩
    · refine (exec_trig s).trans (execTrig_of_idle onTrig (fun t ht => ?_))
      cases h.symm.trans ht
      rfl
    · exact (exec_trig s).trans (execTrig_of_idle onTrig (fun t ht => nomatch h.symm.trans ht))
  · intro c k h time when_ watch holds late
    have htime : s.timeOf c r = time := rfl
    have onWaitd : Enabled (.waitd g b r) false g s := ⟨hok, hon⟩
    have onAlign : Enabled (.align g r) false g s := ⟨hok, hon⟩
    have onWaita : Enabled (.waita g b) false g s := ⟨hok, hon⟩
    refine ⟨fun hnow => ?_, fun hpast => ?_, ?_⟩
    · have hfuture : ¬s.timeOf c r ≤ s.heatCycle c := not_le.mpr hnow
      have hle : s.gcount ≤ when_ := by omega
      have passWaitd : s.slotFault c (.waitd g b r) = none := by simp [State.slotFault, hfuture]
      have passAlign : s.slotFault c (.align g r) = none := by simp [State.slotFault, hfuture]
      exact ⟨answers_of_hold hle ((exec_waitd s).trans (runChecked_pass _ onWaitd passWaitd)),
        answers_of_hold hle ((exec_align s).trans (runChecked_pass _ onAlign passAlign))⟩
    · have hlate : s.timeOf c r ≤ s.heatCycle c := hpast
      have failWaitd : s.slotFault c (.waitd g b r) = some (3, 5, 5, cycle64 time + b.toNat * 2 ^ 64) := by
        simp [State.slotFault, hon, hlate, ← htime]
      have failAlign : s.slotFault c (.align g r) = some (4, 5, 6, cycle64 time) := by
        simp [State.slotFault, hon, hlate, ← htime]
      exact ⟨(exec_waitd s).trans (runChecked_fail (sl := .ctl) _ onWaitd hfw rfl failWaitd),
        (exec_align s).trans (runChecked_fail (sl := .ctl) _ onAlign hfw rfl failAlign)⟩
    · have hexec := (exec_waita s).trans (runOp_on _ onWaita)
      by_cases hw : watch.isNone = true
      · rw [if_pos hw]
        exact answers_of_hold (Nat.le_succ s.gcount) (hexec.trans (congrArg _ (if_pos hw)))
      · rw [if_neg hw]
        exact ⟨_, hexec.trans (congrArg _ (if_neg hw)), State.core_modCore .., Adds.setCore s _ _, .modCore s _ _⟩
  · intro c
    have onTrap : Enabled (.trap g n) false g s := ⟨hok, hon⟩
    rw [exec_trap, execTrap, runOp_on _ onTrap, hfw]
    rfl

end Sys2Proof.Machine
end

section
/-! The control operations and the registers of a firmware context (R121, R132, R135, R324 to R326). -/

namespace Sys2Proof.Machine
open Sys2Proof.Safety

section
variable {s : State} {i : Instr}

theorem rs_firmware (hfw : s.cur.fw = true) (n : Nat) : s.rs n = (s.core s.cur.core).fw.rs n := by
  simp [State.rs, hfw]

/-- A firmware context's operation is held by no check of a compute bundle (R238). -/
theorem runChecked_firmware {g : Gate} (f : State → Result) (h : Enabled i false g s) (hfw : s.cur.fw = true) :
    runChecked i g s f = f s := by
  rw [runChecked, runOp_on _ h, hfw]

/-- A branch of a firmware context pends in the context (R324). -/
theorem State.branchTo_firmware (hfw : s.cur.fw = true) (x : Target) :
    s.branchTo x = s.modFw (fun f => { f with branch := some (x, 3) }) := if_pos hfw

/-- In a firmware context the raw value of a target decides (R323, R324). -/
theorem State.segTarget_firmware (hfw : s.cur.fw = true) (next : Bool) (idx : Nat) (raw : Word64) :
    s.segTarget next idx raw = { hdr := 0, idx := idx, raw := raw, away := false } := by
  rw [State.segTarget, hfw]
  rfl

/-- An operation that writes its firmware context and nothing else. -/
theorem answers_of_modFw {f : FwCtx → FwCtx} (hi : exec i s = .next (s.modFw f)) : Answers i s (fun t =>
    t.core s.cur.core = { s.core s.cur.core with fw := f (s.core s.cur.core).fw } ∧ OnlyCore s t s.cur.core ∧
    t.agenda = s.agenda) :=
  answers_of_modCore hi

/-- A firmware context's branch, the context written before it. -/
theorem answers_of_modFw_branchTo {f : FwCtx → FwCtx} {x : Target} (hfw : s.cur.fw = true)
    (hi : exec i s = .next ((s.modFw f).branchTo x)) : Answers i s (fun t =>
      t.core s.cur.core = { s.core s.cur.core with fw := { f (s.core s.cur.core).fw with branch := some (x, 3) } } ∧
      OnlyCore s t s.cur.core ∧ t.agenda = s.agenda) := by
  have hmod : (s.modFw f).branchTo x = s.modFw (fun y => { f y with branch := some (x, 3) }) :=
    (State.branchTo_firmware (s := s.modFw f) hfw x).trans (State.modCore_modCore ..)
  exact answers_of_modFw (hi.trans (congrArg _ hmod))

end

/-- A firmware context reads the cycle of the heat armed or running in its partition, or the value for none (R132). -/
theorem State.readHeatCycle_firmware {s : State} (hfw : s.cur.fw = true) :
    let h := s.heat (s.partOf s.cur.core)
    (h.phase = .armed ∨ h.phase = .running ∨ h.phase = .stopping →
      s.readHeatCycle = BitVec.ofInt 64 ((s.gcount : Int) - h.origin)) ∧
    (h.phase ≠ .armed → h.phase ≠ .running → h.phase ≠ .stopping → s.readHeatCycle = 0x8000000000000000) := by
  intro h
  have hread : s.readHeatCycle = if !(match h.phase with
      | .armed | .running | .stopping => true
      | _ => false) then 0x8000000000000000 else BitVec.ofInt 64 ((s.gcount : Int) - h.origin) := by
    rw [State.readHeatCycle, hfw]
    rfl
  refine ⟨fun hp => ?_, fun ha hr hs => ?_⟩
  · rcases hp with hp | hp | hp <;> rw [hread, hp] <;> rfl
  · rw [hread]
    cases hp : h.phase with
    | armed => exact absurd hp ha
    | running => exact absurd hp hr
    | stopping => exact absurd hp hs
    | _ => rfl

/-- Settles O25: the control operations write their context alone; the reads and writes go by the register's number. -/
theorem firmwareControl : Obligations.FirmwareControl := by
  refine ⟨fun s g idx r n hok hon hfw => ?_, fun s g d a n hok hon hfw => ?_⟩
  · intro c k f v near far does
    have hnear : s.cbTarget idx false = near := State.segTarget_firmware hfw ..
    have hfar : s.regTarget r = far := by
      rw [State.regTarget, rs_firmware hfw, State.segTarget_firmware hfw, fld, pow_zero, Nat.div_one]
    have hpush : s.pushReturn = s.modFw (fun f => { f with calls := (f.pos + 3) :: f.calls }) := if_pos hfw
    have op : ∀ {i : Instr} (y : State → Result), i.wf = g.ok → exec i s = runOp i false g s y → exec i s = y s :=
      fun y hw hi => hi.trans (runOp_on y ⟨hw.trans hok, hon⟩)
    have checked : ∀ {i : Instr} (y : State → Result), i.wf = g.ok → exec i s = runChecked i g s y → exec i s = y s :=
      fun y hw hi => hi.trans (runChecked_firmware y ⟨hw.trans hok, hon⟩ hfw)
    refine ⟨?_, ?_, ?_, ?_, fun p rest hcalls => ?_, ?_, ?_, ?_⟩
    · refine answers_of_modFw (f := fun f => { f with branch := some (near, 3) }) ((op _ rfl (exec_br s)).trans ?_)
      rw [hnear, State.branchTo_firmware hfw]
    · refine answers_of_modFw (f := fun f => { f with branch := some (far, 3) }) ((op _ rfl (exec_bri s)).trans ?_)
      rw [hfar, State.branchTo_firmware hfw]
    · exact answers_of_modFw_branchTo hfw ((checked _ rfl (exec_call s)).trans (by rw [hnear, hpush]))
    · exact answers_of_modFw_branchTo hfw ((checked _ rfl (exec_calli s)).trans (by rw [hfar, hpush]))
    · refine answers_of_modFw_branchTo (f := fun f => { f with calls := rest }) hfw ((checked _ rfl (exec_ret s)).trans ?_)
      rw [if_pos hfw, show s.me.fw.calls = p :: rest from hcalls]
    · exact answers_of_modFw (op _ rfl (exec_chill s))
    · exact answers_of_modFw (op _ rfl (exec_fret s))
    · exact answers_of_modFw ((op _ rfl (exec_trap s)).trans (if_pos hfw))
  · intro c f p h pctl value
    have sends : ∀ {i : Instr} {e : Eff} {y : State → Result}, i.wf = true → exec i s = runOp i false g s y →
        y s = .next (s.landIn 1 .sca e) → Answers i s (fun t => Lands s t 1 .sca [e]) :=
      fun hw hi hy => answers_of_landIn hi ⟨hw, hon⟩ hy
    obtain ⟨hlive, hidle⟩ := State.readHeatCycle_firmware hfw
    have hread : s.readFw n.toNat = value := rfl
    refine ⟨fun hn => ?_, fun hn h2 h6 h10 => ?_, fun hp => ?_, fun h1 h2 h3 => ?_⟩
    · exact sends (by simp [Instr.wf, hok, hn]) (exec_fsrd s) (by rw [hread]; rfl)
    · exact sends (by simp [Instr.wf, hok, hn, h2, h6, h10]) (exec_fswr s) (by rw [rs_firmware hfw])
    · exact sends hok (exec_gcrdHeat s) (by rw [hlive hp]; rfl)
    · exact sends hok (exec_gcrdHeat s) (by rw [hidle h1 h2 h3]; rfl)

end Sys2Proof.Machine
end

section
/-! The releases of waits and the start of a core (R117 to R119, R195, R202, R214, R248). -/

namespace Sys2Proof.Machine
open Sys2Proof.Safety

/-! The stop point behind a hold (R248). -/

section
variable {k : Core}

/-- The core with nothing to hold it, its next bundle due at a cycle. -/
def Core.freed (k : Core) (due : Nat) : Core :=
  { k with seq := { k.seq with dom := .static, hold := .none, memHold := .none, due := due } }

/-- A stop cycle is foreseen exactly where the next bundle's cycle stands and the bundle is a stop point (R248). -/
theorem Core.foreseen_iff {h : Heat} {d : Nat} : k.foreseen h = some d ↔ k.nextDue = some d ∧ StopPoint h k d := by
  cases hdue : k.nextDue with
  | none =>
    have hnone : k.foreseen h = none := by
      unfold Core.foreseen
      rw [hdue]
      cases h.stopReq <;> rfl
    simp [hnone]
  | some due =>
    have hfree : k.foreseen h = (k.freed due).foreseen h := by
      unfold Core.foreseen
      rw [hdue]
      rfl
    have hiff : k.foreseen h = some d ↔ d = due ∧ StopPoint h k due := by
      rw [hfree]
      exact Core.foreseen_eq_some_iff rfl rfl
    rw [hiff, Option.some.injEq]
    exact ⟨fun ⟨e, hs⟩ => ⟨e.symm, e ▸ hs⟩, fun ⟨e, hs⟩ => ⟨e.symm, e ▸ hs⟩⟩

theorem Core.issues_iff : k.issues = true ↔ k.seq.dom = .static ∨ k.seq.dom = .dynamic := by
  simp [Core.issues]

/-- A fence leaves the next bundle's cycle open. -/
theorem Core.nextDue_of_memHold (hi : k.issues = true) (hm : k.seq.memHold ≠ .none) : k.nextDue = none := by
  unfold Core.nextDue
  cases hk : k.seq.memHold with
  | none => exact absurd hk hm
  | _ => rcases Core.issues_iff.mp hi with hd | hd <;> rw [hd]

/-- The cycle that a hold of the CTL slot gives the next bundle. -/
def Hold.nextDue (gap : Nat) : Hold → Option Nat
  | .waitd _ _ d _ _ => some (d + gap)
  | .align p => some (p + gap)
  | _ => Option.none

theorem Core.nextDue_of_hold (hi : k.issues = true) (hm : k.seq.memHold = .none) (hh : k.seq.hold ≠ .none) :
    k.nextDue = k.seq.hold.nextDue k.nextGap := by
  unfold Core.nextDue
  rw [hm]
  cases hk : k.seq.hold with
  | none => exact absurd hk hh
  | _ => rcases Core.issues_iff.mp hi with hd | hd <;> rw [hd] <;> rfl

end

/-! A core that is looked at again (R248). -/

section
variable {s : State} {c : Nat}

/-- K stands, and the next bundle of core `c`, due at cycle `next`, is its stop point (R248). -/
def State.stopsBefore (s : State) (c : Nat) (next : Option Nat) : Prop :=
  (s.heat (s.partOf c)).cutK.isSome = true ∧ (s.heat (s.partOf c)).phase = .stopping ∧
    ∃ d, next = some d ∧ StopPoint (s.heat (s.partOf c)) (s.core c) d

theorem State.lookStop_stays (h : ¬s.stopsBefore c (s.core c).nextDue) : s.lookStop c = s := by
  unfold State.lookStop
  dsimp only
  split
  · next due hd =>
    refine if_neg (fun hc => h ?_)
    simp only [Bool.and_eq_true, decide_eq_true_eq] at hc
    exact ⟨hc.1, hc.2, due, Core.foreseen_iff.mp hd⟩
  · rfl

/-- A core stopped before its next bundle, which would have issued at cycle `d`, is all that differs, but for what the end of
its heat makes of that (R248). -/
def StopsAt (s t : State) (c d : Nat) (q : Seq) : Prop :=
  { t with cores := s.cores, heats := s.heats, agenda := s.agenda } = s ∧ (∀ e, e ≠ c → t.core e = s.core e) ∧
    (∀ x, x ∈ s.agenda → x ∈ t.agenda) ∧ t.core c = { s.core c with seq := stoppedSeq q d }

theorem State.lookStop_stops (h : s.stopsBefore c (s.core c).nextDue) :
    StopsAt s (s.lookStop c) c ((s.core c).nextDue.getD 0) (s.core c).seq := by
  obtain ⟨hcut, hphase, d, hd, hstop⟩ := h
  have hlook : s.lookStop c =
      (s.setCore c { s.core c with seq := stoppedSeq (s.core c).seq d }).noteStopped c := by
    unfold State.lookStop
    dsimp only
    rw [Core.foreseen_iff.mpr ⟨hd, hstop⟩]
    dsimp only
    rw [hcut, hphase]
    rfl
  rw [hlook, hd]
  generalize hu : s.setCore c _ = u
  obtain ⟨hcore, hrest, hag⟩ := u.noteStopped_frame c
  subst hu
  exact ⟨congrArg (fun t : State => { t with cores := s.cores }) hrest,
    fun e he => (hcore e).trans (State.core_setCore_ne _ _ _ _ he), hag, (hcore c).trans (State.core_setCore ..)⟩

/-- What stops in a core that was written before stops in the core. -/
theorem StopsAt.of_setCore {t : State} {d : Nat} {q : Seq} (h : StopsAt (s.setCore c { s.core c with seq := q }) t c d q) :
    StopsAt s t c d q := by
  obtain ⟨hrest, hother, hag, hcore⟩ := h
  refine ⟨congrArg (fun u : State => { u with cores := s.cores }) hrest,
    fun e he => (hother e he).trans (State.core_setCore_ne _ _ _ _ he), hag, ?_⟩
  rw [hcore, State.core_setCore]

/-! Releases (R117 to R119, R195, R202). -/

/-- A hold of core `c` has ended, which leaves its sequencer `q`: where another hold is left nothing else happens, and where none
is left the next bundle is due GAP cycles on; unless that bundle, due at `next`, is the core's stop point. -/
def ReleasedTo (s t : State) (c : Nat) (held : Bool) (next : Option Nat) (q : Seq) : Prop :=
  let due := s.gcount + (s.core c).nextGap
  let q1 : Seq := if held then q else { q with due := due }
  (¬s.stopsBefore c next → OnlyCore s t c ∧ t.core c = { s.core c with seq := q1 } ∧
    Adds s t (if held then [] else [{ at_ := due, instr := .bundleIssue c }])) ∧
  (s.stopsBefore c next → StopsAt s t c (next.getD 0) q1)

/-- A sequencer with its holds and its domain written. -/
def Seq.holding (q : Seq) (hold mem : Hold) (dom : Domain) (since : Option Nat) : Seq :=
  { q with hold := hold, memHold := mem, dom := dom, dynSince := since }

variable {hold mem : Hold} {dom : Domain} {since : Option Nat}

/-- The release of the last hold (R71). -/
theorem State.release_free (hdom : dom = .static ∨ dom = .dynamic) :
    let q := (s.core c).seq.holding .none .none dom since
    ReleasedTo s ((s.setCore c { s.core c with seq := q }).release c) c false
      (some (s.gcount + (s.core c).nextGap)) q := by
  intro q
  generalize hk : ({ s.core c with seq := q } : Core) = k
  have hi : k.issues = true := by rw [← hk]; exact Core.issues_iff.mpr hdom
  have hu : k.unheld = true := by rw [← hk]; rfl
  have hgap : k.nextGap = (s.core c).nextGap := by rw [← hk]; rfl
  have hrel : (s.setCore c k).release c = (s.setCore c k).scheduleIssue c s.gcount := by
    rw [State.release, State.core_setCore, hu, hi]
    rfl
  have hgo := (s.setCore c k).scheduleIssue_goesOn (c := c) (base := s.gcount) (by rwa [State.core_setCore])
    (by rwa [State.core_setCore]) (Nat.le_refl _)
  rw [State.core_setCore, ← hrel, hgap] at hgo
  obtain ⟨hgoes, hstops⟩ := hgo.of_setCore
  subst hk
  refine ⟨fun hn => ?_, fun ⟨hcut, hphase, d, hd, hstop⟩ => ?_⟩
  · obtain ⟨hcore, hadds, honly⟩ := hgoes (fun ⟨hcut, hphase, hstop⟩ => hn ⟨hcut, hphase, _, rfl, hstop⟩)
    exact ⟨honly, hcore, hadds⟩
  · cases hd
    obtain ⟨hcore, hrest, hother, hag⟩ := hstops ⟨hcut, hphase, hstop⟩
    exact ⟨hrest, hother, hag, hcore⟩

/-- The release of a hold while another is left (R248). -/
theorem State.release_held {next : Option Nat} (hheld : hold ≠ .none ∨ mem ≠ .none)
    (hnext : ({ s.core c with seq := (s.core c).seq.holding hold mem dom since } : Core).nextDue = next) :
    let q := (s.core c).seq.holding hold mem dom since
    ReleasedTo s ((s.setCore c { s.core c with seq := q }).release c) c true next q := by
  intro q
  generalize hk : ({ s.core c with seq := q } : Core) = k
  have hdue : k.nextDue = next := hk ▸ hnext
  have hu : k.unheld = false := by
    rw [← hk]
    rcases hheld with h | h <;> simp [Core.unheld, q, Seq.holding, h]
  have hrel : (s.setCore c k).release c = (s.setCore c k).lookStop c := by
    rw [State.release, State.core_setCore, hu]
    rfl
  have hstops : (s.setCore c k).stopsBefore c ((s.setCore c k).core c).nextDue ↔ s.stopsBefore c next := by
    unfold State.stopsBefore
    rw [State.core_setCore, hdue, ← hk]
    rfl
  rw [hrel]
  refine ⟨fun hn => ?_, fun hs => ?_⟩
  · rw [State.lookStop_stays (mt hstops.mp hn)]
    exact ⟨.setCore .., (State.core_setCore ..).trans hk.symm, Adds.setCore s c k⟩
  · have hstop := State.lookStop_stops (hstops.mpr hs)
    rw [State.core_setCore, hdue] at hstop
    subst hk
    exact hstop.of_setCore

/-- The release of a hold of the CTL slot, which a fence may outlast (R117 to R119). -/
theorem State.release_ctl (hdom : dom = .static ∨ dom = .dynamic) :
    let q := (s.core c).seq.holding .none (s.core c).seq.memHold dom since
    ReleasedTo s ((s.setCore c { s.core c with seq := q }).release c) c (decide ((s.core c).seq.memHold ≠ .none))
      (if (s.core c).seq.memHold = .none then some (s.gcount + (s.core c).nextGap) else none) q := by
  generalize (s.core c).seq.memHold = mem
  by_cases hm : mem = .none
  · rw [if_pos hm, hm]
    exact State.release_free hdom
  · have hnext : ({ s.core c with seq := (s.core c).seq.holding .none mem dom since } : Core).nextDue = none :=
      Core.nextDue_of_memHold (Core.issues_iff.mpr hdom) hm
    rw [if_neg hm, decide_eq_true hm]
    exact State.release_held (.inr hm) hnext

/-- The release of a fence, which a wait may outlast (R195, R202). -/
theorem State.release_mem (hi : (s.core c).issues = true) :
    let q : Seq := { (s.core c).seq with memHold := .none }
    ReleasedTo s ((s.setCore c { s.core c with seq := q }).release c) c (decide ((s.core c).seq.hold ≠ .none))
      (if (s.core c).seq.hold = .none then some (s.gcount + (s.core c).nextGap)
        else (s.core c).seq.hold.nextDue (s.core c).nextGap) q := by
  have hdom := Core.issues_iff.mp hi
  have hrel : ∀ hold,
      let q := (s.core c).seq.holding hold .none (s.core c).seq.dom (s.core c).seq.dynSince
      ReleasedTo s ((s.setCore c { s.core c with seq := q }).release c) c (decide (hold ≠ .none))
        (if hold = .none then some (s.gcount + (s.core c).nextGap) else hold.nextDue (s.core c).nextGap) q := by
    intro hold
    by_cases hh : hold = .none
    · rw [if_pos hh, hh]
      exact State.release_free hdom
    · have hnext : ({ s.core c with seq := (s.core c).seq.holding hold .none (s.core c).seq.dom (s.core c).seq.dynSince } :
          Core).nextDue = hold.nextDue (s.core c).nextGap := Core.nextDue_of_hold (Core.issues_iff.mpr hdom) rfl hh
      rw [if_neg hh, decide_eq_true hh]
      exact State.release_held (.inl hh) hnext
  exact hrel (s.core c).seq.hold

/-- A fence of the crucibles is met once every earlier command of its scope has executed in a window that is over (R195). -/
theorem execCfenceRelease_of_met {issue scope : Nat} {word : Option Nat} (hi : (s.core c).issues = true)
    (hh : (s.core c).seq.memHold = .cfence issue scope word) (hle : issue + 3 ≤ s.gcount) (hword : scope < 2 → word ≠ none)
    (hdone : ∀ x, x ∈ (s.core c).cruc → x.issue < issue → inScope scope word x.pa = true →
      ∃ f, x.fin = some f ∧ f < s.gcount) :
    execCfenceRelease c s =
      .next ((s.modCore c (fun k => { k with seq := { k.seq with memHold := .none } })).release c) := by
  have hwait : ¬(s.gcount < issue + 3 ∨ (s.core c).issues = false ∨ (scope < 2 ∧ word = none)) := by
    rintro (hlt | hoff | ⟨hs, hw⟩)
    · omega
    · rw [hi] at hoff
      cases hoff
    · exact hword hs hw
  rw [execCfenceRelease, hh]
  dsimp only
  rw [if_neg hwait]
  split
  · rfl
  · next x rest hopen =>
    have hx : x ∈ x :: rest := List.mem_cons_self
    rw [← hopen, List.mem_filter] at hx
    simp only [Bool.and_eq_true, decide_eq_true_eq] at hx
    obtain ⟨hmem, ⟨hbefore, hscope⟩, hfin⟩ := hx
    obtain ⟨f, hf, hlt⟩ := hdone x hmem hbefore hscope
    rw [hf] at hfin
    exact absurd (of_decide_eq_true hfin) (Nat.not_le.mpr hlt)

/-- The first bundle of a core whose first half holds it is due GAP cycles after the start (R214). -/
theorem taskStart_answers (htask : (s.core c).task = true) (hstarted : (s.core c).started = false)
    (hdom : (s.core c).seq.dom = .notStarted) (hstart : (s.core c).startAt = s.gcount)
    (hphase : (s.heat (s.partOf c)).phase = .running) (hbusy : (s.core c).half0.busy = false)
    (hbundles : (s.core c).half0.bundles ≠ []) (hrec : (s.core c).half0.rec_ = none) :
    let due := s.gcount + (((s.core c).half0.bundles[0]?).map gapOf).getD 0
    Answers (.taskStart c) s (fun t =>
      t.core c = { s.core c with started := true, seq := { (s.core c).seq with
        dom := .static, half := false, pos := 0, bad := none, due := due } } ∧
      Adds s t [{ at_ := due, instr := .bundleIssue c }] ∧ OnlyCore s t c) := by
  intro due
  generalize hk : ({ s.core c with started := true, seq := { (s.core c).seq with dom := .static, half := false } } : Core) = k
  have hhalf : k.half k.seq.half = (s.core c).half0 := by rw [← hk]; rfl
  have hland := State.landAtPos_inside (s := s.setCore c k) (c := c) (pos := 0) (branch := false)
    (by rw [State.core_setCore, hhalf, hbusy]) (by rw [State.core_setCore, hhalf]; exact List.length_pos_iff.mpr hbundles)
  rw [State.core_setCore, State.setCore_setCore] at hland
  generalize hl : ({ k with seq := { k.seq with pos := 0, bad := none } } : Core) = l at hland
  have hgap : l.nextGap = (((s.core c).half0.bundles[0]?).map gapOf).getD 0 := by
    rw [← hl, Core.nextGap_of_sound rfl (by rw [← hhalf] at hrec; exact hrec)]
    exact congrArg (fun x : Half => (x.bundles[0]?.map gapOf).getD 0) hhalf
  have hexec : exec (.taskStart c) s = .next ((s.setCore c l).scheduleIssue c s.gcount) := by
    rw [exec_taskStart, execTaskStart, if_pos ⟨htask, hstarted, hdom, hstart, .inl hphase⟩, ← hland, ← hk]
    rfl
  have hsched : (s.setCore c l).scheduleIssue c s.gcount =
      (s.setCore c { l with seq := { l.seq with due := due } }).at due (.bundleIssue c) := by
    rw [State.scheduleIssue, State.core_setCore, hgap, State.modCore_setCore]
    exact State.lookStop_stays (fun ⟨_, hstopping, _⟩ =>
      nomatch (hphase.symm.trans hstopping : HeatPhase.running = .stopping))
  rw [hsched] at hexec
  subst hl hk
  exact ⟨_, hexec, (State.core_at ..).trans (State.core_setCore ..), (Adds.setCore s _ _).at (Nat.le_add_right _ _),
    .setCore_at ..⟩

end

/-- Settles O32: each wait that ends is looked at again with what may still hold its core. -/
theorem waitReleases : Obligations.WaitReleases := by
  intro s c k due h stops goesOn nextMem nextCtl ctl mem
  have hnextMem : (if k.seq.hold = .none then some due else k.seq.hold.nextDue k.nextGap) = nextMem := by
    simp only [nextMem]
    cases k.seq.hold <;> rfl
  have goesCtl : ∀ {i : Instr} (dom : Domain) (since : Option Nat), dom = .static ∨ dom = .dynamic →
      (let q : Seq := { k.seq with hold := .none, dom := dom, dynSince := since }
       exec i s = .next ((s.modCore c (fun k => { k with seq := q })).release c) → goesOn i mem nextCtl q) :=
    fun dom since hdom hi => ⟨_, hi, State.release_ctl hdom⟩
  have goesMem : ∀ {i : Instr}, k.issues = true →
      exec i s = .next ((s.modCore c (fun k => { k with seq := { k.seq with memHold := .none } })).release c) →
      goesOn i ctl nextMem { k.seq with memHold := .none } := fun hi hx =>
    ⟨_, hx, hnextMem ▸ State.release_mem hi⟩
  refine ⟨fun b pos seg hi hh => ?_, fun b w pos seg hi hh => ?_, fun b hi hh => ?_, fun hi hh => ?_,
    fun issue scope word hi hh hle hword hdone => ?_, fun issue sys hi hh hmet => ?_,
    fun htask hstarted hdom hstart hphase hbusy hbundles hrec => ?_⟩
  · refine goesCtl k.seq.dom k.seq.dynSince (Core.issues_iff.mp hi) ?_
    rw [exec_waitdDeadline, execWaitdDeadline, hh]
    exact if_pos ⟨rfl, .inl hi⟩
  · intro why
    rw [exec_waitdDeadline, execWaitdDeadline, hh]
    refine if_pos ⟨rfl, hi.imp_right (fun ⟨hdom, hline, hle⟩ => ⟨rfl, ?_⟩)⟩
    show k.stoppedAhead s.gcount = true
    simp [Core.stoppedAhead, hdom, Option.isSome_iff_ne_none, hline, hle]
  · refine goesCtl k.seq.dom k.seq.dynSince (Core.issues_iff.mp hi) ?_
    rw [exec_waitaRelease, execWaitaRelease, hh]
    exact if_pos hi
  · refine goesCtl .static none (.inl rfl) ?_
    rw [exec_alignPointReached, execAlignPointReached, hh]
    exact if_pos ⟨rfl, hi⟩
  · exact goesMem hi ((exec_cfenceRelease s).trans (execCfenceRelease_of_met hi hh hle hword hdone))
  · refine goesMem hi ?_
    rw [exec_fenceRelease, execFenceRelease, if_neg Bool.false_ne_true]
    dsimp only
    rw [hh]
    exact if_pos (by rw [hi, hmet]; rfl)
  · exact taskStart_answers htask hstarted hdom hstart hphase hbusy hbundles hrec

end Sys2Proof.Machine
end

section
/-! The integer arithmetic of the VEC slot (R141), element by element. -/

namespace Sys2Proof.Machine
open Sys2Proof.Safety

section
variable {f : Nat} (hf : f < 6)
include hf

/-- The integer formats of the VEC slot: the first three are signed (R34, R37). -/
theorem intFmt_code : intFmt f = some (decide (f < 3), fmtWidth f) := by interval_cases f <;> rfl

theorem floatFmt_none_of_int : floatFmt f = none := by interval_cases f <;> rfl

theorem valI_eq (x : Nat) : valI f x = intVal (decide (f < 3)) (fmtWidth f) x := by
  simp only [valI, intFmt_code hf]

/-- A saturated result, as the statements write it. -/
theorem satI_eq (v : Int) : satI f v =
    (max (if f < 3 then -(2 ^ (fmtWidth f - 1)) else 0)
      (min (if f < 3 then 2 ^ (fmtWidth f - 1) - 1 else 2 ^ fmtWidth f - 1) v) % 2 ^ fmtWidth f).toNat := by
  simp only [satI, intFmt_code hf, wrapInt_clampInt, decide_eq_true_eq]

theorem satI_mod (v : Int) : satI f v % 2 ^ fmtWidth f = satI f v := by
  simp only [satI, intFmt_code hf, wrapInt_mod]

section
variable {x y : Nat} (hx : x < 2 ^ fmtWidth f) (hy : y < 2 ^ fmtWidth f)
include hx hy

/-- Two elements of one value are the same (R37). -/
theorem valI_inj (h : valI f x = valI f y) : x = y := by
  have double : (2 : Nat) ^ fmtWidth f = 2 ^ (fmtWidth f - 1) + 2 ^ (fmtWidth f - 1) :=
    two_pow_half (by have := fmtWidth_bounds f; omega)
  have cast : ((2 ^ fmtWidth f : Nat) : Int) = 2 ^ fmtWidth f := by push_cast; rfl
  simp only [valI_eq hf, intVal, signedVal, Nat.mod_eq_of_lt hx, Nat.mod_eq_of_lt hy, ← cast] at h
  split at h
  · split at h <;> split at h <;> omega
  · exact_mod_cast h

/-- The lesser element (R141). -/
theorem elMin_int : elMin f x y % 2 ^ fmtWidth f = if valI f x ≤ valI f y then x else y := by
  have pick := (fmtPick_int (floatFmt_none_of_int hf) (intFmt_code hf) x y).1
  rw [← valI_eq hf, ← valI_eq hf] at pick
  rw [elMin, pick]
  rcases lt_trichotomy (valI f x) (valI f y) with h | h | h
  · rw [if_pos h, if_pos h.le, Nat.mod_eq_of_lt hx]
  · obtain rfl := valI_inj hf hx hy h
    rw [ite_self, ite_self, Nat.mod_eq_of_lt hx]
  · rw [if_neg h.not_gt, if_neg h.not_ge, Nat.mod_eq_of_lt hy]

/-- The greater element (R141). -/
theorem elMax_int : elMax f x y % 2 ^ fmtWidth f = if valI f y ≤ valI f x then x else y := by
  have pick := (fmtPick_int (floatFmt_none_of_int hf) (intFmt_code hf) x y).2
  rw [← valI_eq hf, ← valI_eq hf] at pick
  rw [elMax, pick]
  by_cases h : valI f y ≤ valI f x
  · rw [if_neg h.not_gt, if_pos h, Nat.mod_eq_of_lt hx]
  · rw [if_pos (not_le.1 h), if_neg h, Nat.mod_eq_of_lt hy]

end
end

/-- Settles O4: each operation of both forms by its element function, whose bits are those of the exact value. -/
theorem vectorIntegerArithmetic : Obligations.VectorIntegerArithmetic := by
  intro s g f d a b c dn an bn hg hf hon hd ha hb w val lo hi both
  have hwf : (g.ok && clsInt f) = true := by simp [hg, clsInt, hf]
  have forms : ∀ {i j : Instr} {op : Nat → Nat → Nat → Nat} {el : Nat → Nat → Nat},
      exec i s = vecVV i g 2 f d a b op s → exec j s = vecVS j g 2 f d a c op s → i.wf = (g.ok && clsInt f) →
      j.wf = (g.ok && clsInt f) → (∀ x y, x < 2 ^ w → y < 2 ^ w → op f.toNat x y % 2 ^ w = el x y) → both i j el :=
    fun hi hj wi wj => vecBoth_vecResult hi hj ⟨wi.trans hwf, hon⟩ ⟨wj.trans hwf, hon⟩ hd ha hb
  refine ⟨forms (exec_vadd s) (exec_vaddVs s) rfl rfl fun x y _ _ => wrapInt_mod _ _,
    forms (exec_vsub s) (exec_vsubVs s) rfl rfl fun x y _ _ => wrapInt_mod _ _,
    forms (exec_vmul s) (exec_vmulVs s) rfl rfl fun x y _ _ => wrapInt_mod _ _,
    forms (exec_vmulh s) (exec_vmulhVs s) rfl rfl fun x y _ _ => wrapInt_mod _ _,
    forms (exec_vmin s) (exec_vminVs s) rfl rfl fun x y => elMin_int hf,
    forms (exec_vmax s) (exec_vmaxVs s) rfl rfl fun x y => elMax_int hf,
    forms (exec_vand s) (exec_vandVs s) rfl rfl fun x y _ hy => Nat.mod_eq_of_lt (Nat.and_lt_two_pow x hy),
    forms (exec_vor s) (exec_vorVs s) rfl rfl fun x y hx hy => Nat.mod_eq_of_lt (Nat.or_lt_two_pow hx hy),
    forms (exec_vxor s) (exec_vxorVs s) rfl rfl fun x y hx hy => Nat.mod_eq_of_lt (Nat.xor_lt_two_pow hx hy),
    forms (exec_vshl s) (exec_vshlVs s) rfl rfl fun x y _ _ => Nat.mod_mod _ _,
    forms (exec_vshr s) (exec_vshrVs s) rfl rfl fun x y hx _ => Nat.mod_eq_of_lt ((Nat.div_le_self _ _).trans_lt hx),
    forms (exec_vsar s) (exec_vsarVs s) rfl rfl fun x y _ _ => wrapInt_mod _ _,
    forms (exec_vadds s) (exec_vaddsVs s) rfl rfl fun x y _ _ => (satI_mod hf _).trans (satI_eq hf _),
    forms (exec_vsubs s) (exec_vsubsVs s) rfl rfl fun x y _ _ => (satI_mod hf _).trans (satI_eq hf _)⟩

end Sys2Proof.Machine
end

section
/-! The floating arithmetic of the VEC slot (R145): one rounding in the opcode's mode. -/

namespace Sys2Proof.Machine
open Sys2Proof.Safety

/-- A value rounded to a lane format fits in its width (R38, R50). -/
theorem roundTo_lt {f : Nat} (h8 : 8 ≤ f) (h10 : f ≤ 10) (rm : Nat) (v : XVal) : roundTo f rm v < 2 ^ fmtWidth f := by
  obtain ⟨p, hp⟩ : ∃ p, floatFmt f = some p := by interval_cases f <;> exact ⟨_, rfl⟩
  have sound := floatFmt_sound hp
  obtain ⟨i, hi⟩ := floatFmt_inf hp (by omega) h10
  have inf : ∀ neg, withSign p neg i < 2 ^ p.width := fun neg => sound.withSign_lt neg (sound.infs i hi).2
  have most : ∀ neg, withSign p neg p.maxEnc < 2 ^ p.width := fun neg => sound.withSign_lt neg sound.fits
  have round : roundTo f rm v = toFloat p rm true v := by simp only [roundTo, hp]
  rw [round, ← floatFmt_width h8 h10 hp]
  cases v with
  | nan => exact floatFmt_width h8 h10 hp ▸ floatFmt_nan_lt h8 h10 hp
  | inf neg => simpa only [toFloat, hi, if_true] using inf neg
  | fin neg m e =>
    rw [toFloat_fin]
    split
    · next h => exact sound.withSign_lt neg (h.trans_lt sound.fits)
    · simp only [FloatFmt.overflow, hi, if_true]
      split
      · exact inf neg
      · exact most neg

/-- Form VVVV: the third operand is a register named directly (R138, R145). -/
theorem vfma_result {s : State} {g : Gate} {f : BitVec 4} {rm : BitVec 2} {d a b : VField} {z : BitVec 10} {dn an bn : Nat}
    (h : Enabled (.vfma g f rm d a b z) true g s) (hd : Names s d dn) (ha : Names s a an) (hb : Names s b bn) :
    let w := fmtWidth f.toNat
    VecResult (.vfma g f rm d a b z) s g 4 dn w (fun k =>
      elFma rm.toNat f.toNat (lane s w an k) (lane s w bn k) (lane s w z.toNat k) % 2 ^ w) := by
  refine ⟨_, by rw [exec_vfma, execVfma, runOp_on _ h, withV_some _ hd, withV_some _ ha, withV_some _ hb]; rfl, _,
    State.landIn_lands s 4 .vec _ false, fun j hj => ?_⟩
  rw [elem_vecOf_map _ _ _ (by simp [length_vecElems]) hj]
  simp only [List.getElem_zipWith, List.getElem_zip, getElem_vecElems]

/-- Settles O6: each operation by its element function, which rounds the exact result once and so fits its element. -/
theorem vectorFloatArithmetic : Obligations.VectorFloatArithmetic := by
  intro s g f rm d a b z c dn an bn hg h8 h10 hon hd ha hb w val round both
  have hwf : (g.ok && clsFlt f) = true := by simp [hg, clsFlt, h8, h10]
  have rounded : ∀ v, roundTo f.toNat rm.toNat v % 2 ^ w = round v := fun v => Nat.mod_eq_of_lt (roundTo_lt h8 h10 _ v)
  refine ⟨vecBoth_vecResult (exec_vfadd s) (exec_vfaddVs s) ⟨hwf, hon⟩ ⟨hwf, hon⟩ hd ha hb fun x y _ _ => rounded _,
    vecBoth_vecResult (exec_vfsub s) (exec_vfsubVs s) ⟨hwf, hon⟩ ⟨hwf, hon⟩ hd ha hb fun x y _ _ => rounded _,
    vecBoth_vecResult (exec_vfmul s) (exec_vfmulVs s) ⟨hwf, hon⟩ ⟨hwf, hon⟩ hd ha hb fun x y _ _ => rounded _, ?_⟩
  obtain ⟨t, ht, r, lands, elems⟩ := vfma_result (rm := rm) (z := z) ⟨hwf, hon⟩ hd ha hb
  exact ⟨t, ht, r, lands, fun j hj => (elems j hj).trans (rounded _)⟩

end Sys2Proof.Machine
end

section
/-! The compares and the mask operations of the VEC slot (R148, R149), bit by bit. -/

namespace Sys2Proof.Machine
open Sys2Proof.Safety

/-- The place of an element in the order of its format, none for a NaN (R148). -/
def elemOrd (f x : Nat) : Option Int :=
  match floatFmt f with | some p => floatOrd p x | none => some (valI f x)

/-- A test of two elements that both have a place (R148). -/
def ordTest (f : Nat) (test : Int → Int → Bool) (x y : Nat) : Bool :=
  match elemOrd f x, elemOrd f y with | some i, some j => test i j | _, _ => false

theorem clsNum_cases {f : BitVec 4} (h : clsNum f = true) : f.toNat < 6 ∨ 8 ≤ f.toNat ∧ f.toNat ≤ 10 := by
  simpa [clsNum, clsInt, clsFlt] using h

/-- What each condition asks of two elements; that which a NaN meets is NE (R148). -/
theorem cmpElem_eq {f : Nat} (hf : f < 6 ∨ 8 ≤ f ∧ f ≤ 10) (x y : Nat) :
    cmpElem 0 f x y = ordTest f (fun i j => decide (i = j)) x y ∧
    cmpElem 1 f x y = (!ordTest f (fun i j => decide (i = j)) x y) ∧
    cmpElem 2 f x y = ordTest f (fun i j => decide (i < j)) x y ∧
    cmpElem 3 f x y = ordTest f (fun i j => decide (i ≤ j)) x y := by
  rcases hf with hf | ⟨h8, h10⟩
  · simp [cmpElem, ordTest, elemOrd, floatFmt_none_of_int hf, intFmt_code hf, valI_eq hf]
  · obtain ⟨p, hp⟩ : ∃ p, floatFmt f = some p := by interval_cases f <;> exact ⟨_, rfl⟩
    simp only [cmpElem, ordTest, elemOrd, hp]
    cases floatOrd p x <;> cases floatOrd p y <;> simp

/-- Bits set one after another where a test holds. -/
theorem getLsbD_setBits (q : Nat → Bool) (n k : Nat) (hk : k < 256) :
    ((List.range n).foldl (fun acc i => if q i then acc ||| BitVec.ofNat 256 (2 ^ i) else acc) (0 : BitVec 256)).getLsbD k =
      (decide (k < n) && q k) := by
  induction n with
  | zero => simp
  | succ n ih =>
    have bit : (BitVec.ofNat 256 (2 ^ n)).getLsbD k = decide (n = k) := by
      rw [BitVec.getLsbD_ofNat, decide_eq_true hk, Bool.true_and, Nat.testBit_two_pow]
    rw [List.range_succ, List.foldl_append, List.foldl_cons, List.foldl_nil]
    by_cases hq : q n = true
    · rw [if_pos hq, BitVec.getLsbD_or, ih, bit]
      by_cases e : n = k
      · subst e; simp [hq]
      · simp [e, show k < n + 1 ↔ k < n by omega]
    · rw [if_neg hq, ih]
      by_cases e : n = k
      · subst e; simp [hq]
      · simp [show k < n + 1 ↔ k < n by omega]

theorem getLsbD_cmpGroups (cond f : Nat) (a b : Nat → Nat) {k : Nat} (hk : k < 256) :
    (cmpGroups cond f a b).getLsbD k = (List.range (32 / fmtWidth f)).all (fun n =>
      cmpElem cond f (a (32 / fmtWidth f * k + n)) (b (32 / fmtWidth f * k + n))) := by
  rw [cmpGroups, getLsbD_setBits _ _ _ hk, decide_eq_true hk, Bool.true_and]

/-- The mask operations, by what they do to each bit (R149). -/
theorem maskOp_result {i : Instr} {s : State} {g : Gate} {d a b : WReg} {op : BitVec 256 → BitVec 256 → BitVec 256}
    {el : Nat → Bool} (hexec : exec i s = maskOp i g d a b op s) (h : Enabled i true g s)
    (hel : ∀ k, k < 256 → (op ((s.core s.cur.core).rw a.toNat) ((s.core s.cur.core).rw b.toNat)).getLsbD k = el k) :
    MaskResult i s g d el := by
  obtain ⟨t, ht, lands⟩ := maskOp_lands (d := d) (a := a) (b := b) (f := op) h
  exact ⟨t, hexec.trans ht, _, lands, hel⟩

/-- Both forms of a compare, group by group (R148). -/
theorem vecCmp_results {i j : Instr} {s : State} {g : Gate} {cond : Nat} {f : BitVec 4} {d : WReg} {a b : VField} {c : SReg}
    {an bn : Nat} {test : Nat → Nat → Bool} (hi : exec i s = vecCmp i g cond f d a b s)
    (hj : exec j s = vecCmpS j g cond f d a c s) (oni : Enabled i true g s) (onj : Enabled j true g s) (ha : Names s a an)
    (hb : Names s b bn) (htest : ∀ x y, cmpElem cond f.toNat x y = test x y) :
    let w := fmtWidth f.toNat
    MaskResult i s g d (fun k => (List.range (32 / w)).all (fun n =>
      test (lane s w an (32 / w * k + n)) (lane s w bn (32 / w * k + n)))) ∧
    MaskResult j s g d (fun k => (List.range (32 / w)).all (fun n =>
      test (lane s w an (32 / w * k + n)) (scalarLane s w c (32 / w * k + n)))) := by
  obtain ⟨t, ht, lands⟩ := vecCmp_lands (cond := cond) (d := d) oni ha hb
  obtain ⟨t', ht', lands'⟩ := vecCmpS_lands (cond := cond) (d := d) (c := c) onj ha
  simp only [← htest]
  exact ⟨⟨t, hi.trans ht, _, lands, fun k hk => getLsbD_cmpGroups _ _ _ _ hk⟩,
    t', hj.trans ht', _, lands', fun k hk => getLsbD_cmpGroups _ _ _ _ hk⟩

/-- Settles O7: a compare by its test of two elements, a mask operation by its bits. -/
theorem vectorComparesAndMasks : Obligations.VectorComparesAndMasks := by
  refine ⟨fun s g f d a b c an bn hg hf hon ha hb => ?_, fun s g d a b hg hon => ?_⟩
  · intro w ord on both
    have hwf : (g.ok && clsNum f) = true := by simp [hg, hf]
    have test := cmpElem_eq (clsNum_cases hf)
    exact ⟨vecCmp_results (exec_vcmpeq s) (exec_vcmpeqVs s) ⟨hwf, hon⟩ ⟨hwf, hon⟩ ha hb fun x y => by
        obtain ⟨eq, -, -, -⟩ := test x y; exact eq,
      vecCmp_results (exec_vcmpne s) (exec_vcmpneVs s) ⟨hwf, hon⟩ ⟨hwf, hon⟩ ha hb fun x y => by
        obtain ⟨-, ne, -, -⟩ := test x y; exact ne,
      vecCmp_results (exec_vcmplt s) (exec_vcmpltVs s) ⟨hwf, hon⟩ ⟨hwf, hon⟩ ha hb fun x y => by
        obtain ⟨-, -, lt, -⟩ := test x y; exact lt,
      vecCmp_results (exec_vcmple s) (exec_vcmpleVs s) ⟨hwf, hon⟩ ⟨hwf, hon⟩ ha hb fun x y => by
        obtain ⟨-, -, -, le⟩ := test x y; exact le⟩
  · intro x y
    exact ⟨maskOp_result (exec_wand s) ⟨hg, hon⟩ fun k _ => BitVec.getLsbD_and,
      maskOp_result (exec_wor s) ⟨hg, hon⟩ fun k _ => BitVec.getLsbD_or,
      maskOp_result (exec_wxor s) ⟨hg, hon⟩ fun k _ => BitVec.getLsbD_xor,
      maskOp_result (exec_wnot s) ⟨hg, hon⟩ fun k hk => by simp [hk, x],
      maskOp_result (exec_wandn s) ⟨hg, hon⟩ fun k hk => by simp [hk, x, y]⟩

end Sys2Proof.Machine
end

section
/-! The reductions and the sums of `VPSUM` (R150, R151): the values of their trees and levels. -/

namespace Sys2Proof.Machine
open Sys2Proof.Safety

/-! The pairwise tree (R150). -/

section
variable {α : Type} (op : α → α → α) (f : Nat → α)

/-- Node i of a level of the pairwise tree over the leaves f (R150). -/
def treeAt : Nat → Nat → α
  | 0, i => f i
  | d + 1, i => op (treeAt d (2 * i)) (treeAt d (2 * i + 1))

theorem pairUp_range (n : Nat) : pairUp op ((List.range (2 * n)).map f) =
    (List.range n).map (fun i => op (f (2 * i)) (f (2 * i + 1))) := by
  induction n generalizing f with
  | zero => rfl
  | succ n ih =>
    have shift := ih (fun i => f (i + 2))
    simp only [Nat.mul_succ, List.range_succ_eq_map, List.map_cons, List.map_map, pairUp]
    exact congrArg _ shift

theorem reduceTree_range (n d : Nat) :
    reduceTree op n ((List.range (2 ^ n)).map (treeAt op f d)) = [treeAt op f (d + n) 0] := by
  induction n generalizing d with
  | zero => rfl
  | succ n ih =>
    rw [reduceTree, pow_succ', pairUp_range]
    exact (ih (d + 1)).trans (by rw [Nat.succ_add_eq_add_succ])

/-- An operation that picks one of two, in an order that holds of both, finds a leaf that stands first among all (R150). -/
theorem treeAt_picks {R : α → α → Prop} (refl : ∀ a, R a a) (trans : ∀ {a b c}, R a b → R b c → R a c)
    (one : ∀ i j, op (f i) (f j) = f i ∨ op (f i) (f j) = f j)
    (both : ∀ i j, R (op (f i) (f j)) (f i) ∧ R (op (f i) (f j)) (f j)) (d i : Nat) :
    (∃ j, 2 ^ d * i ≤ j ∧ j < 2 ^ d * (i + 1) ∧ treeAt op f d i = f j) ∧
      ∀ j, 2 ^ d * i ≤ j → j < 2 ^ d * (i + 1) → R (treeAt op f d i) (f j) := by
  induction d generalizing i with
  | zero =>
    refine ⟨⟨i, by simp, by simp, rfl⟩, fun j low high => ?_⟩
    obtain rfl : j = i := by simp at low high; omega
    exact refl _
  | succ d ih =>
    obtain ⟨⟨j, jlow, jhigh, hj⟩, firstJ⟩ := ih (2 * i)
    obtain ⟨⟨k, klow, khigh, hk⟩, firstK⟩ := ih (2 * i + 1)
    have low : 2 ^ (d + 1) * i = 2 ^ d * (2 * i) := by ring
    have high : 2 ^ (d + 1) * (i + 1) = 2 ^ d * (2 * i + 1 + 1) := by ring
    have mid : 2 ^ d * (2 * i) ≤ 2 ^ d * (2 * i + 1) := Nat.mul_le_mul_left _ (Nat.le_succ _)
    have mid' : 2 ^ d * (2 * i + 1) ≤ 2 ^ d * (2 * i + 1 + 1) := Nat.mul_le_mul_left _ (Nat.le_succ _)
    have node : treeAt op f (d + 1) i = op (f j) (f k) := by rw [treeAt, hj, hk]
    rw [node, low, high]
    refine ⟨?_, fun l hl hl' => ?_⟩
    · rcases one j k with e | e
      · exact ⟨j, jlow, jhigh.trans_le mid', e⟩
      · exact ⟨k, mid.trans klow, khigh, e⟩
    · obtain ⟨bj, bk⟩ := both j k
      by_cases hm : l < 2 ^ d * (2 * i + 1)
      · exact trans bj (hj ▸ firstJ l hl hm)
      · exact trans bk (hk ▸ firstK l (not_lt.1 hm) hl')

end

/-! The levels of `VPSUM` (R151). -/

section
variable {α : Type} (op : α → α → α) (f : Nat → α)

/-- Position i after d levels of `VPSUM` (R151). -/
def prefixAt : Nat → Nat → α
  | 0, i => f i
  | d + 1, i => if 2 ^ d ≤ i then op (prefixAt d (i - 2 ^ d)) (prefixAt d i) else prefixAt d i

theorem prefixLevel_range {d n : Nat} (h : d ≤ n) : prefixLevel op d ((List.range n).map f) =
    (List.range n).map (fun i => if d ≤ i then op (f (i - d)) (f i) else f i) := by
  refine List.ext_getElem (by simp [prefixLevel]; omega) fun i h1 h2 => ?_
  by_cases hi : d ≤ i
  · simp only [prefixLevel]
    rw [List.getElem_append_right (by simp; omega)]
    simp [hi, h]
  · simp only [prefixLevel]
    rw [List.getElem_append_left (by simp; simp at h2; omega)]
    simp [hi]

theorem prefixTree_range (n : Nat) : ∀ d, d ≤ n →
    prefixTree op d ((List.range (2 ^ n)).map f) = (List.range (2 ^ n)).map (prefixAt op f d) := by
  intro d
  induction d with
  | zero => exact fun _ => rfl
  | succ d ih =>
    intro hd
    have before := ih (Nat.le_of_succ_le hd)
    rw [prefixTree] at before
    rw [prefixTree, List.range_succ, List.foldl_append, before]
    exact prefixLevel_range op _ (Nat.pow_le_pow_right two_pos (Nat.le_of_succ_le hd))

end

/-- Over integers a position holds the sum of the 2^d elements that end there, as many as there are (R151). -/
theorem prefixAt_add (f : Nat → Int) (d i : Nat) : prefixAt (· + ·) f d i =
    ((List.range (i + 1)).map f).sum - ((List.range (i + 1 - 2 ^ d)).map f).sum := by
  induction d generalizing i with
  | zero => simp [prefixAt, List.range_succ]
  | succ d ih =>
    rw [prefixAt]
    split
    · next h =>
      rw [ih, ih, show i - 2 ^ d + 1 = i + 1 - 2 ^ d by omega, show i + 1 - 2 ^ (d + 1) = i + 1 - 2 ^ d - 2 ^ d by omega]
      ring
    · next h => rw [ih, show i + 1 - 2 ^ d = 0 by omega, show i + 1 - 2 ^ (d + 1) = 0 by omega]

/-! The operations. -/

/-- The elements of a register number a power of two (R136). -/
theorem two_pow_vecLevels {f : Nat} (hf : f < 6 ∨ 8 ≤ f ∧ f ≤ 10) : 8192 / fmtWidth f = 2 ^ vecLevels f := by
  rcases hf with hf | ⟨h8, h10⟩
  · interval_cases f <;> decide +kernel
  · interval_cases f <;> decide +kernel

section
variable {s : State} {f : Nat} (hf : f < 6 ∨ 8 ≤ f ∧ f ≤ 10) (an : Nat)
include hf

theorem vecElems_range : vecElems s f an = (List.range (2 ^ vecLevels f)).map (lane s (fmtWidth f) an) := by
  rw [vecElems, elems, two_pow_vecLevels hf]
  rfl

theorem pickElems_eq (max : Bool) : pickElems f max (vecElems s f an) =
    treeAt (fmtPick f max) (lane s (fmtWidth f) an) (vecLevels f) 0 := by
  have tree := reduceTree_range (fmtPick f max) (lane s (fmtWidth f) an) (vecLevels f) 0
  rw [pickElems, vecElems_range hf]
  exact (congrArg (List.headD · 0) tree).trans (by rw [Nat.zero_add]; rfl)

theorem sumElems_float {p : FloatFmt} (hp : floatFmt f = some p) : sumElems f (vecElems s f an) =
    roundTo f 0 (treeAt addF32 (fun i => widen f (lane s (fmtWidth f) an i)) (vecLevels f) 0) := by
  have tree := reduceTree_range addF32 (fun i => widen f (lane s (fmtWidth f) an i)) (vecLevels f) 0
  simp only [sumElems, hp, vecElems_range hf, List.map_map]
  exact congrArg (fun l => roundTo f 0 (l.headD .nan)) (tree.trans (by rw [Nat.zero_add]))

theorem prefixElems_float {p : FloatFmt} (hp : floatFmt f = some p) : prefixElems f (vecElems s f an) =
    (List.range (2 ^ vecLevels f)).map (fun i =>
      roundTo f 0 (prefixAt addF32 (fun i => widen f (lane s (fmtWidth f) an i)) (vecLevels f) i)) := by
  have levels := prefixTree_range addF32 (fun i => widen f (lane s (fmtWidth f) an i)) (vecLevels f) _ le_rfl
  simp only [prefixElems, hp, vecElems_range hf, List.map_map]
  exact (congrArg (List.map (roundTo f 0)) levels).trans (List.map_map ..)

end

section
variable {s : State} {f : Nat} (hf : f < 6) (an : Nat)
include hf

theorem sumElems_int (l : List Nat) : sumElems f l = wrapInt (fmtWidth f) (l.map (valI f)).sum := by
  simp only [sumElems, floatFmt_none_of_int hf, bitsI, foldl_add, Int.zero_add]

theorem prefixElems_int : prefixElems f (vecElems s f an) = (List.range (2 ^ vecLevels f)).map (fun i =>
    wrapInt (fmtWidth f) (((List.range (i + 1)).map (fun j => valI f (lane s (fmtWidth f) an j))).sum)) := by
  have levels := prefixTree_range (· + ·) (fun i => valI f (lane s (fmtWidth f) an i)) (vecLevels f) _ le_rfl
  simp only [prefixElems, floatFmt_none_of_int hf, vecElems_range (.inl hf), List.map_map]
  refine (congrArg (List.map (bitsI f)) levels).trans ((List.map_map ..).trans (List.map_congr_left fun i hi => ?_))
  have none : i + 1 - 2 ^ vecLevels f = 0 := by have := List.mem_range.1 hi; omega
  simp [prefixAt_add, none, bitsI]

/-- The greatest and the least element (R150). -/
theorem pickElems_int (max : Bool) : ∃ j, j < 2 ^ vecLevels f ∧
    pickElems f max (vecElems s f an) = lane s (fmtWidth f) an j ∧ ∀ k, k < 2 ^ vecLevels f →
      if max then valI f (lane s (fmtWidth f) an k) ≤ valI f (lane s (fmtWidth f) an j)
      else valI f (lane s (fmtWidth f) an j) ≤ valI f (lane s (fmtWidth f) an k) := by
  have pick : ∀ x y, fmtPick f max x y = if decide (valI f x < valI f y) = max then y else x := fun x y => by
    simp only [fmtPick, floatFmt_none_of_int hf, intFmt_code hf, valI_eq hf]
  obtain ⟨⟨j, -, hj, e⟩, first⟩ := treeAt_picks (fmtPick f max) (lane s (fmtWidth f) an)
    (R := fun x y => if max then valI f y ≤ valI f x else valI f x ≤ valI f y)
    (fun x => by cases max <;> exact le_rfl)
    (fun {x y z} hxy hyz => by cases max <;> simp only [if_true, if_false, Bool.false_eq_true] at * <;> omega)
    (fun i k => by rw [pick]; split <;> simp)
    (fun i k => by
      rw [pick]
      cases max <;> simp only [if_true, if_false, Bool.false_eq_true, decide_eq_true_eq, decide_eq_false_iff_not] <;>
        split <;> omega) (vecLevels f) 0
  rw [Nat.zero_add, Nat.mul_one] at hj first
  rw [pickElems_eq (.inl hf), e]
  exact ⟨j, hj, rfl, fun k hk => e ▸ first k (Nat.zero_le _) hk⟩

end

/-- `VPSUM`, position by position (R151). -/
theorem vpsum_result {s : State} {g : Gate} {f : BitVec 4} {d a : VField} {dn an : Nat} {el : Nat → Nat}
    (h : Enabled (.vpsum g f d a) true g s) (hd : Names s d dn) (ha : Names s a an)
    (hel : prefixElems f.toNat (vecElems s f.toNat an) = (List.range (8192 / fmtWidth f.toNat)).map el) :
    VecResult (.vpsum g f d a) s g 8 dn (fmtWidth f.toNat) (fun k => el k % 2 ^ fmtWidth f.toNat) := by
  refine ⟨_, by rw [exec_vpsum, execVpsum, runOp_on _ h, withV_some _ hd, withV_some _ ha]; rfl, _,
    State.landIn_lands s 8 .vec _ false, fun j hj => ?_⟩
  rw [hel, elem_vecOf_map _ _ _ (by simp) hj]
  simp

/-- Settles O8: the trees and levels of floats as they are, those of integers by what they add up to or pick. -/
theorem vectorReductions : Obligations.VectorReductions := by
  intro s g f d a dn an hg hf hon hd ha w len x l plus picked
  have hwf : (g.ok && clsNum f) = true := by simp [hg, hf]
  have reduced : ∀ {i : Instr} {op : Nat → List Nat → Nat}, exec i s = vecReduce i g f d a op s →
      i.wf = (g.ok && clsNum f) →
      VecResult i s g 6 dn w (fun _ => op f.toNat (vecElems s f.toNat an) % 2 ^ w) := fun hi wi => by
    obtain ⟨t, ht, r, lands, elems⟩ := vecReduce_result ⟨wi.trans hwf, hon⟩ hd ha
    exact ⟨t, hi.trans ht, r, lands, elems⟩
  have cls := clsNum_cases hf
  have hlen : len = 2 ^ vecLevels f.toNat := two_pow_vecLevels cls
  have summed : ∀ el, prefixElems f.toNat (vecElems s f.toNat an) = (List.range (2 ^ vecLevels f.toNat)).map el →
      VecResult (.vpsum g f d a) s g 8 dn w (fun k => el k % 2 ^ w) := fun el hel =>
    vpsum_result ⟨hwf, hon⟩ hd ha (by rw [two_pow_vecLevels cls]; exact hel)
  rcases cls with h6 | ⟨h8, h10⟩
  · obtain ⟨j, hj, ej, greatest⟩ := pickElems_int (s := s) h6 an true
    obtain ⟨k, hk, ek, least⟩ := pickElems_int (s := s) h6 an false
    have keep : ∀ n, x n % 2 ^ w = x n := fun n => Nat.mod_eq_of_lt (lane_lt _ _ _ _)
    have mem : ∀ n, n < 2 ^ vecLevels f.toNat → x n ∈ l := fun n hn =>
      List.mem_map.2 ⟨n, List.mem_range.2 (hlen ▸ hn), rfl⟩
    refine ⟨_, _, _, _, reduced (exec_vrsum s) rfl, reduced (exec_vrmax s) rfl, reduced (exec_vrmin s) rfl,
      summed _ (prefixElems_int h6 an), fun h => by omega, fun _ => ⟨?_, fun i hi => ?_, ?_, ?_, fun y hy => ?_⟩⟩
    · rw [sumElems_int h6]
      exact wrapInt_mod _ _
    · have start : l.take (i + 1) = (List.range (i + 1)).map x := by
        rw [← List.map_take, List.take_range, Nat.min_eq_left hi]
      rw [start, List.map_map]
      exact wrapInt_mod _ _
    · rw [ej]; exact keep j ▸ mem j hj
    · rw [ek]; exact keep k ▸ mem k hk
    · obtain ⟨n, hn, rfl⟩ := List.mem_map.1 hy
      have hn' := hlen ▸ List.mem_range.1 hn
      rw [ej, ek]
      exact ⟨(keep k).symm ▸ least n hn', (keep j).symm ▸ greatest n hn'⟩
  · obtain ⟨p, hp⟩ : ∃ p, floatFmt f.toNat = some p := by
      generalize f.toNat = t at h8 h10
      interval_cases t <;> exact ⟨_, rfl⟩
    have cls : f.toNat < 6 ∨ 8 ≤ f.toNat ∧ f.toNat ≤ 10 := .inr ⟨h8, h10⟩
    exact ⟨_, _, _, _, reduced (exec_vrsum s) rfl, reduced (exec_vrmax s) rfl, reduced (exec_vrmin s) rfl,
      summed _ (prefixElems_float cls an hp), fun _ =>
        ⟨⟨treeAt (fmtPick f.toNat true) x, fun _ _ => rfl, fun _ _ => rfl,
          congrArg (· % 2 ^ w) (pickElems_eq cls an true)⟩,
        ⟨treeAt (fmtPick f.toNat false) x, fun _ _ => rfl, fun _ _ => rfl,
          congrArg (· % 2 ^ w) (pickElems_eq cls an false)⟩,
        ⟨treeAt addF32 (fun i => widen f.toNat (x i)), fun _ _ => rfl, fun _ _ => rfl,
          congrArg (· % 2 ^ w) (sumElems_float cls an hp)⟩,
        prefixAt addF32 (fun i => widen f.toNat (x i)), fun _ _ => rfl, fun _ _ => rfl, fun _ _ => rfl⟩,
      fun h => by omega⟩

end Sys2Proof.Machine
end

section
/-! The permutes (R152): where the elements of a result come from. -/

namespace Sys2Proof.Machine
open Sys2Proof.Safety

/-- A permute by its places: each element of the result is one of the sources', so it keeps its bits (R152). -/
theorem permuteOp_whole {i : Instr} {s : State} {g : Gate} {f : BitVec 5} {d a b : VField} {dn an bn : Nat}
    {place : (Nat → Nat) → (Nat → Nat) → Nat → Nat} {el : Nat → Nat}
    (hexec : exec i s = permuteOp i g f d a b place s) (h : Enabled i false g s) (hd : Names s d dn) (ha : Names s a an)
    (hb : Names s b bn)
    (hel : ∀ j, j < permLen f →
      place (lane s (fmtWidth f.toNat) an) (lane s (fmtWidth f.toNat) bn) j % 2 ^ fmtWidth f.toNat = el j) :
    WholeResult i s 4 .prm dn (fmtWidth f.toNat) (permLen f) el := by
  have run : exec i s = .next (s.landP 4 dn (vecOf f.toNat ((List.range (permLen f)).map
      (place (lane s (fmtWidth f.toNat) an) (lane s (fmtWidth f.toNat) bn))))) := by
    rw [hexec, permuteOp, runOp_on _ h, withV_some _ hd, withV_some _ ha, withV_some _ hb]
    rfl
  refine landP_whole run (by simp) (Nat.mul_div_le _ _) fun j hj => ?_
  rw [List.getElem_map, List.getElem_range]
  exact hel j (by simpa using hj)

/-- The patterns of `SHUF` take an element of either source as it is (R152). -/
theorem shufElem_lane (s : State) (w an bn pat len j : Nat) :
    shufElem pat len (lane s w an) (lane s w bn) j % 2 ^ w = shufElem pat len (lane s w an) (lane s w bn) j := by
  refine Nat.mod_eq_of_lt ?_
  unfold shufElem
  dsimp only
  split <;> split <;> exact lane_lt _ _ _ _

/-- Settles O10: each permute by the places its rule gives the elements. -/
theorem permutes : Obligations.Permutes := by
  intro s g f d a b imm dn an bn hg hf hon hd ha hb w len n x y
  have hwf : ∀ {q : Prop} [Decidable q], q → (g.ok && clsPerm f && decide q) = true := fun hq => by simp [hg, hf, hq]
  have keep : ∀ r k, lane s w r k % 2 ^ w = lane s w r k := fun r k => Nat.mod_eq_of_lt (lane_lt _ _ _ _)
  have shuffles : ∀ {pat : Nat} {el : Nat → Nat}, n = pat → pat ≤ 3 → (∀ j, shufElem pat len x y j = el j) →
      WholeResult (.shuf g f d a b imm) s 4 .prm dn w len el := fun {pat el} hn hpat hel =>
    permuteOp_whole (exec_shuf s) ⟨hwf (hn.trans_le hpat), hon⟩ hd ha hb fun j _ =>
      (shufElem_lane ..).trans ((congrArg (shufElem · len x y j) hn).trans (hel j))
  have alternate : ∀ (u v : Nat → Nat) (j : Nat), (if j % 2 = 0 then u (j / 2) else v (j / 2)) =
      if j % 2 = 0 then u (j / 2) else v ((j - 1) / 2) := fun u v j => by
    split
    · rfl
    · next h => rw [show j / 2 = (j - 1) / 2 by omega]
  refine ⟨fun hn => ?_, fun hn => ?_, fun hn => shuffles hn (by decide) (alternate x y),
    fun hn => shuffles hn (by decide) (alternate (fun i => x (len / 2 + i)) (fun i => y (len / 2 + i))),
    fun hn => shuffles hn (by decide) fun _ => rfl, fun hn => shuffles hn (by decide) fun _ => rfl,
    fun hn => permuteOp_whole (exec_rot s) ⟨hwf hn, hon⟩ hd ha ha fun _ _ => keep _ _⟩
  · refine permuteOp_whole (exec_perm s) ⟨hwf hn, hon⟩ hd ha hb fun j _ => ?_
    rw [Nat.mod_eq_of_lt (Nat.lt_succ_of_le hn : imm.toNat < 4)]
    exact keep _ _
  · refine permuteOp_whole (exec_slide s) ⟨hwf hn, hon⟩ hd ha hb fun j _ => ?_
    show (if j + n < len then x (j + n) else y (j + n - len)) % 2 ^ w = _
    split <;> exact keep _ _

end Sys2Proof.Machine
end

section
/-! The opening of the accesses of a compute context (R160, R177, R178, R182, R187). -/

namespace Sys2Proof.Machine
open Sys2Proof.Safety

section
variable {s : State} {i : Instr} {g : Gate}

theorem access_answers {code addr first last : Nat} {banks : BitVec 16} {op : BankOp}
    (hi : exec i s = .next (s.access code banks addr first last op)) :
    Answers i s (fun t => Opens s t code banks addr first last op) := ⟨_, hi, State.access_opens ..⟩

/-- An engine command is to read its record of 128 bytes (R182). -/
theorem engineOp_answers {kind : Nat} {sa : StreamReg} (hi : exec i s = engineOp i g kind sa s) (h : Enabled i false g s) :
    Answers i s (fun t => Opens s t codeMem (rangeBanks (s.addrOf g sa 128) 128) (s.addrOf g sa 128) 2 2 (.command kind)) :=
  access_answers (hi.trans (runOp_on _ h))

end

end Sys2Proof.Machine
end

section
/-! The record of an engine command (R182, R242): its checks in their order, and the cycle in which they are made. -/

namespace Sys2Proof.Machine
open Sys2Proof.Safety

/-- The record an engine command reads (R182, R183). -/
def State.commandRecord (s : State) (c : Nat) (a : Access) : Nat :=
  natOf ((List.range 128).map (fun i => (s.core c).spad.read (a.addr + i)))

/-- START with the total shift, and the cycle it names (R182). -/
def State.commandStart (s : State) (c : Nat) (a : Access) : Int :=
  signedVal 64 (s.commandRecord c a) + (s.heat (s.partOf c)).sigma
def State.commandCycle (s : State) (c : Nat) (a : Access) : Nat :=
  (((s.heat (s.partOf c)).origin : Int) + s.commandStart c a).toNat

/-- Check 1 fails: START comes too soon after the issue (R182). -/
def State.CommandLate (s : State) (c : Nat) (a : Access) : Prop :=
  s.commandStart c a < (a.issue : Int) - (s.heat (s.partOf c)).origin + 16

/-- Checks 1 and 2 pass, and they are made at all (R182, R242). -/
def State.CommandPasses (s : State) (c kind : Nat) (a : Access) : Prop :=
  s.flows c = true ∧ ¬s.CommandLate c a ∧ s.commandLegal c kind (s.commandRecord c a) = true

section
variable {s : State} {c id kind : Nat} {a : Access}

theorem State.command_eq : s.command c a kind =
    if s.flows c = false then s
    else if s.commandStart c a < (a.issue : Int) - (s.heat (s.partOf c)).origin + 16 then s.commandTrap c a 5 1
    else if s.commandLegal c kind (s.commandRecord c a) = false then s.commandTrap c a 5 2
    else if (s.core c).commandBusy kind (s.commandRecord c a) (s.commandCycle c a) then s.commandTrap c a 5 3
    else s.acceptCommand c a kind (s.commandRecord c a) (s.commandCycle c a) := by
  have record : natOf ((s.core c).load a.addr 128) = s.commandRecord c a := by rw [Core.load_eq]; rfl
  simp only [State.command, record, Bool.not_eq_true', State.commandCycle, State.commandStart, State.ofHeatCycle, recStart]
  rfl

theorem State.command_stopped (h : s.flows c = false) : s.command c a kind = s := by
  rw [State.command_eq, if_pos h]

theorem State.command_late (h : s.flows c = true) (late : s.CommandLate c a) : s.command c a kind = s.commandTrap c a 5 1 := by
  rw [State.command_eq, if_neg (by simp [h])]
  exact if_pos late

theorem State.command_illegal (h : s.flows c = true) (soon : ¬s.CommandLate c a)
    (bad : ¬s.commandLegal c kind (s.commandRecord c a) = true) : s.command c a kind = s.commandTrap c a 5 2 := by
  rw [State.command_eq, if_neg (by simp [h])]
  exact (if_neg soon).trans (if_pos (Bool.eq_false_iff.2 bad))

theorem State.command_passed (h : s.CommandPasses c kind a) : s.command c a kind =
    if (s.core c).commandBusy kind (s.commandRecord c a) (s.commandCycle c a) then s.commandTrap c a 5 3
    else s.acceptCommand c a kind (s.commandRecord c a) (s.commandCycle c a) := by
  obtain ⟨flows, soon, legal⟩ := h
  rw [State.command_eq, if_neg (by simp [flows])]
  exact (if_neg soon).trans (if_neg (by simp [legal]))

/-! The cycle of the read. -/

section
variable (ha : (s.core c).accOf id = some a) (hc : a.conflictAt = none) (hop : a.op = .command kind)
  (hbad : ∀ x, x ∈ (s.core c).badSpad → a.readsByte (s.core c) x = false)
include ha hc hop hbad

theorem exec_command : exec (.bankAccess c id .perform) s =
    .next ((s.command c a kind).modCore c (fun k => k.closeAccess id)) := by
  rw [bankAccess_perform_clean ha hc (fun _ _ _ _ _ h => nomatch hop.symm.trans h) hbad, State.performAccess, hop]

theorem command_traps {cls cause : Nat} (h : s.command c a kind = s.commandTrap c a cls cause) :
    exec (.bankAccess c id .perform) s =
      .next ((s.raiseTrap c ⟨cls, cause, 0, some (a.pos, a.seg), a.addr⟩).modCore c (fun k => k.closeAccess id)) := by
  rw [exec_command ha hc hop hbad, h]
  rfl

/-- What a command does besides leaving the list of accesses. -/
theorem command_answers {P : State → Prop} (h : P ((s.command c a kind).modCore c (fun k => k.closeAccess id))) :
    Answers (.bankAccess c id .perform) s P := ⟨_, exec_command ha hc hop hbad, h⟩

theorem command_starts {u : State} {k : Core} {l : List Event} (h : s.command c a kind = u) (core : u.core c = k)
    (adds : Adds s u l) (only : OnlyCore s u c) : Answers (.bankAccess c id .perform) s (fun t =>
      t.core c = k.closeAccess id ∧ Adds s t l ∧ OnlyCore s t c) := by
  subst h core
  exact command_answers ha hc hop hbad ⟨State.core_modCore .., adds.of_agenda rfl, only.trans (.modCore ..)⟩

/-- A command that joins a list of its core, with the event of its start. -/
theorem command_starts_at {k : Core} {n : Nat} {i : Instr} (h : s.command c a kind = (s.setCore c k).at n i) :
    Answers (.bankAccess c id .perform) s (fun t =>
      t.core c = k.closeAccess id ∧ Adds s t [⟨max n s.gcount, i⟩] ∧ OnlyCore s t c) :=
  command_starts ha hc hop hbad h ((State.core_at ..).trans (State.core_setCore ..)) ((Adds.setCore s c k).at_max n)
    (.setCore_at ..)

end

/-! Check 2 on the common fields (R183). -/

theorem recOk_fields {kind r : Nat} {noBar : Bool} (h : recOk kind noBar r = true) :
    fld r 64 8 = kind ∧ fld r 77 2 = 0 ∧ fld r 80 48 = 0 := by
  simp only [recOk, Bool.and_eq_true, decide_eq_true_eq] at h
  obtain ⟨⟨⟨zeros, hkind⟩, high⟩, -⟩ := h
  exact ⟨hkind, high, zeros⟩

theorem copyLegal_rec {r : Nat} (h : s.copyLegal c r = true) : recOk 0x10 true r = true := by
  simp only [State.copyLegal, Bool.and_eq_true, and_assoc] at h
  exact h.1

theorem pourLegal_rec {r : Nat} (h : s.pourLegal c r = true) :
    ∃ p, (s.core c).descOf (pourDescNo r) = some p ∧ recOk 0x11 p.isStatic r = true := by
  unfold State.pourLegal at h
  split at h
  · cases h
  · next p hp =>
    simp only [Bool.and_eq_true, and_assoc] at h
    exact ⟨p, hp, h.1⟩

theorem takeLegal_rec {r : Nat} (h : s.takeLegal c r = true) : recOk 0x12 true r = true := by
  unfold State.takeLegal at h
  dsimp only at h
  split at h
  · cases h
  · simp only [Bool.and_eq_true, and_assoc] at h
    exact h.1

/-- A crucible command names a pinned range (R191). -/
theorem crucLegal_rec {r : Nat} (h : s.crucLegal c kind r = true) : recOk kind true r = true ∧ 32 ≤ crucLen r ∧
    (s.heat (s.partOf c)).pinnedRange (wordAddr (crucTgt r)) (crucLen r) = true := by
  simp only [State.crucLegal, Bool.and_eq_true, decide_eq_true_eq, and_assoc] at h
  obtain ⟨hrec, -, -, -, hlen, -, -, -, -, -, hpinned, -⟩ := h
  exact ⟨hrec, hlen, hpinned⟩

theorem dynLegal_rec {get : Bool} {r : Nat} (h : dynLegal get r = true) :
    recOk (if get then 0x17 else 0x16) false r = true := by
  simp only [dynLegal, Bool.and_eq_true, and_assoc] at h
  exact h.1

theorem commandLegal_fields {r : Nat} (hkind : kind = 0x10 ∨ kind = 0x11 ∨ kind = 0x12 ∨ kind = 0x13 ∨ kind = 0x14 ∨
    kind = 0x15 ∨ kind = 0x16 ∨ kind = 0x17) (h : s.commandLegal c kind r = true) :
    fld r 64 8 = kind ∧ fld r 77 2 = 0 ∧ fld r 80 48 = 0 := by
  rcases hkind with rfl | rfl | rfl | rfl | rfl | rfl | rfl | rfl
  · exact recOk_fields (copyLegal_rec h)
  · obtain ⟨p, -, hrec⟩ := pourLegal_rec h
    exact recOk_fields hrec
  · exact recOk_fields (takeLegal_rec h)
  · exact recOk_fields (crucLegal_rec h).1
  · exact recOk_fields (crucLegal_rec h).1
  · exact recOk_fields (crucLegal_rec h).1
  · exact recOk_fields (dynLegal_rec h)
  · exact recOk_fields (dynLegal_rec h)

end

end Sys2Proof.Machine
end

section
/-! The engine commands that pass their checks (R182, R187, R190, R193, R197): what each starts. -/

namespace Sys2Proof.Machine
open Sys2Proof.Safety

section
variable {s : State} {c id : Nat} {a : Access}

/-! `COPY` (R187). -/

theorem copyBusy_iff {k : Core} {n : Nat} :
    k.copyBusy n = true ↔ ∃ y, y ∈ k.copies ∧ y.start ≤ n ∧ n < y.start + 16 * y.tiles := by
  simp [Core.copyBusy]

theorem command_copy_busy (h : s.CommandPasses c 0x10 a) (busy : (s.core c).copyBusy (s.commandCycle c a) = true) :
    s.command c a 0x10 = s.commandTrap c a 5 3 := (State.command_passed h).trans (if_pos busy)

theorem command_copy (h : s.CommandPasses c 0x10 a) (free : ¬(s.core c).copyBusy (s.commandCycle c a) = true) :
    s.command c a 0x10 = if copyOverlaps (s.commandRecord c a) then s.commandTrap c a 10 0
      else s.acceptCopy c a (s.commandRecord c a) (s.commandCycle c a) := (State.command_passed h).trans (if_neg free)

/-! `TAKE` (R190). -/

theorem command_take_none (h : s.CommandPasses c 0x12 a)
    (none : (s.core c).takeRun (s.commandRecord c a) (s.commandCycle c a) = none) :
    s.command c a 0x12 = s.commandTrap c a 5 4 :=
  ((State.command_passed h).trans (if_neg Bool.false_ne_true)).trans (by simp only [State.acceptCommand, none])

theorem command_take_some (h : s.CommandPasses c 0x12 a) {x : PourRun}
    (found : (s.core c).takeRun (s.commandRecord c a) (s.commandCycle c a) = some x) :
    s.command c a 0x12 = s.acceptTake c a (s.commandRecord c a) x :=
  ((State.command_passed h).trans (if_neg Bool.false_ne_true)).trans (by simp only [State.acceptCommand, found])

/-- The pour that a `TAKE` finds is carried, and removes the block at START (R182, R190). -/
theorem takeRun_some {k : Core} {r n : Nat} {x : PourRun} (h : k.takeRun r n = some x) :
    x ∈ k.runs ∧ x.intake = fld r 136 1 ∧ x.desc = fld r 128 8 ∧ x.closed = false ∧ x.next ≤ fld r 160 32 ∧
      ∃ p, sget none k.pours x.desc = some p ∧ x.removal p (fld r 160 32) = n := by
  have carried := List.mem_of_find?_eq_some h
  have found := List.find?_some h
  simp only [Core.carried, List.mem_filter, Bool.and_eq_true, decide_eq_true_eq, Bool.not_eq_true'] at carried
  obtain ⟨mem, ⟨intake, desc⟩, opened⟩ := carried
  split at found
  · next p hp =>
    simp only [Bool.and_eq_true, decide_eq_true_eq] at found
    obtain ⟨⟨next, -⟩, removal⟩ := found
    exact ⟨mem, intake, desc, opened, next, p, hp, removal⟩
  · cases found

/-! `CRED`, `CAXPY` and `CFILL` (R193). -/

theorem pinnedRange_first {h : Heat} {va n : Nat} (hn : 0 < n) (hr : h.pinnedRange va n = true) :
    ∃ pa, h.pinned va = some pa := by
  have first := List.all_eq_true.1 hr 0 (List.mem_range.2 (Nat.succ_pos _))
  have low : ¬va + n ≤ va / 2 ^ 16 * 2 ^ 16 := by have := Nat.div_mul_le_self va (2 ^ 16); omega
  simp only [Nat.add_zero, decide_eq_false low, decide_eq_false hn.ne', Bool.false_or] at first
  obtain ⟨page, hpage⟩ := Option.isSome_iff_exists.1 first
  exact ⟨_, by rw [Heat.pinned, hpage]; rfl⟩

/-- A crucible command at its acceptance, `pa` being the physical address of its target (R193). -/
def newCrucible (id kind c r start pa : Nat) (a : Access) : CrucCmd :=
  { id := id, kind := kind, core := c, rec_ := BitVec.ofNat 1024 r, issue := a.issue, start := start, arrival := 0, pa := pa,
    data := [], sent := false, fin := none, pos := a.pos, seg := a.seg }

theorem newCrucible_start (id kind c r start pa : Nat) (a : Access) : (newCrucible id kind c r start pa a).start = start := rfl

theorem State.acceptCruc_eq {kind r n pa : Nat} (h : (s.heat (s.partOf c)).pinned (wordAddr (crucTgt r)) = some pa) :
    let k := s.core c
    let k1 := { k with cruc := k.cruc ++ [newCrucible k.nextId kind c r n pa a], nextId := k.nextId + 1 }
    s.acceptCruc c a kind r n = ((s.setCore c k1).at n (.crucibleSend c k.nextId .occupy)).at n
      (.crucibleSend c k.nextId .perform) := by
  unfold State.acceptCruc
  rw [h]
  rfl

theorem command_crucible {kind : Nat} (hkind : kind = 0x13 ∨ kind = 0x14 ∨ kind = 0x15) (h : s.CommandPasses c kind a) :
    s.command c a kind = s.acceptCruc c a kind (s.commandRecord c a) (s.commandCycle c a) ∧
      s.crucLegal c kind (s.commandRecord c a) = true := by
  obtain ⟨-, -, legal⟩ := id h
  rcases hkind with rfl | rfl | rfl <;>
    exact ⟨(State.command_passed h).trans (if_neg Bool.false_ne_true), legal⟩

/-! `PUT` and `GET` (R197). -/

theorem command_dynamic {kind : Nat} (hkind : kind = 0x16 ∨ kind = 0x17) (h : s.CommandPasses c kind a) :
    s.command c a kind = s.acceptDyn c a (decide (kind = 0x17)) (s.commandRecord c a) (s.commandCycle c a) := by
  rcases hkind with rfl | rfl <;> exact (State.command_passed h).trans (if_neg Bool.false_ne_true)

end

end Sys2Proof.Machine
end

section
/-! A `POUR` that is accepted (R189, R258, R262, R279): what the reads of its slot blocks meet, and the run it starts. -/

namespace Sys2Proof.Machine
open Sys2Proof.Safety

/-- What reads of a stream may leave behind: traps and events, which write a core's sequencer, its firmware context and the
mark of the span (R252, R295, R299). -/
structure Meets (s t : State) : Prop where
  gcount : t.gcount = s.gcount
  core : ∀ d, ∃ q f b, t.core d = { s.core d with seq := q, fw := f, spanTrap := b }

theorem Meets.refl (s : State) : Meets s s := ⟨rfl, fun _ => ⟨_, _, _, rfl⟩⟩

theorem Meets.trans {s t u : State} (h : Meets s t) (k : Meets t u) : Meets s u := by
  refine ⟨k.gcount.trans h.gcount, fun d => ?_⟩
  obtain ⟨q, f, b, hd⟩ := h.core d
  obtain ⟨q', f', b', kd⟩ := k.core d
  exact ⟨q', f', b', by rw [kd, hd]⟩

theorem Meets.foldl {α : Type} {f : State → α → State} (hf : ∀ s x, Meets s (f s x)) (l : List α) (s : State) :
    Meets s (l.foldl f s) := by
  induction l generalizing s with
  | nil => exact .refl s
  | cons x l ih => exact (hf s x).trans (ih _)

theorem Meets.event (s : State) (c typ aux payload tp : Nat) : Meets s (s.event c typ aux payload tp) := by
  refine ⟨(Later.event ..).gcount, fun d => ?_⟩
  by_cases e : d = c
  · subst e
    obtain ⟨f, h, -⟩ := s.event_core d typ aux payload tp
    exact ⟨_, f, _, h⟩
  · exact ⟨_, _, _, s.event_core_ne c typ aux payload tp d e⟩

/-- What they leave alone of the engines of a core. -/
theorem Meets.keeps {s t : State} (h : Meets s t) (d : Nat) : (t.core d).runs = (s.core d).runs ∧
    (t.core d).nextId = (s.core d).nextId ∧ (t.core d).pours = (s.core d).pours ∧ (t.core d).acc = (s.core d).acc := by
  obtain ⟨q, f, b, hd⟩ := h.core d
  rw [hd]
  exact ⟨rfl, rfl, rfl, rfl⟩

/-! Traps (R238, R240, R241). -/

theorem State.gcount_fixStop (s : State) (p : Nat) (l : List Nat) (e : Option Nat) : (s.fixStop p l e).gcount = s.gcount := by
  have fold : ∀ (f : Core → Core) (cs : List Nat) (s : State),
      (cs.foldl (fun s d => s.modCore d f) s).gcount = s.gcount := by
    intro f cs
    induction cs with
    | nil => exact fun _ => rfl
    | cons d cs ih => exact fun s => ih _
  exact fold _ _ _

theorem State.gcount_heatTrap (s : State) (c cls : Nat) : (s.heatTrap c cls).gcount = s.gcount := by
  unfold State.heatTrap
  dsimp only
  split
  case h_1 => exact s.gcount_fixStop ..
  case h_2 =>
    split
    · rfl
    · exact s.gcount_fixStop ..
  case h_3 | h_4 | h_5 | h_6 =>
    split
    · exact State.atOnce_gcount ..
    · rfl
  case h_7 | h_8 =>
    split
    · split
      · exact State.atOnce_gcount ..
      · rfl
    · rfl

theorem State.gcount_recordTrap (s : State) (c : Nat) (stop : Int) (t : TrapInfo) :
    (s.recordTrap c stop t).gcount = s.gcount := by
  unfold State.recordTrap
  dsimp only
  split
  · rfl
  · exact ((((Later.modCore s c _).trans (.modCore _ c _)).trans (.wake _ c 1)).trans (.traceRaw ..)).gcount

/-- A core's trap leaves the others' firmware contexts alone. -/
theorem State.recordTrap_core_ne (s : State) (c : Nat) (stop : Int) (t : TrapInfo) {d : Nat} (h : d ≠ c) :
    (s.recordTrap c stop t).core d = s.core d := by
  unfold State.recordTrap
  dsimp only
  split
  · rfl
  · simp [State.fwStore, State.core_wake_ne _ _ _ _ h, State.core_modCore_ne _ _ _ _ h]

theorem Meets.raiseTrap (s : State) (c : Nat) (t : TrapInfo) : Meets s (s.raiseTrap c t) := by
  refine ⟨(State.gcount_recordTrap ..).trans (s.gcount_heatTrap c t.cls), fun d => ?_⟩
  by_cases e : d = c
  · subst e
    obtain ⟨q, f, h, -⟩ := s.raiseTrap_core d t
    exact ⟨q, f, true, h⟩
  · obtain ⟨q, h⟩ := s.heatTrap_core c t.cls d
    exact ⟨q, _, _, by
      rw [State.raiseTrap, State.core_modCore_ne _ _ _ _ e, State.takeTrap, State.recordTrap_core_ne _ _ _ _ e, h]⟩

theorem Meets.streamMeets (s : State) (c : Nat) (p : PourDesc) (off n : Nat) : Meets s (s.streamMeets c p off n) := by
  unfold State.streamMeets
  split
  · exact .refl s
  · refine .foldl (fun s x => ?_) _ s
    split
    · exact .refl s
    · split
      · exact .foldl (fun _ _ => .event ..) _ s
      · split
        · exact .raiseTrap ..
        · exact .refl s

theorem Meets.slotsMeet (s : State) (c : Nat) (p : PourDesc) (b : Nat) : Meets s (s.slotsMeet c p b) :=
  .foldl (fun _ _ => .streamMeets ..) _ s

/-! The run (R189, R258). -/

theorem PourRun.loadSlot_rest (r : PourRun) (p : PourDesc) (k : Nat) (ok : Bool) (bs : List Byte) :
    { r.loadSlot p k ok bs with books := r.books, tables := r.tables } = r := by
  unfold PourRun.loadSlot
  dsimp only
  split <;> rfl

/-- Filling a run's slots changes nothing else of it (R279). -/
theorem State.fillSlots_rest (s : State) (c : Nat) (p : PourDesc) (b : Nat) (r : PourRun) :
    { s.fillSlots c p b r with books := r.books, tables := r.tables } = r := by
  unfold State.fillSlots
  generalize p.slotBlocks b = l
  induction l using List.reverseRecOn with
  | nil => rfl
  | append_singleton l j ih =>
    rw [List.foldl_append, List.foldl_cons, List.foldl_nil]
    dsimp only
    generalize List.foldl _ r l = x at ih
    have step := x.loadSlot_rest p j (decide (p.reason j (s.streamDirect c p (p.soff j) (p.clen j)) = 0))
      (s.streamDirect c p (p.soff j) (p.clen j))
    have both := congrArg (fun y : PourRun => { y with books := r.books, tables := r.tables }) step
    exact both.trans ih

/-- The first arrival of a pour is placed, and the run knows of it (R258). -/
theorem State.scheduleArrival_run {s : State} {c id : Nat} {r : PourRun} {p : PourDesc}
    (h : (s.core c).pour id = some (r, p)) : ∃ n, (s.scheduleArrival c id).core c =
        (s.core c).modRun id (fun y => { y with arrivals := y.arrivals + n }) ∧ OnlyCore s (s.scheduleArrival c id) c ∧
      Later s (s.scheduleArrival c id) := by
  unfold State.scheduleArrival
  rw [h]
  dsimp only
  split
  · generalize r.blocksTo p _ = l
    have placed : ∀ s1 : State, let t := l.foldl (fun s j => s.at (r.arrival p r.arrivals) (.blockExpansion c id j)) s1
        (∀ d, t.core d = s1.core d) ∧ OnlyCore s1 t c ∧ Later s1 t := by
      induction l with
      | nil => exact fun s1 => ⟨fun _ => rfl, .refl .., .refl s1⟩
      | cons j l ih =>
        intro s1
        obtain ⟨same, only, later⟩ := ih (s1.at (r.arrival p r.arrivals) (.blockExpansion c id j))
        exact ⟨same, (OnlyCore.at ..).trans only, (Later.at ..).trans later⟩
    obtain ⟨same, only, later⟩ := placed s
    refine ⟨1, ?_, (only.trans (.modCore ..)).trans (.at ..), (later.trans (.modCore ..)).trans (.at ..)⟩
    rw [State.core_at, State.modRun, State.core_modCore, same c]
  · refine ⟨0, ?_, .refl .., .refl s⟩
    simp [Core.modRun]

/-! The acceptance (R189, R258, R262). -/

/-- The run of a `POUR` at its acceptance, with no slot filled and no arrival placed (R189, R258). -/
def newPour (id r start : Nat) (a : Access) (p : PourDesc) : PourRun :=
  { id := id, intake := pourIntake r, desc := pourDescNo r, start := start, block := pourBlock r, next := pourBlock r,
    nextExp := pourBlock r, arrivals := 0, entered := [], got := [], asked := p.toff (pourBlock r), flying := 0, reqs := [],
    counted := [], takes := [], expanded := [], books := [], tables := [], preload := [], bar := recBar r, issue := a.issue,
    pos := a.pos, seg := a.seg, closed := false }

theorem newPour_start (id r start : Nat) (a : Access) (p : PourDesc) : (newPour id r start a p).start = start := rfl

/-- A core with one more run. -/
def Core.addRun (k : Core) (x : PourRun) : Core := { k with runs := k.runs ++ [x], nextId := k.nextId + 1 }

section
variable {k : Core} {x : PourRun} (fresh : ∀ y, y ∈ k.runs → y.id ≠ x.id)
include fresh

theorem pour_addRun {p : PourDesc} (hp : k.descOf x.desc = some p) : (k.addRun x).pour x.id = some (x, p) := by
  have absent : k.runs.find? (fun y => decide (y.id = x.id)) = none := List.find?_eq_none.2 fun y hy => by simp [fresh y hy]
  have found : (k.addRun x).runOf x.id = some x := by simp [Core.runOf, Core.addRun, List.find?_append, absent]
  rw [Core.pour, found]
  exact congrArg (Option.map _) hp

theorem modRun_addRun (f : PourRun → PourRun) : (k.addRun x).modRun x.id f = k.addRun (f x) := by
  have others : k.runs.map (fun y => if y.id = x.id then f y else y) = k.runs :=
    (List.map_congr_left fun y hy => if_neg (fresh y hy)).trans (List.map_id' _)
  simp [Core.modRun, Core.addRun, others]

end

/-- The core of a pour that started, after its command's access (R182, R189). -/
theorem Meets.closeAccess_addRun {s t : State} (h : Meets s t) (c id : Nat) (x : PourRun) :
    ((t.core c).addRun x).closeAccess id = { t.core c with
      acc := (s.core c).acc.filter (fun y => decide (y.id ≠ id)), runs := (s.core c).runs ++ [x],
      nextId := (s.core c).nextId + 1 } := by
  obtain ⟨runs, next, -, acc⟩ := h.keeps c
  simp only [Core.closeAccess, Core.addRun, runs, next, acc]

/-- A pour that starts, once the reads of its slot blocks have met what they meet (R189, R258, R262, R279). -/
def State.startPour (s : State) (c : Nat) (a : Access) (r n : Nat) (p : PourDesc) : State :=
  let x := newPour (s.core c).nextId r n a p
  let s1 := s.setCore c ((s.core c).addRun (s.fillSlots c p x.block x))
  (if p.isStatic then s1.scheduleArrival c x.id else s1.at n (.pourRequest c x.id)).at (x.removal p x.block)
    (.blockRemoval c x.id x.block)

section
variable {s : State} {c r n : Nat} {a : Access} {p : PourDesc} (hp : (s.core c).descOf (pourDescNo r) = some p)
include hp

theorem State.acceptPour_eq : s.acceptPour c a r n = (s.slotsMeet c p (pourBlock r)).startPour c a r n p := by
  unfold State.acceptPour
  rw [hp]
  rfl

theorem State.startPour_run (fresh : ∀ y, y ∈ (s.core c).runs → y.id ≠ (s.core c).nextId) :
    let id := (s.core c).nextId
    let t := s.startPour c a r n p
    ∃ x : PourRun, { x with arrivals := 0, books := [], tables := [] } = newPour id r n a p ∧
      t.core c = (s.core c).addRun x ∧ OnlyCore s t c ∧ Later s t ∧
      ⟨max (n + p.get 256 32) s.gcount, .blockRemoval c id (pourBlock r)⟩ ∈ t.agenda ∧
      (wordSpace p.src ≠ 1 → ⟨max n s.gcount, .pourRequest c id⟩ ∈ t.agenda) := by
  intro id t
  let x := s.fillSlots c p (pourBlock r) (newPour id r n a p)
  have rest : { x with books := [], tables := [] } = newPour id r n a p :=
    s.fillSlots_rest c p (pourBlock r) (newPour id r n a p)
  have hid : x.id = id := congrArg PourRun.id rest
  have fresh' : ∀ y, y ∈ (s.core c).runs → y.id ≠ x.id := hid ▸ fresh
  let u := s.setCore c ((s.core c).addRun x)
  have ucore : u.core c = (s.core c).addRun x := State.core_setCore ..
  have removal : (newPour id r n a p).removal p (pourBlock r) = n + p.get 256 32 := Nat.add_sub_cancel ..
  let v := if p.isStatic then u.scheduleArrival c id else u.at n (.pourRequest c id)
  have started : ∃ m, v.core c = (s.core c).addRun { x with arrivals := x.arrivals + m } ∧ OnlyCore u v c ∧ Later u v ∧
      (p.isStatic = false → ⟨max n s.gcount, .pourRequest c id⟩ ∈ v.agenda) := by
    by_cases static : p.isStatic = true
    · have pour : (u.core c).pour id = some (x, p) := by
        rw [ucore, ← hid]
        exact pour_addRun fresh' ((congrArg (s.core c).descOf (congrArg PourRun.desc rest)).trans hp)
      obtain ⟨m, core, only, later⟩ := State.scheduleArrival_run pour
      rw [show v = u.scheduleArrival c id from if_pos static]
      refine ⟨m, ?_, only, later, fun h => absurd static (by simp [h])⟩
      rw [core, ucore, ← hid, modRun_addRun fresh']
    · rw [show v = u.at n (.pourRequest c id) from if_neg static]
      exact ⟨0, ucore, .at .., .at .., fun _ => (State.mem_at ..).2 (.inr rfl)⟩
  obtain ⟨m, core, only, later, request⟩ := started
  have run : t = v.at (n + p.get 256 32) (.blockRemoval c id (pourBlock r)) := by rw [← removal]; rfl
  have first : Later s u := ⟨rfl, fun _ h => h⟩
  rw [run]
  refine ⟨{ x with arrivals := x.arrivals + m }, ?_, core, ((OnlyCore.setCore s c _).trans only).trans (.at ..),
    (first.trans later).trans (.at ..), ?_, fun h => (Later.at ..).agenda _ (request (decide_eq_false h))⟩
  · exact congrArg (fun y : PourRun => { y with arrivals := 0 }) rest
  · rw [State.mem_at, (first.trans later).gcount]
    exact .inr rfl

end

end Sys2Proof.Machine
end

section
/-! The accesses of a compute context and the engine commands as a whole (R160, R177, R178, R182). -/

namespace Sys2Proof.Machine
open Sys2Proof.Safety

section
variable {s : State} {c id : Nat} {a : Access}

theorem pourBusy_iff {k : Core} {intake n : Nat} : k.pourBusy intake n = true ↔
    ∃ y, y ∈ k.runs ∧ y.intake = intake ∧ y.closed = false ∧ y.start ≤ n ∧
      ∃ p, sget none k.pours y.desc = some p ∧ n ≤ y.removal p (p.nblk - 1) := by
  simp only [Core.pourBusy, List.any_eq_true, Bool.and_eq_true, decide_eq_true_eq, Bool.not_eq_true', and_assoc]
  refine exists_congr fun y => and_congr_right fun _ => and_congr_right fun _ => and_congr_right fun _ =>
    and_congr_right fun _ => ?_
  unfold Core.descOf
  cases sget none k.pours y.desc <;> simp

end

/-- Settles O15: each access by its opening, each command by its check that fails or by what its acceptance starts. -/
theorem accessIssue : Obligations.AccessIssue := by
  refine ⟨fun s g v idx f r kr sa n x hg hon hfw hv hx => ?_, fun s c id kind a ha hc hop hbad hfresh => ?_⟩
  · intro k base at_ opens
    have engine : ∀ {i : Instr} {code : Nat}, exec i s = engineOp i g code sa s → i.wf = g.ok →
        opens i 0 128 (at_ 128) 2 2 (.command code) := fun hi wi => engineOp_answers hi ⟨wi.trans hg, hon⟩
    have plain : ∀ {i : Instr} {code len addr first last : Nat} {op : BankOp},
        exec i s = .next (s.access code (rangeBanks addr len) addr first last op) → opens i code len addr first last op :=
      access_answers
    refine ⟨plain ?_, plain ?_, plain ?_, plain ?_, plain ?_, plain ?_, fun hf => ?_,
      engine (exec_copy s) rfl, engine (exec_pour s) rfl, engine (exec_take s) rfl, engine (exec_cred s) rfl,
      engine (exec_caxpy s) rfl, engine (exec_cfill s) rfl, engine (exec_put s) rfl, engine (exec_get s) rfl⟩
    · exact (exec_vld s).trans (Eq.trans (runOp_on _ ⟨hg, hon⟩) (withV_some _ hv))
    · exact (exec_vst s).trans (Eq.trans (runOp_on _ ⟨hg, hon⟩) (withV_some _ hv))
    · exact (exec_sld s).trans (Eq.trans (runOp_on _ ⟨hg, hon⟩) (if_neg (by simp [hfw])))
    · rw [show k.rs r.toNat = s.rs r.toNat from (rs_compute hfw _).symm]
      exact (exec_sst s).trans (Eq.trans (runOp_on _ ⟨hg, hon⟩) (if_neg (by simp [hfw])))
    · exact (exec_ldsc s).trans (runOp_on _ ⟨hg, hon⟩)
    · exact (exec_stsc s).trans (runOp_on _ ⟨hg, hon⟩)
    · have hgather : (g.ok && clsGather f) = true := by simp [hg, hf]
      have on : Enabled (.vgth g f v sa idx) false g s ∧ Enabled (.vsct g f v sa idx) false g s :=
        ⟨⟨hgather, hon⟩, hgather, hon⟩
      refine ⟨access_answers ?_, access_answers ?_⟩
      · rw [exec_vgth, execVgth, runOp_on _ on.1, withV_some _ hv, withV_some _ hx]; rfl
      · rw [exec_vsct, execVsct, runOp_on _ on.2, withV_some _ hv, withV_some _ hx]; rfl
  · intro g k h r start T gone here heatId late traps starts bar legal passes inPour count tiles
    have trapped : ∀ {cls cause : Nat}, s.command c a kind = s.commandTrap c a cls cause → traps cls cause :=
      command_traps ha hc hop hbad
    have nothing : s.command c a kind = s → starts { k with acc := gone } [] := fun e =>
      command_starts ha hc hop hbad e rfl (.refl s) (.refl s c)
    refine ⟨fun hf => nothing (State.command_stopped hf), fun hf hl => trapped (State.command_late hf hl),
      fun hf hl hb => trapped (State.command_illegal hf hl hb), fun hkind bad hlegal => ?fields, ?copyBusy, ?copy, ?pourBusy,
      ?pour, ?takeNone, ?take, ?crucible, ?dynamic⟩
    case fields =>
      obtain ⟨hk, high, zeros⟩ := commandLegal_fields hkind hlegal
      exact bad.elim (· hk) (Or.elim · (· high) (· zeros))
    case copyBusy =>
      rintro hp rfl busy
      exact trapped (command_copy_busy hp (copyBusy_iff.2 busy))
    case copy =>
      rintro hp rfl free
      have accepted := command_copy hp fun busy => by
        obtain ⟨y, hy, low, high⟩ := copyBusy_iff.1 busy
        exact (free y hy).elim (Nat.not_lt.2 low) (Nat.not_le.2 high)
      have apart : copyOverlaps r = false → s.command c a 0x10 = s.acceptCopy c a r T := fun ho =>
        accepted.trans (if_neg (Bool.eq_false_iff.1 ho))
      refine ⟨fun ho => trapped (accepted.trans (if_pos ho)), fun ho hz => nothing ((apart ho).trans (if_pos hz)),
        fun ho hz => ?_⟩
      intro x
      exact command_starts_at (k := { k with copies := k.copies ++ [x], nextId := k.nextId + 1 }) ha hc hop hbad
        ((apart ho).trans (if_neg hz))
    case pourBusy =>
      rintro hp rfl busy
      exact trapped ((State.command_passed hp).trans (if_pos (pourBusy_iff.2 busy)))
    case pour =>
      rintro hp rfl free
      have accepted := (State.command_passed hp).trans (if_neg fun busy => by
        obtain ⟨y, hy, found⟩ := pourBusy_iff.1 busy
        exact free y hy found)
      obtain ⟨-, -, hlegal⟩ := hp
      obtain ⟨p, hdesc, -⟩ := pourLegal_rec hlegal
      refine ⟨p, hdesc, command_answers ha hc hop hbad ?_⟩
      rw [accepted.trans (State.acceptPour_eq hdesc)]
      have meets := Meets.slotsMeet s c p (pourBlock r)
      obtain ⟨runs, next, pours, -⟩ := meets.keeps c
      obtain ⟨x, hx, core, only, later, removal, request⟩ := State.startPour_run (n := T) (a := a)
        ((congrArg (fun l => sget none l (pourDescNo r)) pours).trans hdesc) (runs.symm ▸ next.symm ▸ hfresh)
      rw [next] at hx
      rw [next, meets.gcount] at removal request
      exact ⟨x, (State.core_modCore ..).trans ((congrArg (Core.closeAccess · id) core).trans
          (meets.closeAccess_addRun c id x)), only.trans (.modCore ..), later.agenda, removal, request,
        congrArg PourRun.id hx, congrArg PourRun.intake hx, congrArg PourRun.desc hx,
        (congrArg PourRun.start hx).trans (newPour_start ..), congrArg PourRun.block hx, congrArg PourRun.next hx,
        congrArg PourRun.asked hx, congrArg PourRun.bar hx, congrArg PourRun.got hx, congrArg PourRun.takes hx,
        congrArg PourRun.closed hx, congrArg PourRun.issue hx, congrArg PourRun.pos hx, congrArg PourRun.seg hx⟩
    case takeNone =>
      rintro hp rfl none
      exact trapped (command_take_none hp none)
    case take =>
      rintro x hp rfl found
      obtain ⟨mem, intake, desc, opened, next, hremoval⟩ := takeRun_some found
      refine ⟨mem, intake, desc, opened, next, hremoval, ?_⟩
      rw [← show wordAddr (fld r 192 64) = fld r 192 60 from fld_fld r 192 64 0 60 (by decide)]
      exact command_starts ha hc hop hbad (command_take_some hp found) (State.core_modCore ..)
        ((Adds.refl s).of_agenda rfl) (.modCore ..)
    case crucible =>
      intro hp hkind
      obtain ⟨e, hlegal⟩ := command_crucible hkind hp
      obtain ⟨-, hlen, hrange⟩ := crucLegal_rec hlegal
      obtain ⟨pa, hpa⟩ := pinnedRange_first (by omega) hrange
      have target : wordAddr (crucTgt (s.commandRecord c a)) = fld r 128 60 := fld_fld r 128 64 0 60 (by decide)
      refine ⟨newCrucible k.nextId kind c r T pa a, ?_, rfl, rfl, rfl, rfl, rfl, newCrucible_start .., target ▸ hpa,
        rfl, rfl, rfl, rfl⟩
      exact command_starts ha hc hop hbad (e.trans (State.acceptCruc_eq hpa)) (State.core_setCore ..)
        (((Adds.setCore s c _).at_max T).at_max T) (((OnlyCore.setCore s c _).trans (.at ..)).trans (.at ..))
    case dynamic =>
      intro hp hkind x
      exact command_starts_at (k := { k with dyn := k.dyn ++ [x], nextId := k.nextId + 1 }) ha hc hop hbad
        (command_dynamic hkind hp)

end Sys2Proof.Machine
end

section
/-! The MEM operations of a firmware context begin (R176, R202, R203). -/

namespace Sys2Proof.Machine
open Sys2Proof.Safety

/-- A firmware context that waits for its MEM operation, issued in cycle `g` (R176). -/
def FwCtx.waitsFor (g : Nat) (i : Instr) (addr value : Word64) (f : FwCtx) : FwCtx :=
  { f with mode := .waiting, mem := some { instr := i, pos := f.pos, addr := addr, value := value, issued := g } }

/-- A MEM operation of a firmware context at its issue: the context waits for its completion, which lies ahead. -/
theorem fwMemOp_answers {s : State} {i : Instr} {addr value : Word64} (hi : exec i s = s.fwMemOp i addr value) :
    let c := s.cur.core
    Answers i s (fun t => (t.core c = { s.core c with fw := (s.core c).fw.waitsFor s.gcount i addr value } ∧
        ∀ d, d ≠ c → t.core d = s.core d) ∧
      (∃ n, s.gcount + 1 ≤ n ∧ Adds s t [{ at_ := n, instr := .firmwareAccessComplete c }]) ∧
      { t with cores := s.cores, agenda := s.agenda, choice := s.choice } = s) := by
  intro c
  obtain ⟨n, hn, adds, -⟩ := sometime_later (s := s) (t := s.modFw (FwCtx.waitsFor s.gcount i addr value)) 1
    (.firmwareAccessComplete c) rfl rfl rfl
  refine ⟨_, hi, ⟨?_, fun d hd => ?_⟩, ⟨n, hn, adds⟩, rfl⟩
  · exact (State.core_later ..).trans (State.core_modCore ..)
  · exact (State.core_later ..).trans (State.core_modCore_ne _ _ _ _ hd)

/-- Settles O18: each operation at its issue is one that its context waits for. -/
theorem firmwareMemoryIssue : Obligations.FirmwareMemoryIssue := by
  intro s g r sa scope hok hon hfw hscope c k waits completes
  have on : ∀ {i : Instr}, i.wf = g.ok → Enabled i false g s := fun h => ⟨h.trans hok, hon⟩
  have addr : s.fwAddr sa = k.fw.rs sa.toNat := rs_firmware hfw _
  have begins : ∀ {i : Instr} (v : Word64), exec i s = s.fwMemOp i (s.fwAddr sa) v → completes i v := fun _ h =>
    fwMemOp_answers (addr ▸ h)
  refine ⟨begins 0 ?_, begins _ ?_, begins 0 ?_, begins 0 ?_, begins 0 ?_, begins 0 ?_, ?_⟩
  · exact ((exec_sld s).trans (runOp_on _ (on rfl))).trans (if_pos hfw)
  · exact ((exec_sst s).trans (runOp_on _ (on rfl))).trans ((if_pos hfw).trans (by rw [rs_firmware hfw]))
  · exact (exec_qrd s).trans (runOp_on _ (on rfl))
  · exact (exec_kscan s).trans (runOp_on _ (on rfl))
  · exact (exec_kclr s).trans (runOp_on _ (on rfl))
  · exact (exec_japp s).trans (runOp_on _ (on rfl))
  · have onFence : Enabled (.fence g scope) false g s := ⟨by simp [Instr.wf, hok, hscope], hon⟩
    obtain ⟨hcore, hadds, honly⟩ := modCore_at s c (fun k => { k with fw := k.fw.waitsFor s.gcount (.fence g scope) 0 0 })
      (.fenceRelease c true) (Nat.le_add_right s.gcount 1)
    exact ⟨_, ((exec_fence s).trans (runOp_on _ onFence)).trans (if_pos hfw), ⟨hcore, honly.2⟩, hadds, honly⟩

end Sys2Proof.Machine
end

section
/-! A post on a barrier (R199, R200). -/

namespace Sys2Proof.Machine
open Sys2Proof.Safety

/-- A barrier without an entry has nothing to apply either, so `Quiet` speaks of every barrier. -/
theorem settleBar_of_quiet {s : State} {c : Nat} (hq : Quiet s c) (b : Nat) : s.settleBar c b = s := by
  by_cases hb : b ∈ (s.core c).bar.map Prod.fst
  · exact settleBar_quiet hq hb
  · have absent : (s.core c).rb b = barrierReset := sget_absent _ _ _ (by
      rw [List.any_eq_false]
      rintro ⟨m, x⟩ hm he
      exact hb (List.mem_map.mpr ⟨_, hm, of_decide_eq_true he⟩))
    unfold State.settleBar
    rw [absent]
    exact if_neg (by simp [barrierReset])

/-- A barrier touched in cycle `g`: its update of that cycle grows (R200). -/
def Barrier.touched (b : Barrier) (g : Nat) (delta : Int) (post : Bool) : Barrier :=
  { b with at_ := g, delta := b.delta + delta, post := b.post || post }

/-- A barrier with no update of an earlier cycle is touched. -/
theorem touchBar_of_quiet {s : State} {c : Nat} (hq : Quiet s c) (b : Nat) (delta : Int) (post : Bool) :
    s.touchBar c b delta post =
      (s.modCore c (fun k => k.wb b (((s.core c).rb b).touched s.gcount delta post))).atOnce (s.gcount + 1) (.resultLand c) := by
  rw [State.touchBar, settleBar_of_quiet hq]
  rfl

/-- A barrier with a post once the cycle is over (R199): the count grows, and a count of zero completes the phase. -/
theorem settled_of_post {b : Barrier} (h : b.post = true) :
    b.settled.count = b.count + BitVec.ofInt 48 b.delta ∧
      (b.settled.count = 0 → b.settled.phase = !b.phase ∧ b.settled.posted = false ∧ b.settled.doneAt = some b.at_) ∧
      (b.settled.count ≠ 0 → b.settled.phase = b.phase ∧ b.settled.posted = true ∧ b.settled.doneAt = b.doneAt) := by
  simp only [Barrier.settled, h, Bool.or_true, Bool.true_and, Bool.true_or, Bool.and_true]
  split
  · next hz => exact ⟨rfl, fun _ => ⟨rfl, rfl, rfl⟩, fun hne => absurd (of_decide_eq_true hz) hne⟩
  · next hz => exact ⟨rfl, fun hc => absurd (decide_eq_true hc) hz, fun _ => ⟨rfl, rfl, rfl⟩⟩

/-- The update of a core does not look at the agenda. -/
theorem State.modCore_atOnce (s : State) (c n : Nat) (i : Instr) (f : Core → Core) :
    (s.atOnce n i).modCore c f = (s.modCore c f).atOnce n i := by
  by_cases h : s.agenda.any (fun e => decide (e.at_ = n) && decide (e.instr = i)) = true
  · rw [State.atOnce, if_pos h]
    exact (if_pos h).symm
  · rw [State.atOnce, if_neg h]
    exact (if_neg h).symm

/-- The core once the results due in cycle `g` have left the list of those under way. -/
def Core.withoutDue (k : Core) (g : Nat) : Core := { k with pend := k.pend.filter (fun x => decide (g < x.at_)) }

/-- A post that lands alone touches its barrier and nothing else (R26, R200). -/
theorem resultLand_post {s : State} {c b n : Nat} {p : Pending} (h : DueAlone s c p) (hg : p.gufl = false)
    (he : p.eff = .post b n) :
    exec (.resultLand c) s = .next ((s.setCore c (((s.core c).withoutDue s.gcount).wb b
      (((s.core c).rb b).touched s.gcount n true))).atOnce (s.gcount + 1) (.resultLand c)) := by
  obtain ⟨hq, hdue⟩ := h
  have hn : p.noStep := by simp [Pending.noStep, he]
  have start : s.modCore c (fun k => { k with pend := k.pend.filter (fun x => decide (s.gcount < x.at_)) }) =
      s.setCore c ((s.core c).withoutDue s.gcount) := rfl
  have quiet : Quiet (s.setCore c ((s.core c).withoutDue s.gcount)) c := by
    unfold Quiet
    rw [State.core_setCore]
    exact hq
  have clean : ∀ k : Core, k.writtenReg p = k := fun k => by simp [Core.writtenReg, writtenOf, he]
  have lands : ∀ t : State, t.applyEff c p = (t.modCore c id).touchBar c b n true := fun t => by
    unfold State.applyEff
    rw [accError_sound (hn.sound _)]
    simp only [clean, hg, he]
    rfl
  have alone : [p].filter (fun p => !(s.core c).voidStep p) = [p] := by simp [hn.voidStep]
  have won : [p].filter (wins [p]) = [p] := by simp [wins_alone]
  have ordered : [p].filter isClear ++ [p].filter (fun p => !isClear p) = [p] := by simp [isClear, he]
  rw [exec_resultLand]
  simp only [execResultLand, settleAll_quiet hq, hdue, alone, won, ordered, List.foldl_cons, List.foldl_nil, start, lands,
    hn.dropStep, State.modCore_setCore, id, touchBar_of_quiet quiet, State.modCore_atOnce, State.core_setCore]
  simp [wins_alone]
  rfl

/-- Settles O30: a post that lands alone adds to the update of its barrier's cycle, which is applied once the cycle is over. -/
theorem barrierPost : Obligations.BarrierPost := by
  intro s c b n p h hg he old
  have hcore := (State.core_atOnce (s.setCore c (((s.core c).withoutDue s.gcount).wb b (old.touched s.gcount n true)))
    (s.gcount + 1) (.resultLand c) c).trans (State.core_setCore ..)
  have read : ∀ m, ((((s.core c).withoutDue s.gcount).wb b (old.touched s.gcount n true)).rb m) =
      if m = b then old.touched s.gcount n true else (s.core c).rb m := fun m => Core.rb_wb ..
  obtain ⟨count, zero, nonzero⟩ := settled_of_post (b := old.touched s.gcount n true) (Bool.or_true _)
  refine ⟨_, resultLand_post h hg he, (OnlyCore.setCore ..).trans (.atOnce ..), (Adds.setCore s c _).atOnce (Nat.le_succ _),
    fun m hm => ?_, ?_⟩
  · rw [hcore, read, if_neg hm]
  · rw [hcore, read, if_pos rfl]
    exact ⟨rfl, Bool.or_true _, rfl, count, zero, nonzero⟩

end Sys2Proof.Machine
end

section
/-! The accesses of a firmware context on its data memory complete (R176, R202, R203, R327). -/

namespace Sys2Proof.Machine
open Sys2Proof.Safety

/-! The context goes on. -/

/-- A firmware context whose MEM operation is over and whose next bundle is due in cycle `n` (R176). -/
def FwCtx.goesOn (n : Nat) (f : FwCtx) : FwCtx := { f with mem := none, mode := .running, due := n }

/-- A context that waits goes on at cycle `n`. -/
theorem State.fwResumeAt_answers {s : State} {c n : Nat} (hmode : (s.core c).fw.mode = .waiting) (hn : s.gcount ≤ n) :
    (s.fwResumeAt c n).core c = { s.core c with fw := (s.core c).fw.goesOn n } ∧
      AddsOrWakes s (s.fwResumeAt c n) c [{ at_ := n, instr := .firmwareBundleIssue c }] ∧ OnlyCore s (s.fwResumeAt c n) c := by
  have hrun : s.fwResumeAt c n =
      (s.modFwOf c (fun f => { f with mem := none, mode := .running })).scheduleFw c n := by
    simp only [State.fwResumeAt, State.fwOf, hmode, State.modFwOf, State.modCore_modCore]
  obtain ⟨hcore, hadds, honly⟩ :=
    (s.modFwOf c (fun f => { f with mem := none, mode := .running })).scheduleFw_answers (c := c) hn
  rw [hrun]
  exact ⟨hcore.trans (by rw [State.modFwOf, State.core_modCore]; rfl), hadds, (OnlyCore.modCore s c _).trans honly⟩

/-- What an access leaves when it has made the firmware context of core `c` into `x` and the state into `u`: the context goes on in
the next cycle, and the rest is that of `u`. -/
theorem State.fwResume_ends {s u : State} {c : Nat} {x : FwCtx} (hcore : u.core c = { s.core c with fw := x })
    (hothers : ∀ d, d ≠ c → u.core d = s.core d) (hagenda : u.agenda = s.agenda) (hnow : u.gcount = s.gcount)
    (hmode : x.mode = .waiting) :
    ((u.fwResume c).core c = { s.core c with fw := x.goesOn (s.gcount + 1) } ∧
      (∀ d, d ≠ c → (u.fwResume c).core d = s.core d) ∧
      AddsOrWakes s (u.fwResume c) c [{ at_ := s.gcount + 1, instr := .firmwareBundleIssue c }]) ∧
      ({ u.fwResume c with cores := s.cores, agenda := s.agenda } : State) = { u with cores := s.cores, agenda := s.agenda } := by
  have hwait : (u.core c).fw.mode = .waiting := by rw [hcore]; exact hmode
  obtain ⟨gocore, ⟨more, only⟩, goframe, goothers⟩ := State.fwResumeAt_answers hwait (Nat.le_succ u.gcount)
  rw [hcore] at gocore
  rw [hagenda] at more only
  rw [← hnow]
  exact ⟨⟨gocore, fun d hd => (goothers d hd).trans (hothers d hd), more, only⟩,
    congrArg (fun v : State => { v with cores := s.cores, agenda := s.agenda }) goframe⟩

/-! Bytes that a firmware context writes (R327). -/

/-- The data memory after a run of bytes from `a` up, those to 0x7F48 and beyond discarded (R327). -/
def FwCtx.stored (f : FwCtx) (a : Nat) (bs : List Byte) : Memory :=
  f.dmem.writeList ((((List.range bs.length).map (fun i => (a + i) % 2 ^ 15)).zip bs).filter (fun p => decide (p.1 < 0x7F48)))

theorem State.fwWrite_eq (s : State) (c a : Nat) (bs : List Byte) :
    s.fwWrite c a bs = s.modFwOf c (fun f => { f with dmem := f.stored a bs }) := rfl

theorem Memory.read_writeList_out (l : List (Nat × Byte)) (m : Memory) (x : Nat) (h : ∀ p ∈ l, p.1 ≠ x) :
    (m.writeList l).read x = m.read x := by
  induction l generalizing m with
  | nil => rfl
  | cons p l ih =>
    exact (ih (m.write p.1 p.2) fun q hq => h q (List.mem_cons_of_mem _ hq)).trans
      (Memory.read_write_ne _ _ _ _ (h p List.mem_cons_self).symm)

/-- A run of bytes written one by one is read back. -/
theorem Memory.read_writeList_run (bs : List Byte) (m : Memory) (a : Nat) {i : Nat} (hi : i < bs.length) :
    (m.writeList ((List.range' a bs.length).zip bs)).read (a + i) = bs[i] := by
  induction bs generalizing m a i with
  | nil => exact absurd hi (Nat.not_lt_zero i)
  | cons b bs ih =>
    have step : m.writeList ((List.range' a (b :: bs).length).zip (b :: bs)) =
        (m.write a b).writeList ((List.range' (a + 1) bs.length).zip bs) := rfl
    rw [step]
    cases i with
    | zero =>
      refine (Memory.read_writeList_out _ _ _ fun p hp => ?_).trans (Memory.read_write_same m a b)
      have := List.mem_range'_1.mp (List.of_mem_zip hp).1
      omega
    | succ i =>
      have := ih (m.write a b) (a + 1) (Nat.lt_of_succ_lt_succ hi)
      rwa [Nat.add_assoc, Nat.add_comm 1 i] at this

section
variable (f : FwCtx) {a : Nat} {bs : List Byte}

/-- The addresses of a run within the data memory. -/
theorem fwAddrs_eq (ha : a + bs.length ≤ 2 ^ 15) :
    (List.range bs.length).map (fun i => (a + i) % 2 ^ 15) = List.range' a bs.length := by
  rw [List.range'_eq_map_range]
  refine List.map_congr_left fun i hi => Nat.mod_eq_of_lt ?_
  have := List.mem_range.mp hi
  omega

theorem FwCtx.stored_out (ha : a + bs.length ≤ 2 ^ 15) {x : Nat} (hx : x < a ∨ a + bs.length ≤ x) :
    (f.stored a bs).read x = f.dmem.read x := by
  refine Memory.read_writeList_out _ _ _ fun p hp => ?_
  rw [fwAddrs_eq ha] at hp
  have := List.mem_range'_1.mp (List.of_mem_zip (List.mem_filter.mp hp).1).1
  omega

theorem FwCtx.stored_in (ha : a + bs.length ≤ 0x7F48) {i : Nat} (hi : i < bs.length) :
    (f.stored a bs).read (a + i) = bs[i] := by
  have all : ((List.range' a bs.length).zip bs).filter (fun p => decide (p.1 < 0x7F48)) = (List.range' a bs.length).zip bs := by
    refine List.filter_eq_self.mpr fun p hp => decide_eq_true ?_
    have := List.mem_range'_1.mp (List.of_mem_zip hp).1
    omega
  rw [FwCtx.stored, fwAddrs_eq (by omega), all]
  exact Memory.read_writeList_run bs f.dmem a hi

/-- A word written to the data memory is read back (R327). -/
theorem FwCtx.stored_word (v : Nat) (ha : a + 8 ≤ 0x7F48) :
    natOf ((List.range 8).map (fun i => (f.stored a (bytesOf 8 v)).read (a + i))) = v % 2 ^ 64 := by
  have bytes : (List.range 8).map (fun i => (f.stored a (bytesOf 8 v)).read (a + i)) = bytesOf 8 v := by
    refine List.ext_getElem (by simp) fun i h1 h2 => ?_
    rw [List.getElem_map, List.getElem_range]
    exact f.stored_in (by simpa using ha) h2
  rw [bytes, natOf_bytesOf, show 256 ^ 8 = 2 ^ 64 by norm_num]

end

/-! The operations. -/

/-- An operation that writes its firmware context, in the state `u` that it leaves otherwise, and is over: the context goes on. -/
theorem State.fwResume_modFwOf {s u : State} {c : Nat} {h : FwCtx → FwCtx} (hcores : u.cores = s.cores)
    (hagenda : u.agenda = s.agenda) (hnow : u.gcount = s.gcount) (hmode : (h (s.core c).fw).mode = .waiting) :
    let t := (u.modFwOf c h).fwResume c
    (t.core c = { s.core c with fw := (h (s.core c).fw).goesOn (s.gcount + 1) } ∧
      (∀ d, d ≠ c → t.core d = s.core d) ∧ AddsOrWakes s t c [{ at_ := s.gcount + 1, instr := .firmwareBundleIssue c }]) ∧
      ({ t with cores := s.cores, agenda := s.agenda } : State) = { u with cores := s.cores, agenda := s.agenda } := by
  have same : ∀ d, u.core d = s.core d := fun d => congrArg (fun l => sget coreReset l d) hcores
  refine State.fwResume_ends (u := u.modFwOf c h) (x := h (s.core c).fw) ?_ (fun d hd => ?_) hagenda hnow hmode
  · rw [State.modFwOf, State.core_modCore, same]
  · rw [State.modFwOf, State.core_modCore_ne _ _ _ _ hd, same]

@[simp] theorem FwCtx.mode_ws (f : FwCtx) (n : Nat) (v : Word64) : (f.ws n v).mode = f.mode := by
  unfold FwCtx.ws
  split <;> rfl

section
variable {s : State} {c : Nat} {m : FwMem} {g : Gate} {r : SReg} {sa : StreamReg}

/-- What completes is the MEM operation that the context waits for; its data memory has no error here (R203). -/
theorem firmwareAccessComplete_eq (hmem : (s.core c).fw.mem = some m) (hbad : (s.core c).fw.badD = []) :
    let f := (s.core c).fw
    let a := m.addr.toNat % 2 ^ 15 / 8 * 8
    let b := m.addr.toNat % 2 ^ 15 / 32 * 32
    let word := fun (x : Nat) => natOf ((List.range 8).map (fun i => f.dmem.read (x + i)))
    let w := fun (i : Nat) => word (b + 8 * i)
    let completes := fun (t : State) => exec (.firmwareAccessComplete c) s = .next t
    (m.instr = .sld g r sa → m.addr.getLsbD 63 = false → completes (s.fwLoaded c r (word a))) ∧
    (m.instr = .sst g r sa → m.addr.getLsbD 63 = false →
      completes ((s.fwWrite c a (bytesOf 8 m.value.toNat)).fwResume c)) ∧
    (m.instr = .qrd g sa → completes (s.doQrd c b (w 0) (w 1))) ∧
    (m.instr = .kscan g sa → completes (s.doKscan c b (w 0))) ∧
    (m.instr = .kclr g sa → completes (s.doKclr c b (w 0))) ∧
    (m.instr = .japp g sa → completes (s.doJapp c b (w 0 % 2 ^ 15) (w 1) m.pos)) := by
  intro f a b word w completes
  have clean : ∀ x n, (s.core c).fw.badData x n = none := fun x n => by simp [FwCtx.badData, hbad]
  refine ⟨fun hi hl => ?_, fun hi hl => ?_, fun hi => ?_, fun hi => ?_, fun hi => ?_, fun hi => ?_⟩
  all_goals
    refine (exec_firmwareAccessComplete s).trans ?_
    simp only [execFirmwareAccessComplete, State.fwOf, hmem, hi, clean, Memory.readNat_eq]
  · simp only [hl]
    rfl
  · simp only [hl]
    rfl
  all_goals rfl

end

/-- `KSCAN` answers with all ones when no queue from `first` on is kicked, and with the first one otherwise (R203). -/
theorem State.doKscan_none {s : State} {first : Nat} (c b : Nat) (h : ∀ i, i ∈ s.fe.kick → i < first) :
    s.doKscan c b first = s.fwAnswer c b 1 (2 ^ 64 - 1) := by
  have none_above : s.fe.kick.find? (fun i => decide (first ≤ i)) = none := by
    rw [List.find?_eq_none]
    exact fun i hi => by simpa using h i hi
  rw [State.doKscan, none_above]
  rfl

theorem State.doKscan_some {s : State} {first i : Nat} (c b : Nat) {l rest : List Nat} (hkick : s.fe.kick = l ++ i :: rest)
    (hl : ∀ j, j ∈ l → j < first) (hi : first ≤ i) : s.doKscan c b first = s.fwAnswer c b 1 i := by
  have first_above : s.fe.kick.find? (fun i => decide (first ≤ i)) = some i := by
    rw [List.find?_eq_some_iff_append]
    exact ⟨by simpa using hi, l, rest, hkick, fun j hj => by simpa using hl j hj⟩
  rw [State.doKscan, first_above]
  rfl

/-- `KCLR` takes its queue out of those that are kicked and answers whether it was one (R203, R322). -/
theorem State.doKclr_within {s : State} {i : Nat} (c b : Nat) (h : i < 2048) : s.doKclr c b i =
    State.fwAnswer { s with fe := { s.fe with kick := setIndex s.fe.kick i false } } c b 1 (if i ∈ s.fe.kick then 1 else 0) := by
  rw [State.doKclr, if_neg (not_le.mpr h)]
  simp only [bit, List.contains_iff_mem]

/-- Settles O34: each access writes its context's memory or a register and ends. -/
theorem firmwareAccess : Obligations.FirmwareAccess := by
  intro s c m g r sa hmem hmode hlocal hbad k f a b word w on ends frame answers done
  obtain ⟨hsld, hsst, hqrd, hkscan, hkclr, hjapp⟩ := firmwareAccessComplete_eq (g := g) (r := r) (sa := sa) hmem hbad
  -- an answer in word `n` of the block
  have answered : ∀ {u : State} {n v : Nat}, n ≤ 2 → u.cores = s.cores → u.agenda = s.agenda → u.gcount = s.gcount →
      answers n v (u.fwAnswer c b n v) ∧ ({ u.fwAnswer c b n v with cores := s.cores, agenda := s.agenda } : State) =
        { u with cores := s.cores, agenda := s.agenda } := by
    intro u n v hn hcores hagenda hnow
    obtain ⟨hends, hframe⟩ := State.fwResume_modFwOf (c := c)
      (h := fun f => { f with dmem := f.stored (b + 8 * n) (bytesOf 8 v) }) hcores hagenda hnow hmode
    refine ⟨⟨_, hends, fun hlow => f.stored_word v ?_, fun x hx => f.stored_out ?_ ?_⟩, hframe⟩
    · omega
    · simp only [length_bytesOf]; omega
    · simpa using hx
  have answersAs : ∀ {n v : Nat} {t : State}, n ≤ 2 → exec (.firmwareAccessComplete c) s = .next t →
      t = s.fwAnswer c b n v → done (fun t => answers n v t ∧ frame t) := fun hn hrun ht =>
    ⟨_, ht ▸ hrun, answered hn rfl rfl rfl⟩
  refine ⟨fun hi => ?_, fun hi => ?_, fun hi hq => ?_, fun hi hq he => ?_, fun hi hnone => ?_, fun l i rest hi hkick hl hw => ?_,
    fun hi hq => ?_, fun hi hq => ?_, fun hi hn => ?_, fun scope hi => ?_⟩
  · exact ⟨_, hsld hi hlocal, State.fwResume_modFwOf (u := s)
      (h := fun x => x.ws r.toNat (BitVec.ofNat 64 (word f.dmem a))) rfl rfl rfl ((FwCtx.mode_ws ..).trans hmode)⟩
  · obtain ⟨hends, hframe⟩ := State.fwResume_modFwOf (s := s) (u := s) (c := c)
      (h := fun f => { f with dmem := f.stored a (bytesOf 8 m.value.toNat) }) rfl rfl rfl hmode
    refine ⟨_, hsst hi hlocal, hframe, _, hends, fun hlow => ?_, fun x hx => f.stored_out ?_ ?_⟩
    · exact (f.stored_word _ (by omega)).trans (Nat.mod_eq_of_lt m.value.isLt)
    · simp only [length_bytesOf]; omega
    · simpa using hx
  · exact answersAs le_rfl (hqrd hi) (if_pos hq)
  · exact answersAs le_rfl (hqrd hi) ((if_neg (not_le.mpr hq)).trans (if_pos he))
  · exact answersAs (by decide) (hkscan hi) (State.doKscan_none c b hnone)
  · exact answersAs (by decide) (hkscan hi) (State.doKscan_some c b hkick hl hw)
  · exact answersAs (by decide) (hkclr hi) (if_pos hq)
  · obtain ⟨hans, hframe⟩ := answered (u := { s with fe := { s.fe with kick := setIndex s.fe.kick (w 0) false } })
      (n := 1) (v := if w 0 ∈ s.fe.kick then 1 else 0) (by decide) rfl rfl rfl
    have hfe := congrArg State.fe hframe
    refine ⟨_, (hkclr hi).trans (congrArg Host.Outcome.next (State.doKclr_within c b hq)), hans, ?_, fun q hne => ?_,
      congrArg (fun t : State => { t with fe := s.fe }) hframe, congrArg (fun x : FrontEnd => { x with kick := s.fe.kick }) hfe⟩
    · exact fun hmem => ((mem_setIndex_off ..).mp (congrArg FrontEnd.kick hfe ▸ hmem)).1 rfl
    · exact Iff.trans (Eq.to_iff (congrArg (q ∈ FrontEnd.kick ·) hfe)) ((mem_setIndex_off ..).trans (and_iff_right hne))
  · exact answersAs le_rfl (hjapp hi) (if_pos hn)
  · obtain ⟨hcore, hadds, honly⟩ := State.fwResumeAt_answers hmode le_rfl
    refine ⟨_, (exec_fenceRelease s).trans ?_, ⟨hcore, honly.2, hadds⟩, honly.1⟩
    simp only [execFenceRelease, State.fwOf, hmem, hi]
    rfl

end Sys2Proof.Machine
end

section
/-! A crucible command is sent and joins its bank's queue (R192, R193, R239, R242, R289). -/

namespace Sys2Proof.Machine
open Sys2Proof.Safety

/-! Crucible commands in the list. -/

theorem crucOf_id {k : Core} {id : Nat} {x : CrucCmd} (h : k.crucOf id = some x) : x.id = id := by
  simpa using List.find?_some h

theorem modCruc_crucOf {k : Core} {id j : Nat} (f : CrucCmd → CrucCmd) (hf : ∀ y, (f y).id = y.id) :
    (k.modCruc id f).crucOf j = (k.crucOf j).map (fun y => if y.id = id then f y else y) := by
  have keeps : (fun y : CrucCmd => decide (y.id = j)) ∘ (fun y => if y.id = id then f y else y) = fun y => decide (y.id = j) := by
    funext y
    by_cases hy : y.id = id <;> simp [hy, hf]
  simp only [Core.crucOf, Core.modCruc, List.find?_map, keeps]

theorem dropCruc_crucOf (k : Core) (id : Nat) : (k.dropCruc id).crucOf id = none := by
  simp [Core.crucOf, Core.dropCruc]

theorem crucDelay_eq (c ch : Nat) : crucDelay c ch = if c / 64 = ch / 96 then 24 else 64 := by
  rw [crucDelay, chanDie, Nat.div_div_eq_div_mul]

theorem wordAddr_crucData (r : Nat) : wordAddr (crucData r) = fld r 192 60 := fld_fld r 192 64 0 60 (by decide)

/-! The sending (R192, R193). -/

/-- The command of a core as it is sent, its data read (R193). -/
def Core.sendCruc (k : Core) (id : Nat) (data : List Byte) (arrives : Nat) : Core :=
  (k.dropAcc (.crucData id)).modCruc id (fun x => { x with data := data, sent := true, arrival := arrives })

theorem sendCruc_crucOf {k : Core} {id : Nat} {x : CrucCmd} (h : k.crucOf id = some x) (data : List Byte) (arrives : Nat) :
    (k.sendCruc id data arrives).crucOf id = some { x with data := data, sent := true, arrival := arrives } := by
  refine (modCruc_crucOf _ (by exact fun _ => rfl)).trans ?_
  rw [show (k.dropAcc (.crucData id)).crucOf id = some x from h, Option.map_some, if_pos (crucOf_id h)]

section
variable {s : State} {c id : Nat} {x : CrucCmd} (hx : (s.core c).crucOf id = some x)
include hx

theorem crucibleSend_stopped (h : s.begins c x.start = false) :
    exec (.crucibleSend c id .occupy) s = .next (s.modCore c (fun k => k.dropCruc id)) := by
  rw [exec_crucibleSend, execCrucibleSend, hx]
  simp [h]

theorem crucibleSend_fill (h : s.begins c x.start = true) (hk : x.kind = 0x15) :
    exec (.crucibleSend c id .occupy) s = .next s := by
  rw [exec_crucibleSend, execCrucibleSend, hx]
  simp [h, hk]

theorem crucibleSend_occupies (h : s.begins c x.start = true) (hk : x.kind ≠ 0x15) :
    let data := fld x.rec_.toNat 192 60
    exec (.crucibleSend c id .occupy) s = .next (s.engineAccess c x.issue x.pos x.seg
      (rangeBanks data (crucLen x.rec_.toNat)) data s.gcount (.crucData id)) := by
  rw [exec_crucibleSend, execCrucibleSend, hx]
  simp [h, hk, wordAddr_crucData]

theorem crucibleSend_void (hv : (s.core c).voided (.crucData id) = true) : exec (.crucibleSend c id .perform) s =
    .next (s.modCore c (fun k => (k.dropAcc (.crucData id)).dropCruc id)) := by
  rw [exec_crucibleSend, execCrucibleSend, hx]
  simp [hv]

/-- The state in which a command has read its data, with the trap of a byte in error (R239). -/
def State.crucReads (s : State) (c : Nat) (x : CrucCmd) : State :=
  let data := fld x.rec_.toNat 192 60
  if x.kind = 0x15 then s
  else s.spadReadError c (fun y => decide (data ≤ y) && decide (y < data + crucLen x.rec_.toNat)) (some (x.pos, x.seg))

/-- The data of a command (R192). -/
def State.crucBytes (s : State) (c : Nat) (x : CrucCmd) : List Byte :=
  if x.kind = 0x15 then [] else (s.core c).load (fld x.rec_.toNat 192 60) (crucLen x.rec_.toNat)

theorem crucibleSend_sends (hv : (s.core c).voided (.crucData id) = false) :
    let arrives := s.gcount + (if c / 64 = paChannel x.pa / 96 then 24 else 64)
    exec (.crucibleSend c id .perform) s = .next (((s.crucReads c x).modCore c
      (fun k => k.sendCruc id (s.crucBytes c x) arrives)).at arrives (.crucibleArrival c id)) := by
  rw [exec_crucibleSend, execCrucibleSend, hx]
  simp only [hv, wordAddr_crucData, crucDelay_eq]
  rfl

/-- What the sending leaves, in a state `u` that differs from `s` by the trap of a byte in error at most (R193). -/
theorem crucibleSend_sent {u : State} (hu : Meets s u) :
    let arrives := s.gcount + (if c / 64 = paChannel x.pa / 96 then 24 else 64)
    let t := (u.modCore c (fun k => k.sendCruc id (s.crucBytes c x) arrives)).at arrives (.crucibleArrival c id)
    ({ at_ := arrives, instr := .crucibleArrival c id } : Event) ∈ t.agenda ∧ (t.core c).spad = (s.core c).spad ∧
      (t.core c).spanTrap = (u.core c).spanTrap ∧
      (t.core c).crucOf id = some { x with data := s.crucBytes c x, sent := true, arrival := arrives } := by
  intro arrives t
  obtain ⟨q, f, b, hcore⟩ := hu.core c
  have mine : t.core c = (u.core c).sendCruc id (s.crucBytes c x) arrives :=
    (State.core_at ..).trans (State.core_modCore ..)
  refine ⟨(State.mem_at ..).mpr (.inr ?_), ?_, (congrArg Core.spanTrap mine :), ?_⟩
  · rw [State.modCore_gcount, hu.gcount, Nat.max_eq_left (Nat.le_add_right ..)]
  · rw [mine, hcore]
    rfl
  · rw [mine, hcore]
    exact sendCruc_crucOf hx ..

/-- The bytes that a command reads, one of them with an uncorrectable error (R239). -/
def Core.SpoiltData (k : Core) (x : CrucCmd) (y : Nat) : Prop :=
  y ∈ k.badSpad ∧ fld x.rec_.toNat 192 60 ≤ y ∧ y < fld x.rec_.toNat 192 60 + crucLen x.rec_.toNat

omit hx in
theorem crucReads_clean (h : x.kind = 0x15 ∨ ∀ y, ¬(s.core c).SpoiltData x y) : s.crucReads c x = s := by
  rw [State.crucReads]
  split
  · rfl
  · next hk =>
    refine spadReadError_clean _ fun y hy => ?_
    have clean := (h.resolve_left hk) y
    by_contra hr
    simp only [Bool.not_eq_false, Bool.and_eq_true, decide_eq_true_eq] at hr
    exact clean ⟨hy, hr⟩

omit hx in
theorem crucReads_bad (hk : x.kind ≠ 0x15) (h : ∃ y, (s.core c).SpoiltData x y) : ∃ t, s.crucReads c x = s.raiseTrap c t := by
  obtain ⟨y, hy, hlo, hhi⟩ := h
  rw [State.crucReads, if_neg hk]
  cases hf : (s.core c).badSpad.find? (fun y => decide (fld x.rec_.toNat 192 60 ≤ y) &&
      decide (y < fld x.rec_.toNat 192 60 + crucLen x.rec_.toNat)) with
  | none => simpa [hlo, hhi] using List.find?_eq_none.mp hf y hy
  | some z => exact ⟨_, spadReadError_bad _ hf⟩

/-! The arrival (R193, R242, R289). -/

/-- The command arrives after the stop of its core's work (R242). -/
def State.ArrivesLate (s : State) (c : Nat) : Prop := ∃ S, s.workStop c = some S ∧ S < s.gcount

theorem crucibleArrival_late (h : s.ArrivesLate c) :
    exec (.crucibleArrival c id) s = .next (s.modCore c (fun k => k.dropCruc id)) := by
  obtain ⟨S, hS, hlt⟩ := h
  rw [exec_crucibleArrival, execCrucibleArrival, hx]
  simp [hS, hlt]

theorem crucibleArrival_inTime (h : ¬s.ArrivesLate c) :
    let ch := paChannel x.pa
    let b := paBank x.pa
    let bank := s.bank ch b
    exec (.crucibleArrival c id) s = .next (if 16 ≤ bank.queue.length then
        (s.modCore c (fun k => k.dropCruc id)).raiseTrap (chanCore ch)
          ⟨6, 2, 0, none, timelineDetail (s.heatCycle c) 0 b ch 32⟩
      else s.setBank ch b { bank with queue := s.enqueue x bank.queue }) := by
  intro ch b bank
  have inTime : ∀ S, s.workStop c = some S → ¬S < s.gcount := fun S hS hlt => h ⟨S, hS, hlt⟩
  rw [exec_crucibleArrival, execCrucibleArrival, hx]
  cases hS : s.workStop c with
  | none =>
    simp only [Bool.false_eq_true, if_false]
    split <;> rfl
  | some S =>
    simp only [inTime S hS, decide_false, Bool.false_eq_true, if_false]
    split <;> rfl
end

/-- An entry of a queue that stays before a command that joins it (R193). -/
def State.goesBefore (s : State) (x : CrucCmd) (e : Nat × Nat) : Bool :=
  match s.crucAt e with
  | some y => crucBefore y x
  | none => true

/-- A command stands in its bank's queue behind those that come before it (R193). -/
theorem enqueue_split (s : State) (x : CrucCmd) (q : List (Nat × Nat)) : ∃ u v, q = u ++ v ∧
    s.enqueue x q = u ++ (x.core, x.id) :: v ∧
    (∀ e y, e ∈ u → s.crucAt e = some y → crucBefore y x = true) ∧
    ∀ e w, v = e :: w → ∃ y, s.crucAt e = some y ∧ crucBefore y x = false := by
  refine ⟨q.takeWhile (s.goesBefore x), q.dropWhile (s.goesBefore x), List.takeWhile_append_dropWhile.symm,
    List.append_assoc .., fun e y he hy => ?_, fun e w hw => ?_⟩
  · have := List.mem_takeWhile_imp he
    simpa only [State.goesBefore, hy] using this
  · have head : s.goesBefore x e = false := by
      have := List.head_dropWhile_not (s.goesBefore x) (l := q) (by simp [hw])
      simpa only [hw, List.head_cons] using this
    cases hy : s.crucAt e with
    | none => simp only [State.goesBefore, hy, Bool.true_eq_false] at head
    | some y => exact ⟨y, rfl, by simpa only [State.goesBefore, hy] using head⟩

/-- The fields of the detail of a queue overflow (R289). -/
theorem timelineDetail_fields (cycle : Int) (entry ch : Nat) (he : entry < 2 ^ 32) :
    let d := timelineDetail cycle 0 entry ch 32
    fld d 0 64 = cycle64 cycle ∧ fld d 151 9 = ch % 512 ∧ fld d 96 32 = entry ∧ fld d 160 8 = 32 := by
  have low : cycle64 cycle < 2 ^ 64 := wrapInt_lt ..
  have prior : wrapInt 40 0 = 0 := by decide
  simp only [timelineDetail, prior, fld]
  omega

end Sys2Proof.Machine
end

section
/-! What a crucible command does to the memory: its extent (R192), and the errors that it reads (R239, R299). -/

namespace Sys2Proof.Machine
open Sys2Proof.Safety

/-! What a trap leaves of the memory. -/

/-- The HBM and its channels are as they were. -/
structure SameHbm (s t : State) : Prop where
  hbm : t.hbm = s.hbm
  lines : t.lines = s.lines
  chans : t.chans = s.chans

theorem SameHbm.refl (s : State) : SameHbm s s := ⟨rfl, rfl, rfl⟩

theorem SameHbm.trans {s t u : State} (h : SameHbm s t) (k : SameHbm t u) : SameHbm s u :=
  ⟨k.hbm.trans h.hbm, k.lines.trans h.lines, k.chans.trans h.chans⟩

theorem SameHbm.atOnce (s : State) (n : Nat) (i : Instr) : SameHbm s (s.atOnce n i) := ⟨by simp, by simp, by simp⟩

theorem SameHbm.modCore (s : State) (c : Nat) (f : Core → Core) : SameHbm s (s.modCore c f) := ⟨rfl, rfl, rfl⟩

theorem SameHbm.pokeFw (s : State) (c : Nat) : SameHbm s (s.pokeFw c) := by
  unfold State.pokeFw
  dsimp only
  split
  · exact .atOnce ..
  · exact .refl s

theorem SameHbm.traceRaw (s : State) (die g core typ cut heat payload : Nat) :
    SameHbm s (s.traceRaw die g core typ cut heat payload) := by
  unfold State.traceRaw
  dsimp only
  split
  · exact ⟨rfl, rfl, rfl⟩
  · exact .refl s

theorem SameHbm.foldl_modCore (f : Core → Core) (l : List Nat) (s : State) :
    SameHbm s (l.foldl (fun s d => s.modCore d f) s) := by
  induction l generalizing s with
  | nil => exact .refl s
  | cons d l ih => exact (SameHbm.modCore s d f).trans (ih _)

theorem SameHbm.fixStop (s : State) (p : Nat) (l : List Nat) (e : Option Nat) : SameHbm s (s.fixStop p l e) :=
  have h := SameHbm.foldl_modCore _ _ _
  ⟨h.hbm, h.lines, h.chans⟩

theorem SameHbm.heatTrap (s : State) (c cls : Nat) : SameHbm s (s.heatTrap c cls) := by
  unfold State.heatTrap
  dsimp only
  split
  case h_1 => exact .fixStop ..
  case h_2 =>
    split
    · exact ⟨rfl, rfl, rfl⟩
    · exact .fixStop ..
  case h_3 | h_4 | h_5 | h_6 =>
    split
    · exact ⟨by simp, by simp, by simp⟩
    · exact .refl s
  case h_7 | h_8 =>
    split
    · split
      · exact ⟨by simp, by simp, by simp⟩
      · exact .refl s
    · exact .refl s

theorem SameHbm.recordTrap (s : State) (c : Nat) (stop : Int) (t : TrapInfo) : SameHbm s (s.recordTrap c stop t) := by
  unfold State.recordTrap
  dsimp only
  split
  · exact .refl s
  · exact (((SameHbm.modCore s c _).trans (.modCore _ c _)).trans ((SameHbm.modCore _ c _).trans (.pokeFw ..))).trans (.traceRaw ..)

theorem SameHbm.raiseTrap (s : State) (c : Nat) (t : TrapInfo) : SameHbm s (s.raiseTrap c t) :=
  have h : SameHbm s (s.takeTrap c t) := (SameHbm.heatTrap s c t.cls).trans (.recordTrap ..)
  ⟨h.hbm, h.lines, h.chans⟩

/-! The errors of an extent (R239, R299). -/

/-- A range of HBM meets a line that cannot be read (R299). -/
def State.ReadsBadLine (s : State) (pa n : Nat) : Prop :=
  ∃ i, pa < 64 * i + 64 ∧ 64 * i < pa + n ∧ (s.tagGood i = false ∨ s.lineBad i = true)

theorem hbmFault_eq_none_iff (s : State) (pa : Nat) {n : Nat} (hn : 0 < n) : s.hbmFault pa n = none ↔ ¬s.ReadsBadLine pa n := by
  have line : ∀ i, (if (!s.tagGood i) = true then some (⟨9, 1, 0, none, 64 * i⟩ : TrapInfo)
      else if s.lineBad i = true then some ⟨8, 3, 0, none, 64 * i⟩ else none) = none ↔
        ¬(s.tagGood i = false ∨ s.lineBad i = true) := by
    intro i
    cases s.tagGood i <;> cases s.lineBad i <;> simp
  rw [State.hbmFault, List.findSome?_eq_none_iff]
  simp only [line, List.mem_range, if_neg (Nat.pos_iff_ne_zero.mp hn)]
  constructor
  · rintro h ⟨i, hlo, hhi, hbad⟩
    refine h (i - pa / 64) (by omega) ?_
    rwa [show pa / 64 + (i - pa / 64) = i by omega]
  · exact fun h i hi hbad => h ⟨pa / 64 + i, by omega, by omega, hbad⟩

/-! The extent (R192). -/

@[simp] theorem length_crucExtent (x : CrucCmd) (old : List Byte) :
    (crucExtent x old).length = crucLen x.rec_.toNat := length_bytesOf ..

/-- The format of a command's elements (R191). -/
def CrucCmd.fmt (x : CrucCmd) : Nat := if x.kind = 0x15 then 10 else crucFmt x.rec_.toNat

/-- Element j of a command's extent once it has taken effect (R192). -/
def CrucCmd.elemAfter (x : CrucCmd) (old : List Byte) (j : Nat) : Nat :=
  let r := x.rec_.toNat
  let w := fmtWidth x.fmt
  crucElem x.kind x.fmt (crucOp r) (crucParam r) (elem w (natOf old) j) (elem w (natOf x.data) j)

/-- A byte of an extent is one of its element. -/
theorem crucExtent_byte (x : CrucCmd) (old : List Byte) {w n j i : Nat} (hw : fmtWidth x.fmt = w) (hn : crucLen x.rec_.toNat = n)
    (hwidth : 8 * (w / 8) = w) (hj : j < 8 * n / w) (hi : i < w / 8) (h : w / 8 * j + i < (crucExtent x old).length) :
    (crucExtent x old)[w / 8 * j + i].toNat = elem 8 (x.elemAfter old j % 2 ^ w) i := by
  subst hw hn
  have bytes := getElem_bytesOf (crucLen x.rec_.toNat) (packList (fmtWidth x.fmt) (List.zipWith
    (crucElem x.kind x.fmt (crucOp x.rec_.toNat) (crucParam x.rec_.toNat))
    (elems (fmtWidth x.fmt) (8 * crucLen x.rec_.toNat / fmtWidth x.fmt) (natOf old))
    (elems (fmtWidth x.fmt) (8 * crucLen x.rec_.toNat / fmtWidth x.fmt) (natOf x.data)))) _ h
  refine bytes.trans ?_
  rw [elem_elem _ _ _ _ hwidth hi, elem_packList _ _ _ (by simpa using hj), List.getElem_zipWith, getElem_elems, getElem_elems]
  rfl

/-- The elements of a fill, of an accumulation and of the reductions (R192). -/
theorem elemAfter_eq (x : CrucCmd) (old : List Byte) (j : Nat) (hk : x.kind ∈ [0x13, 0x14, 0x15]) :
    let f := x.fmt
    let y := elem (fmtWidth f) (natOf old) j
    let v := elem (fmtWidth f) (natOf x.data) j
    let param := crucParam x.rec_.toNat
    x.elemAfter old j =
      if x.kind = 0x15 then param
      else if x.kind = 0x14 then roundTo f 0 (xadd 0 (xmul (widen 10 param) (widen f v)) (widen f y))
      else if crucOp x.rec_.toNat = 0 then (if f = 2 then (y + v) % 2 ^ 32 else roundTo f 0 (xadd 0 (widen f y) (widen f v)))
      else if crucOp x.rec_.toNat = 1 then fmtPick f true y v else fmtPick f false y v := by
  intro f y v param
  have unfolded : x.elemAfter old j = crucElem x.kind f (crucOp x.rec_.toNat) param y v := rfl
  rw [unfolded]
  simp only [List.mem_cons, List.not_mem_nil, or_false] at hk
  rcases hk with hk | hk | hk
  · rw [hk]
    match crucOp x.rec_.toNat with
    | 0 | 1 | _ + 2 => rfl
  · rw [hk]
    rfl
  · rw [hk]
    rfl

/-- The bytes of HBM after a store, within its range and outside it. -/
theorem hbmStore_read (s : State) (pa : Nat) (bs : List Byte) :
    (∀ a, (a < pa ∨ pa + bs.length ≤ a) → (s.hbmStore pa bs).hbm.read a = s.hbm.read a) ∧
      ∀ i (h : i < bs.length), (s.hbmStore pa bs).hbm.read (pa + i) = bs[i] :=
  ⟨fun a h => Memory.read_writeBytes_out s.hbm pa bs a h, fun i h => Memory.read_writeBytes_in s.hbm pa bs i h⟩

end Sys2Proof.Machine
end

section
/-! A crucible command takes effect in its bank's window (R193, R195, R242, R296, R298), and with it the crucible commands as a
whole. -/

namespace Sys2Proof.Machine
open Sys2Proof.Safety

/-! Banks of a channel. -/

theorem State.bank_setBank (s : State) (ch b : Nat) (x : Bank) : (s.setBank ch b x).bank ch b = x := by
  rw [State.bank, State.setBank, State.chan_setChan]
  exact sget_sset_same ..

theorem State.bank_setBank_ne (s : State) (ch b : Nat) (x : Bank) {d : Nat} (h : d ≠ b) :
    (s.setBank ch b x).bank ch d = s.bank ch d := by
  rw [State.bank, State.setBank, State.chan_setChan]
  exact sget_sset_ne _ _ b d x h

/-- Of the whole state only bank `b` of channel `ch` and the agenda differ, and nothing ahead is lost. -/
structure OnlyBank (s t : State) (ch b : Nat) : Prop where
  rest : { t with chans := s.chans, agenda := s.agenda } = s
  chans : ∀ d, d ≠ ch → t.chan d = s.chan d
  banks : ∀ d, d ≠ b → t.bank ch d = s.bank ch d
  agenda : ∀ e, e ∈ s.agenda → e ∈ t.agenda

theorem OnlyBank.refl (s : State) (ch b : Nat) : OnlyBank s s ch b := ⟨rfl, fun _ _ => rfl, fun _ _ => rfl, fun _ h => h⟩

theorem OnlyBank.setBank (s : State) (ch b : Nat) (x : Bank) : OnlyBank s (s.setBank ch b x) ch b :=
  ⟨rfl, fun d hd => State.chan_setChan_ne _ _ d _ hd, fun _ hd => State.bank_setBank_ne _ _ _ _ hd, fun _ h => h⟩

theorem OnlyBank.setBank_at (s : State) (ch b : Nat) (x : Bank) (n : Nat) (i : Instr) :
    OnlyBank s ((s.setBank ch b x).at n i) ch b :=
  have h := OnlyBank.setBank s ch b x
  ⟨h.rest, h.chans, h.banks, fun _ he => (State.mem_at ..).mpr (.inl he)⟩

theorem OnlyBank.core {s t : State} {ch b : Nat} (h : OnlyBank s t ch b) (d : Nat) : t.core d = s.core d :=
  (congrArg (fun x : State => sget coreReset x.cores d) h.rest :)

/-! The next command of a bank's crucible (R296). -/

/-- The crucible of a bank goes on with an operation of its own at most: it writes in the bank the cycle in which that ends. -/
theorem crucNext_frame (s : State) (ch b n : Nat) : OnlyBank s (s.crucNext ch b n) ch b ∧
    ∃ e, (s.crucNext ch b n).bank ch b = { s.bank ch b with busy := e } := by
  have same : OnlyBank s s ch b ∧ ∃ e, s.bank ch b = { s.bank ch b with busy := e } := ⟨.refl .., _, rfl⟩
  have busy : ∀ (e : Nat) (i : Instr), OnlyBank s ((s.setBank ch b { s.bank ch b with busy := e }).at e i) ch b ∧
      ∃ e', ((s.setBank ch b { s.bank ch b with busy := e }).at e i).bank ch b = { s.bank ch b with busy := e' } :=
    fun e i => ⟨.setBank_at .., e, State.bank_setBank ..⟩
  unfold State.crucNext
  dsimp only
  split
  · exact same
  · split
    · split
      · exact busy ..
      · split
        · exact same
        · split
          · exact busy ..
          · exact same
    · split
      · exact same
      · split
        · exact busy ..
        · exact same

/-- The next command of the queue that arrived by the window's first cycle and ends within the window starts. -/
theorem crucNext_command {s : State} {ch b n first last z : Nat} {e : Nat × Nat} {v : List (Nat × Nat)} {y : CrucCmd}
    (hwindow : (s.bank ch b).window = some (first, last)) (hqueue : (s.bank ch b).queue = e :: v) (hy : s.crucAt e = some y)
    (harrived : y.arrival ≤ first) (hz : n + (crucLen y.rec_.toNat + 255) / 256 = z) (hends : z ≤ last) :
    s.crucNext ch b n = (s.setBank ch b { s.bank ch b with busy := z }).at z (.crucibleExecute ch b) := by
  have hcycles : n + crucCycles y.rec_.toNat - 1 = z := by rw [crucCycles]; omega
  simp only [State.crucNext, hwindow, hqueue, hy, Option.bind_some, harrived, if_true, hcycles, hends]

/-! The commands of a core once one has taken effect in a window that ends at `last`. -/

/-- A command whose window is not over (R195). -/
def CrucCmd.kept (g : Nat) (y : CrucCmd) : Bool :=
  match y.fin with
  | some f => decide (g ≤ f)
  | none => true

/-- Command `id` has taken effect, and those whose window is over are forgotten. -/
def Core.endCruc (k : Core) (id last g : Nat) : Core :=
  { k with cruc := (k.modCruc id (fun y => { y with fin := some last })).cruc.filter (CrucCmd.kept g) }

theorem find?_filter_of_find? {α : Type} {p q : α → Bool} {l : List α} {x : α} (h : l.find? p = some x) (hx : q x = true) :
    (l.filter q).find? p = some x := by
  obtain ⟨hp, u, v, rfl, hu⟩ := List.find?_eq_some_iff_append.mp h
  rw [List.filter_append, List.filter_cons_of_pos hx]
  exact List.find?_eq_some_iff_append.mpr ⟨hp, _, _, rfl, fun a ha => hu a (List.mem_filter.mp ha).1⟩

theorem endCruc_crucOf {k : Core} {id last g : Nat} {x : CrucCmd} (hx : k.crucOf id = some x) (hg : g ≤ last) :
    (k.endCruc id last g).crucOf id = some { x with fin := some last } := by
  have here : (k.modCruc id (fun y => { y with fin := some last })).crucOf id = some { x with fin := some last } := by
    refine (modCruc_crucOf _ (by exact fun _ => rfl)).trans ?_
    rw [hx, Option.map_some, if_pos (crucOf_id hx)]
  exact find?_filter_of_find? here (decide_eq_true hg)

theorem endCruc_crucOf_ne {k : Core} {id j last g : Nat} {y : CrucCmd} (hy : k.crucOf j = some y) (hne : j ≠ id)
    (hfin : y.fin = none) : (k.endCruc id last g).crucOf j = some y := by
  have here : (k.modCruc id (fun y => { y with fin := some last })).crucOf j = some y := by
    refine (modCruc_crucOf _ (by exact fun _ => rfl)).trans ?_
    rw [hy, Option.map_some, if_neg (by rw [crucOf_id hy]; exact hne)]
  exact find?_filter_of_find? here (by rw [CrucCmd.kept, hfin])

/-! The execution (R296, R298). -/

/-- What the execution of a command leaves, whatever it did to the memory: the queue without it, its mark, the release of fences
and the start of the next command (R195, R296). -/
def CrucLeaves (s t : State) (ch b c id last : Nat) (first : Nat) (rest : List (Nat × Nat)) (x : CrucCmd) : Prop :=
  (t.bank ch b).queue = rest ∧ (t.bank ch b).window = (s.bank ch b).window ∧
  (∀ d, d ≠ b → t.bank ch d = s.bank ch d) ∧ (∀ d, d ≠ ch → t.chan d = s.chan d) ∧
  (t.core c).crucOf id = some { x with fin := some last } ∧
  (∃ e, e ∈ t.agenda ∧ e.instr = .cfenceRelease c ∧ e.at_ = last + 1) ∧
  ∀ e v y, rest = e :: v → e ≠ (c, id) → (s.core e.1).crucOf e.2 = some y → y.fin = none → y.arrival ≤ first →
    let z := s.gcount + 1 + (fld y.rec_.toNat 256 11 + 255) / 256
    z ≤ last → (t.bank ch b).busy = z ∧ ({ at_ := z, instr := .crucibleExecute ch b } : Event) ∈ t.agenda

section
variable {s : State} {ch b c id first last : Nat} {rest : List (Nat × Nat)} {x : CrucCmd}

/-- A command over, in the state `u` that its effect leaves: it is out of its queue and marked, and a fence looks again behind
the window (R195, R296). -/
def State.crucOver (u s : State) (ch b c id last : Nat) (rest : List (Nat × Nat)) : State :=
  ((u.setBank ch b { s.bank ch b with queue := rest }).modCore c (fun k => k.endCruc id last s.gcount)).atOnce (last + 1)
    (.cfenceRelease c)

/-- What follows the effect of a command: the next one (R296). -/
def State.crucEnds (u s : State) (ch b c id last : Nat) (rest : List (Nat × Nat)) : State :=
  (u.crucOver s ch b c id last rest).crucNext ch b (s.gcount + 1)

theorem crucibleExecute_eq (hwindow : (s.bank ch b).window = some (first, last)) (hqueue : (s.bank ch b).queue = (c, id) :: rest)
    (hbusy : (s.bank ch b).busy = s.gcount) (hx : (s.core c).crucOf id = some x) (hcore : x.core = c)
    (harrived : x.arrival ≤ first) : exec (.crucibleExecute ch b) s =
      .next ((if s.windowRuns ch last then s.crucRun x (crucLen x.rec_.toNat) else s).crucEnds s ch b c id last rest) := by
  have hid := crucOf_id hx
  rw [exec_crucibleExecute]
  simp only [execCrucibleExecute, State.crucEnds, State.crucOver, hwindow, hqueue, hbusy, ne_eq, not_true_eq_false, if_false, State.crucAt, hx, hcore, hid,
    if_neg (not_lt.mpr harrived)]
  rfl

/-- The effect has left the channels and the commands of every core as they were. -/
structure CrucEffect (s u : State) : Prop where
  gcount : u.gcount = s.gcount
  chans : u.chans = s.chans
  cruc : ∀ d, (u.core d).cruc = (s.core d).cruc

theorem CrucEffect.crucOf {u : State} (h : CrucEffect s u) (d j : Nat) : (u.core d).crucOf j = (s.core d).crucOf j := by
  rw [Core.crucOf, h.cruc]
  rfl

/-- What a command over leaves of the banks, the cores and the memory. -/
structure CrucOver (s u v : State) (ch b c id last : Nat) (rest : List (Nat × Nat)) : Prop where
  gcount : v.gcount = s.gcount
  bank : v.bank ch b = { s.bank ch b with queue := rest }
  banks : ∀ d, d ≠ b → v.bank ch d = s.bank ch d
  chans : ∀ d, d ≠ ch → v.chan d = s.chan d
  core : v.core c = (u.core c).endCruc id last s.gcount
  cores : ∀ d, d ≠ c → v.core d = u.core d
  memory : v.hbm = u.hbm ∧ v.lines = u.lines
  fence : ({ at_ := last + 1, instr := .cfenceRelease c } : Event) ∈ v.agenda

theorem CrucEffect.crucOver {u : State} (hu : CrucEffect s u) (hg : s.gcount ≤ last) :
    CrucOver s u (u.crucOver s ch b c id last rest) ch b c id last rest := by
  have chans : ∀ d, u.chan d = s.chan d := fun d => congrArg (fun l => sget channelReset l d) hu.chans
  have same : (u.crucOver s ch b c id last rest).chans = (u.setBank ch b { s.bank ch b with queue := rest }).chans :=
    State.atOnce_chans ..
  have chan : ∀ d, (u.crucOver s ch b c id last rest).chan d = (u.setBank ch b { s.bank ch b with queue := rest }).chan d :=
    fun d => congrArg (fun l => sget channelReset l d) same
  refine ⟨(State.atOnce_gcount ..).trans hu.gcount, ?_, fun d hd => ?_, fun d hd => ?_,
    (State.core_atOnce ..).trans (State.core_modCore ..),
    fun d hd => (State.core_atOnce ..).trans (State.core_modCore_ne _ _ _ _ hd),
    ⟨State.atOnce_hbm .., State.atOnce_lines ..⟩, (State.mem_atOnce _ _ _ _ ?_).mpr (.inr rfl)⟩
  · rw [State.bank, chan]
    exact State.bank_setBank ..
  · rw [State.bank, chan]
    exact (State.bank_setBank_ne _ _ _ _ hd).trans (congrArg (Channel.getBank · d) (chans ch))
  · rw [chan]
    exact (State.chan_setChan_ne _ _ _ _ hd).trans (chans d)
  · show u.gcount ≤ last + 1
    rw [hu.gcount]
    omega

/-- A command that is not over stands with its core as before. -/
theorem CrucOver.crucAt {u v : State} (h : CrucOver s u v ch b c id last rest) (hu : CrucEffect s u) {e : Nat × Nat} {y : CrucCmd}
    (hne : e ≠ (c, id)) (hy : (s.core e.1).crucOf e.2 = some y) (hfin : y.fin = none) : v.crucAt e = some y := by
  rw [State.crucAt]
  by_cases he : e.1 = c
  · rw [he, h.core]
    exact endCruc_crucOf_ne ((hu.crucOf ..).trans (he ▸ hy)) (fun h => hne (Prod.ext he h)) hfin
  · rw [h.cores _ he]
    exact (hu.crucOf ..).trans hy

theorem crucEnds_leaves {u : State} (hu : CrucEffect s u) (hwindow : (s.bank ch b).window = some (first, last))
    (hx : (s.core c).crucOf id = some x) (hg : s.gcount ≤ last) :
    let t := u.crucEnds s ch b c id last rest
    CrucLeaves s t ch b c id last first rest x ∧ t.hbm = u.hbm ∧ t.lines = u.lines ∧
      { t.core c with cruc := (u.core c).cruc } = u.core c ∧ ∀ d, d ≠ c → t.core d = u.core d := by
  have done := hu.crucOver (ch := ch) (b := b) (c := c) (id := id) (rest := rest) hg
  rw [State.crucEnds]
  generalize u.crucOver s ch b c id last rest = v at done
  obtain ⟨frame, e, bank⟩ := crucNext_frame v ch b (s.gcount + 1)
  rw [done.bank] at bank
  refine ⟨⟨?_, ?_, fun d hd => (frame.banks d hd).trans (done.banks d hd), fun d hd => (frame.chans d hd).trans (done.chans d hd),
    ?_, ⟨_, frame.agenda _ done.fence, rfl, rfl⟩, ?_⟩, (congrArg State.hbm frame.rest :).trans done.memory.1,
    (congrArg State.lines frame.rest :).trans done.memory.2, ?_, fun d hd => (frame.core d).trans (done.cores d hd)⟩
  · rw [bank]
  · rw [bank]
  · rw [frame.core, done.core]
    exact endCruc_crucOf ((hu.crucOf ..).trans hx) hg
  · intro e tail y hrest hne hy hfin harrived z hz
    rw [crucNext_command (by rw [done.bank]; exact hwindow) (by rw [done.bank]; exact hrest) (done.crucAt hu hne hy hfin)
      harrived rfl hz]
    refine ⟨(congrArg Bank.busy (State.bank_setBank ..) :), (State.mem_at ..).mpr (.inr ?_)⟩
    show ({ at_ := z, instr := .crucibleExecute ch b } : Event) = { at_ := max z v.gcount, instr := .crucibleExecute ch b }
    rw [done.gcount, Nat.max_eq_left (by omega)]
  · rw [frame.core, done.core]
    rfl

/-! The effect (R192, R239, R299). -/

/-- The extent of a command that meets no line in error is written, and nothing else changes. -/
theorem crucRun_clean {n : Nat} (hn : 0 < n) (h : ¬(s.paStale x.pa = false ∧ s.ReadsBadLine x.pa n)) :
    s.crucRun x n = s.hbmStore x.pa (crucExtent x (s.hbmLoad x.pa n)) := by
  rw [State.crucRun]
  by_cases hs : s.paStale x.pa = true
  · rw [if_pos hs]
  · rw [if_neg hs, (hbmFault_eq_none_iff s x.pa hn).mpr fun hbad => h ⟨by simpa using hs, hbad⟩]

/-- A line in error raises its trap, and the extent is written all the same. -/
theorem crucRun_bad {n : Nat} (hn : 0 < n) (hs : s.paStale x.pa = false) (h : s.ReadsBadLine x.pa n) :
    ∃ t, s.crucRun x n = (s.raiseTrap x.core t).hbmStore x.pa (crucExtent x (s.hbmLoad x.pa n)) := by
  rw [State.crucRun, hs]
  cases hf : s.hbmFault x.pa n with
  | none => exact absurd h ((hbmFault_eq_none_iff s x.pa hn).mp hf)
  | some t => exact ⟨t, rfl⟩

theorem CrucEffect.refl (s : State) : CrucEffect s s := ⟨rfl, rfl, fun _ => rfl⟩

theorem CrucEffect.hbmStore (s : State) (pa : Nat) (bs : List Byte) : CrucEffect s (s.hbmStore pa bs) := ⟨rfl, rfl, fun _ => rfl⟩

theorem CrucEffect.trapped (s : State) (c : Nat) (t : TrapInfo) (pa : Nat) (bs : List Byte) :
    CrucEffect s ((s.raiseTrap c t).hbmStore pa bs) := by
  have meets := Meets.raiseTrap s c t
  refine ⟨meets.gcount, (SameHbm.raiseTrap s c t).chans, fun d => ?_⟩
  obtain ⟨q, f, b, hd⟩ := meets.core d
  exact (congrArg Core.cruc hd :)

/-- The bytes of HBM when an extent has been written over what `s` holds. -/
theorem extentWritten {m : State} {n w : Nat} (hm : m.hbm = s.hbm) (hn : crucLen x.rec_.toNat = n) (hw : fmtWidth x.fmt = w)
    (hwidth : w ∈ [16, 32]) (hlen : n % 4 = 0) :
    let t := m.hbmStore x.pa (crucExtent x (s.hbmLoad x.pa n))
    (∀ a, (a < x.pa ∨ x.pa + n ≤ a) → t.hbm.read a = s.hbm.read a) ∧
      ∀ j i, j < 8 * n / w → i < w / 8 →
        (t.hbm.read (x.pa + w / 8 * j + i)).toNat = elem 8 (x.elemAfter (s.hbmLoad x.pa n) j % 2 ^ w) i := by
  intro t
  obtain ⟨outside, inside⟩ := hbmStore_read m x.pa (crucExtent x (s.hbmLoad x.pa n))
  have length : (crucExtent x (s.hbmLoad x.pa n)).length = n := (length_crucExtent ..).trans hn
  rw [hm, length] at outside
  refine ⟨outside, fun j i hj hi => ?_⟩
  have whole : 8 * (w / 8) = w ∧ w / 8 * j + i < n := by
    simp only [List.mem_cons, List.not_mem_nil, or_false] at hwidth
    rcases hwidth with rfl | rfl <;> omega
  rw [Nat.add_assoc, inside _ (length.symm ▸ whole.2)]
  exact crucExtent_byte x _ hw hn whole.1 hj hi _

end

/-- The window of a bank ends before the quiescent cycle of the heat that runs its channel, if there is one (R242). -/
theorem windowRuns_iff (s : State) (ch last : Nat) : s.windowRuns ch last = true ↔
    ∀ q, (s.heat (if s.mgmt.pmode = 0 then 0 else ch / 96)).quiet = some q → last < q := by
  rw [State.windowRuns, chanDie, Nat.div_div_eq_div_mul]
  cases (s.heat (if s.mgmt.pmode = 0 then 0 else ch / (32 * 3))).quiet <;> simp

/-- Settles O46: the sending, the queue and the window of a command, each as its own lemma says it. -/
theorem crucibleCommands : Obligations.CrucibleCommands := by
  intro s c id x hx k g r n data ch b bank arrives void late f w old new before spoilt badLine sent
  have hbefore : ∀ y, crucBefore y x = true ↔ before y := fun y => by simp [crucBefore, before]
  have notVoid : (∀ y z, y ∈ k.acc → z ∈ k.acc → y.op = z.op → y = z) → ¬void → (s.core c).voided (.crucData id) = false := fun hops hv =>
    Bool.eq_false_iff.mpr fun h => hv ((voided_iff hops _).mp h)
  have isSent : ∀ {u : State}, Meets s u → sent ((u.modCore c (fun k => k.sendCruc id (s.crucBytes c x) arrives)).at arrives
      (.crucibleArrival c id)) := by
    intro u hu
    obtain ⟨event, spad, -, command⟩ := crucibleSend_sent hx hu
    refine ⟨event, spad, _, command, fun hk => if_pos hk, fun hk => ?_⟩
    exact (if_neg hk).trans (Core.load_eq ..)
  refine ⟨fun h => ?_, fun h hk => crucibleSend_fill hx h hk, fun h hk => ?_, fun hops => ⟨fun hv => ?_, fun hv hclean => ?_,
    fun hv hk hbad => ?_⟩, fun hlate => ?_, fun hlate hroom => ?_, fun hlate hfull => ?_, ?_⟩
  · exact ⟨_, crucibleSend_stopped hx h, .modCore .., rfl, State.core_modCore ..⟩
  · exact ⟨_, crucibleSend_occupies hx h hk, engineAccess_only .., engineAccess_adds s c _ _ _ _ _ _ _,
      engineAccess_core ..⟩
  · refine ⟨_, crucibleSend_void hx ((voided_iff hops _).mpr hv), .modCore .., rfl, ?_⟩
    rw [State.core_modCore]
    exact dropCruc_crucOf ..
  · have run := crucibleSend_sends hx (notVoid hops hv)
    rw [crucReads_clean hclean] at run
    exact ⟨_, run, (OnlyCore.modCore ..).trans (.at ..), (Adds.setCore s c _).at (Nat.le_add_right ..), isSent (.refl s)⟩
  · obtain ⟨t, ht⟩ := crucReads_bad hk hbad
    have run := crucibleSend_sends hx (notVoid hops hv)
    rw [ht] at run
    obtain ⟨q, f, trapped, -⟩ := s.raiseTrap_core c t
    exact ⟨_, run, (crucibleSend_sent hx (.raiseTrap s c t)).2.2.1.trans (by rw [trapped]), isSent (.raiseTrap s c t)⟩
  · refine ⟨_, crucibleArrival_late hx hlate, .modCore .., ?_, rfl⟩
    rw [State.core_modCore]
    exact dropCruc_crucOf ..
  · obtain ⟨u, v, hq, henq, hu, hv⟩ := enqueue_split s x bank.queue
    refine ⟨_, (crucibleArrival_inTime hx hlate).trans (congrArg _ (if_neg (not_le.mpr hroom))),
      ⟨rfl, fun d hd => State.chan_setChan_ne _ _ _ _ hd⟩, rfl, fun d hd => State.bank_setBank_ne _ _ _ _ hd, u, v, hq, ?_,
      fun e y he hy => (hbefore y).mp (hu e y he hy), fun e w hw => ?_⟩
    · rw [← henq]
      exact State.bank_setBank ..
    · obtain ⟨y, hy, hnot⟩ := hv e w hw
      exact ⟨y, hy, fun h => Bool.eq_false_iff.mp hnot ((hbefore y).mpr h)⟩
  · have die : chanCore ch = 64 * (ch / 96) := congrArg (64 * ·) (Nat.div_div_eq_div_mul ch 32 3)
    have narrow : b < 2 ^ 32 := Nat.lt_trans (Nat.mod_lt _ (by decide)) (by decide : 2 ^ 5 < 2 ^ 32)
    refine ⟨s.modCore c (fun k => k.dropCruc id), _, .modCore .., ?_, rfl, ?_, timelineDetail_fields (s.heatCycle c) b ch narrow⟩
    · rw [State.core_modCore]
      exact dropCruc_crucOf ..
    · rw [← die]
      exact (crucibleArrival_inTime hx hlate).trans (congrArg _ (if_pos hfull))
  · intro first last rest hwindow hqueue hbusy hcore hid hkind harrived hg hwidth hlen hpos hdata runs leaves writes others
    have run := crucibleExecute_eq hwindow hqueue hbusy hx hcore harrived
    have hruns : s.windowRuns ch last = true ↔ runs := windowRuns_iff ..
    have elements : ∀ j, x.elemAfter (s.hbmLoad x.pa n) j = new j := fun j => by
      rw [elemAfter_eq x _ j hkind, State.hbmLoad, Memory.readBytes_eq]
      rfl
    have written : ∀ {m t : State}, m.hbm = s.hbm → t.hbm = (m.hbmStore x.pa (crucExtent x (s.hbmLoad x.pa n))).hbm → writes t := by
      intro m t hm ht
      obtain ⟨outside, inside⟩ := extentWritten (x := x) (w := w) hm rfl rfl hwidth hlen
      refine ⟨fun a ha => ht ▸ outside a ha, fun j i hj hi => ?_⟩
      rw [ht, ← elements]
      exact inside j i hj hi
    have ends := fun {u : State} (hu : CrucEffect s u) => crucEnds_leaves (rest := rest) hu hwindow hx hg
    refine ⟨fun hr hgood => ?_, fun hr hbad => ?_, fun hr => ?_⟩
    · rw [if_pos (hruns.mpr hr), crucRun_clean (n := crucLen x.rec_.toNat) hpos hgood] at run
      obtain ⟨left, hhbm, -, mine, theirs⟩ := ends (.hbmStore s x.pa _)
      exact ⟨_, run, written rfl hhbm, left, mine, theirs⟩
    · obtain ⟨t, ht⟩ := crucRun_bad (n := crucLen x.rec_.toNat) hpos hbad.1 hbad.2
      rw [if_pos (hruns.mpr hr), ht] at run
      obtain ⟨left, hhbm, -, mine, -⟩ := ends (.trapped s x.core t x.pa _)
      obtain ⟨q, f, trapped, -⟩ := s.raiseTrap_core x.core t
      refine ⟨_, run, written (SameHbm.raiseTrap s x.core t).hbm hhbm, left, (congrArg Core.spanTrap mine :).trans ?_⟩
      rw [← hcore]
      exact (congrArg Core.spanTrap trapped :)
    · rw [if_neg (fun h => hr (hruns.mp h))] at run
      obtain ⟨left, hhbm, hlines, mine, theirs⟩ := ends (.refl s)
      exact ⟨_, run, hhbm, hlines, left, mine, theirs⟩

end Sys2Proof.Machine
end

section
/-! The runs of pours: one run of a core that changes, and what an event leaves of the agenda (R252, R258). -/

namespace Sys2Proof.Machine
open Sys2Proof.Safety

/-! One run of a core. -/

theorem pour_desc {k : Core} {id : Nat} {r : PourRun} {p : PourDesc} (h : k.pour id = some (r, p)) :
    k.descOf r.desc = some p := by
  rw [Core.pour, pour_runOf h] at h
  obtain ⟨q, hq, he⟩ := Option.map_eq_some_iff.1 h
  rw [hq, show q = p from congrArg Prod.snd he]

theorem pour_of_run {k : Core} {id : Nat} {x : PourRun} {p : PourDesc} (hx : k.runOf id = some x)
    (hp : k.descOf x.desc = some p) : k.pour id = some (x, p) := by
  rw [Core.pour, hx]
  exact congrArg (Option.map _) hp

theorem modRun_runOf_ne (k : Core) {id j : Nat} (f : PourRun → PourRun) (hf : ∀ y, (f y).id = y.id) (hj : j ≠ id) :
    (k.modRun id f).runOf j = k.runOf j := by
  have keeps : (fun y : PourRun => decide (y.id = j)) ∘ (fun y => if y.id = id then f y else y) =
      fun y => decide (y.id = j) := by
    funext y
    by_cases hy : y.id = id <;> simp [hy, hf]
  simp only [Core.runOf, Core.modRun, List.find?_map, keeps]
  cases h : k.runs.find? (fun y => decide (y.id = j)) with
  | none => rfl
  | some y =>
    have hy : y.id = j := runOf_id h
    rw [Option.map_some, if_neg (hy ▸ hj)]

/-- Run `id` of core `c` is `x`, and every other run and core is as it was. -/
structure RunBecomes (s t : State) (c id : Nat) (x : PourRun) : Prop where
  run : (t.core c).runOf id = some x
  cores : ∀ d, d ≠ c → t.core d = s.core d
  runs : ∀ j, j ≠ id → (t.core c).runOf j = (s.core c).runOf j

theorem RunBecomes.refl {s : State} {c id : Nat} {x : PourRun} (h : (s.core c).runOf id = some x) : RunBecomes s s c id x :=
  ⟨h, fun _ _ => rfl, fun _ _ => rfl⟩

theorem RunBecomes.modRun {s t : State} {c id : Nat} {x : PourRun} (h : RunBecomes s t c id x) (f : PourRun → PourRun)
    (hf : ∀ y, (f y).id = y.id) : RunBecomes s (t.modRun c id f) c id (f x) := by
  have mine : (t.modRun c id f).core c = (t.core c).modRun id f := State.core_modCore ..
  refine ⟨?_, fun d hd => (State.core_modCore_ne _ _ _ _ hd).trans (h.cores d hd), fun j hj => ?_⟩
  · rw [mine]
    exact modRun_runOf f hf h.run
  · rw [mine, modRun_runOf_ne _ f hf hj]
    exact h.runs j hj

/-- Where the runs stay, so does what has become of one. -/
theorem RunBecomes.of_runs {s t u : State} {c id : Nat} {x : PourRun} (h : RunBecomes s t c id x)
    (hc : (u.core c).runs = (t.core c).runs) (ho : ∀ d, d ≠ c → u.core d = t.core d) : RunBecomes s u c id x := by
  have runOf : ∀ j, (u.core c).runOf j = (t.core c).runOf j := fun j => by rw [Core.runOf, hc]; rfl
  exact ⟨(runOf id).trans h.run, fun d hd => (ho d hd).trans (h.cores d hd), fun j hj => (runOf j).trans (h.runs j hj)⟩

theorem RunBecomes.of_core {s t u : State} {c id : Nat} {x : PourRun} (h : RunBecomes s t c id x)
    (hcore : ∀ d, u.core d = t.core d) : RunBecomes s u c id x :=
  h.of_runs (by rw [hcore]) fun d _ => hcore d

/-- Of core `c` only the runs differ, and of the rest only the agenda and the numbers drawn. -/
structure RunsOnly (s t : State) (c : Nat) : Prop where
  core : { t.core c with runs := (s.core c).runs } = s.core c
  rest : { t with cores := s.cores, agenda := s.agenda, choice := s.choice } = s

theorem RunsOnly.trans {s t u : State} {c : Nat} (h : RunsOnly s t c) (k : RunsOnly t u c) : RunsOnly s u c :=
  ⟨(congrArg (fun x : Core => { x with runs := (s.core c).runs }) k.core).trans h.core,
    (congrArg (fun x : State => { x with cores := s.cores, agenda := s.agenda, choice := s.choice }) k.rest).trans h.rest⟩

theorem RunsOnly.modRun (s : State) (c id : Nat) (f : PourRun → PourRun) : RunsOnly s (s.modRun c id f) c := by
  refine ⟨?_, rfl⟩
  rw [State.modRun, State.core_modCore]
  rfl

theorem RunsOnly.later (s : State) (c n : Nat) (i : Instr) : RunsOnly s (s.later n i) c := ⟨rfl, rfl⟩

theorem RunsOnly.atOnce (s : State) (c n : Nat) (i : Instr) : RunsOnly s (s.atOnce n i) c := by
  unfold State.atOnce
  split
  · exact ⟨rfl, rfl⟩
  · exact ⟨rfl, rfl⟩

/-- A run of a pour that keeps its descriptor. -/
theorem pour_modRun {s : State} {c id : Nat} {r : PourRun} {p : PourDesc} (h : (s.core c).pour id = some (r, p))
    (f : PourRun → PourRun) (hid : ∀ y, (f y).id = y.id) (hdesc : (f r).desc = r.desc) :
    ((s.modRun c id f).core c).pour id = some (f r, p) := by
  rw [State.modRun, State.core_modCore]
  refine pour_of_run (modRun_runOf f hid (pour_runOf h)) ?_
  rw [hdesc]
  exact (show (s.core c).descOf r.desc = some p from pour_desc h)

/-! What an event puts in the agenda (R252, R326, R358). -/

/-- All that is new in the agenda of `t` is such as `P` says. -/
structure NewEvents (P : Instr → Prop) (s t : State) : Prop where
  agenda : ∀ e, e ∈ t.agenda → e ∈ s.agenda ∨ P e.instr

theorem NewEvents.trans {P : Instr → Prop} {s t u : State} (h : NewEvents P s t) (k : NewEvents P t u) : NewEvents P s u :=
  ⟨fun e he => (k.agenda e he).elim (h.agenda e) .inr⟩

/-- A cause is taken or a trace record is written. -/
def FromEvent (i : Instr) : Prop := (∃ c, i = .firmwareCauseTaken c) ∨ ∃ die, i = .traceWrite die

theorem NewEvents.pokeFw (s : State) (c : Nat) : NewEvents FromEvent s (s.pokeFw c) := by
  refine ⟨fun e he => ?_⟩
  unfold State.pokeFw at he
  dsimp only at he
  split at he
  · rw [State.mem_atOnce _ _ _ _ (Nat.le_max_right ..)] at he
    exact he.imp_right fun h => .inl ⟨c, congrArg Event.instr h⟩
  · exact .inl he

theorem NewEvents.traceRaw (s : State) (die g core typ cut heat payload : Nat) :
    NewEvents FromEvent s (s.traceRaw die g core typ cut heat payload) := by
  refine ⟨fun e he => ?_⟩
  unfold State.traceRaw at he
  dsimp only at he
  split at he
  · exact ((State.mem_at ..).mp he).imp_right fun h => .inr ⟨die, congrArg Event.instr h⟩
  · exact .inl he

/-- An event that stops nothing puts no more than that in the agenda. -/
theorem NewEvents.event (s : State) (c typ aux payload tp : Nat) : NewEvents FromEvent s (s.event c typ aux payload tp) := by
  have woken : ∀ k : Core, NewEvents FromEvent s ((s.setCore c k).wake c 2) := fun k => ⟨(NewEvents.pokeFw _ c).agenda⟩
  refine .trans ?_ (.traceRaw ..)
  rw [State.fwStore, State.fwStore, State.modCore_modCore]
  exact woken _

end Sys2Proof.Machine
end

section
/-! The requests of a pour from outside HBM: the next chunk, and a request that had parked (R202, R253, R262, R305, R306). -/

namespace Sys2Proof.Machine
open Sys2Proof.Safety

/-! The next chunk (R262). -/

/-- The bytes of the next chunk. -/
def PourRun.chunkLeft (r : PourRun) (p : PourDesc) : Nat := min p.chunk (p.total - r.asked)

/-- A run that asked for its next chunk. -/
def PourRun.askChunk (r : PourRun) (n : Nat) : PourRun := { r with asked := r.asked + n, flying := r.flying + n }

/-- The run of a pour has counted its next chunk as asked for. -/
def State.countChunk (s : State) (c id : Nat) (r : PourRun) (p : PourDesc) : State :=
  s.modRun c id (fun y => y.askChunk (r.chunkLeft p))

section
variable {s : State} {c id : Nat} {r : PourRun} {p : PourDesc}

/-- Without a byte left to ask for, or without room for the chunk, the intake asks for nothing. -/
theorem requestMore_rests (hp : (s.core c).pour id = some (r, p))
    (h : r.chunkLeft p = 0 ∨ p.cap < r.fullness p + r.flying + r.chunkLeft p) (fuel : Nat) : s.requestMore c id fuel = s := by
  cases fuel with
  | zero => rfl
  | succ fuel =>
    rw [State.requestMore, hp]
    exact if_pos (.inr h)

/-- A stream asked for to its end leaves the intake nothing to do. -/
theorem requestMore_done (hp : (s.core c).pour id = some (r, p)) (h : r.asked = p.total) (fuel : Nat) :
    s.requestMore c id fuel = s :=
  requestMore_rests hp (.inl (by rw [PourRun.chunkLeft, h, Nat.sub_self, Nat.min_zero])) fuel

/-- The next chunk, which has room, is asked for, and the intake goes on. -/
theorem requestMore_asks (hp : (s.core c).pour id = some (r, p)) (hdyn : p.isStatic = false) (hn : 0 < r.chunkLeft p)
    (hroom : r.fullness p + r.flying + r.chunkLeft p ≤ p.cap) (fuel : Nat) :
    let n := r.chunkLeft p
    let u := s.countChunk c id r p
    s.requestMore c id (fuel + 1) = (if wordSpace p.src = 3 then u.askDevice c id p r.asked n false
      else u.later 1 (.pourArrival c id r.asked n)).requestMore c id fuel := by
  intro n u
  have goes : ¬(p.isStatic = true ∨ n = 0 ∨ p.cap < r.fullness p + r.flying + n) := by
    rintro (h | h | h)
    · rw [hdyn] at h
      cases h
    · exact hn.ne' h
    · exact hroom.not_gt h
  rw [State.requestMore, hp]
  exact if_neg goes

theorem pourRequest_flowing (hp : (s.core c).pour id = some (r, p)) (h : s.begins c r.start = true ∧ s.flows c = true) :
    exec (.pourRequest c id) s = .next (s.requestMore c id maxChunks) := by
  rw [exec_pourRequest, execPourRequest, pour_runOf hp]
  exact congrArg _ (if_pos h)

/-! The request to the pooled memory device is sent (R253, R305, R306). -/

/-- A run with one more request. -/
def PourRun.addReq (r : PourRun) (q : PourReq) : PourRun := { r with reqs := r.reqs ++ [q] }

/-- The request for `n` tundish bytes from `off` on, as it leaves: translated, or with a tag to park under. -/
def State.deviceReq (s : State) (c : Nat) (p : PourDesc) (off n : Nat) (again : Bool) : PourReq :=
  let lo := p.streamEnd off
  let len := p.streamEnd (off + n) - lo
  let far := s.extentAddr (s.partOf c) (wordAddr p.src + lo) len
  ⟨off, n, lo, len, far, (s.core c).freeTag, again || far.isNone⟩

theorem askDevice_eq (off n : Nat) (again : Bool) :
    let q := s.deviceReq c p off n again
    let u := s.modRun c id (fun y => y.addReq q)
    s.askDevice c id p off n again = if q.at_.isSome then u.later 1 (.pourArrival c id off n)
      else u.parkEvent c q.tag (wordAddr p.src + p.streamEnd off) := rfl

theorem askDevice_translated {off n : Nat} {again : Bool} {q : PourReq} (hq : s.deviceReq c p off n again = q)
    (h : q.at_ ≠ none) :
    s.askDevice c id p off n again = (s.modRun c id (fun y => y.addReq q)).later 1 (.pourArrival c id off n) := by
  subst hq
  exact (askDevice_eq off n again).trans (if_pos (Option.isSome_iff_ne_none.mpr h))

theorem askDevice_parks {off n : Nat} {again : Bool} {q : PourReq} (hq : s.deviceReq c p off n again = q)
    (h : q.at_ = none) : s.askDevice c id p off n again =
      (s.modRun c id (fun y => y.addReq q)).parkEvent c q.tag (wordAddr p.src + p.streamEnd off) := by
  subst hq
  have parks : ¬(s.deviceReq c p off n again).at_.isSome = true := by
    rw [h]
    exact Bool.false_ne_true
  exact (askDevice_eq off n again).trans (if_neg parks)

/-- A request that parks leaves its run with it, the event cause pending and no arrival ahead (R252, R253). -/
theorem parkEvent_leaves {u : State} {x : PourRun} (h : RunBecomes s u c id x) (hagenda : u.agenda = s.agenda) (tag va : Nat) :
    let t := u.parkEvent c tag va
    RunBecomes s t c id x ∧ (t.core c).pours = (u.core c).pours ∧ (t.core c).fw.fpend.getLsbD 2 = true ∧
      ∀ e off n, e ∈ t.agenda → e.instr = .pourArrival c id off n → e ∈ s.agenda := by
  intro t
  obtain ⟨f, core, -⟩ := u.event_core c 6 0 (va % 2 ^ 64 + tag * 2 ^ 64) (va % 2 ^ 60 + tag * 2 ^ 60)
  refine ⟨h.of_runs (congrArg Core.runs core :) (State.event_core_ne u c _ _ _ _), (congrArg Core.pours core :),
    State.event_pending .., fun e off n he hi => ?_⟩
  rcases (NewEvents.event u c 6 0 _ _).agenda e he with old | ⟨_, new⟩ | ⟨_, new⟩
  · exact hagenda ▸ old
  · rw [hi] at new
    cases new
  · rw [hi] at new
    cases new

/-- A run that writes no request holds the same park tags. -/
theorem freeTag_modRun (k : Core) (f : PourRun → PourRun) (hf : ∀ y, (f y).reqs = y.reqs) :
    (k.modRun id f).freeTag = k.freeTag := by
  have same : (k.runs.map (fun y => if y.id = id then f y else y)).flatMap (fun y => y.reqs.filterMap
      (fun q => if q.at_.isNone then some q.tag else none)) = k.runs.flatMap (fun y => y.reqs.filterMap
        (fun q => if q.at_.isNone then some q.tag else none)) := by
    rw [List.flatMap_map]
    congr 1
    funext y
    by_cases hy : y.id = id <;> simp [hy, hf]
  simp only [Core.freeTag, Core.modRun, same]

/-! The last bytes of a stream (R262). -/

/-- The request for the last bytes of a stream on the pooled memory device. -/
def State.lastReq (s : State) (c : Nat) (r : PourRun) (p : PourDesc) : PourReq :=
  let lo := p.streamEnd r.asked
  let len := p.streamEnd p.total - lo
  let leads := s.extentAddr (s.partOf c) (fld p.src 0 60 + lo) len
  ⟨r.asked, r.chunkLeft p, lo, len, leads, (s.core c).freeTag, leads.isNone⟩

theorem deviceReq_last (hlast : r.asked + r.chunkLeft p = p.total) :
    (s.countChunk c id r p).deviceReq c p r.asked (r.chunkLeft p) false = s.lastReq c r p := by
  have tag : ((s.countChunk c id r p).core c).freeTag = (s.core c).freeTag := by
    rw [State.countChunk, State.modRun, State.core_modCore]
    exact freeTag_modRun _ _ (by exact fun _ => rfl)
  rw [State.deviceReq, hlast, tag]
  rfl

/-- A run that asked for the last bytes of its stream. -/
def PourRun.askedAll (r : PourRun) (p : PourDesc) : PourRun :=
  { r with asked := p.total, flying := r.flying + r.chunkLeft p }

section
variable (hp : (s.core c).pour id = some (r, p)) (hflows : s.begins c r.start = true ∧ s.flows c = true)
  (hdyn : p.isStatic = false) (hn : 0 < r.chunkLeft p) (hlast : r.asked + r.chunkLeft p = p.total)
  (hroom : r.fullness p + r.flying + r.chunkLeft p ≤ p.cap)

include hp hlast in
theorem countChunk_last : RunBecomes s (s.countChunk c id r p) c id (r.askedAll p) := by
  have counted := (RunBecomes.refl (pour_runOf hp)).modRun (fun y => y.askChunk (r.chunkLeft p)) (by exact fun _ => rfl)
  have all : r.askChunk (r.chunkLeft p) = r.askedAll p := by rw [PourRun.askChunk, hlast, PourRun.askedAll]
  rwa [all] at counted

include hp hlast in
theorem addReq_last (q : PourReq) :
    RunBecomes s ((s.countChunk c id r p).modRun c id (fun y => y.addReq q)) c id ((r.askedAll p).addReq q) :=
  (countChunk_last hp hlast).modRun (fun y => y.addReq q) (by exact fun _ => rfl)

include hp hflows hdyn hn hroom

/-- The last bytes of a stream, which have room, are asked for, and nothing after them: `u` is what the one request leaves. -/
theorem pourRequest_last {u : State} (hu : (if wordSpace p.src = 3 then
      (s.countChunk c id r p).askDevice c id p r.asked (r.chunkLeft p) false
      else (s.countChunk c id r p).later 1 (.pourArrival c id r.asked (r.chunkLeft p))) = u)
    {x : PourRun} (hx : RunBecomes s u c id x) (hasked : x.asked = p.total) (hdesc : x.desc = r.desc)
    (hpours : (u.core c).pours = (s.core c).pours) : exec (.pourRequest c id) s = .next u := by
  have pour : (u.core c).pour id = some (x, p) := by
    refine pour_of_run hx.run ?_
    rw [hdesc, Core.descOf, hpours]
    exact pour_desc hp
  rw [pourRequest_flowing hp hflows, show maxChunks = 0x7FFFF + 1 from rfl, requestMore_asks hp hdyn hn hroom, hu,
    requestMore_done pour hasked]

include hlast

/-- The last bytes of a stream in flash or at a peer are asked for. -/
theorem pourRequest_elsewhere (hspace : wordSpace p.src ≠ 3) : Answers (.pourRequest c id) s (fun t =>
    RunBecomes s t c id (r.askedAll p) ∧ Sometime s t 1 (.pourArrival c id r.asked (r.chunkLeft p)) ∧ RunsOnly s t c) := by
  have only : RunsOnly s ((s.countChunk c id r p).later 1 (.pourArrival c id r.asked (r.chunkLeft p))) c :=
    (RunsOnly.modRun ..).trans (.later ..)
  have asked := (countChunk_last hp hlast).of_core fun d =>
    State.core_later (s.countChunk c id r p) 1 (.pourArrival c id r.asked (r.chunkLeft p)) d
  exact ⟨_, pourRequest_last hp hflows hdyn hn hroom (if_neg hspace) asked rfl rfl (congrArg Core.pours only.core :), asked,
    sometime_later 1 _ rfl rfl rfl, only⟩

/-- The last bytes of a stream on the pooled memory device are asked for, where the extents lead to them (R305, R306). -/
theorem pourRequest_device (hspace : wordSpace p.src = 3) (hleads : (s.lastReq c r p).at_ ≠ none) :
    Answers (.pourRequest c id) s (fun t => RunBecomes s t c id ((r.askedAll p).addReq (s.lastReq c r p)) ∧
      Sometime s t 1 (.pourArrival c id r.asked (r.chunkLeft p)) ∧ RunsOnly s t c) := by
  have sent := askDevice_translated (id := id) (deviceReq_last (id := id) hlast) hleads
  have only : RunsOnly s (((s.countChunk c id r p).modRun c id (fun y => y.addReq (s.lastReq c r p))).later 1
    (.pourArrival c id r.asked (r.chunkLeft p))) c := ((RunsOnly.modRun ..).trans (.modRun ..)).trans (.later ..)
  have asked := (addReq_last hp hlast (s.lastReq c r p)).of_core fun d => State.core_later
    ((s.countChunk c id r p).modRun c id (fun y => y.addReq (s.lastReq c r p))) 1 (.pourArrival c id r.asked (r.chunkLeft p)) d
  exact ⟨_, pourRequest_last hp hflows hdyn hn hroom ((if_pos hspace).trans sent) asked rfl rfl (congrArg Core.pours only.core :), asked,
    sometime_later 1 _ rfl rfl rfl, only⟩

/-- Where the extents do not lead to them, the request parks, and no arrival lies ahead (R253, R306). -/
theorem pourRequest_parks (hspace : wordSpace p.src = 3) (hleads : (s.lastReq c r p).at_ = none) :
    Answers (.pourRequest c id) s (fun t => RunBecomes s t c id ((r.askedAll p).addReq (s.lastReq c r p)) ∧
      (t.core c).fw.fpend.getLsbD 2 = true ∧
      ∀ e, e ∈ t.agenda → e.instr = .pourArrival c id r.asked (r.chunkLeft p) → e ∈ s.agenda) := by
  have parks := askDevice_parks (id := id) (deviceReq_last (id := id) hlast) hleads
  have only : RunsOnly s ((s.countChunk c id r p).modRun c id (fun y => y.addReq (s.lastReq c r p))) c :=
    (RunsOnly.modRun ..).trans (.modRun ..)
  obtain ⟨asked, pours, pending, quiet⟩ := parkEvent_leaves (addReq_last hp hlast (s.lastReq c r p)) rfl
    (s.lastReq c r p).tag (wordAddr p.src + p.streamEnd r.asked)
  exact ⟨_, pourRequest_last hp hflows hdyn hn hroom ((if_pos hspace).trans parks) asked rfl rfl
    (pours.trans (congrArg Core.pours only.core :)), asked, pending, fun e => quiet e _ _⟩

end

/-! A request that had parked (R253, R306). -/

/-- A run without a request is written in the list. -/
theorem dropReq_becomes (hp : (s.core c).pour id = some (r, p)) (e : PourReq) :
    RunBecomes s (s.modRun c id (fun y => y.dropReq e)) c id (r.dropReq e) :=
  (RunBecomes.refl (pour_runOf hp)).modRun (fun y => y.dropReq e) (by exact fun _ => rfl)

/-- A parked request that now leads to the device is sent (R306). -/
theorem parkedRequestReplay_sends {e : PourReq} {a : Nat} (hp : (s.core c).pour id = some (r, p))
    (hat : (s.core c).parkedAt e.tag = none) (hparked : (s.core c).pourParked e.tag = some (r, e))
    (hfar : s.extentAddr (s.partOf c) (fld p.src 0 60 + p.streamEnd e.off) (p.streamEnd (e.off + e.len) - p.streamEnd e.off) =
      some a) :
    Answers (.parkedRequestReplay c e.tag) s (fun t => Sometime s t 1 (.pourArrival c id e.off e.len) ∧ RunsOnly s t c ∧
      ∃ y, RunBecomes s t c id ((r.dropReq e).addReq y) ∧ y.at_ = some a ∧ y.off = e.off ∧ y.len = e.len ∧ y.late = true) := by
  let u := s.modRun c id (fun y => y.dropReq e)
  let q := u.deviceReq c p e.off e.len true
  have found : q.at_ = some a := hfar
  have sent := askDevice_translated (s := u) (id := id) (q := q) rfl (by rw [found]; exact Option.some_ne_none a)
  have becomes : RunBecomes s (u.modRun c id (fun y => y.addReq q)) c id ((r.dropReq e).addReq q) :=
    (dropReq_becomes hp e).modRun (fun y => y.addReq q) (by exact fun _ => rfl)
  refine ⟨(u.modRun c id (fun y => y.addReq q)).later 1 (.pourArrival c id e.off e.len), ?_,
    sometime_later 1 _ rfl rfl rfl, ((RunsOnly.modRun ..).trans (.modRun ..)).trans (.later ..), q,
    becomes.of_core fun d => State.core_later (u.modRun c id (fun y => y.addReq q)) 1 (.pourArrival c id e.off e.len) d,
    found, rfl, rfl, rfl⟩
  rw [exec_parkedRequestReplay, execParkedRequestReplay, hat, ← sent]
  simp only [State.replayPour, hparked, pour_desc hp, runOf_id (pour_runOf hp)]
  rfl

/-- A parked request that is given up leaves its run, and a fence looks again (R202). -/
def State.giveUp (s : State) (c id : Nat) (e : PourReq) : State :=
  (s.modRun c id (fun y => y.dropReq e)).atOnce (s.gcount + 1) (.fenceRelease c false)

/-- A parked request is given up, and the trap of class 7 follows (R239, R253). -/
theorem parkedRequestAbandon_traps {e : PourReq} (hp : (s.core c).pour id = some (r, p))
    (hat : (s.core c).parkedAt e.tag = none) (hparked : (s.core c).pourParked e.tag = some (r, e)) :
    exec (.parkedRequestAbandon c e.tag) s = .next ((s.giveUp c id e).raiseTrap c
      ⟨7, 1, 0, none, (fld p.src 0 60 + e.src) % 2 ^ 64 + e.tag * 2 ^ 64⟩) := by
  rw [exec_parkedRequestAbandon, execParkedRequestAbandon, hat]
  simp only [State.abandonPour, hparked, pour_desc hp, runOf_id (pour_runOf hp)]
  rfl

theorem giveUp_leaves (hp : (s.core c).pour id = some (r, p)) (e : PourReq) : RunsOnly s (s.giveUp c id e) c ∧
    RunBecomes s (s.giveUp c id e) c id (r.dropReq e) ∧ Adds s (s.giveUp c id e) [⟨s.gcount + 1, .fenceRelease c false⟩] :=
  ⟨(RunsOnly.modRun ..).trans (.atOnce ..), (dropReq_becomes hp e).of_core fun _ => State.core_atOnce ..,
    (Adds.setCore s c _).atOnce (Nat.le_succ _)⟩

end

end Sys2Proof.Machine
end

section
/-! Bytes of a pour arrive (R200, R242, R254, R258, R259, R262, log entry 66). -/

namespace Sys2Proof.Machine
open Sys2Proof.Safety

/-! What a touched barrier leaves alone (R198, R200). -/

/-- Nothing ahead is lost, and no other core, no run and no barrier changes. -/
structure BarsKept (s t : State) (c : Nat) : Prop where
  later : Later s t
  cores : ∀ d, d ≠ c → t.core d = s.core d
  runs : (t.core c).runs = (s.core c).runs
  bar : (t.core c).bar = (s.core c).bar

theorem BarsKept.refl (s : State) (c : Nat) : BarsKept s s c := ⟨.refl s, fun _ _ => rfl, rfl, rfl⟩

theorem BarsKept.trans {s t u : State} {c : Nat} (h : BarsKept s t c) (k : BarsKept t u c) : BarsKept s u c :=
  ⟨h.later.trans k.later, fun d hd => (k.cores d hd).trans (h.cores d hd), k.runs.trans h.runs, k.bar.trans h.bar⟩

theorem BarsKept.modCore (s : State) (c : Nat) (f : Core → Core) (hruns : ∀ k, (f k).runs = k.runs)
    (hbar : ∀ k, (f k).bar = k.bar) : BarsKept s (s.modCore c f) c :=
  ⟨.modCore .., fun _ hd => State.core_modCore_ne _ _ _ _ hd, by rw [State.core_modCore, hruns], by rw [State.core_modCore, hbar]⟩

theorem BarsKept.of_core {s t : State} {c : Nat} (h : Later s t) (hcore : ∀ d, t.core d = s.core d) : BarsKept s t c :=
  ⟨h, fun d _ => hcore d, by rw [hcore], by rw [hcore]⟩

theorem BarsKept.foldl {α : Type} {f : State → α → State} {c : Nat} (hf : ∀ s x, BarsKept s (f s x) c) (l : List α)
    (s : State) : BarsKept s (l.foldl f s) c := by
  induction l generalizing s with
  | nil => exact .refl s c
  | cons x l ih => exact (hf s x).trans (ih _)

theorem BarsKept.stepEnds (s : State) (c bar n : Nat) : BarsKept s (s.stepEnds c bar n) c := by
  unfold State.stepEnds
  exact (BarsKept.foldl (fun _ _ => .of_core (.traceRaw ..) fun _ => State.core_traceRaw ..) _ s).trans
    (.modCore _ c _ (by exact fun _ => rfl) (by exact fun _ => rfl))

/-- The same but for barrier `b`, which is `x`. -/
structure BarBecomes (s t : State) (c b : Nat) (x : Barrier) : Prop where
  later : Later s t
  cores : ∀ d, d ≠ c → t.core d = s.core d
  runs : (t.core c).runs = (s.core c).runs
  rb : ∀ a, (t.core c).rb a = if a = b then x else (s.core c).rb a

theorem BarBecomes.refl (s : State) (c b : Nat) : BarBecomes s s c b ((s.core c).rb b) := by
  refine ⟨.refl s, fun _ _ => rfl, rfl, fun a => ?_⟩
  split
  · next h => rw [h]
  · rfl

theorem BarBecomes.keeps {s t u : State} {c b : Nat} {x : Barrier} (h : BarBecomes s t c b x) (k : BarsKept t u c) :
    BarBecomes s u c b x :=
  ⟨h.later.trans k.later, fun d hd => (k.cores d hd).trans (h.cores d hd), k.runs.trans h.runs,
    fun a => by rw [Core.rb, k.bar]; exact h.rb a⟩

theorem BarBecomes.wb {s t : State} {c b : Nat} {x : Barrier} (h : BarBecomes s t c b x) (y : Barrier) :
    BarBecomes s (t.modCore c (fun k => k.wb b y)) c b y := by
  refine ⟨h.later.trans (.modCore ..), fun d hd => (State.core_modCore_ne _ _ _ _ hd).trans (h.cores d hd), ?_, fun a => ?_⟩
  · rw [State.core_modCore]
    exact h.runs
  · rw [State.core_modCore, Core.rb_wb, h.rb]
    split
    · rfl
    · rfl

/-- A barrier as the present cycle finds it: the update of an earlier cycle has been applied (R200). -/
def Barrier.atCycle (b : Barrier) (g : Nat) : Barrier :=
  if b.at_ < g ∧ (b.delta ≠ 0 ∨ b.post = true) then b.settled else b

theorem settleBar_becomes (s : State) (c b : Nat) :
    BarBecomes s (s.settleBar c b) c b (((s.core c).rb b).atCycle s.gcount) := by
  have hold : ∀ (u : State) (h : Hold), BarsKept u (u.modCore c (fun k => { k with seq := { k.seq with hold := h } })) c :=
    fun u h => .modCore u c _ (by exact fun _ => rfl) (by exact fun _ => rfl)
  have release : ∀ (u : State), BarsKept u (u.atOnce u.gcount (.waitaRelease c)) c :=
    fun u => .of_core (.atOnce ..) fun _ => State.core_atOnce ..
  unfold State.settleBar Barrier.atCycle
  dsimp only
  split
  · have settled := (BarBecomes.refl s c b).wb ((s.core c).rb b).settled
    split
    · refine settled.keeps (.trans ?_ (.stepEnds ..))
      split
      · split
        · exact hold _ _
        · exact (hold _ _).trans (release _)
      · exact hold _ _
    · exact settled
  · exact .refl s c b

/-- Bytes at a barrier: its update of the present cycle grows (R200). -/
theorem touchBar_becomes (s : State) (c b : Nat) (delta : Int) (post : Bool) :
    BarBecomes s (s.touchBar c b delta post) c b ((((s.core c).rb b).atCycle s.gcount).touched s.gcount delta post) := by
  have settled := settleBar_becomes s c b
  have now := settled.rb b
  rw [if_pos rfl] at now
  unfold State.touchBar
  dsimp only
  rw [now, settled.later.gcount]
  exact (settled.wb _).keeps (.of_core (.atOnce ..) fun _ => State.core_atOnce ..)

/-! What arrives (R254, R258). -/

/-- The first byte of what arrives that belongs to a block not removed yet. -/
def PourRun.firstKept (r : PourRun) (p : PourDesc) (off hi : Nat) : Nat := min hi (max off (p.toff r.next))

/-- A run whose bytes from `off` on have arrived, of which `bs` enter at `lo`. -/
def PourRun.takeIn (r : PourRun) (p : PourDesc) (off len lo : Nat) (bs : List Byte) : PourRun :=
  { r with entered := r.entered.writeBytes lo bs, got := r.got ++ [(off, off + len)],
           flying := if p.isStatic then r.flying else r.flying - len }

/-- The tundish takes in what arrives. -/
def State.takeIn (s : State) (c id : Nat) (r : PourRun) (p : PourDesc) (off len : Nat) : State :=
  let lo := r.firstKept p off (off + len)
  s.modRun c id (fun y => y.takeIn p off len lo (s.tundishBytes c r p lo (off + len)))

/-- What arrives counts at the pour's barrier (R200). -/
def State.countBytes (s : State) (c : Nat) (r : PourRun) (lo hi : Nat) : State :=
  match r.bar with
  | some b => s.touchBar c b (-(r.toCount lo hi : Int)) false
  | none => s

/-- The requests of a run once the bytes from `off` on have come: none of them is late any more (R202). -/
def PourRun.onTime (r : PourRun) (off : Nat) : PourRun :=
  { r with reqs := r.reqs.map (fun q => if q.off = off then { q with late := false } else q) }

/-- The bytes of a range that did not count before a restart (log entry 66). -/
theorem toCount_eq (r : PourRun) (lo hi : Nat) :
    r.toCount lo hi = hi - lo - (r.counted.map (fun x => min x.2 hi - max x.1 lo)).sum := by
  rw [PourRun.toCount, List.sum_eq_foldl, List.foldl_map]
  rfl

section
variable {s : State} {c id : Nat} {r : PourRun} {p : PourDesc}

/-- No expander stands before the tundish where an arrival of a static pour, or of one expanded at the core, enters. -/
theorem pourArrival_enters (hp : (s.core c).pour id = some (r, p)) (off len : Nat)
    (hflows : s.begins c r.start = true ∧ s.flows c = true) (hwait : r.waitsFor p off = false)
    (hpoint : p.isStatic = true ∨ p.point = 3) {v : State}
    (hv : (s.takeIn c id r p off len).countBytes c r off (off + len) = v) :
    exec (.pourArrival c id off len) s = .next (if p.isStatic then v.scheduleArrival c id
      else (v.pourCame c r off).atOnce v.gcount (.pourRequest c id)) := by
  subst hv
  have plain : (if p.isStatic then s else (r.blocksTo p (off + len)).foldl (fun s _ => s.expandOne c id) s) = s := by
    rcases hpoint with h | h
    · exact if_pos h
    · rw [PourRun.blocksTo, if_pos h, List.foldl_nil, ite_self]
  rw [exec_pourArrival, execPourArrival, hp]
  simp only [hflows.1, hflows.2, hwait, plain, pour_runOf hp, Bool.and_self, Bool.not_true, Bool.false_eq_true, if_false]
  rfl

theorem takeIn_becomes (hp : (s.core c).pour id = some (r, p)) (off len : Nat) :
    let lo := r.firstKept p off (off + len)
    RunBecomes s (s.takeIn c id r p off len) c id (r.takeIn p off len lo (s.tundishBytes c r p lo (off + len))) :=
  (RunBecomes.refl (pour_runOf hp)).modRun
    (fun y => y.takeIn p off len _ (s.tundishBytes c r p _ (off + len))) (by exact fun _ => rfl)

/-- A late request is over: its run no longer holds it late, and a fence looks again (R202). -/
theorem pourCame_leaves {v : State} {x : PourRun} (hid : r.id = id) (h : RunBecomes s v c id x) (hreqs : x.reqs = r.reqs)
    (off : Nat) : RunBecomes s (v.pourCame c r off) c id (x.onTime off) ∧ RunsOnly v (v.pourCame c r off) c ∧
      Later v (v.pourCame c r off) ∧ ((∃ q, q ∈ r.reqs ∧ q.late = true ∧ q.off = off) →
        ({ at_ := v.gcount + 1, instr := .fenceRelease c false } : Event) ∈ (v.pourCame c r off).agenda) := by
  have late : r.reqs.any (fun q => q.late && decide (q.off = off)) = true ↔ ∃ q, q ∈ r.reqs ∧ q.late = true ∧ q.off = off := by
    simp
  unfold State.pourCame
  split
  · rw [hid]
    exact ⟨(h.modRun (fun y => y.onTime off) (by exact fun _ => rfl)).of_core fun _ => State.core_atOnce ..,
      (RunsOnly.modRun ..).trans (.atOnce ..), (Later.modCore ..).trans (.atOnce ..),
      fun _ => (State.mem_atOnce _ _ _ _ (Nat.le_succ _)).mpr (.inr rfl)⟩
  · next hnone =>
    have same : x.onTime off = x := by
      have kept : x.reqs.map (fun q => if q.off = off then { q with late := false } else q) = x.reqs := by
        refine (List.map_congr_left fun q hq => ?_).trans (List.map_id' _)
        split
        · next ho =>
          have punctual : q.late = false := Bool.eq_false_iff.mpr fun hl => hnone (late.mpr ⟨q, hreqs ▸ hq, hl, ho⟩)
          rw [← punctual]
        · rfl
      rw [PourRun.onTime, kept]
    rw [same]
    exact ⟨h, ⟨rfl, rfl⟩, .refl v, fun hl => absurd (late.mpr hl) hnone⟩

/-- What the count at the barrier leaves of the runs. -/
theorem countBytes_becomes {u : State} {x : PourRun} (h : RunBecomes s u c id x) (lo hi : Nat) :
    RunBecomes s (u.countBytes c r lo hi) c id x ∧ Later u (u.countBytes c r lo hi) := by
  unfold State.countBytes
  split
  · next b hb =>
    have touched := touchBar_becomes u c b (-(r.toCount lo hi : Int)) false
    exact ⟨h.of_runs touched.runs touched.cores, touched.later⟩
  · exact ⟨h, .refl u⟩

/-- The barrier of a pour at which bytes count (R200, log entry 66). -/
theorem countBytes_rb {u : State} {b : Nat} (hbar : r.bar = some b) (lo hi : Nat) (a : Nat) :
    ((u.countBytes c r lo hi).core c).rb a =
      if a = b then (((u.core c).rb b).atCycle u.gcount).touched u.gcount (-(r.toCount lo hi : Int)) false
      else (u.core c).rb a := by
  rw [State.countBytes, hbar]
  exact (touchBar_becomes ..).rb a

end

end Sys2Proof.Machine
end

section
/-! The intake of a pour as a whole: arrivals, expanders above the tundish, codebooks (R200, R242, R253, R254, R258, R265,
R267, R273, R279). -/

namespace Sys2Proof.Machine
open Sys2Proof.Safety

/-! A block reaches an expander above the tundish (R265, R270, R273). -/

/-- An expander above the tundish writes the block's entry, and the slots where the block fills one. -/
theorem expandUp_frame (r : PourRun) (p : PourDesc) (j : Nat) (bs : List Byte) :
    let x := r.expandUp p j bs
    { x with expanded := r.expanded, books := r.books, tables := r.tables } = { r with nextExp := j + 1 } ∧
      ∃ e, x.expanded = sset none r.expanded j (some e) := by
  intro x
  by_cases hslot : 3 ≤ p.method j
  · have rest := ({ r with nextExp := j + 1 } : PourRun).loadSlot_rest p j (decide (p.reason j bs = 0)) bs
    have run : x = _ := if_pos hslot
    rw [run]
    exact ⟨(congrArg (fun y : PourRun => { y with expanded := r.expanded, books := r.books, tables := r.tables }) rest :),
      _, congrArg (sset none · j (some ⟨[], p.reason j bs, 0, 0⟩)) (congrArg PourRun.expanded rest :)⟩
  · by_cases hreason : p.reason j bs ≠ 0
    · rw [show x = _ from (if_neg hslot).trans (if_pos hreason)]
      exact ⟨rfl, _, rfl⟩
    · rw [show x = _ from (if_neg hslot).trans (if_neg hreason)]
      exact ⟨rfl, _, rfl⟩

/-- A corrupt data block is blanked (R265). -/
theorem expandUp_corrupt (r : PourRun) {p : PourDesc} {j : Nat} {bs : List Byte} (hdata : p.method j < 3)
    (hreason : p.reason j bs ≠ 0) : r.expandUp p j bs = { r with
      nextExp := j + 1, expanded := sset none r.expanded j (some ⟨List.replicate (p.xsize j) 0, p.reason j bs, 0, 0⟩) } :=
  (if_neg (Nat.not_le.mpr hdata)).trans (if_pos hreason)

/-- A sound raw block is its bytes without the header, cut or filled to XSIZE (R270, R274). -/
theorem expandUp_raw (r : PourRun) {p : PourDesc} {j : Nat} {bs : List Byte} (hraw : p.method j = 0)
    (hreason : p.reason j bs = 0) : r.expandUp p j bs = { r with
      nextExp := j + 1, expanded := sset none r.expanded j (some ⟨exactly (p.xsize j) (bs.drop 16), 0, 0, (bs.drop 16).length⟩) } := by
  have hdata : ¬3 ≤ p.method j := by rw [hraw]; decide
  refine ((if_neg hdata).trans (if_neg (not_not_intro hreason))).trans ?_
  simp only [PourRun.expand, hraw, expandBlock]

/-! The run that takes bytes in (R258, R259). -/

theorem takeIn_dynamic (r : PourRun) {p : PourDesc} (h : p.isStatic = false) (off len lo : Nat) (bs : List Byte) :
    r.takeIn p off len lo bs =
      { r with entered := r.entered.writeBytes lo bs, got := r.got ++ [(off, off + len)], flying := r.flying - len } := by
  rw [PourRun.takeIn, h]
  rfl

theorem takeIn_static (r : PourRun) {p : PourDesc} (h : p.isStatic = true) (off len lo : Nat) (bs : List Byte) :
    r.takeIn p off len lo bs = { r with entered := r.entered.writeBytes lo bs, got := r.got ++ [(off, off + len)] } := by
  rw [PourRun.takeIn, h]
  rfl

section
variable {s : State} {c id : Nat} {r : PourRun} {p : PourDesc} (hp : (s.core c).pour id = some (r, p))
include hp

/-- The next block of the stream order is expanded (R273). -/
theorem blockExpansion_expands (hflows : s.begins c r.start = true ∧ s.flows c = true) (hpoint : p.point < 3)
    (hj : r.nextExp < p.nblk) : Answers (.blockExpansion c id r.nextExp) s (fun t =>
      RunBecomes s t c id (r.expandUp p r.nextExp (s.streamBytes c r p (p.soff r.nextExp) (p.clen r.nextExp))) ∧
        RunsOnly s t c ∧ OnlyCore s t c ∧ t.agenda = s.agenda) := by
  have one : s.expandOne c id = s.modRun c id
      (fun y => y.expandUp p y.nextExp (s.streamBytes c r p (p.soff r.nextExp) (p.clen r.nextExp))) := by
    rw [State.expandOne, hp]
    exact if_pos hj
  refine ⟨s.expandOne c id, ?_, ?_⟩
  · rw [exec_blockExpansion, execBlockExpansion, hp]
    exact congrArg _ (if_pos ⟨hpoint, rfl, hflows.2, hflows.1⟩)
  · rw [one]
    exact ⟨(RunBecomes.refl (pour_runOf hp)).modRun _
      (by exact fun y => (congrArg PourRun.id (expandUp_frame y p y.nextExp _).1 :)), .modRun .., .modCore .., rfl⟩

/-- From the stop on nothing of the intake happens (R242). -/
theorem pour_stopped (h : ¬(s.begins c r.start = true ∧ s.flows c = true)) :
    exec (.pourRequest c id) s = .next s ∧ (∀ off len, exec (.pourArrival c id off len) s = .next s) ∧
      (∀ j, exec (.blockExpansion c id j) s = .next s) ∧ ∀ j, exec (.blockRemoval c id j) s = .next s := by
  have over_ : (s.begins c r.start && s.flows c) = false :=
    Bool.eq_false_iff.mpr fun hb => h ((Bool.and_eq_true ..).mp hb)
  refine ⟨?_, fun off len => ?_, fun j => ?_, fun j => ?_⟩
  · rw [exec_pourRequest, execPourRequest, pour_runOf hp]
    exact congrArg _ (if_neg h)
  · rw [exec_pourArrival, execPourArrival, hp]
    simp only [over_, Bool.not_false, if_true]
  · rw [exec_blockExpansion, execBlockExpansion, hp]
    exact congrArg _ (if_neg fun hb => h ⟨hb.2.2.2, hb.2.2.1⟩)
  · have stopped : r.next ≠ j ∨ r.closed = true ∨ s.begins c r.start = false ∨ s.flows c = false :=
      .inr (.inr ((Bool.and_eq_false_iff ..).mp over_))
    rw [exec_blockRemoval, execBlockRemoval, hp]
    exact if_pos stopped

/-- An arrival behind a parked request waits for it before an expander (R253, R273). -/
theorem pourArrival_waits (off len : Nat) (hflows : s.begins c r.start = true ∧ s.flows c = true)
    (hwait : r.waitsFor p off = true) :
    exec (.pourArrival c id off len) s = .next (s.at (s.gcount + 1) (.pourArrival c id off len)) := by
  rw [exec_pourArrival, execPourArrival, hp]
  simp only [hflows.1, hflows.2, hwait, Bool.and_self, Bool.not_true, Bool.false_eq_true, if_false, if_true]

/-- What arrives of a stream outside HBM that is expanded at the core (R200, R262). -/
theorem pourArrival_dynamic (off len : Nat) (hflows : s.begins c r.start = true ∧ s.flows c = true)
    (hdyn : p.isStatic = false) (hpoint : p.point = 3) : Answers (.pourArrival c id off len) s (fun t =>
      let lo := r.firstKept p off (off + len)
      let bs := s.tundishBytes c r p lo (off + len)
      let g := s.gcount
      RunBecomes s t c id ((r.takeIn p off len lo bs).onTime off) ∧
      (r.bar = none → { t.core c with runs := (s.core c).runs } = s.core c) ∧
      (∀ b, r.bar = some b → ∀ a, (t.core c).rb a =
        if a = b then (((s.core c).rb b).atCycle g).touched g (-(r.toCount off (off + len) : Int)) false else (s.core c).rb a) ∧
      ((∃ q, q ∈ r.reqs ∧ q.late = true ∧ q.off = off) → ({ at_ := g + 1, instr := .fenceRelease c false } : Event) ∈ t.agenda) ∧
      (∀ x, x ∈ s.agenda → x ∈ t.agenda) ∧ ({ at_ := g, instr := .pourRequest c id } : Event) ∈ t.agenda) := by
  have hwait : r.waitsFor p off = false := by rw [PourRun.waitsFor, hpoint]; rfl
  have run := pourArrival_enters hp off len hflows hwait (.inr hpoint) rfl
  have taken := takeIn_becomes hp off len
  have first : RunsOnly s (s.takeIn c id r p off len) c := .modRun ..
  have sooner : Later s (s.takeIn c id r p off len) := ⟨rfl, fun _ h => h⟩
  obtain ⟨counted, later⟩ := countBytes_becomes (r := r) taken off (off + len)
  obtain ⟨came, last, afterwards, fence⟩ := pourCame_leaves (runOf_id (pour_runOf hp)) counted rfl off
  have barrier : ∀ b, r.bar = some b → ∀ a, _ := fun b hb a => countBytes_rb hb off (off + len) a
    (u := s.takeIn c id r p off len) (c := c)
  have unbarred : r.bar = none → (s.takeIn c id r p off len).countBytes c r off (off + len) = s.takeIn c id r p off len :=
    fun hb => by rw [State.countBytes, hb]
  have gcount := (sooner.trans later).gcount
  generalize (s.takeIn c id r p off len).countBytes c r off (off + len) = v at *
  rw [hdyn, if_neg Bool.false_ne_true, gcount] at run
  rw [gcount] at fence
  generalize v.pourCame c r off = w at *
  have hw : w.gcount = s.gcount := afterwards.gcount.trans gcount
  refine ⟨_, run, came.of_core fun _ => State.core_atOnce .., fun hb => ?_, fun b hb a => ?_,
    fun hl => (State.mem_atOnce _ _ _ _ hw.le).mpr (.inl (fence hl)),
    (((sooner.trans later).trans afterwards).trans (.atOnce ..)).agenda, (State.mem_atOnce _ _ _ _ hw.le).mpr (.inr rfl)⟩
  · rw [State.core_atOnce]
    rw [unbarred hb] at last
    exact (first.trans last).core
  · rw [State.core_atOnce, Core.rb, show (w.core c).bar = (v.core c).bar from (congrArg Core.bar last.core :)]
    refine (barrier b hb a).trans ?_
    rw [show (s.takeIn c id r p off len).gcount = s.gcount from rfl, Core.rb, Core.rb,
      show ((s.takeIn c id r p off len).core c).bar = (s.core c).bar from (congrArg Core.bar first.core :)]
    rfl

/-- What arrives of a stream in HBM that names no barrier; the next arrival is placed (R258). -/
theorem pourArrival_static (off len : Nat) (hflows : s.begins c r.start = true ∧ s.flows c = true)
    (hstatic : p.isStatic = true) (hbar : r.bar = none) (hwait : r.waitsFor p off = false) :
    Answers (.pourArrival c id off len) s (fun t =>
      let lo := r.firstKept p off (off + len)
      let x := r.takeIn p off len lo (s.tundishBytes c r p lo (off + len))
      (∃ n, RunBecomes s t c id { x with arrivals := x.arrivals + n }) ∧ OnlyCore s t c ∧
        { t.core c with runs := (s.core c).runs } = s.core c ∧ Later s t) := by
  have unbarred : (s.takeIn c id r p off len).countBytes c r off (off + len) = s.takeIn c id r p off len := by
    rw [State.countBytes, hbar]
  have run := pourArrival_enters hp off len hflows hwait (.inl hstatic) unbarred
  have taken := takeIn_becomes hp off len
  have only : RunsOnly s (s.takeIn c id r p off len) c := .modRun ..
  have mine : OnlyCore s (s.takeIn c id r p off len) c := .modCore ..
  have sooner : Later s (s.takeIn c id r p off len) := ⟨rfl, fun _ h => h⟩
  have pour : ((s.takeIn c id r p off len).core c).pour id = some (_, p) := pour_modRun hp _ (by exact fun _ => rfl) rfl
  rw [if_pos hstatic] at run
  generalize s.takeIn c id r p off len = u at *
  obtain ⟨n, core, others, later⟩ := State.scheduleArrival_run pour
  have placed := taken.modRun (fun y => { y with arrivals := y.arrivals + n }) (by exact fun _ => rfl)
  refine ⟨_, run, ⟨n, placed.of_runs ?_ fun d hd => ?_⟩, mine.trans others, ?_, sooner.trans later⟩
  · rw [core, State.modRun, State.core_modCore]
  · exact (others.2 d hd).trans (State.core_modCore_ne _ _ _ _ hd).symm
  · rw [core]
    exact only.core

/-- A codebook that a restart asked for again has come (R279). -/
theorem codebookDelivery_flowing (h : s.flows c = true) : exec (.codebookDelivery c id) s =
    .next (let u := s.modRun c id (fun y => { y with preload := y.preload.drop 1 })
      if 1 < r.preload.length then u.later 1 (.codebookDelivery c id) else u) := by
  rw [exec_codebookDelivery, execCodebookDelivery, pour_runOf hp]
  simp only [h, Bool.not_true, Bool.false_eq_true, if_false]

end

/-- Settles O44: each part of the intake as its own lemma says it. -/
theorem pourArrivals : Obligations.PourArrivals := by
  intro s c id r p hp hid k g flows becomes n only space lo leads req parked fresh counts onTime
  have turns : ∀ {t : State} {x : PourRun}, RunBecomes s t c id x → becomes t x := fun h => ⟨h.run, h.cores, h.runs⟩
  have runsOnly : ∀ {t : State}, RunsOnly s t c → only t := fun h => ⟨h.core, h.rest⟩
  refine ⟨pour_stopped hp, fun h => ?_, fun hf hdyn hfull => ?_, fun hf hdyn hn hlast hroom => ⟨fun hs => ?_, fun hs hl => ?_,
    fun hs hl => ?_⟩, fun e he => ⟨fun a ha => ?_, ?_⟩, fun off len hf hw => ?_, fun off len hf hdyn hpoint => ?_,
    fun off len hf hstatic hbar hw => ?_, fun j hf hpoint hnext hj => ?_, fun hf => ?_⟩
  · rw [exec_codebookDelivery, execCodebookDelivery, pour_runOf hp]
    exact if_pos (by rw [h]; rfl)
  · rw [pourRequest_flowing hp hf, requestMore_rests hp hfull]
  · obtain ⟨t, run, asked, event, rest⟩ := pourRequest_elsewhere hp hf hdyn hn hlast hroom hs
    exact ⟨t, run, turns asked, event, runsOnly rest⟩
  · obtain ⟨t, run, asked, event, rest⟩ := pourRequest_device hp hf hdyn hn hlast hroom hs hl
    exact ⟨t, run, turns asked, event, runsOnly rest⟩
  · obtain ⟨t, run, asked, pending, quiet⟩ := pourRequest_parks hp hf hdyn hn hlast hroom hs hl
    exact ⟨t, run, turns asked, pending, quiet⟩
  · obtain ⟨-, hat, hparked⟩ := he
    obtain ⟨t, run, event, rest, y, sent, hy⟩ := parkedRequestReplay_sends hp hat hparked ha
    exact ⟨t, run, event, runsOnly rest, y, turns sent, hy⟩
  · obtain ⟨-, hat, hparked⟩ := he
    obtain ⟨rest, dropped, adds⟩ := giveUp_leaves hp e
    exact ⟨s.giveUp c id e, runsOnly rest, turns dropped, adds, parkedRequestAbandon_traps hp hat hparked⟩
  · exact ⟨_, pourArrival_waits hp off len hf hw, (Adds.refl s).at (Nat.le_succ _), rfl⟩
  · obtain ⟨t, run, taken, unbarred, barrier, fence, later, request⟩ := pourArrival_dynamic hp off len hf hdyn hpoint
    refine ⟨t, run, ?_, unbarred, fun b hb => ⟨?_, fun a ha => ?_⟩, fence, later, request⟩
    · rw [takeIn_dynamic r hdyn, State.tundishBytes, if_pos hpoint] at taken
      exact turns taken
    · refine (barrier b hb b).trans ((if_pos rfl).trans ?_)
      rw [toCount_eq, Barrier.touched, Bool.or_false]
      rfl
    · exact (barrier b hb a).trans (if_neg ha)
  · obtain ⟨t, run, ⟨m, taken⟩, others, mine, later⟩ := pourArrival_static hp off len hf hstatic hbar hw
    rw [takeIn_static r hstatic] at taken
    exact ⟨t, run, ⟨r.arrivals + m, turns taken⟩, mine, later.agenda, (congrArg State.hbm others.1 :),
      (congrArg Core.spad mine :)⟩
  · subst hnext
    obtain ⟨t, run, becomes, only, others, agenda⟩ := blockExpansion_expands hp hf hpoint hj
    obtain ⟨frame, e, expanded⟩ := expandUp_frame r p r.nextExp (s.streamBytes c r p (p.soff r.nextExp) (p.clen r.nextExp))
    refine ⟨t, run, others, agenda, only.core, _, becomes.run, (congrArg PourRun.nextExp frame :), fun i hi => ?_,
      (congrArg PourRun.entered frame :), (congrArg PourRun.got frame :), fun hdata hreason => ?_, fun hraw hreason => ?_⟩
    · rw [expanded]
      exact sget_sset_ne _ _ _ _ _ hi
    · rw [expandUp_corrupt r hdata hreason]
      exact ⟨sget_sset_same .., rfl, rfl⟩
    · rw [expandUp_raw r hraw hreason]
      exact ⟨_, sget_sset_same .., length_exactly .., fun i hi => getD_exactly _ _ i hi⟩
  · have dropped := (RunBecomes.refl (pour_runOf hp)).modRun (fun y => { y with preload := y.preload.drop 1 })
      (by exact fun _ => rfl)
    have run := codebookDelivery_flowing hp hf
    by_cases more : 1 < r.preload.length
    · exact ⟨_, run.trans (congrArg _ (if_pos more)), turns (dropped.of_core fun _ => State.core_later ..),
        fun _ => sometime_later 1 _ rfl rfl rfl, fun h => absurd more (Nat.not_lt.mpr h), rfl⟩
    · exact ⟨_, run.trans (congrArg _ (if_neg more)), turns dropped, fun h => absurd h more, fun _ => rfl, rfl⟩

end Sys2Proof.Machine
end

section
/-! Lines of HBM that read without an error (R299): what meets them raises nothing, and a write leaves them so. -/

namespace Sys2Proof

theorem sfind_append {α : Type} (l m : Sparse α) (k : Nat) : sfind (l ++ m) k = (sfind l k).or (sfind m k) := by
  induction l with
  | nil => rfl
  | cons e l ih =>
    rw [List.cons_append, sfind, sfind, ih]
    split
    · rfl
    · rfl

theorem sfind_filter {α : Type} (q : Nat → Bool) (m : Sparse α) (k : Nat) :
    sfind (m.filter (fun e => q e.1)) k = if q k then sfind m k else none := by
  induction m with
  | nil => simp [sfind]
  | cons e m ih =>
    by_cases hk : e.1 = k
    · subst hk
      by_cases hq : q e.1 = true <;> simp [sfind, hq, ih]
    · by_cases hq : q e.1 = true <;> simp [sfind, hk, hq, ih]

/-- What is listed under a key after a write. -/
theorem sfind_sset {α : Type} [DecidableEq α] (d : α) (m : Sparse α) (k j : Nat) (v : α) :
    sfind (sset d m k v) j = if j = k then (if v = d then none else some v) else sfind m j := by
  have written : sfind (if v = d then ([] : Sparse α) else [(k, v)]) j = if j = k ∧ v ≠ d then some v else none := by
    by_cases hv : v = d <;> simp [hv, sfind, eq_comm]
  rw [sset, sfind_append, sfind_append, sfind_filter (fun x => decide (x < k)), sfind_filter (fun x => decide (k < x)), written]
  rcases Nat.lt_trichotomy j k with h | h | h
  · simp [h, Nat.ne_of_lt h, Nat.lt_asymm h]
  · by_cases hv : v = d <;> simp [h, hv]
  · simp [h, Nat.ne_of_gt h, Nat.lt_asymm h]

namespace Machine

/-- No line of HBM fails its integrity tag or is in error. -/
def State.LinesSound (s : State) : Prop := ∀ l, s.tagGood l = true ∧ s.lineBad l = false

theorem State.LinesSound.of_eq {s t : State} (h : s.LinesSound) (lines : t.lines = s.lines) (mgmt : t.mgmt = s.mgmt) :
    t.LinesSound := by
  intro l
  show ({ s with lines := t.lines, mgmt := t.mgmt } : State).tagGood l = true ∧
    ({ s with lines := t.lines } : State).lineBad l = false
  rw [lines, mgmt]
  exact h l

theorem State.LinesSound.hbmFault {s : State} (h : s.LinesSound) (pa n : Nat) : s.hbmFault pa n = none := by
  rw [State.hbmFault, List.findSome?_eq_none_iff]
  intro i _
  dsimp only
  rw [(h (pa / 64 + i)).1, (h (pa / 64 + i)).2]
  rfl

theorem State.LinesSound.tagCheck {s : State} (h : s.LinesSound) (pa n : Nat) : s.tagCheck pa n = s := by
  have none_fails : (rowParts (n / 1024 + 2) pa n).findSome? (fun p =>
      if s.paStale p.1 then none else (s.hbmFault p.1 p.2).filter (fun t => decide (t.cls = 9))) = none := by
    rw [List.findSome?_eq_none_iff]
    intro p _
    rw [h.hbmFault]
    exact ite_self _
  rw [State.tagCheck, none_fails]

theorem State.LinesSound.walkMeets {s : State} (h : s.LinesSound) (part va : Nat) : s.walkMeets part va = s := by
  unfold State.walkMeets
  split
  · rfl
  · generalize walkEntries s.hbm (va % 2 ^ 60) [1, 2, 3, 4] (s.topTable part) = l
    induction l with
    | nil => rfl
    | cons a l ih => rw [List.foldl_cons, h.tagCheck, ih]

/-- A line written where every line is sound (R299). -/
theorem State.LinesSound.sset {s : State} (h : s.LinesSound) {ls : Sparse LineMeta}
    (hls : ({ s with lines := ls } : State).LinesSound) (l : Nat) (whole : Bool) :
    ({ s with lines := sset lineReset ls l (s.lineWritten l whole) } : State).LinesSound := by
  obtain ⟨tag, bad⟩ := h l
  have old : (sget lineReset s.lines l).ecc ≠ .uncorrectable ∧ (sget lineReset s.lines l).poison = false := by
    simpa [State.lineBad] using bad
  intro j
  obtain ⟨jtag, jbad⟩ := hls j
  by_cases hj : j = l
  · subst hj
    refine ⟨?_, ?_⟩
    · rw [State.tagGood, sfind_sset, if_pos rfl]
      by_cases hv : s.lineWritten j whole = lineReset
      · rw [if_pos hv]
      · rw [if_neg hv]
        simp [State.lineWritten, tag, State.keyOf, State.paPart]
    · rw [State.lineBad, sget_sset_same]
      cases whole <;> simp [State.lineWritten, old]
  · rw [State.tagGood, State.lineBad, sfind_sset, sget_sset_ne _ _ _ _ _ hj, if_neg hj]
    exact ⟨jtag, jbad⟩

theorem State.LinesSound.hbmStore {s : State} (h : s.LinesSound) (pa : Nat) (bs : List Byte) : (s.hbmStore pa bs).LinesSound := by
  unfold State.hbmStore
  dsimp only
  generalize (if bs.length = 0 then 0 else (pa + bs.length - 1) / 64 - pa / 64 + 1) = n
  suffices written : ∀ (l : List Nat) (ls : Sparse LineMeta), ({ s with lines := ls } : State).LinesSound →
      ({ s with lines := l.foldl (fun acc i => Sys2Proof.sset lineReset acc (pa / 64 + i) (s.lineWritten (pa / 64 + i)
        (decide (pa ≤ 64 * (pa / 64 + i)) && decide (64 * (pa / 64 + i) + 64 ≤ pa + bs.length)))) ls } : State).LinesSound from
    (written _ _ h).of_eq rfl rfl
  intro l
  induction l with
  | nil => exact fun _ hls => hls
  | cons i l ih => exact fun ls hls => ih _ (h.sset hls _ _)

end Machine
end Sys2Proof
end

section
/-! What the reads of a heat that goes on may disturb (R92, R245, R251, R279): the firmware contexts that events wake, and of
the core that reads its own code and pours the loop buffer, the barriers and the runs. -/

namespace Sys2Proof.Machine
open Sys2Proof.Safety

/-- A core but for its firmware context. -/
def Core.withoutFw (k : Core) : Core := { k with fw := fwReset }

/-- A core but for what its firmware context, code prefetch, barriers and pours change. -/
def Core.settled (k : Core) : Core :=
  { k with fw := fwReset, half0 := halfReset, half1 := halfReset, bar := [], dyn := [], runs := [], nextId := 0,
           seq := { k.seq with hold := .none, half := false } }

theorem Core.settled_of_withoutFw {k k' : Core} (h : k.withoutFw = k'.withoutFw) : k.settled = k'.settled := by
  show k.withoutFw.settled = k'.withoutFw.settled
  rw [h]

theorem Core.settled_setHalf (k : Core) (h : Bool) (x : Half) : (k.setHalf h x).settled = k.settled := by
  cases h <;> rfl

/-- No heat changes, no line of HBM goes bad, and of the cores but `c` no more than firmware contexts change. -/
structure Within (s t : State) (c : Nat) : Prop where
  heats : t.heats = s.heats
  mgmt : t.mgmt = s.mgmt
  sound : s.LinesSound → t.LinesSound
  cores : ∀ d, d ≠ c → (t.core d).withoutFw = (s.core d).withoutFw

/-- The same of every core. -/
structure Undisturbed (s t : State) : Prop where
  heats : t.heats = s.heats
  mgmt : t.mgmt = s.mgmt
  sound : s.LinesSound → t.LinesSound
  cores : ∀ d, (t.core d).withoutFw = (s.core d).withoutFw

/-- Core `c` itself reads its code and its pours. -/
structure Calm (s t : State) (c : Nat) : Prop extends Within s t c where
  own : (t.core c).settled = (s.core c).settled

theorem Within.heat {s t : State} {c : Nat} (h : Within s t c) (p : Nat) : t.heat p = s.heat p := by
  rw [State.heat, h.heats, State.heat]

theorem Undisturbed.heat {s t : State} (h : Undisturbed s t) (p : Nat) : t.heat p = s.heat p := by
  rw [State.heat, h.heats, State.heat]

theorem Undisturbed.calm {s t : State} (h : Undisturbed s t) (c : Nat) : Calm s t c :=
  ⟨⟨h.heats, h.mgmt, h.sound, fun d _ => h.cores d⟩, Core.settled_of_withoutFw (h.cores c)⟩

theorem Within.trans {s t u : State} {c : Nat} (h : Within s t c) (k : Within t u c) : Within s u c :=
  ⟨k.heats.trans h.heats, k.mgmt.trans h.mgmt, k.sound ∘ h.sound, fun d hd => (k.cores d hd).trans (h.cores d hd)⟩

theorem Undisturbed.refl (s : State) : Undisturbed s s := ⟨rfl, rfl, id, fun _ => rfl⟩

theorem Undisturbed.trans {s t u : State} (h : Undisturbed s t) (k : Undisturbed t u) : Undisturbed s u :=
  ⟨k.heats.trans h.heats, k.mgmt.trans h.mgmt, k.sound ∘ h.sound, fun d => (k.cores d).trans (h.cores d)⟩

theorem Calm.refl (s : State) (c : Nat) : Calm s s c := (Undisturbed.refl s).calm c

theorem Calm.trans {s t u : State} {c : Nat} (h : Calm s t c) (k : Calm t u c) : Calm s u c :=
  ⟨h.toWithin.trans k.toWithin, k.own.trans h.own⟩

theorem Undisturbed.foldl {α : Type} {f : State → α → State} (l : List α) (hf : ∀ s x, Undisturbed s (f s x))
    (s : State) : Undisturbed s (l.foldl f s) := by
  induction l generalizing s with
  | nil => exact .refl s
  | cons x l ih => exact (hf s x).trans (ih _)

/-- Where the lines are sound, one element after another. -/
theorem Undisturbed.foldl_sound {α : Type} {f : State → α → State} (l : List α)
    (hf : ∀ s x, s.LinesSound → Undisturbed s (f s x)) {s : State} (h : s.LinesSound) : Undisturbed s (l.foldl f s) := by
  induction l generalizing s with
  | nil => exact .refl s
  | cons x l ih =>
    have first := hf s x h
    exact first.trans (ih (first.sound h))

theorem Calm.foldl_sound {α : Type} {f : State → α → State} {c : Nat} (l : List α)
    (hf : ∀ s x, s.LinesSound → Calm s (f s x) c) {s : State} (h : s.LinesSound) : Calm s (l.foldl f s) c := by
  induction l generalizing s with
  | nil => exact .refl s c
  | cons x l ih =>
    have first := hf s x h
    exact first.trans (ih (first.sound h))

theorem Within.setCore (s : State) (c : Nat) (k : Core) : Within s (s.setCore c k) c :=
  ⟨rfl, rfl, id, fun d hd => congrArg Core.withoutFw (State.core_setCore_ne s c d k hd)⟩

theorem Calm.setCore (s : State) (c : Nat) {k : Core} (h : k.settled = (s.core c).settled) : Calm s (s.setCore c k) c :=
  ⟨.setCore s c k, by rw [State.core_setCore, h]⟩

theorem Calm.modCore (s : State) (c : Nat) {f : Core → Core} (h : ∀ k, (f k).settled = k.settled) : Calm s (s.modCore c f) c :=
  .setCore s c (h _)

theorem Undisturbed.modFw (s : State) (c : Nat) (f : FwCtx → FwCtx) :
    Undisturbed s (s.modCore c (fun k => { k with fw := f k.fw })) := by
  refine ⟨rfl, rfl, id, fun d => ?_⟩
  by_cases e : d = c
  · rw [e, State.core_modCore]
    rfl
  · rw [State.core_modCore_ne _ _ _ _ e]

theorem Undisturbed.at (s : State) (n : Nat) (i : Instr) : Undisturbed s (s.at n i) := ⟨rfl, rfl, id, fun _ => rfl⟩

theorem Undisturbed.atOnce (s : State) (n : Nat) (i : Instr) : Undisturbed s (s.atOnce n i) := by
  unfold State.atOnce
  split
  · exact .refl s
  · exact .at s n i

theorem Undisturbed.later (s : State) (n : Nat) (i : Instr) : Undisturbed s (s.later n i) := ⟨rfl, rfl, id, fun _ => rfl⟩

theorem Undisturbed.setChan (s : State) (ch : Nat) (x : Channel) : Undisturbed s (s.setChan ch x) :=
  ⟨rfl, rfl, id, fun _ => rfl⟩

/-! Events (R252, R295, R359). -/

theorem Undisturbed.traceRaw (s : State) (die g core typ cut heat payload : Nat) :
    Undisturbed s (s.traceRaw die g core typ cut heat payload) := by
  unfold State.traceRaw
  dsimp only
  split
  · exact ⟨rfl, rfl, id, fun _ => rfl⟩
  · exact .refl s

theorem Undisturbed.pokeFw (s : State) (c : Nat) : Undisturbed s (s.pokeFw c) := by
  unfold State.pokeFw
  dsimp only
  split
  · exact .atOnce ..
  · exact .refl s

theorem Undisturbed.fwStore (s : State) (c a : Nat) (bs : List Byte) : Undisturbed s (s.fwStore c a bs) :=
  .modFw s c fun f => { f with dmem := f.dmem.writeBytes a bs }

theorem Undisturbed.wake (s : State) (c n : Nat) : Undisturbed s (s.wake c n) :=
  (Undisturbed.modFw s c fun f => { f with fpend := f.fpend ||| BitVec.ofNat 7 (2 ^ n) }).trans (.pokeFw ..)

theorem Undisturbed.event (s : State) (c typ aux payload tp : Nat) : Undisturbed s (s.event c typ aux payload tp) :=
  (((Undisturbed.fwStore s c _ _).trans (.fwStore _ c _ _)).trans (.wake _ c 2)).trans (.traceRaw ..)

theorem Undisturbed.staleReads (s : State) (pa n : Nat) : Undisturbed s (s.staleReads pa n) :=
  .foldl _ (fun _ _ => .event ..) s

/-! Writes of HBM (R294, R299). -/

theorem Undisturbed.hbmStore (s : State) (pa : Nat) (bs : List Byte) : Undisturbed s (s.hbmStore pa bs) :=
  ⟨rfl, rfl, fun h => h.hbmStore pa bs, fun _ => rfl⟩

theorem Undisturbed.freshen (s : State) (pa : Nat) : Undisturbed s (s.freshen pa) := by
  unfold State.freshen
  split
  · exact ((Undisturbed.foldl _ (fun _ _ => .hbmStore ..) s).trans (.setChan ..)).trans (.atOnce ..)
  · exact .refl s

theorem Undisturbed.dynStore (s : State) (pa : Nat) (bs : List Byte) : Undisturbed s (s.dynStore pa bs) :=
  (Undisturbed.foldl _ (fun _ _ => .freshen ..) s).trans (.hbmStore ..)

/-! The lines of a loop buffer (R92, R94). -/

theorem Undisturbed.dynLoad (s : State) (pa n : Nat) : Undisturbed s (s.dynLoad pa n).1 := by
  unfold State.dynLoad
  generalize rowParts (n / 1024 + 2) pa n = l
  suffices fold : ∀ (l : List (Nat × Nat)) (x : State × List Byte),
      Undisturbed x.1 (l.foldl (fun (acc : State × List Byte) p =>
      if acc.1.paStale p.1 then (acc.1.staleReads p.1 p.2, acc.2 ++ zeros p.2)
      else (acc.1, acc.2 ++ acc.1.hbmLoad p.1 p.2)) x).1 from fold l (s, [])
  intro l
  induction l with
  | nil => exact fun x => .refl x.1
  | cons p l ih =>
    intro x
    refine Undisturbed.trans ?_ (ih _)
    dsimp only
    split
    · exact .staleReads ..
    · exact .refl x.1

theorem Calm.expandNext (s : State) (c : Nat) (h : Bool) : Calm s (s.expandNext c h) c := by
  unfold State.expandNext
  dsimp only
  split
  · exact (Calm.modCore s c fun k => k.settled_setHalf ..).trans ((Undisturbed.later ..).calm c)
  · exact .modCore s c fun k => k.settled_setHalf ..

section
variable {s : State} (sound : s.LinesSound) (c : Nat)
include sound

theorem Calm.fetchLine (h : Bool) : Calm s (s.fetchLine c h) c := by
  have walk := sound.walkMeets (s.partOf c) (s.lineVA c h)
  cases address : s.translate (s.partOf c) (s.lineVA c h) false with
  | none =>
    rw [State.fetchLine_unmapped walk address]
    exact .setCore s c (Core.settled_setHalf ..)
  | some pa =>
    cases stale : s.paStale pa with
    | false =>
      rw [State.fetchLine_fresh walk address stale, (sound (pa / 64)).1, (sound (pa / 64)).2]
      exact .setCore s c (Core.settled_setHalf ..)
    | true =>
      simp only [State.lineVA] at walk address
      simp only [State.fetchLine, walk, address, stale, if_true]
      exact ((Undisturbed.dynLoad ..).calm c).trans (.modCore _ c fun k => k.settled_setHalf ..)

theorem Calm.fetchAll (h : Bool) (n : Nat) : Calm s (s.fetchAll c h n) c := by
  induction n generalizing s with
  | zero => exact .refl s c
  | succ n ih =>
    rw [State.fetchAll]
    split
    · have line := Calm.fetchLine sound c h
      exact line.trans (ih (line.sound sound))
    · exact .refl s c

/-- The loop buffer is filled again and nothing else of the core changes (R92, R204). -/
theorem Calm.refill (h : Bool) (hdr : Nat) : Calm s (s.refill c h hdr) c := by
  have begun : Calm s (s.modCore c (fun k => { k.setHalf h (halfBegin hdr) with seq := { k.seq with half := h } })) c := by
    refine .modCore s c fun k => ?_
    cases h <;> rfl
  have first := begun.trans (.fetchAll (begun.sound sound) c h maxLines)
  have next := first.trans (.expandNext _ c h)
  exact next.trans (.fetchAll (next.sound sound) c (!h) maxLines)

end

end Sys2Proof.Machine
end

section
/-! A pour started again (R200, R254, R258, R279): outside its core nothing is disturbed, and its core keeps all but the runs and
the barriers. -/

namespace Sys2Proof.Machine
open Sys2Proof.Safety

/-! Barriers (R198, R200). -/

theorem Calm.stepEnds (s : State) (c bar n : Nat) : Calm s (s.stepEnds c bar n) c := by
  unfold State.stepEnds
  exact ((Undisturbed.foldl _ (fun _ _ => .traceRaw ..) s).calm c).trans (.modCore _ c (by exact fun _ => rfl))

theorem Calm.settleBar (s : State) (c bar : Nat) : Calm s (s.settleBar c bar) c := by
  have hold : ∀ (u : State) (h : Hold), Calm u (u.modCore c (fun k => { k with seq := { k.seq with hold := h } })) c :=
    fun u h => .modCore u c (by exact fun _ => rfl)
  unfold State.settleBar
  dsimp only
  split
  · have settled : Calm s (s.modCore c (fun k => k.wb bar ((s.core c).rb bar).settled)) c := .modCore s c (by exact fun _ => rfl)
    split
    · refine settled.trans (Calm.trans ?_ (.stepEnds ..))
      split
      · split
        · exact hold _ _
        · exact (hold _ _).trans ((Undisturbed.atOnce ..).calm c)
      · exact hold _ _
    · exact settled
  · exact .refl s c

theorem Calm.touchBar (s : State) (c bar : Nat) (delta : Int) (post : Bool) : Calm s (s.touchBar c bar delta post) c :=
  ((Calm.settleBar s c bar).trans (.modCore _ c (by exact fun _ => rfl))).trans ((Undisturbed.atOnce ..).calm c)

/-! Reads and arrivals of a stream (R258, R279, R299). -/

theorem Undisturbed.streamMeets {s : State} (sound : s.LinesSound) (c : Nat) (p : PourDesc) (off n : Nat) :
    Undisturbed s (s.streamMeets c p off n) := by
  unfold State.streamMeets
  split
  · exact .refl s
  · refine .foldl_sound _ (fun s x sound => ?_) sound
    split
    · exact .refl s
    · split
      · exact .staleReads ..
      · rw [sound.hbmFault]
        exact .refl s

theorem Undisturbed.slotsMeet {s : State} (sound : s.LinesSound) (c : Nat) (p : PourDesc) (b : Nat) :
    Undisturbed s (s.slotsMeet c p b) :=
  .foldl_sound _ (fun _ _ sound => .streamMeets sound ..) sound

theorem Undisturbed.refillMeets {s : State} (sound : s.LinesSound) (c : Nat) (p : PourDesc) (r : PourRun) (hi : Nat) :
    Undisturbed s (s.refillMeets c p r hi) := by
  have slots := Undisturbed.slotsMeet sound c p r.next
  unfold State.refillMeets
  dsimp only
  split
  · exact slots
  · split
    · exact slots.trans (.streamMeets (slots.sound sound) ..)
    · exact slots.trans (.foldl_sound _ (fun _ _ sound => .streamMeets sound ..) (slots.sound sound))

theorem Calm.scheduleArrival (s : State) (c id : Nat) : Calm s (s.scheduleArrival c id) c := by
  unfold State.scheduleArrival
  split
  · dsimp only
    split
    · exact (((Undisturbed.foldl _ (fun _ _ => .at ..) s).calm c).trans (.modCore _ c (by exact fun _ => rfl))).trans
        ((Undisturbed.at ..).calm c)
    · exact .refl s c
  · exact .refl s c

/-- A pour started again (R279). -/
theorem Calm.restartPour {s : State} (sound : s.LinesSound) (c : Nat) (r : PourRun) (shift : Nat) (upto : Int) :
    Calm s (s.restartPour c r shift upto) c := by
  unfold State.restartPour
  split
  · exact .refl s c
  · extract_lets u k lo hi r0 r1 r2 bs r3 v v1 v2 v3
    have read : Calm s u c := (Undisturbed.refillMeets sound ..).calm c
    have added : Calm u v c := .setCore u c (by exact rfl)
    have counted : Calm v v1 c := by
      dsimp only [v1]
      split
      · split
        · exact .refl v c
        · exact .touchBar ..
      · exact .refl v c
    have asked : Calm v1 v2 c := by
      dsimp only [v2]
      split
      · exact .scheduleArrival ..
      · exact (Undisturbed.atOnce ..).calm c
    have loaded : Undisturbed v2 v3 := by
      dsimp only [v3]
      split
      · exact .refl v2
      · exact .later ..
    exact (((read.trans added).trans counted).trans asked).trans ((loaded.trans (.at ..)).calm c)

end Sys2Proof.Machine
end

section
/-! A stopped heat is chosen, and its shift tested (R245, R314, log entry 34). -/

namespace Sys2Proof.Machine
open Sys2Proof.Safety

theorem leastOf_cons_ne_none (a : Int) (l : List Int) : leastOf (a :: l) ≠ none := by
  rw [leastOf]
  split <;> exact Option.some_ne_none _

theorem leastOf_le {l : List Int} {n : Int} (h : leastOf l = some n) : n ∈ l ∧ ∀ y, y ∈ l → n ≤ y := by
  induction l generalizing n with
  | nil => cases h
  | cons a l ih =>
    rw [leastOf] at h
    split at h
    · next b rest =>
      obtain ⟨mem, le⟩ := ih rest
      obtain rfl : min a b = n := Option.some.inj h
      refine ⟨?_, fun y hy => ?_⟩
      · rcases min_choice a b with e | e <;> simp [e, mem]
      · rcases List.mem_cons.mp hy with rfl | hy
        · exact min_le_left ..
        · exact (min_le_right ..).trans (le y hy)
    · next rest =>
      obtain rfl : a = n := Option.some.inj h
      cases l with
      | nil => simp
      | cons b l => exact absurd rest (leastOf_cons_ne_none b l)

/-- A least element is the least. -/
theorem leastOf_eq_some {l : List Int} {m : Int} (mem : m ∈ l) (le : ∀ y, y ∈ l → m ≤ y) : leastOf l = some m := by
  cases e : leastOf l with
  | none =>
    cases l with
    | nil => cases mem
    | cons b l => exact absurd e (leastOf_cons_ne_none b l)
  | some n =>
    obtain ⟨hn, hle⟩ := leastOf_le e
    rw [le_antisymm (hle m mem) (le n hn)]

section
variable {s : State} {p : Nat} {h : Heat} {want : HeatPhase}

theorem stoppedHeat_over (live : want ≠ .none ∧ want ≠ .ended)
    (isOver : (s.heat p).phase = .none ∨ (s.heat p).phase = .ended) : s.stoppedHeat p want =
      (s.parked.find? (fun x => decide (x.1 = p) && decide (x.2.phase = want))).map (fun x => x.2) := by
  have other : (s.heat p).phase ≠ want := fun e => by
    rw [e] at isOver
    exact isOver.elim live.1 live.2
  unfold State.stoppedHeat
  dsimp only
  rw [if_neg other, if_pos isOver]

/-- The current heat, or the one parked last behind one that is over. -/
theorem stoppedHeat_eq_some (live : want ≠ .none ∧ want ≠ .ended) (hw : h.phase = want)
    (stands : s.heat p = h ∨ (((s.heat p).phase = .none ∨ (s.heat p).phase = .ended) ∧
      ∃ l r, s.parked = l ++ (p, h) :: r ∧ ∀ y, y ∈ l → ¬(y.1 = p ∧ y.2.phase = h.phase))) :
    s.stoppedHeat p want = some h := by
  rcases stands with rfl | ⟨isOver, l, r, parked, first⟩
  · exact if_pos hw
  · have skipped : l.find? (fun x => decide (x.1 = p) && decide (x.2.phase = want)) = none :=
      List.find?_eq_none.2 fun y hy => by simpa [hw] using first y hy
    rw [stoppedHeat_over live isOver, parked, List.find?_append, skipped]
    simp [hw]

theorem stoppedHeat_of_other (other : (s.heat p).phase ≠ want)
    (live : (s.heat p).phase ≠ .none ∧ (s.heat p).phase ≠ .ended) : s.stoppedHeat p want = none := by
  simp [State.stoppedHeat, other, live]

theorem stoppedHeat_of_over (live : want ≠ .none ∧ want ≠ .ended)
    (isOver : (s.heat p).phase = .none ∨ (s.heat p).phase = .ended)
    (none_parked : ∀ y, y ∈ s.parked → ¬(y.1 = p ∧ y.2.phase = want)) : s.stoppedHeat p want = none := by
  rw [stoppedHeat_over live isOver, List.find?_eq_none.2 fun y hy => by simpa using none_parked y hy]
  rfl

end

theorem execHeatRestart_of_none {s : State} {p delta : Nat} (h : s.stoppedHeat p .trapped = none) :
    exec (.heatRestart p delta) s = .next s := by
  rw [exec_heatRestart, execHeatRestart, h]

theorem execHeatResume_of_none {s : State} {p delta : Nat} (h : s.stoppedHeat p .atCut = none) :
    exec (.heatResume p delta) s = .next s := by
  rw [exec_heatResume, execHeatResume, h]

end Sys2Proof.Machine
end

section
/-! The state in which a heat goes on (R240, R245, R292, R314). -/

namespace Sys2Proof.Machine
open Sys2Proof.Safety

/-- A stopped heat that runs again with the shift Δ (R245, R314). -/
def Heat.goesOn (h : Heat) (delta : Nat) : Heat :=
  { h with phase := .running, sigma := h.sigma + delta, stopS := none, quiet := none, byTrap := false, trapCores := [],
           stopReq := none, cutK := none }

theorem newSpan_rest (s : State) (p : Nat) : { s.newSpan p with cores := s.cores } = s := by
  unfold State.newSpan
  suffices fold : ∀ (l : List Nat) (t : State), { t with cores := s.cores } = s →
      { l.foldl (fun s c => s.modCore c (fun k => { k with spanTrap := false })) t with cores := s.cores } = s from fold _ s rfl
  intro l
  induction l with
  | nil => exact fun _ h => h
  | cons d l ih => exact fun t h => ih _ h

/-- The span of trap records of each core of the partition is over (R240), and nothing else of a core changes. -/
theorem newSpan_core (s : State) (p c : Nat) : (s.newSpan p).core c =
    { s.core c with spanTrap := (s.core c).spanTrap && decide (c ∉ s.partCores p) } := by
  unfold State.newSpan
  generalize s.partCores p = l
  induction l generalizing s with
  | nil => simp
  | cons d l ih =>
    rw [List.foldl_cons, ih]
    by_cases e : c = d
    · subst e
      simp [State.core_modCore]
    · rw [State.core_modCore_ne _ _ _ _ e]
      simp [e]

/-- Where a heat goes on: it is the current one of its partition, and a new span of trap records begins. -/
def State.withHeat (s : State) (p : Nat) (h h1 : Heat) : State := ((s.unpark p h).setHeat p h1).newSpan p

theorem withHeat_heat (s : State) (p : Nat) (h h1 : Heat) :
    (s.withHeat p h h1).heat p = h1 ∧ ∀ q, q ≠ p → (s.withHeat p h h1).heat q = s.heat q := by
  have heats := congrArg State.heats (newSpan_rest ((s.unpark p h).setHeat p h1) p)
  have heat : ∀ q, (s.withHeat p h h1).heat q = ((s.unpark p h).setHeat p h1).heat q :=
    fun q => congrArg (sget heatReset · q) heats
  exact ⟨(heat p).trans (State.heat_setHeat ..), fun q hq => (heat q).trans (State.heat_setHeat_ne _ _ _ _ hq)⟩

theorem withHeat_core (s : State) (p : Nat) (h h1 : Heat) (c : Nat) : (s.withHeat p h h1).core c =
    { s.core c with spanTrap := (s.core c).spanTrap && decide (c ∉ s.partCores p) } :=
  newSpan_core ((s.unpark p h).setHeat p h1) p c

theorem State.LinesSound.withHeat {s : State} (sound : s.LinesSound) (p : Nat) (h h1 : Heat) : (s.withHeat p h h1).LinesSound :=
  have rest := newSpan_rest ((s.unpark p h).setHeat p h1) p
  sound.of_eq (congrArg State.lines rest :) (congrArg State.mgmt rest :)

theorem Undisturbed.scheduleEntry (s : State) (p ch i : Nat) : Undisturbed s (s.scheduleEntry p ch i) := by
  unfold State.scheduleEntry
  dsimp only
  split
  · exact .refl s
  · split
    · exact .refl s
    · split
      · exact .at ..
      · exact .refl s

theorem Undisturbed.resumeChannel (s : State) (ch delta : Nat) : Undisturbed s (s.resumeChannel ch delta) :=
  ((Undisturbed.setChan s ch _).trans (.at ..)).trans (.foldl _ (fun _ _ => .atOnce ..) _)

/-- The timelines go on without a trap (R245, R314). -/
theorem Undisturbed.resumeTimelines (s : State) (p : Nat) (m : Int) (delta : Nat) :
    Undisturbed s (s.resumeTimelines p m delta) :=
  .foldl _ (fun _ _ => (Undisturbed.resumeChannel ..).trans (.scheduleEntry ..)) s

/-- Regions that a cut discards read as zero (R250). -/
theorem Undisturbed.zeroDiscarded (s : State) (h : Heat) : Undisturbed s (s.zeroDiscarded h) := by
  refine .foldl _ (fun s e => ?_) s
  split
  · refine .foldl _ (fun s i => ?_) s
    split
    · exact .dynStore ..
    · exact .refl s
  · exact .refl s

/-! One core after another. -/

section
variable {α : Type} {f : State → α → State} {key : α → Nat}
  (within : ∀ s a, s.LinesSound → Within s (f s a) (key a))
include within

/-- Cores that go on one after another leave the heats alone, and the lines sound. -/
theorem Within.foldl (l : List α) {s : State} (sound : s.LinesSound) :
    (l.foldl f s).heats = s.heats ∧ (l.foldl f s).LinesSound := by
  induction l generalizing s with
  | nil => exact ⟨rfl, sound⟩
  | cons a l ih =>
    have first := within s a sound
    obtain ⟨heats, sound'⟩ := ih (first.sound sound)
    exact ⟨heats.trans first.heats, sound'⟩

variable {p c : Nat} {h : Heat} {l : List α}

/-- What holds of core `c` and is kept when it goes on itself. -/
theorem foldl_core_keeps {P : Core → Prop} (own : ∀ s a, a ∈ l → s.LinesSound → s.heat p = h → key a = c →
      P (s.core c).withoutFw → P ((f s a).core c).withoutFw)
    {s : State} (sound : s.LinesSound) (heat : s.heat p = h) (hP : P (s.core c).withoutFw) :
    P ((l.foldl f s).core c).withoutFw := by
  induction l generalizing s with
  | nil => exact hP
  | cons a l ih =>
    have first := within s a sound
    refine ih (fun s a ha => own s a (List.mem_cons_of_mem _ ha)) (first.sound sound) ((first.heat p).trans heat) ?_
    by_cases mine : key a = c
    · exact own s a List.mem_cons_self sound heat mine hP
    · rw [first.cores c (Ne.symm mine)]
      exact hP

/-- What holds of core `c` once it has gone on itself. -/
theorem foldl_core_becomes {P Q : Core → Prop} (own : ∀ s a, a ∈ l → s.LinesSound → s.heat p = h → key a = c →
      P (s.core c).withoutFw → Q ((f s a).core c).withoutFw) (again : ∀ k, Q k → P k)
    {s : State} (sound : s.LinesSound) (heat : s.heat p = h) (hP : P (s.core c).withoutFw) {x : α}
    (hx : x ∈ l) (mine : key x = c) : Q ((l.foldl f s).core c).withoutFw := by
  induction l generalizing s with
  | nil => cases hx
  | cons a l ih =>
    have first := within s a sound
    have own' := fun s a (ha : a ∈ l) => own s a (List.mem_cons_of_mem _ ha)
    have sound' := first.sound sound
    have heat' := (first.heat p).trans heat
    by_cases e : key a = c
    · exact foldl_core_keeps within (fun s a ha hs hh hk hQ => own' s a ha hs hh hk (again _ hQ)) sound' heat'
        (own s a List.mem_cons_self sound heat e hP)
    · have hx' : x ∈ l := (List.mem_cons.mp hx).resolve_left fun hxa => e (hxa ▸ mine)
      refine ih own' sound' heat' ?_ hx'
      rw [first.cores c (Ne.symm e)]
      exact hP

end

/-- A core issues at its cycle, and what it had kept it keeps (R245, R251). -/
theorem issueAt_settled {s t : State} {c : Nat} (h : Calm s t c) (n : Nat) : ((t.issueAt c n).core c).settled =
    ({ s.core c with seq := { (s.core c).seq with due := n } } : Core).settled := by
  have due : ∀ k : Core, ({ k with seq := { k.seq with due := n } } : Core).settled =
      { k.settled with seq := { k.settled.seq with due := n } } := fun _ => rfl
  rw [State.issueAt, State.core_at, State.core_modCore, due, h.own, ← due]

theorem Within.issueAt (s : State) (c n : Nat) : Within s (s.issueAt c n) c :=
  (Within.setCore s c _).trans ((Undisturbed.at ..).calm c).toWithin

end Sys2Proof.Machine
end

section
/-! A trapped heat starts again from its restart marks (R204, R205, R245). -/

namespace Sys2Proof.Machine
open Sys2Proof.Safety

theorem markOf_eq_some_iff {k : Core} {h : Heat} {x : Shadow} :
    k.markOf h = some x ↔ k.shadow = some x ∧ x.heat = h.origin := by
  simp [Core.markOf, Option.filter_eq_some_iff]

/-- A core whose sequencer, streams, carries and barriers come back from a mark (R204, R205). -/
def Core.fromMark (k : Core) (h : Heat) (x : Shadow) : Core :=
  { k with seq := { x.seq with due := ((h.origin : Int) + x.sched + h.sigma).toNat, lastIssue := k.seq.lastIssue },
           a := x.a, y := x.y, bar := x.bar, runs := [],
           bitsDue := k.bitsDue.filter (fun d => decide (d.at_ < ((h.origin : Int) + x.sched + x.sigma).toNat)) }

/-- A core that comes back from its mark twice is as after the first time. -/
theorem fromMark_fromMark {k k' : Core} {h : Heat} {x : Shadow} (e : k.settled = (k'.fromMark h x).settled) :
    (k.fromMark h x).settled = (k'.fromMark h x).settled := by
  have again : ((k'.fromMark h x).fromMark h x).settled = (k'.fromMark h x).settled := by
    simp only [Core.fromMark, List.filter_filter, Bool.and_self]
  have both := congrArg (fun k => (k.fromMark h x).settled) e
  exact Eq.trans both again

section
variable {s : State} {p c : Nat}

theorem restartCore_unmarked (h : (s.core c).markOf (s.heat p) = none) : s.restartCore p c = s.modCore c Core.forgetRecords := by
  unfold State.restartCore
  dsimp only
  rw [h]

/-- A core with a mark goes on at its cycle. -/
theorem restartCore_marked (sound : s.LinesSound) {x : Shadow} (h : (s.core c).markOf (s.heat p) = some x) : ∃ t,
    Calm (s.setCore c ((s.core c).fromMark (s.heat p) x)) t c ∧
      s.restartCore p c = t.issueAt c (((s.heat p).origin : Int) + x.sched + (s.heat p).sigma).toNat := by
  unfold State.restartCore
  dsimp only
  rw [h]
  dsimp only
  refine ⟨_, ?_, rfl⟩
  have filled := Calm.refill (s := s.setCore c ((s.core c).fromMark (s.heat p) x)) sound c x.seq.half x.segHdr
  exact filled.trans (.foldl_sound _ (fun _ _ sound => .restartPour sound ..) (filled.sound sound))

theorem restartCore_settled (sound : s.LinesSound) {x : Shadow} (h : (s.core c).markOf (s.heat p) = some x) :
    ((s.restartCore p c).core c).settled = ((s.core c).fromMark (s.heat p) x).settled := by
  obtain ⟨t, calm, e⟩ := restartCore_marked sound h
  rw [e, issueAt_settled calm, State.core_setCore]
  rfl

end

theorem Within.restartCore (p : Nat) (s : State) (c : Nat) (sound : s.LinesSound) : Within s (s.restartCore p c) c := by
  cases h : (s.core c).markOf (s.heat p) with
  | none =>
    rw [restartCore_unmarked h]
    exact .setCore ..
  | some x =>
    obtain ⟨t, calm, e⟩ := restartCore_marked sound h
    rw [e]
    exact ((Within.setCore s c _).trans calm.toWithin).trans (.issueAt ..)

/-! The cores of a heat, one after another. -/

section
variable {s : State} (sound : s.LinesSound) {p : Nat} {h : Heat} (heat : s.heat p = h) (l : List Nat) (c : Nat)
include sound heat

theorem restartCores_marked {x : Shadow} (mark : (s.core c).markOf h = some x) (hc : c ∈ l) :
    ((l.foldl (fun s c => s.restartCore p c) s).core c).settled = ((s.core c).fromMark h x).settled := by
  refine foldl_core_becomes (key := id) (l := l)
    (P := fun k => k.markOf h = some x ∧ (k.fromMark h x).settled = ((s.core c).fromMark h x).settled)
    (Q := fun k => k.settled = ((s.core c).fromMark h x).settled) (.restartCore p) ?_ ?_ sound heat ⟨mark, rfl⟩ hc rfl
  · rintro u d - usound uheat rfl ⟨umark, same⟩
    exact (restartCore_settled usound (uheat ▸ umark)).trans (uheat ▸ same)
  · intro k hk
    have shadow : k.shadow = (s.core c).shadow := (congrArg Core.shadow hk :)
    exact ⟨by rw [Core.markOf, shadow]; exact mark, fromMark_fromMark hk⟩

theorem restartCores_unmarked (mark : (s.core c).markOf h = none) (hc : c ∈ l) :
    ((l.foldl (fun s c => s.restartCore p c) s).core c).withoutFw = (s.core c).forgetRecords.withoutFw := by
  refine foldl_core_becomes (key := id) (l := l) (P := fun k => k.forgetRecords = (s.core c).forgetRecords.withoutFw)
    (Q := fun k => k = (s.core c).forgetRecords.withoutFw) (.restartCore p) ?_ ?_ sound heat rfl hc rfl
  · rintro u d - - uheat rfl same
    have shadow : (u.core d).shadow = (s.core d).shadow := (congrArg Core.shadow same :)
    have umark : (u.core d).markOf (u.heat p) = none := by
      rw [uheat, Core.markOf, shadow]
      exact mark
    rw [id, restartCore_unmarked umark, State.core_modCore]
    exact same
  · rintro k rfl
    rfl

theorem restartCores_spanTrap : ((l.foldl (fun s c => s.restartCore p c) s).core c).spanTrap = (s.core c).spanTrap := by
  refine foldl_core_keeps (key := id) (l := l) (P := fun k => k.spanTrap = (s.core c).spanTrap) (.restartCore p) ?_ sound heat rfl
  rintro u d - usound - rfl same
  cases mark : (u.core d).markOf (u.heat p) with
  | none =>
    rw [id, restartCore_unmarked mark, State.core_modCore]
    exact same
  | some x => exact (congrArg Core.spanTrap (restartCore_settled usound mark) :).trans same

end

/-! The heat. -/

/-- A trapped heat that starts again, from the earliest mark `m` on (R245). -/
def State.restartHeat (s : State) (p delta : Nat) (h : Heat) (m : Int) : State :=
  (h.cores.foldl (fun s c => s.restartCore p c) (s.withHeat p h (h.goesOn delta))).resumeTimelines p m delta

section
variable {s : State} {p delta : Nat} {h : Heat} (stands : s.stoppedHeat p .trapped = some h)
include stands

theorem execHeatRestart_unmarked (none_marked : ∀ c, c ∈ h.cores → (s.core c).markOf h = none) :
    exec (.heatRestart p delta) s = .next s := by
  have least : leastOf (h.cores.filterMap (fun c => ((s.core c).markOf h).map (fun x => x.sched))) = none := by
    rw [List.filterMap_eq_nil_iff.2 fun c hc => by rw [none_marked c hc]; rfl]
    rfl
  rw [exec_heatRestart, execHeatRestart, stands]
  dsimp only
  rw [least]

/-- A heat restarts if the shift lets its earliest mark lie late enough (R245). -/
theorem execHeatRestart_marked {m : Int} (first : ∃ c x, c ∈ h.cores ∧ (s.core c).markOf h = some x ∧ x.sched = m)
    (earliest : ∀ c x, c ∈ h.cores → (s.core c).markOf h = some x → m ≤ x.sched) :
    exec (.heatRestart p delta) s = .next (if shiftOk h s.gcount m delta then s.restartHeat p delta h m else s) := by
  have least : leastOf (h.cores.filterMap (fun c => ((s.core c).markOf h).map (fun x => x.sched))) = some m := by
    refine leastOf_eq_some (List.mem_filterMap.2 ?_) fun y hy => ?_
    · obtain ⟨c, x, hc, mark, rfl⟩ := first
      exact ⟨c, hc, by rw [mark]; rfl⟩
    · obtain ⟨c, hc, hy⟩ := List.mem_filterMap.1 hy
      obtain ⟨x, mark, rfl⟩ := Option.map_eq_some_iff.1 hy
      exact earliest c x hc mark
  rw [exec_heatRestart, execHeatRestart, stands]
  dsimp only
  rw [least]
  dsimp only
  split <;> rfl

end

section
variable {s : State} (sound : s.LinesSound) (p delta : Nat) (h : Heat) (m : Int)
include sound

theorem restartHeat_heat : (s.restartHeat p delta h m).heat p = h.goesOn delta ∧
    ∀ q, q ≠ p → (s.restartHeat p delta h m).heat q = s.heat q := by
  obtain ⟨mine, others⟩ := withHeat_heat s p h (h.goesOn delta)
  have heats := (Within.foldl (.restartCore p) h.cores (sound.withHeat p h (h.goesOn delta))).1
  have heat : ∀ q, (s.restartHeat p delta h m).heat q = (s.withHeat p h (h.goesOn delta)).heat q := fun q =>
    ((Undisturbed.resumeTimelines ..).heat q).trans (congrArg (sget heatReset · q) heats)
  exact ⟨(heat p).trans mine, fun q hq => (heat q).trans (others q hq)⟩

theorem restartHeat_spanTrap (c : Nat) (hc : c ∈ s.partCores p) : ((s.restartHeat p delta h m).core c).spanTrap = false := by
  have timelines : ((s.restartHeat p delta h m).core c).spanTrap = _ :=
    (congrArg Core.spanTrap ((Undisturbed.resumeTimelines ..).cores c) :)
  rw [timelines]
  refine (restartCores_spanTrap (sound.withHeat p h _) (withHeat_heat s p h _).1 h.cores c).trans ?_
  rw [withHeat_core]
  simp [hc]

theorem restartHeat_marked {c : Nat} (hc : c ∈ h.cores) {x : Shadow} (mark : (s.core c).markOf h = some x) :
    ((s.restartHeat p delta h m).core c).settled =
      (((s.withHeat p h (h.goesOn delta)).core c).fromMark (h.goesOn delta) x).settled := by
  refine (Core.settled_of_withoutFw ((Undisturbed.resumeTimelines ..).cores c)).trans ?_
  refine restartCores_marked (sound.withHeat p h _) (withHeat_heat s p h _).1 h.cores c ?_ hc
  rw [withHeat_core]
  exact mark

theorem restartHeat_unmarked {c : Nat} (hc : c ∈ h.cores) (mark : (s.core c).markOf h = none) :
    ((s.restartHeat p delta h m).core c).withoutFw = ((s.withHeat p h (h.goesOn delta)).core c).forgetRecords.withoutFw := by
  refine ((Undisturbed.resumeTimelines ..).cores c).trans ?_
  refine restartCores_unmarked (sound.withHeat p h _) (withHeat_heat s p h _).1 h.cores c ?_ hc
  rw [withHeat_core]
  exact mark

end

end Sys2Proof.Machine
end

section
/-! A heat at a cut goes on from what the cut saved (R250, R251, R314). -/

namespace Sys2Proof.Machine
open Sys2Proof.Safety

/-- A core has what a cut saved of it, and its bundle is due at cycle `due` unless it had halted (R251). -/
structure SavedCore.Restored (x : SavedCore) (due : Nat) (z : Core) : Prop where
  s : z.s = x.s
  k : z.k = x.k
  q : z.q = x.q
  w : z.w = x.w
  y : z.y = x.y
  a : z.a = x.a
  csp : z.csp = x.csp
  bitsDue : z.bitsDue = x.bitsDue
  branch : z.seq.branch = x.seq.branch
  halted : x.halted = true → z.seq.dom = .halted
  goesOn : x.halted = false → z.seq.due = due ∧ z.seq.dom = .static

/-- What the code and the pours of the core change does not matter. -/
theorem SavedCore.Restored.of_settled {x : SavedCore} {due : Nat} {k k' : Core} (h : x.Restored due k)
    (e : k'.settled = k.settled) : x.Restored due k' where
  s := (congrArg Core.s e :).trans h.s
  k := (congrArg Core.k e :).trans h.k
  q := (congrArg Core.q e :).trans h.q
  w := (congrArg Core.w e :).trans h.w
  y := (congrArg Core.y e :).trans h.y
  a := (congrArg Core.a e :).trans h.a
  csp := (congrArg Core.csp e :).trans h.csp
  bitsDue := (congrArg Core.bitsDue e :).trans h.bitsDue
  branch := (congrArg (fun k => k.seq.branch) e :).trans h.branch
  halted hx := (congrArg (fun k => k.seq.dom) e :).trans (h.halted hx)
  goesOn hx := ⟨(congrArg (fun k => k.seq.due) e :).trans (h.goesOn hx).1,
    (congrArg (fun k => k.seq.dom) e :).trans (h.goesOn hx).2⟩

theorem resumeCore_restores {s : State} (sound : s.LinesSound) (p : Nat) (m : Int) (x : SavedCore) :
    Within s (s.resumeCore p m x) x.core ∧
      x.Restored (((s.heat p).origin : Int) + x.sched + (s.heat p).sigma).toNat ((s.resumeCore p m x).core x.core) := by
  unfold State.resumeCore
  extract_lets h c k0 flags dom old q k v upto pour
  have set : Within s v c := .setCore s c k
  have core : v.core c = k := State.core_setCore s c k
  have pours : ∀ u : State, u.LinesSound → Calm u (pour u) c := fun u usound =>
    .foldl_sound _ (fun _ _ sound => .restartPour sound ..) usound
  cases halted : x.halted with
  | true =>
    have calm := pours v (set.sound sound)
    rw [if_pos rfl]
    refine ⟨set.trans calm.toWithin, SavedCore.Restored.of_settled ?_ (calm.own.trans (congrArg Core.settled core))⟩
    exact ⟨rfl, rfl, rfl, rfl, rfl, rfl, rfl, rfl, rfl, fun _ => if_pos halted, fun hx => by simp [hx] at halted⟩
  | false =>
    have filled := Calm.refill (set.sound sound) c x.seq.half x.segHdr
    have calm := filled.trans (pours _ (filled.sound (set.sound sound)))
    rw [if_neg Bool.false_ne_true]
    refine ⟨(set.trans calm.toWithin).trans (.issueAt ..), SavedCore.Restored.of_settled ?_ (issueAt_settled calm _)⟩
    rw [core]
    refine ⟨rfl, rfl, rfl, rfl, rfl, rfl, rfl, rfl, rfl, fun hx => by simp [hx] at halted, fun _ => ⟨rfl, ?_⟩⟩
    exact if_neg (Bool.eq_false_iff.mp halted)

theorem Within.resumeCore (p : Nat) (m : Int) (s : State) (x : SavedCore) (sound : s.LinesSound) :
    Within s (s.resumeCore p m x) x.core := (resumeCore_restores sound p m x).1

theorem resumeCores_restore {s : State} (sound : s.LinesSound) {p : Nat} {h : Heat} (heat : s.heat p = h) (m : Int)
    {l : List SavedCore} (distinct : (l.map (fun x => x.core)).Nodup) {x : SavedCore} (hx : x ∈ l) :
    x.Restored ((h.origin : Int) + x.sched + h.sigma).toNat ((l.foldl (fun s x => s.resumeCore p m x) s).core x.core) := by
  refine SavedCore.Restored.of_settled (k := ((l.foldl (fun s x => s.resumeCore p m x) s).core x.core).withoutFw) ?_ rfl
  refine foldl_core_becomes (key := fun x : SavedCore => x.core) (P := fun _ => True) (.resumeCore p m) ?_ (fun _ _ => trivial)
    sound heat trivial hx rfl
  intro u y hy usound uheat same _
  obtain rfl : y = x := List.inj_on_of_nodup_map distinct hy hx same
  rw [← uheat]
  exact (resumeCore_restores usound p m y).2.of_settled rfl

/-! The heat. -/

/-- The cores of a heat at a cut once they have gone on, from the earliest stop position `m` on (R251). -/
def State.resumeHeat (s : State) (p delta : Nat) (h : Heat) (m : Int) : State :=
  let h1 : Heat := { h.goesOn delta with saved := [] }
  let t := (h.saved.foldl (fun s x => s.resumeCore p m x) ((s.withHeat p h h1).zeroDiscarded h1)).resumeTimelines p m delta
  t.atOnce t.gcount (.heatCompletion p)

/-- A heat resumes if the shift lets its earliest stop position lie late enough (R251, R314). -/
theorem execHeatResume_saved {s : State} {p delta : Nat} {h : Heat} (stands : s.stoppedHeat p .atCut = some h) {m : Int}
    (first : ∃ x, x ∈ h.saved ∧ x.halted = false ∧ x.sched = m)
    (earliest : ∀ x, x ∈ h.saved → x.halted = false → m ≤ x.sched) :
    exec (.heatResume p delta) s = .next (if shiftOk h s.gcount m delta then s.resumeHeat p delta h m else s) := by
  have least : leastOf ((h.saved.filter (fun x => !x.halted)).map (fun x => x.sched)) = some m := by
    refine leastOf_eq_some (List.mem_map.2 ?_) fun y hy => ?_
    · obtain ⟨x, hx, live, rfl⟩ := first
      exact ⟨x, List.mem_filter.2 ⟨hx, by simp [live]⟩, rfl⟩
    · obtain ⟨x, hx, rfl⟩ := List.mem_map.1 hy
      obtain ⟨hx, live⟩ := List.mem_filter.1 hx
      exact earliest x hx (by simpa using live)
  rw [exec_heatResume, execHeatResume, stands]
  dsimp only
  rw [least]
  dsimp only
  split <;> rfl

section
variable {s : State} (sound : s.LinesSound) (p delta : Nat) (h : Heat) (m : Int)
include sound

theorem resumeHeat_heat : (s.resumeHeat p delta h m).heat p = { h.goesOn delta with saved := [] } ∧
    ∀ q, q ≠ p → (s.resumeHeat p delta h m).heat q = s.heat q := by
  let h1 : Heat := { h.goesOn delta with saved := [] }
  obtain ⟨mine, others⟩ := withHeat_heat s p h h1
  have zeroed := Undisturbed.zeroDiscarded (s.withHeat p h h1) h1
  have heats := (Within.foldl (.resumeCore p m) h.saved (zeroed.sound (sound.withHeat p h h1))).1
  have heat : ∀ q, (s.resumeHeat p delta h m).heat q = (s.withHeat p h h1).heat q := fun q =>
    (((Undisturbed.resumeTimelines ..).trans (.atOnce ..)).heat q).trans
      ((congrArg (sget heatReset · q) heats :).trans (zeroed.heat q))
  exact ⟨(heat p).trans mine, fun q hq => (heat q).trans (others q hq)⟩

theorem resumeHeat_restores (distinct : (h.saved.map (fun x => x.core)).Nodup) {x : SavedCore} (hx : x ∈ h.saved) :
    x.Restored ((h.origin : Int) + x.sched + (h.sigma + delta : Nat)).toNat ((s.resumeHeat p delta h m).core x.core) := by
  let h1 : Heat := { h.goesOn delta with saved := [] }
  have zeroed := Undisturbed.zeroDiscarded (s.withHeat p h h1) h1
  have heat := (zeroed.heat p).trans (withHeat_heat s p h h1).1
  refine (resumeCores_restore (zeroed.sound (sound.withHeat p h h1)) heat m distinct hx).of_settled ?_
  exact Core.settled_of_withoutFw (((Undisturbed.resumeTimelines ..).trans (.atOnce ..)).cores x.core)

end

/-- Settles O42: the heat that stands is chosen; then each core of a restart is as its mark says, or stays as it stopped, and each
core of a resume is as it was saved, whatever the other cores' code and pours do. -/
theorem heatGoesOn : Obligations.HeatGoesOn := by
  intro s p delta h m g enough due base over_ stands marked hstands
  have trappedLive : HeatPhase.trapped ≠ .none ∧ HeatPhase.trapped ≠ .ended := by decide
  have cutLive : HeatPhase.atCut ≠ .none ∧ HeatPhase.atCut ≠ .ended := by decide
  have dueEq : ∀ n : Int, ((h.origin : Int) + n + (h.sigma + delta : Nat)).toNat = due n := fun n => by
    simp only [due]
    omega
  have markOf : ∀ {c x}, c ∈ h.cores → (marked c x ↔ (s.core c).markOf h = some x) := fun hc => by
    rw [markOf_eq_some_iff]
    exact and_iff_right hc
  have unmarked : ∀ {c}, c ∈ h.cores → (∀ x, ¬marked c x) → (s.core c).markOf h = none := fun hc none_marked =>
    Option.eq_none_iff_forall_ne_some.2 fun x hx => none_marked x ((markOf hc).2 hx)
  refine ⟨fun trapped ⟨c0, x0, mark0, sched0⟩ earliest => ?_, fun trapped none_marked => ?_,
    fun current other live live' => ?_, fun isOver none_parked => ?_, fun cut distinct first earliest => ?_,
    fun current other live live' => ?_,
    fun isOver none_parked => ?_⟩
  · have run := execHeatRestart_marked (delta := delta) (stoppedHeat_eq_some trappedLive trapped hstands)
      ⟨c0, x0, mark0.1, (markOf mark0.1).1 mark0, sched0⟩ fun c x hc mark => earliest c x ((markOf hc).2 mark)
    refine ⟨fun short => run.trans (congrArg _ (if_neg ?_)), fun long sound => ⟨_, run.trans (congrArg _ (if_pos ?_)), ?_⟩⟩
    · exact fun ok => short (of_decide_eq_true ok)
    · exact decide_eq_true long
    obtain ⟨mine, others⟩ := restartHeat_heat sound p delta h m
    refine ⟨mine, others, fun c hc => restartHeat_spanTrap sound p delta h m c hc, fun c x mark => ?_,
      fun c hc none_marked => ?_⟩
    · have e := restartHeat_marked sound p delta h m mark.1 ((markOf mark.1).1 mark)
      rw [withHeat_core] at e
      exact ⟨(congrArg (fun k => k.seq.due) e :).trans (dueEq x.sched), (congrArg (fun k => k.seq.pos) e :),
        (congrArg (fun k => k.seq.dom) e :), (congrArg (fun k => k.seq.loops) e :), (congrArg (fun k => k.seq.branch) e :),
        (congrArg (fun k => k.seq.stopFrom) e :),
        (congrArg Core.y e :), (congrArg Core.a e :), (congrArg Core.s e :), (congrArg Core.q e :), (congrArg Core.v e :),
        (congrArg Core.sstat e :), (congrArg Core.csp e :)⟩
    · have e := restartHeat_unmarked sound p delta h m hc (unmarked hc none_marked)
      rw [withHeat_core] at e
      exact ⟨(congrArg Core.seq e :), (congrArg (fun k => k.half0.rec_) e :), (congrArg (fun k => k.half1.rec_) e :)⟩
  · exact execHeatRestart_unmarked (stoppedHeat_eq_some trappedLive trapped hstands) fun c hc => unmarked hc (none_marked c)
  · subst current
    exact execHeatRestart_of_none (stoppedHeat_of_other other ⟨live, live'⟩)
  · exact execHeatRestart_of_none (stoppedHeat_of_over trappedLive isOver none_parked)
  · have run := execHeatResume_saved (delta := delta) (stoppedHeat_eq_some cutLive cut hstands) first earliest
    refine ⟨fun short => run.trans (congrArg _ (if_neg ?_)), fun long sound => ⟨_, run.trans (congrArg _ (if_pos ?_)), ?_⟩⟩
    · exact fun ok => short (of_decide_eq_true ok)
    · exact decide_eq_true long
    obtain ⟨mine, others⟩ := resumeHeat_heat sound p delta h m
    refine ⟨mine, others, fun x hx => ?_⟩
    have restored := resumeHeat_restores sound p delta h m distinct hx
    rw [dueEq] at restored
    exact ⟨restored.s, restored.k, restored.q, restored.w, restored.y, restored.a, restored.csp, restored.bitsDue,
      restored.branch, restored.halted, restored.goesOn⟩
  · subst current
    exact execHeatResume_of_none (stoppedHeat_of_other other ⟨live, live'⟩)
  · exact execHeatResume_of_none (stoppedHeat_of_over cutLive isOver none_parked)

end Sys2Proof.Machine
end
